-- ==== Sys2Proof/Word.lean ====
section
/-! DEFINITION. The word types of the Ovong X8 manual (R7, R86) and the plainest way to take a field
of a word: bit ranges are written high:low and bit 0 is the least significant (R7). -/

namespace Sys2Proof

/-- A byte of memory or of an instruction word. -/
abbrev Byte := BitVec 8

/-- A 32-bit word: code (R86), a thread register (R25). -/
abbrev Word := BitVec 32

/-- A 64-bit word: a scalar register (R33), a virtual address in a register. -/
abbrev DWord := BitVec 64

/-- One bit per thread of a pool, bit t for the thread with tid t (R32, R35).  16,384 is the largest
pool (R5); bits at or above the pool size are always 0 (R35). -/
abbrev Mask := BitVec 16384

/-- Bits hi:lo of a word, as a number. -/
def bits (hi lo : Nat) (w : BitVec n) : Nat := (w.toNat >>> lo) % 2 ^ (hi + 1 - lo)

/-- A Bool as the number its bit stands for. -/
def bit (b : Bool) : Nat := if b then 1 else 0

end Sys2Proof
end

