-- ==== Sys2Proof/Syntax.lean ====
section
/-! DEFINITION. The syntax of the machine: one constructor of `Instr` per row of the opcode table.
The first 153 are the instructions of the opcode map (R103); each carries its prefix, when it has one
(R19), and its fields as the encoding holds them.  The other 75 are the part's other steps
(spec/95_what_each_step_holds.md): they have no encoding and carry what the outside world or the
device's own schedule decides (which operation completes, which bytes a device writes). -/

namespace Sys2Proof

/-- A prefix word (R19): bits 25:23 mask, 22 zero, 21:19 rnd, 18:15 type, 14:7 x. -/
structure Prefix where
  mask : BitVec 3
  zero : BitVec 1
  rnd : BitVec 3
  type : BitVec 4
  x : Byte
  deriving DecidableEq, Repr

/-- The access word of VLD, VST, VATOM, VRED and PREF (R100) without its SPACE bit, which tells the
two rows of VATOM and of VRED apart. -/
structure Access where
  disp : BitVec 16
  op : BitVec 3
  ord : BitVec 2
  scope : BitVec 3
  deriving DecidableEq, Repr

/-- The four words of a tensor record, as they stand in the code (R21). -/
structure TensorRecord where
  r0 : Word
  r1 : Word
  r2 : Word
  r3 : Word
  deriving DecidableEq, Repr

/-- Where a pool is placed (R174): the partition of each part in part order, and how many scratchpad
units it takes on which partition. -/
structure Placement where
  parts : List Nat
  spad : List (Nat × Nat)
  deriving DecidableEq, Repr

/-- A product fault of a matrix command (R230): in the named word, element (row, col) receives products
whose images (R229) are off by `delta`. -/
structure ProductFault where
  word : Nat
  row : Nat
  col : Nat
  delta : Int
  deriving DecidableEq, Repr

/-- What the boot ROM finds of one stage image (R353, R354). -/
structure BootImage where
  hash : BitVec 384
  ed25519Ok : Bool
  mldsaOk : Bool
  version : Word
  deriving DecidableEq, Repr

/-- The uncorrectable errors of R295. -/
inductive LlcFault where
  | cleanLine | dirtyLine | recipeLine | baseDieRead | tagState
  deriving DecidableEq, Repr

/-- The AtomicOps a root port completes (R300). -/
inductive DeviceAtomic where
  | fetchAdd | swap | cas
  deriving DecidableEq, Repr

/-- How an application-die core addresses package memory (R340, R345): virtually in an ASID, or physically, in
supervisor mode or not. -/
inductive AdSpace where
  | virtual (asid : Nat)
  | physical (supervisor : Bool)
  deriving DecidableEq, Repr

/-- A peer flit (R350), its reserved bits apart. -/
structure PeerFlit where
  seq : BitVec 12
  type : BitVec 4
  ackSeq : BitVec 12
  credits : Word
  payload : List Byte
  crc : DWord
  deriving DecidableEq, Repr

/-- What the Fence command names (R346), and its release form for a peer link (R352). -/
inductive FenceTarget where
  | die (n : Nat) | cluster (n : Nat) | core (n : Nat) | peer (n : Nat) | peerRelease (n : Nat)
  deriving DecidableEq, Repr

/-- One step of the machine: an instruction of the opcode map with its prefix, or another step of the
table of operations and events. -/
inductive Instr where
  /-- NOP, opcode 0x01 (R146). -/
  | nop (p : Option Prefix)
  /-- END, opcode 0x02 (R147). -/
  | end_ (p : Option Prefix)
  /-- BR, opcode 0x03 (R144). -/
  | br (p : Option Prefix) (o : BitVec 16)
  /-- BRC, opcode 0x04 (R144). -/
  | brc (p : Option Prefix) (d : Byte) (o : BitVec 16)
  /-- BRZ, opcode 0x05 (R144). -/
  | brz (p : Option Prefix) (o : BitVec 16)
  /-- BRNZ, opcode 0x06 (R144). -/
  | brnz (p : Option Prefix) (o : BitVec 16)
  /-- LOOP, opcode 0x07 (R144). -/
  | loop (p : Option Prefix) (d : Byte) (o : BitVec 16)
  /-- CALL, opcode 0x08 (R144). -/
  | call (p : Option Prefix) (d : Byte) (o : BitVec 16)
  /-- RET, opcode 0x09 (R145). -/
  | ret (p : Option Prefix) (a : Byte)
  /-- BRI, opcode 0x0A (R23). -/
  | bri (p : Option Prefix) (a : Byte) (lit : Word)
  /-- SADD, opcode 0x10 (R137). -/
  | sadd (p : Option Prefix) (d a b : Byte)
  /-- SSUB, opcode 0x11 (R137). -/
  | ssub (p : Option Prefix) (d a b : Byte)
  /-- SMUL, opcode 0x12 (R137). -/
  | smul (p : Option Prefix) (d a b : Byte)
  /-- SMULH, opcode 0x13 (R137). -/
  | smulh (p : Option Prefix) (d a b : Byte)
  /-- SAND, opcode 0x14 (R137). -/
  | sand (p : Option Prefix) (d a b : Byte)
  /-- SOR, opcode 0x15 (R137). -/
  | sor (p : Option Prefix) (d a b : Byte)
  /-- SXOR, opcode 0x16 (R137). -/
  | sxor (p : Option Prefix) (d a b : Byte)
  /-- SSHL, opcode 0x17 (R137). -/
  | sshl (p : Option Prefix) (d a b : Byte)
  /-- SSHR, opcode 0x18 (R137). -/
  | sshr (p : Option Prefix) (d a b : Byte)
  /-- SSAR, opcode 0x19 (R137). -/
  | ssar (p : Option Prefix) (d a b : Byte)
  /-- SMIN, opcode 0x1A (R137). -/
  | smin (p : Option Prefix) (d a b : Byte)
  /-- SMAX, opcode 0x1B (R137). -/
  | smax (p : Option Prefix) (d a b : Byte)
  /-- SCMP, opcode 0x1C (R138). -/
  | scmp (p : Option Prefix) (d a b : Byte)
  /-- SSEL, opcode 0x1D (R138). -/
  | ssel (p : Option Prefix) (d a b : Byte)
  /-- SMOV, opcode 0x1E (R137). -/
  | smov (p : Option Prefix) (d a : Byte)
  /-- SLI, opcode 0x1F (R137). -/
  | sli (p : Option Prefix) (d : Byte) (lo hi : Word)
  /-- SPOPC, opcode 0x20 (R137). -/
  | spopc (p : Option Prefix) (d a : Byte)
  /-- SCLZ, opcode 0x21 (R137). -/
  | sclz (p : Option Prefix) (d a : Byte)
  /-- SFNS, opcode 0x22 (R137). -/
  | sfns (p : Option Prefix) (d a b : Byte)
  /-- SBREV, opcode 0x23 (R137). -/
  | sbrev (p : Option Prefix) (d a : Byte)
  /-- SLD, opcode 0x24 (R139). -/
  | sld (p : Option Prefix) (d a : Byte) (sp : BitVec 1)
  /-- SST, opcode 0x25 (R139). -/
  | sst (p : Option Prefix) (d a : Byte) (sp : BitVec 1)
  /-- GETST, opcode 0x26 (R141). -/
  | getst (p : Option Prefix) (d a : Byte)
  /-- CLRST, opcode 0x27 (R141). -/
  | clrst (p : Option Prefix) (a : Byte)
  /-- SETM, opcode 0x28 (R143). -/
  | setm (p : Option Prefix) (a : Byte)
  /-- SETM_LITERAL, opcode 0x29 (R143). -/
  | setmLiteral (p : Option Prefix) (lit : Word)
  /-- SETF, opcode 0x2A (R143). -/
  | setf (p : Option Prefix) (a : Byte)
  /-- SETF_LITERAL, opcode 0x2B (R143). -/
  | setfLiteral (p : Option Prefix) (lit : Word)
  /-- GETM, opcode 0x2C (R143). -/
  | getm (p : Option Prefix) (d : Byte)
  /-- GETF, opcode 0x2D (R143). -/
  | getf (p : Option Prefix) (d : Byte)
  /-- SRCH, opcode 0x30 (R148). -/
  | srch (p : Option Prefix) (d a b : Byte)
  /-- SRCA, opcode 0x31 (R148). -/
  | srca (p : Option Prefix) (d a b : Byte)
  /-- SRCX, opcode 0x32 (R38). -/
  | srcx (p : Option Prefix)
  /-- POPR, opcode 0x33 (R150). -/
  | popr (p : Option Prefix)
  /-- PUSHM, opcode 0x34 (R150). -/
  | pushm (p : Option Prefix) (m : BitVec 3)
  /-- SAVM, opcode 0x35 (R150). -/
  | savm (p : Option Prefix) (m : BitVec 3)
  /-- MASKOP, opcode 0x36 (R151). -/
  | maskop (p : Option Prefix) (md ma mb op : BitVec 3)
  /-- FRST, opcode 0x37 (R150). -/
  | frst (p : Option Prefix)
  /-- DROPF, opcode 0x38 (R150). -/
  | dropf (p : Option Prefix)
  /-- RCOUNT, opcode 0x39 (R150). -/
  | rcount (p : Option Prefix) (d : Byte)
  /-- RGET, opcode 0x3A (R152). -/
  | rget (p : Option Prefix) (d a : Byte)
  /-- RPUT, opcode 0x3B (R152). -/
  | rput (p : Option Prefix) (d b : Byte)
  /-- HOLD, opcode 0x3C (R45). -/
  | hold (p : Option Prefix) (b : Byte)
  /-- RELH, opcode 0x3D (R157). -/
  | relh (p : Option Prefix)
  /-- RSUM, opcode 0x40 (R153). -/
  | rsum (p : Option Prefix) (d a : Byte)
  /-- RMIN, opcode 0x41 (R153). -/
  | rmin (p : Option Prefix) (d a : Byte)
  /-- RMAX, opcode 0x42 (R153). -/
  | rmax (p : Option Prefix) (d a : Byte)
  /-- ARGMX, opcode 0x43 (R154). -/
  | argmx (p : Option Prefix) (d a : Byte)
  /-- RAND, opcode 0x44 (R153). -/
  | rand (p : Option Prefix) (d a : Byte)
  /-- ROR, opcode 0x45 (R153). -/
  | ror (p : Option Prefix) (d a : Byte)
  /-- SCAN, opcode 0x46 (R155). -/
  | scan (p : Option Prefix) (d a : Byte) (excl : BitVec 1) (op : BitVec 2)
  /-- MATCH, opcode 0x47 (R156). -/
  | match_ (p : Option Prefix) (d a : Byte)
  /-- WAITC, opcode 0x50 (R210). -/
  | waitc (p : Option Prefix) (d b : Byte)
  /-- WATCH, opcode 0x51 (R158). -/
  | watch (p : Option Prefix) (ord : BitVec 2) (scope : BitVec 3) (a b : Byte)
  /-- YIELD, opcode 0x52 (R159). -/
  | yield_ (p : Option Prefix)
  /-- NOPRE, opcode 0x53 (R160). -/
  | nopre (p : Option Prefix)
  /-- PRE, opcode 0x54 (R160). -/
  | pre (p : Option Prefix)
  /-- GINIT, opcode 0x55 (R212). -/
  | ginit (p : Option Prefix) (a b : Byte)
  /-- GARR, opcode 0x56 (R212). -/
  | garr (p : Option Prefix) (d a : Byte)
  /-- GEXP, opcode 0x57 (R212). -/
  | gexp (p : Option Prefix) (a b : Byte)
  /-- GWAIT, opcode 0x58 (R212). -/
  | gwait (p : Option Prefix) (a b : Byte)
  /-- FENCE, opcode 0x59 (R161). -/
  | fence (p : Option Prefix) (ord : BitVec 2) (scope : BitVec 3)
  /-- VADD, opcode 0x60 (R116). -/
  | vadd (p : Option Prefix) (d a b : Byte)
  /-- VSUB, opcode 0x61 (R116). -/
  | vsub (p : Option Prefix) (d a b : Byte)
  /-- VMUL, opcode 0x62 (R116). -/
  | vmul (p : Option Prefix) (d a b : Byte)
  /-- VMULH, opcode 0x63 (R116). -/
  | vmulh (p : Option Prefix) (d a b : Byte)
  /-- VFMA, opcode 0x64 (R116). -/
  | vfma (p : Option Prefix) (d a b : Byte)
  /-- VMIN, opcode 0x65 (R117). -/
  | vmin (p : Option Prefix) (d a b : Byte)
  /-- VMAX, opcode 0x66 (R117). -/
  | vmax (p : Option Prefix) (d a b : Byte)
  /-- VABS, opcode 0x67 (R118). -/
  | vabs (p : Option Prefix) (d a : Byte)
  /-- VNEG, opcode 0x68 (R118). -/
  | vneg (p : Option Prefix) (d a : Byte)
  /-- VCLAMP, opcode 0x69 (R119). -/
  | vclamp (p : Option Prefix) (d a b : Byte)
  /-- VDOT4, opcode 0x6A (R120). -/
  | vdot4 (p : Option Prefix) (d a b : Byte)
  /-- VSCAL, opcode 0x6B (R121). -/
  | vscal (p : Option Prefix) (d a b : Byte)
  /-- VAND, opcode 0x70 (R122). -/
  | vand (p : Option Prefix) (d a b : Byte)
  /-- VOR, opcode 0x71 (R122). -/
  | vor (p : Option Prefix) (d a b : Byte)
  /-- VXOR, opcode 0x72 (R122). -/
  | vxor (p : Option Prefix) (d a b : Byte)
  /-- VANDN, opcode 0x73 (R122). -/
  | vandn (p : Option Prefix) (d a b : Byte)
  /-- VNOT, opcode 0x74 (R122). -/
  | vnot (p : Option Prefix) (d a : Byte)
  /-- VSHL, opcode 0x75 (R123). -/
  | vshl (p : Option Prefix) (d a b : Byte)
  /-- VSHR, opcode 0x76 (R123). -/
  | vshr (p : Option Prefix) (d a b : Byte)
  /-- VSAR, opcode 0x77 (R123). -/
  | vsar (p : Option Prefix) (d a b : Byte)
  /-- VROT, opcode 0x78 (R123). -/
  | vrot (p : Option Prefix) (d a b : Byte)
  /-- VPOPC, opcode 0x80 (R124). -/
  | vpopc (p : Option Prefix) (d a : Byte)
  /-- VCLZ, opcode 0x81 (R124). -/
  | vclz (p : Option Prefix) (d a : Byte)
  /-- VCTZ, opcode 0x82 (R124). -/
  | vctz (p : Option Prefix) (d a : Byte)
  /-- VFNS, opcode 0x83 (R124). -/
  | vfns (p : Option Prefix) (d a b : Byte)
  /-- VBREV, opcode 0x84 (R124). -/
  | vbrev (p : Option Prefix) (d a : Byte)
  /-- VBFX, opcode 0x85 (R125). -/
  | vbfx (p : Option Prefix) (d a b : Byte)
  /-- VBFI, opcode 0x86 (R125). -/
  | vbfi (p : Option Prefix) (d a b : Byte)
  /-- VCMP, opcode 0x90 (R126). -/
  | vcmp (p : Option Prefix) (d a b : Byte) (cond : BitVec 4)
  /-- VSEL, opcode 0x91 (R127). -/
  | vsel (p : Option Prefix) (d a b : Byte)
  /-- VMOV, opcode 0x92 (R128). -/
  | vmov (p : Option Prefix) (d b : Byte)
  /-- VMOV_SCALAR, opcode 0x92 (R128). -/
  | vmovScalar (p : Option Prefix) (d b : Byte)
  /-- VMOVI, opcode 0x93 (R128). -/
  | vmovi (p : Option Prefix) (d : Byte) (lit : Word)
  /-- TID, opcode 0x94 (R129). -/
  | tid (p : Option Prefix) (d : Byte)
  /-- VCVT, opcode 0x95 (R130). -/
  | vcvt (p : Option Prefix) (d a : Byte) (e8 : BitVec 1) (src : BitVec 4)
  /-- VPACK, opcode 0x96 (R132). -/
  | vpack (p : Option Prefix) (d a b : Byte)
  /-- VUNPK, opcode 0x97 (R133). -/
  | vunpk (p : Option Prefix) (d a b : Byte)
  /-- VRCP, opcode 0xA0 (R134). -/
  | vrcp (p : Option Prefix) (d a : Byte)
  /-- VRSQ, opcode 0xA1 (R134). -/
  | vrsq (p : Option Prefix) (d a : Byte)
  /-- VSQT, opcode 0xA2 (R134). -/
  | vsqt (p : Option Prefix) (d a : Byte)
  /-- VEX2, opcode 0xA3 (R134). -/
  | vex2 (p : Option Prefix) (d a : Byte)
  /-- VLG2, opcode 0xA4 (R134). -/
  | vlg2 (p : Option Prefix) (d a : Byte)
  /-- VSIN, opcode 0xA5 (R134). -/
  | vsin (p : Option Prefix) (d a : Byte)
  /-- VCOS, opcode 0xA6 (R134). -/
  | vcos (p : Option Prefix) (d a : Byte)
  /-- VLD, opcode 0xB0 (R258). -/
  | vld (p : Option Prefix) (d a b : Byte) (w : Access)
  /-- VST, opcode 0xB1 (R258). -/
  | vst (p : Option Prefix) (d a b : Byte) (w : Access)
  /-- VLDS, opcode 0xB2 (R196). -/
  | vlds (p : Option Prefix) (d a : Byte) (size : BitVec 2) (sx : BitVec 1) (disp : BitVec 5)
  /-- VSTS, opcode 0xB3 (R196). -/
  | vsts (p : Option Prefix) (d a : Byte) (size : BitVec 2) (disp : BitVec 5)
  /-- VLDW, opcode 0xB4 (R197). -/
  | vldw (p : Option Prefix) (d a : Byte) (size win : BitVec 1)
  /-- VSTW, opcode 0xB5 (R197). -/
  | vstw (p : Option Prefix) (d a : Byte) (size win : BitVec 1)
  /-- VATOM_SPAD, opcode 0xB6 (R199). -/
  | vatomSpad (p : Option Prefix) (d a b : Byte) (w : Access)
  /-- VATOM_GLOBAL, opcode 0xB6 (R260). -/
  | vatomGlobal (p : Option Prefix) (d a b : Byte) (w : Access)
  /-- VRED_SPAD, opcode 0xB7 (R199). -/
  | vredSpad (p : Option Prefix) (d a b : Byte) (w : Access)
  /-- VRED_GLOBAL, opcode 0xB7 (R261). -/
  | vredGlobal (p : Option Prefix) (d a b : Byte) (w : Access)
  /-- PREF, opcode 0xB8 (R262). -/
  | pref (p : Option Prefix) (d a b : Byte) (w : Access)
  /-- FLUSH, opcode 0xB9 (R263). -/
  | flush (p : Option Prefix) (scope : BitVec 3)
  /-- INV, opcode 0xBA (R263). -/
  | inv (p : Option Prefix) (d a : Byte) (scope : BitVec 3)
  /-- VPERM, opcode 0xBB (R202). -/
  | vperm (p : Option Prefix) (d a b : Byte)
  /-- VSHFL, opcode 0xBC (R202). -/
  | vshfl (p : Option Prefix) (d a delta : Byte) (kind : BitVec 2)
  /-- VBCST, opcode 0xBD (R203). -/
  | vbcst (p : Option Prefix) (d a b : Byte)
  /-- CPY, opcode 0xC0 (R204). -/
  | cpy (p : Option Prefix) (d a : Byte) (variant marks : BitVec 4) (r : TensorRecord)
  /-- GTHR, opcode 0xC1 (R265). -/
  | gthr (p : Option Prefix) (m : BitVec 3) (a b : Byte)
  /-- GDESC, opcode 0xC2 (R264). -/
  | gdesc (p : Option Prefix) (d a : Byte)
  /-- MRG, opcode 0xC3 (R267). -/
  | mrg (p : Option Prefix) (d a : Byte) (variant marks : BitVec 4) (r : TensorRecord)
  /-- MMA, opcode 0xC4 (R226). -/
  | mma (p : Option Prefix) (d a b : Byte)
  /-- MMAQ, opcode 0xC5 (R226). -/
  | mmaq (p : Option Prefix) (d a b : Byte)
  /-- MMAS, opcode 0xC6 (R227). -/
  | mmas (p : Option Prefix) (d a : Byte) (acc marks : BitVec 4) (r : TensorRecord)
  /-- MDRN, opcode 0xC7 (R228). -/
  | mdrn (p : Option Prefix) (d a : Byte)
  /-- MZERO, opcode 0xC8 (R225). -/
  | mzero (p : Option Prefix) (d : Byte)
  /-- LAUNCH, opcode 0xD0 (R323). -/
  | launch (p : Option Prefix) (d a : Byte)
  /-- SPAWN, opcode 0xD1 (R324). -/
  | spawn (p : Option Prefix) (a : Byte)
  /-- SUCC, opcode 0xD2 (R325). -/
  | succ (p : Option Prefix)
  /-- CPSTART, opcode 0xD3 (R326). -/
  | cpstart (p : Option Prefix) (d a : Byte)
  /-- CPSTOP, opcode 0xD4 (R327). -/
  | cpstop (p : Option Prefix) (a : Byte)
  /-- RCDEF, opcode 0xD5 (R330). -/
  | rcdef (p : Option Prefix) (d : Byte) (marks : BitVec 4) (r : TensorRecord)
  /-- RCRET, opcode 0xD6 (R331). -/
  | rcret (p : Option Prefix) (d a : Byte)
  /-- RCDROP, opcode 0xD7 (R331). -/
  | rcdrop (p : Option Prefix) (d a : Byte)
  /-- RCQRY, opcode 0xD8 (R331). -/
  | rcqry (p : Option Prefix) (d a : Byte)
  /-- SYSC, opcode 0xE0 (R162). -/
  | sysc (p : Option Prefix) (d a : Byte) (narg : BitVec 4) (service : BitVec 16)
  /-- TRAP, opcode 0xE1 (R163). -/
  | trap (p : Option Prefix) (b : Byte)
  /-- CHKE, opcode 0xE2 (R164). -/
  | chke (p : Option Prefix) (d : Byte)
  /-- RESULT_OP_COMPLETION. R44: the outstanding result operation `op` of a pool reaches its completion point. With
  `sampleOnly` the operation only reads its memory now (R258: one moment between issue and completion). -/
  | resultOpCompletion (pool op : Nat) (sampleOnly : Bool)
  /-- PERFORMED_OP_COMPLETION. R16: the outstanding performed operation `op` of a pool completes. -/
  | performedOpCompletion (pool op : Nat)
  /-- SYSC_SERVICE_DONE. R162, R343: Unquel has done the services of a SYSC; one result per responder in ascending
  tid, and the bytes that each service delivers. -/
  | syscServiceDone (pool op : Nat) (results : List DWord) (data : List (List Byte))
  /-- COPY_COMPLETION. R208: a copy command completes. -/
  | copyCompletion (pool cmd : Nat)
  /-- GATHER_COMPLETION. R266: a gather command completes. -/
  | gatherCompletion (pool cmd : Nat)
  /-- MERGE_COMPLETION. R270: a merge command completes or stops. -/
  | mergeCompletion (pool cmd : Nat)
  /-- MATRIX_COMMAND_EXECUTE. R226, R225: the matrix unit executes a multiply or zero command; `faults` are the
  product faults that hit it (R230). -/
  | matrixCommandExecute (pool cmd : Nat) (faults : List ProductFault)
  /-- MDRN_COMPLETION. R228: an MDRN reaches its completion point. -/
  | mdrnCompletion (pool cmd : Nat)
  /-- GONG_WAKE. R212: a waiting GWAIT returns. -/
  | gongWake (pool cp : Nat)
  /-- WATCH_REREAD. R158, R296: a waiting WATCH reads its word again. -/
  | watchReread (pool cp : Nat)
  /-- HOLD_TIMEOUT. R47: a hold has been open for 4,096 clocks. -/
  | holdTimeout (pool cp : Nat)
  /-- NOPRE_BUDGET. R160: a no-pre-emption interval has been open for 65,536 clocks. -/
  | nopreBudget (pool cp : Nat)
  /-- PACKING_TIMEOUT. R52: a pending pool of a core whose first item arrived 2 µs ago is launched. -/
  | packingTimeout (core entry : Nat)
  /-- FAULT_RECORD_COMPLETE. R255: system software completes the fault record of a 4 KiB virtual page. -/
  | faultRecordComplete (asid page : Nat)
  /-- PARKED_LOAD_REISSUE. R255: a woken parked load is reissued. -/
  | parkedLoadReissue (pool op : Nat)
  /-- PREEMPTION. R184: a pool is pre-empted. -/
  | preemption (pool : Nat)
  /-- RESUME. R187: a pool that waits for placement is placed again. -/
  | resume (pool : Nat) (at_ : Placement)
  /-- TASK_DISPATCH. R312: the dispatcher places the first candidate that fits. -/
  | taskDispatch (at_ : Placement)
  /-- TOLL_INTERVAL_BOUNDARY. R311: a toll interval ends. -/
  | tollIntervalBoundary
  /-- QUANTUM_BOUNDARY. R313: a quantum ends. -/
  | quantumBoundary
  /-- COMMIT_RECORD_ACCEPT. R297: the last beat of a record arrives, with a good or a bad check code. -/
  | commitRecordAccept (rec : Nat) (good : Bool)
  /-- COMMIT_RECORD_APPLY. R298: a slice applies an accepted record. -/
  | commitRecordApply (rec slice : Nat)
  /-- SUCCESSOR_SIGNAL. R320: a pending signal is applied at its successor block. -/
  | successorSignal (idx : Nat)
  /-- TASK_COMPLETION. R321: a finished task updates its queue. -/
  | taskCompletion (idx : Nat)
  /-- ROLLBACK. R188: an uncorrectable error in a pool's core state rolls the pool back. -/
  | rollback (pool : Nat)
  /-- CORE_FENCE. R189: a core is fenced. -/
  | coreFence (core : Nat)
  /-- SEQUENCER_ERROR. R238: an uncorrectable error in a cluster's sequencer. -/
  | sequencerError (cluster : Nat)
  /-- CLUSTER_FENCE. R248: a cluster is fenced. -/
  | clusterFence (cluster : Nat)
  /-- CLUSTER_CACHE_ERROR. R245: an uncorrectable error in a data line, or (none) in the tag state, of a cluster
  cache. -/
  | clusterCacheError (cluster : Nat) (line : Option Nat)
  /-- LLC_ERROR. R295: an uncorrectable error in an LLC line or its base die. -/
  | llcError (line : Nat) (kind : LlcFault)
  /-- DIE_FENCE. R302: a compute die is fenced. -/
  | dieFence (die : Nat)
  /-- VIRAL_ENTRY. R306: the package enters the viral state. -/
  | viralEntry (cause : Byte)
  /-- PACKAGE_RESET. R307: a cold or warm reset of the package. -/
  | packageReset (cold : Bool)
  /-- BOOT. R353, R354: the boot ROM verifies, measures and runs the stages. -/
  | boot (stages : List BootImage)
  /-- REGENERATION_ADMIT. R332: a waiting regeneration is admitted. -/
  | regenerationAdmit (recipe : Nat)
  /-- SLICE_POOL_PLACE. R333: an admitted regeneration is placed as a slice pool. -/
  | slicePoolPlace (recipe : Nat) (at_ : Placement)
  /-- SLICE_POOL_END. R334: a slice pool has ended and its tile is checked. -/
  | slicePoolEnd (recipe : Nat)
  /-- SLICE_TRAP. R333: a slice that trapped is terminated. -/
  | sliceTrap (pool : Nat)
  /-- REGEN_HOLD_EXPIRY. R332: the hold of a regenerated tile ends. -/
  | regenHoldExpiry (recipe : Nat)
  /-- RECIPE_LINE_EVICTION. R329: the eviction of a Recipe line drops its tile. -/
  | recipeLineEviction (recipe : Nat)
  /-- IN_FIELD_TEST_DUE. R249: a cluster's in-field test falls due. -/
  | inFieldTestDue (cluster : Nat)
  /-- IN_FIELD_TEST_RUN. R249: the test of a cluster starts. -/
  | inFieldTestRun (cluster : Nat)
  /-- IN_FIELD_TEST_SKIP. R249: the test of a cluster is skipped. -/
  | inFieldTestSkip (cluster : Nat)
  /-- SC_CLOCK_REPORT. R287: a core reports its SC clock. -/
  | scClockReport (core : Nat)
  /-- SC_ACCESS_PERFORM. R288: a held .sc access is performed. -/
  | scAccessPerform (idx : Nat)
  /-- POWER_SAMPLE. R357: the package measures its power. -/
  | powerSample (watts : Nat)
  /-- THERMAL_TRIP. R357: a die, or (none) the carillon, reaches 115 °C. -/
  | thermalTrip (die : Option Nat)
  /-- DEVICE_DMA_REQUEST. R349: a device reads or writes package memory. -/
  | deviceDmaRequest (port rid : Nat) (write : Bool) (va len : Nat) (bytes : List Byte)
  /-- PCIE_ATOMICOP. R300: a device's AtomicOp. -/
  | pcieAtomicop (port rid : Nat) (op : DeviceAtomic) (wide : Bool) (va : Nat) (y x : DWord)
  /-- PEER_FLIT_RECEIVE. R350: a flit arrives at a peer port. -/
  | peerFlitReceive (port : Nat) (flit : PeerFlit)
  /-- PEER_REQUEST. R351: a peer reads or writes package memory. -/
  | peerRequest (port : Nat) (write : Bool) (va len : Nat) (bytes : List Byte)
  /-- PEER_LINK_FENCE. R352: a peer link is fenced. -/
  | peerLinkFence (port : Nat)
  /-- TRAP_HANDLER_RESUME. R58: Unquel resumes a trapped CP. -/
  | trapHandlerResume (pool cp : Nat)
  /-- POOL_TERMINATE. R58: Unquel terminates a pool. -/
  | poolTerminate (pool : Nat)
  /-- ASID_BIND. R346 0x01. -/
  | asidBind (asid l4 entryTable entryCount keySlot : Nat)
  /-- ASID_UNBIND. R346 0x02. -/
  | asidUnbind (asid : Nat)
  /-- SHOOTDOWN. R346 0x03, R253. -/
  | shootdown (asid va len : Nat)
  /-- QUEUE_BIND. R346 0x04, R308. -/
  | queueBind (header asid : Nat) (caplog cls : Byte)
  /-- QUEUE_UNBIND. R346 0x05. -/
  | queueUnbind (queue : Nat)
  /-- CLASS_0_GRANT. R346 0x06, R311. -/
  | class0Grant (queue count : Nat)
  /-- WAY_MASK. R346 0x07, R294. -/
  | wayMask (asid : Nat) (slice : Option Nat) (ways : BitVec 16)
  /-- RECIPE_LIMIT. R346 0x08, R328. -/
  | recipeLimit (asid count : Nat)
  /-- KEY_LOAD. R346 0x09, R356. -/
  | keyLoad (slot : Nat)
  /-- DEVICE_BIND. R346 0x0A, R349. -/
  | deviceBind (port rid asid : Nat)
  /-- TIMING. R346 0x0B: the toll interval in µs, the quantum in toll intervals, the test period in seconds. -/
  | timing (toll quantum period : Option Nat)
  /-- FENCE_COMMAND. R346 0x0C. -/
  | fenceCommand (target : FenceTarget)
  /-- VIRAL_COMMAND. R346 0x0D. -/
  | viralCommand
  /-- CXL_WINDOW. R346 0x0E, R348. -/
  | cxlWindow (port base size : Nat)
  /-- POWER_LIMIT. R346 0x0F, R357. -/
  | powerLimit (watts : Nat)
  /-- ATTEST. R346 0x10, R355. -/
  | attest (nonce : List Byte)
  /-- ILLEGAL_INSTRUCTION. R104, R106, R17: the issuing CP reaches a word that is no instruction or legal header
  (cause 0x01) or cannot be fetched (0x08); the trap is recorded at pc. -/
  | illegalInstruction (cause : Byte) (pc : DWord)
  /-- IN_FIELD_TEST_END. R249: the test of a cluster ends. -/
  | inFieldTestEnd (cluster : Nat) (failedCore : Option Nat) (sharedFailed : Bool)
  /-- DEVICE_WRITE_ACKNOWLEDGE. R290: a CXL device acknowledges, or a port accepts, the writes of a record. -/
  | deviceWriteAcknowledge (rec : Nat)
  /-- REPLAYS_CLEAR. R305: system software clears PKGSTAT.REPLAYS. -/
  | replaysClear
  /-- APPLICATION_DIE_ACCESS. R340, R345: an application-die core reads or writes package memory, by a virtual address
  of an ASID or by a physical address. -/
  | applicationDieAccess (space : AdSpace) (write : Bool) (addr len : Nat) (bytes : List Byte)
  deriving DecidableEq, Repr

namespace Instr

/-- The prefix of an instruction; the other steps have none. -/
def pfx : Instr → Option Prefix
  | .nop p => p
  | .end_ p => p
  | .br p _ => p
  | .brc p _ _ => p
  | .brz p _ => p
  | .brnz p _ => p
  | .loop p _ _ => p
  | .call p _ _ => p
  | .ret p _ => p
  | .bri p _ _ => p
  | .sadd p _ _ _ => p
  | .ssub p _ _ _ => p
  | .smul p _ _ _ => p
  | .smulh p _ _ _ => p
  | .sand p _ _ _ => p
  | .sor p _ _ _ => p
  | .sxor p _ _ _ => p
  | .sshl p _ _ _ => p
  | .sshr p _ _ _ => p
  | .ssar p _ _ _ => p
  | .smin p _ _ _ => p
  | .smax p _ _ _ => p
  | .scmp p _ _ _ => p
  | .ssel p _ _ _ => p
  | .smov p _ _ => p
  | .sli p _ _ _ => p
  | .spopc p _ _ => p
  | .sclz p _ _ => p
  | .sfns p _ _ _ => p
  | .sbrev p _ _ => p
  | .sld p _ _ _ => p
  | .sst p _ _ _ => p
  | .getst p _ _ => p
  | .clrst p _ => p
  | .setm p _ => p
  | .setmLiteral p _ => p
  | .setf p _ => p
  | .setfLiteral p _ => p
  | .getm p _ => p
  | .getf p _ => p
  | .srch p _ _ _ => p
  | .srca p _ _ _ => p
  | .srcx p => p
  | .popr p => p
  | .pushm p _ => p
  | .savm p _ => p
  | .maskop p _ _ _ _ => p
  | .frst p => p
  | .dropf p => p
  | .rcount p _ => p
  | .rget p _ _ => p
  | .rput p _ _ => p
  | .hold p _ => p
  | .relh p => p
  | .rsum p _ _ => p
  | .rmin p _ _ => p
  | .rmax p _ _ => p
  | .argmx p _ _ => p
  | .rand p _ _ => p
  | .ror p _ _ => p
  | .scan p _ _ _ _ => p
  | .match_ p _ _ => p
  | .waitc p _ _ => p
  | .watch p _ _ _ _ => p
  | .yield_ p => p
  | .nopre p => p
  | .pre p => p
  | .ginit p _ _ => p
  | .garr p _ _ => p
  | .gexp p _ _ => p
  | .gwait p _ _ => p
  | .fence p _ _ => p
  | .vadd p _ _ _ => p
  | .vsub p _ _ _ => p
  | .vmul p _ _ _ => p
  | .vmulh p _ _ _ => p
  | .vfma p _ _ _ => p
  | .vmin p _ _ _ => p
  | .vmax p _ _ _ => p
  | .vabs p _ _ => p
  | .vneg p _ _ => p
  | .vclamp p _ _ _ => p
  | .vdot4 p _ _ _ => p
  | .vscal p _ _ _ => p
  | .vand p _ _ _ => p
  | .vor p _ _ _ => p
  | .vxor p _ _ _ => p
  | .vandn p _ _ _ => p
  | .vnot p _ _ => p
  | .vshl p _ _ _ => p
  | .vshr p _ _ _ => p
  | .vsar p _ _ _ => p
  | .vrot p _ _ _ => p
  | .vpopc p _ _ => p
  | .vclz p _ _ => p
  | .vctz p _ _ => p
  | .vfns p _ _ _ => p
  | .vbrev p _ _ => p
  | .vbfx p _ _ _ => p
  | .vbfi p _ _ _ => p
  | .vcmp p _ _ _ _ => p
  | .vsel p _ _ _ => p
  | .vmov p _ _ => p
  | .vmovScalar p _ _ => p
  | .vmovi p _ _ => p
  | .tid p _ => p
  | .vcvt p _ _ _ _ => p
  | .vpack p _ _ _ => p
  | .vunpk p _ _ _ => p
  | .vrcp p _ _ => p
  | .vrsq p _ _ => p
  | .vsqt p _ _ => p
  | .vex2 p _ _ => p
  | .vlg2 p _ _ => p
  | .vsin p _ _ => p
  | .vcos p _ _ => p
  | .vld p _ _ _ _ => p
  | .vst p _ _ _ _ => p
  | .vlds p _ _ _ _ _ => p
  | .vsts p _ _ _ _ => p
  | .vldw p _ _ _ _ => p
  | .vstw p _ _ _ _ => p
  | .vatomSpad p _ _ _ _ => p
  | .vatomGlobal p _ _ _ _ => p
  | .vredSpad p _ _ _ _ => p
  | .vredGlobal p _ _ _ _ => p
  | .pref p _ _ _ _ => p
  | .flush p _ => p
  | .inv p _ _ _ => p
  | .vperm p _ _ _ => p
  | .vshfl p _ _ _ _ => p
  | .vbcst p _ _ _ => p
  | .cpy p _ _ _ _ _ => p
  | .gthr p _ _ _ => p
  | .gdesc p _ _ => p
  | .mrg p _ _ _ _ _ => p
  | .mma p _ _ _ => p
  | .mmaq p _ _ _ => p
  | .mmas p _ _ _ _ _ => p
  | .mdrn p _ _ => p
  | .mzero p _ => p
  | .launch p _ _ => p
  | .spawn p _ => p
  | .succ p => p
  | .cpstart p _ _ => p
  | .cpstop p _ => p
  | .rcdef p _ _ _ => p
  | .rcret p _ _ => p
  | .rcdrop p _ _ => p
  | .rcqry p _ _ => p
  | .sysc p _ _ _ _ => p
  | .trap p _ => p
  | .chke p _ => p
  | .resultOpCompletion _ _ _ => none
  | .performedOpCompletion _ _ => none
  | .syscServiceDone _ _ _ _ => none
  | .copyCompletion _ _ => none
  | .gatherCompletion _ _ => none
  | .mergeCompletion _ _ => none
  | .matrixCommandExecute _ _ _ => none
  | .mdrnCompletion _ _ => none
  | .gongWake _ _ => none
  | .watchReread _ _ => none
  | .holdTimeout _ _ => none
  | .nopreBudget _ _ => none
  | .packingTimeout _ _ => none
  | .faultRecordComplete _ _ => none
  | .parkedLoadReissue _ _ => none
  | .preemption _ => none
  | .resume _ _ => none
  | .taskDispatch _ => none
  | .tollIntervalBoundary => none
  | .quantumBoundary => none
  | .commitRecordAccept _ _ => none
  | .commitRecordApply _ _ => none
  | .successorSignal _ => none
  | .taskCompletion _ => none
  | .rollback _ => none
  | .coreFence _ => none
  | .sequencerError _ => none
  | .clusterFence _ => none
  | .clusterCacheError _ _ => none
  | .llcError _ _ => none
  | .dieFence _ => none
  | .viralEntry _ => none
  | .packageReset _ => none
  | .boot _ => none
  | .regenerationAdmit _ => none
  | .slicePoolPlace _ _ => none
  | .slicePoolEnd _ => none
  | .sliceTrap _ => none
  | .regenHoldExpiry _ => none
  | .recipeLineEviction _ => none
  | .inFieldTestDue _ => none
  | .inFieldTestRun _ => none
  | .inFieldTestSkip _ => none
  | .scClockReport _ => none
  | .scAccessPerform _ => none
  | .powerSample _ => none
  | .thermalTrip _ => none
  | .deviceDmaRequest _ _ _ _ _ _ => none
  | .pcieAtomicop _ _ _ _ _ _ _ => none
  | .peerFlitReceive _ _ => none
  | .peerRequest _ _ _ _ _ => none
  | .peerLinkFence _ => none
  | .trapHandlerResume _ _ => none
  | .poolTerminate _ => none
  | .asidBind _ _ _ _ _ => none
  | .asidUnbind _ => none
  | .shootdown _ _ _ => none
  | .queueBind _ _ _ _ => none
  | .queueUnbind _ => none
  | .class0Grant _ _ => none
  | .wayMask _ _ _ => none
  | .recipeLimit _ _ => none
  | .keyLoad _ => none
  | .deviceBind _ _ _ => none
  | .timing _ _ _ => none
  | .fenceCommand _ => none
  | .viralCommand => none
  | .cxlWindow _ _ _ => none
  | .powerLimit _ => none
  | .attest _ => none
  | .illegalInstruction _ _ => none
  | .inFieldTestEnd _ _ _ => none
  | .deviceWriteAcknowledge _ => none
  | .replaysClear => none
  | .applicationDieAccess _ _ _ _ _ => none

/-- The opcode, bits 31:24 of the instruction word (R103); none for a step without an encoding. -/
def opcode : Instr → Option Nat
  | .nop _ => some 0x01
  | .end_ _ => some 0x02
  | .br _ _ => some 0x03
  | .brc _ _ _ => some 0x04
  | .brz _ _ => some 0x05
  | .brnz _ _ => some 0x06
  | .loop _ _ _ => some 0x07
  | .call _ _ _ => some 0x08
  | .ret _ _ => some 0x09
  | .bri _ _ _ => some 0x0A
  | .sadd _ _ _ _ => some 0x10
  | .ssub _ _ _ _ => some 0x11
  | .smul _ _ _ _ => some 0x12
  | .smulh _ _ _ _ => some 0x13
  | .sand _ _ _ _ => some 0x14
  | .sor _ _ _ _ => some 0x15
  | .sxor _ _ _ _ => some 0x16
  | .sshl _ _ _ _ => some 0x17
  | .sshr _ _ _ _ => some 0x18
  | .ssar _ _ _ _ => some 0x19
  | .smin _ _ _ _ => some 0x1A
  | .smax _ _ _ _ => some 0x1B
  | .scmp _ _ _ _ => some 0x1C
  | .ssel _ _ _ _ => some 0x1D
  | .smov _ _ _ => some 0x1E
  | .sli _ _ _ _ => some 0x1F
  | .spopc _ _ _ => some 0x20
  | .sclz _ _ _ => some 0x21
  | .sfns _ _ _ _ => some 0x22
  | .sbrev _ _ _ => some 0x23
  | .sld _ _ _ _ => some 0x24
  | .sst _ _ _ _ => some 0x25
  | .getst _ _ _ => some 0x26
  | .clrst _ _ => some 0x27
  | .setm _ _ => some 0x28
  | .setmLiteral _ _ => some 0x29
  | .setf _ _ => some 0x2A
  | .setfLiteral _ _ => some 0x2B
  | .getm _ _ => some 0x2C
  | .getf _ _ => some 0x2D
  | .srch _ _ _ _ => some 0x30
  | .srca _ _ _ _ => some 0x31
  | .srcx _ => some 0x32
  | .popr _ => some 0x33
  | .pushm _ _ => some 0x34
  | .savm _ _ => some 0x35
  | .maskop _ _ _ _ _ => some 0x36
  | .frst _ => some 0x37
  | .dropf _ => some 0x38
  | .rcount _ _ => some 0x39
  | .rget _ _ _ => some 0x3A
  | .rput _ _ _ => some 0x3B
  | .hold _ _ => some 0x3C
  | .relh _ => some 0x3D
  | .rsum _ _ _ => some 0x40
  | .rmin _ _ _ => some 0x41
  | .rmax _ _ _ => some 0x42
  | .argmx _ _ _ => some 0x43
  | .rand _ _ _ => some 0x44
  | .ror _ _ _ => some 0x45
  | .scan _ _ _ _ _ => some 0x46
  | .match_ _ _ _ => some 0x47
  | .waitc _ _ _ => some 0x50
  | .watch _ _ _ _ _ => some 0x51
  | .yield_ _ => some 0x52
  | .nopre _ => some 0x53
  | .pre _ => some 0x54
  | .ginit _ _ _ => some 0x55
  | .garr _ _ _ => some 0x56
  | .gexp _ _ _ => some 0x57
  | .gwait _ _ _ => some 0x58
  | .fence _ _ _ => some 0x59
  | .vadd _ _ _ _ => some 0x60
  | .vsub _ _ _ _ => some 0x61
  | .vmul _ _ _ _ => some 0x62
  | .vmulh _ _ _ _ => some 0x63
  | .vfma _ _ _ _ => some 0x64
  | .vmin _ _ _ _ => some 0x65
  | .vmax _ _ _ _ => some 0x66
  | .vabs _ _ _ => some 0x67
  | .vneg _ _ _ => some 0x68
  | .vclamp _ _ _ _ => some 0x69
  | .vdot4 _ _ _ _ => some 0x6A
  | .vscal _ _ _ _ => some 0x6B
  | .vand _ _ _ _ => some 0x70
  | .vor _ _ _ _ => some 0x71
  | .vxor _ _ _ _ => some 0x72
  | .vandn _ _ _ _ => some 0x73
  | .vnot _ _ _ => some 0x74
  | .vshl _ _ _ _ => some 0x75
  | .vshr _ _ _ _ => some 0x76
  | .vsar _ _ _ _ => some 0x77
  | .vrot _ _ _ _ => some 0x78
  | .vpopc _ _ _ => some 0x80
  | .vclz _ _ _ => some 0x81
  | .vctz _ _ _ => some 0x82
  | .vfns _ _ _ _ => some 0x83
  | .vbrev _ _ _ => some 0x84
  | .vbfx _ _ _ _ => some 0x85
  | .vbfi _ _ _ _ => some 0x86
  | .vcmp _ _ _ _ _ => some 0x90
  | .vsel _ _ _ _ => some 0x91
  | .vmov _ _ _ => some 0x92
  | .vmovScalar _ _ _ => some 0x92
  | .vmovi _ _ _ => some 0x93
  | .tid _ _ => some 0x94
  | .vcvt _ _ _ _ _ => some 0x95
  | .vpack _ _ _ _ => some 0x96
  | .vunpk _ _ _ _ => some 0x97
  | .vrcp _ _ _ => some 0xA0
  | .vrsq _ _ _ => some 0xA1
  | .vsqt _ _ _ => some 0xA2
  | .vex2 _ _ _ => some 0xA3
  | .vlg2 _ _ _ => some 0xA4
  | .vsin _ _ _ => some 0xA5
  | .vcos _ _ _ => some 0xA6
  | .vld _ _ _ _ _ => some 0xB0
  | .vst _ _ _ _ _ => some 0xB1
  | .vlds _ _ _ _ _ _ => some 0xB2
  | .vsts _ _ _ _ _ => some 0xB3
  | .vldw _ _ _ _ _ => some 0xB4
  | .vstw _ _ _ _ _ => some 0xB5
  | .vatomSpad _ _ _ _ _ => some 0xB6
  | .vatomGlobal _ _ _ _ _ => some 0xB6
  | .vredSpad _ _ _ _ _ => some 0xB7
  | .vredGlobal _ _ _ _ _ => some 0xB7
  | .pref _ _ _ _ _ => some 0xB8
  | .flush _ _ => some 0xB9
  | .inv _ _ _ _ => some 0xBA
  | .vperm _ _ _ _ => some 0xBB
  | .vshfl _ _ _ _ _ => some 0xBC
  | .vbcst _ _ _ _ => some 0xBD
  | .cpy _ _ _ _ _ _ => some 0xC0
  | .gthr _ _ _ _ => some 0xC1
  | .gdesc _ _ _ => some 0xC2
  | .mrg _ _ _ _ _ _ => some 0xC3
  | .mma _ _ _ _ => some 0xC4
  | .mmaq _ _ _ _ => some 0xC5
  | .mmas _ _ _ _ _ _ => some 0xC6
  | .mdrn _ _ _ => some 0xC7
  | .mzero _ _ => some 0xC8
  | .launch _ _ _ => some 0xD0
  | .spawn _ _ => some 0xD1
  | .succ _ => some 0xD2
  | .cpstart _ _ _ => some 0xD3
  | .cpstop _ _ => some 0xD4
  | .rcdef _ _ _ _ => some 0xD5
  | .rcret _ _ _ => some 0xD6
  | .rcdrop _ _ _ => some 0xD7
  | .rcqry _ _ _ => some 0xD8
  | .sysc _ _ _ _ _ => some 0xE0
  | .trap _ _ => some 0xE1
  | .chke _ _ => some 0xE2
  | .resultOpCompletion _ _ _ => none
  | .performedOpCompletion _ _ => none
  | .syscServiceDone _ _ _ _ => none
  | .copyCompletion _ _ => none
  | .gatherCompletion _ _ => none
  | .mergeCompletion _ _ => none
  | .matrixCommandExecute _ _ _ => none
  | .mdrnCompletion _ _ => none
  | .gongWake _ _ => none
  | .watchReread _ _ => none
  | .holdTimeout _ _ => none
  | .nopreBudget _ _ => none
  | .packingTimeout _ _ => none
  | .faultRecordComplete _ _ => none
  | .parkedLoadReissue _ _ => none
  | .preemption _ => none
  | .resume _ _ => none
  | .taskDispatch _ => none
  | .tollIntervalBoundary => none
  | .quantumBoundary => none
  | .commitRecordAccept _ _ => none
  | .commitRecordApply _ _ => none
  | .successorSignal _ => none
  | .taskCompletion _ => none
  | .rollback _ => none
  | .coreFence _ => none
  | .sequencerError _ => none
  | .clusterFence _ => none
  | .clusterCacheError _ _ => none
  | .llcError _ _ => none
  | .dieFence _ => none
  | .viralEntry _ => none
  | .packageReset _ => none
  | .boot _ => none
  | .regenerationAdmit _ => none
  | .slicePoolPlace _ _ => none
  | .slicePoolEnd _ => none
  | .sliceTrap _ => none
  | .regenHoldExpiry _ => none
  | .recipeLineEviction _ => none
  | .inFieldTestDue _ => none
  | .inFieldTestRun _ => none
  | .inFieldTestSkip _ => none
  | .scClockReport _ => none
  | .scAccessPerform _ => none
  | .powerSample _ => none
  | .thermalTrip _ => none
  | .deviceDmaRequest _ _ _ _ _ _ => none
  | .pcieAtomicop _ _ _ _ _ _ _ => none
  | .peerFlitReceive _ _ => none
  | .peerRequest _ _ _ _ _ => none
  | .peerLinkFence _ => none
  | .trapHandlerResume _ _ => none
  | .poolTerminate _ => none
  | .asidBind _ _ _ _ _ => none
  | .asidUnbind _ => none
  | .shootdown _ _ _ => none
  | .queueBind _ _ _ _ => none
  | .queueUnbind _ => none
  | .class0Grant _ _ => none
  | .wayMask _ _ _ => none
  | .recipeLimit _ _ => none
  | .keyLoad _ => none
  | .deviceBind _ _ _ => none
  | .timing _ _ _ => none
  | .fenceCommand _ => none
  | .viralCommand => none
  | .cxlWindow _ _ _ => none
  | .powerLimit _ => none
  | .attest _ => none
  | .illegalInstruction _ _ => none
  | .inFieldTestEnd _ _ _ => none
  | .deviceWriteAcknowledge _ => none
  | .replaysClear => none
  | .applicationDieAccess _ _ _ _ _ => none

end Instr

/-- The words that follow the instruction word of an opcode: literal words and the tensor record
(R90); the count depends only on the opcode. -/
def extraWords (opc : Nat) : Nat :=
  if opc = 0x1F then 2
  else if opc ∈ [0xC0, 0xC3, 0xC6, 0xD5] then 4
  else if opc ∈ [0x0A, 0x29, 0x2B, 0x36, 0x90, 0x93, 0xB0, 0xB1, 0xB6, 0xB7, 0xB8, 0xBC, 0xE0] then 1
  else 0

/-- How many code words an instruction occupies with its prefix (R87, R90); 0 for a step without an
encoding. -/
def Instr.words (i : Instr) : Nat :=
  match i.opcode with
  | none => 0
  | some o => 1 + extraWords o + (if i.pfx.isSome then 1 else 0)

end Sys2Proof
end

