-- ==== Sys2Proof/Decode.lean ====
section
/-! DEFINITION. From code words to instructions (R86 to R91, R103, R104) and back.  Decoding is total:
a word that is no instruction is rejected by a named error, which the step turns into the trap that
R104 and R105 give.  Steps 2 to 4 of R105 and the unused bits of step 5 are decided here; the limits of
the fields (R88, R92 to R101) are decided by `Instr.wellFormed` when the instruction issues. -/

namespace Sys2Proof

/-- Why a word is no instruction. -/
inductive DecodeError where
  /-- R86, R103: an opcode that the map does not assign, or 0xF8 to 0xFF. -/
  | unassigned
  /-- R86: a clause-header pattern at an instruction position. -/
  | headerWord
  /-- R89: a bit the entry does not use is not zero. -/
  | reservedBits
  /-- R20: nonzero bits 6:0 of a prefix. -/
  | prefixBits
  /-- R20: a prefix before a clause header or another prefix. -/
  | prefixPosition
  /-- R20: a prefix as the last word of a clause. -/
  | prefixLast
  /-- R17: the instruction's words extend past the clause. -/
  | truncated
  deriving DecidableEq, Repr

/-- The kinds of word of R86. -/
inductive WordKind where
  | header | pfx | unused | opcode
  deriving DecidableEq, Repr

/-- R86: the kind of a word by its bits 31:24. -/
def wordKind (w : Word) : WordKind :=
  if w.extractLsb' 26 6 = 0b111100#6 then .header
  else if w.extractLsb' 26 6 = 0b111101#6 then .pfx
  else if w.extractLsb' 27 5 = 0b11111#5 then .unused
  else .opcode

/-- An instruction word from its opcode and its fields d, a, b (R88). -/
def word (opc : BitVec 8) (d a b : Byte) : Word := opc ++ d ++ a ++ b

/-- R19: the fields of a prefix word. -/
def Prefix.ofWord (w : Word) : Prefix where
  mask := w.extractLsb' 23 3
  zero := w.extractLsb' 22 1
  rnd := w.extractLsb' 19 3
  type := w.extractLsb' 15 4
  x := w.extractLsb' 7 8

/-- R19: a prefix as a word. -/
def Prefix.toWord (p : Prefix) : Word :=
  0b111101#6 ++ p.mask ++ p.zero ++ p.rnd ++ p.type ++ p.x ++ 0#7

/-- R100: the fields of an access word but SPACE. -/
def Access.ofWord (w : Word) : Access where
  disp := w.extractLsb' 16 16
  op := w.extractLsb' 5 3
  ord := w.extractLsb' 3 2
  scope := w.extractLsb' 0 3

/-- R100: an access word with its SPACE bit. -/
def Access.toWord (x : Access) (space : BitVec 1) : Word :=
  x.disp ++ 0#7 ++ space ++ x.op ++ x.ord ++ x.scope

/-- R89: reject an instruction whose unused bits are not zero. -/
def reserve (ok : Prop) [Decidable ok] (i : Instr) : Except DecodeError Instr :=
  if ok then .ok i else .error .reservedBits

/-- The instruction that an instruction word with the operand fields d, a, b and the literal words
l0 to l3 stands for, by the opcode map (R103) and the encoding tables R136, R193, R113, R220, R256,
R264, R265, R267, R322.  Every bit the entry does not use must be zero (R89). -/
def assemble (p : Option Prefix) (opc : Nat) (d a b : Byte) (l0 l1 l2 l3 : Word) : Except DecodeError Instr :=
  match opc with
  | 0x01 => reserve (d = 0 ∧ a = 0 ∧ b = 0) (.nop p)
  | 0x02 => reserve (d = 0 ∧ a = 0 ∧ b = 0) (.end_ p)
  | 0x03 => reserve (d = 0) (.br p (a ++ b))
  | 0x04 => .ok (.brc p d (a ++ b))
  | 0x05 => reserve (d = 0) (.brz p (a ++ b))
  | 0x06 => reserve (d = 0) (.brnz p (a ++ b))
  | 0x07 => .ok (.loop p d (a ++ b))
  | 0x08 => .ok (.call p d (a ++ b))
  | 0x09 => reserve (d = 0 ∧ b = 0) (.ret p a)
  | 0x0A => reserve (d = 0 ∧ b = 0) (.bri p a l0)
  | 0x10 => .ok (.sadd p d a b)
  | 0x11 => .ok (.ssub p d a b)
  | 0x12 => .ok (.smul p d a b)
  | 0x13 => .ok (.smulh p d a b)
  | 0x14 => .ok (.sand p d a b)
  | 0x15 => .ok (.sor p d a b)
  | 0x16 => .ok (.sxor p d a b)
  | 0x17 => .ok (.sshl p d a b)
  | 0x18 => .ok (.sshr p d a b)
  | 0x19 => .ok (.ssar p d a b)
  | 0x1A => .ok (.smin p d a b)
  | 0x1B => .ok (.smax p d a b)
  | 0x1C => .ok (.scmp p d a b)
  | 0x1D => .ok (.ssel p d a b)
  | 0x1E => reserve (b = 0) (.smov p d a)
  | 0x1F => reserve (a = 0 ∧ b = 0) (.sli p d l0 l1)
  | 0x20 => reserve (b = 0) (.spopc p d a)
  | 0x21 => reserve (b = 0) (.sclz p d a)
  | 0x22 => .ok (.sfns p d a b)
  | 0x23 => reserve (b = 0) (.sbrev p d a)
  | 0x24 => reserve (b.extractLsb' 1 7 = 0) (.sld p d a (b.extractLsb' 0 1))
  | 0x25 => reserve (b.extractLsb' 1 7 = 0) (.sst p d a (b.extractLsb' 0 1))
  | 0x26 => reserve (b = 0) (.getst p d a)
  | 0x27 => reserve (d = 0 ∧ b = 0) (.clrst p a)
  | 0x28 => reserve (d = 0 ∧ b = 0) (.setm p a)
  | 0x29 => reserve (d = 0 ∧ a = 0 ∧ b = 0) (.setmLiteral p l0)
  | 0x2A => reserve (d = 0 ∧ b = 0) (.setf p a)
  | 0x2B => reserve (d = 0 ∧ a = 0 ∧ b = 0) (.setfLiteral p l0)
  | 0x2C => reserve (a = 0 ∧ b = 0) (.getm p d)
  | 0x2D => reserve (a = 0 ∧ b = 0) (.getf p d)
  | 0x30 => .ok (.srch p d a b)
  | 0x31 => .ok (.srca p d a b)
  | 0x32 => reserve (d = 0 ∧ a = 0 ∧ b = 0) (.srcx p)
  | 0x33 => reserve (d = 0 ∧ a = 0 ∧ b = 0) (.popr p)
  | 0x34 => reserve (d = 0 ∧ a.extractLsb' 3 5 = 0 ∧ b = 0) (.pushm p (a.extractLsb' 0 3))
  | 0x35 => reserve (d.extractLsb' 3 5 = 0 ∧ a = 0 ∧ b = 0) (.savm p (d.extractLsb' 0 3))
  | 0x36 => reserve (d.extractLsb' 3 5 = 0 ∧ a.extractLsb' 3 5 = 0 ∧ b.extractLsb' 3 5 = 0 ∧ l0.extractLsb' 3 29 = 0) (.maskop p (d.extractLsb' 0 3) (a.extractLsb' 0 3) (b.extractLsb' 0 3) (l0.extractLsb' 0 3))
  | 0x37 => reserve (d = 0 ∧ a = 0 ∧ b = 0) (.frst p)
  | 0x38 => reserve (d = 0 ∧ a = 0 ∧ b = 0) (.dropf p)
  | 0x39 => reserve (a = 0 ∧ b = 0) (.rcount p d)
  | 0x3A => reserve (b = 0) (.rget p d a)
  | 0x3B => reserve (a = 0) (.rput p d b)
  | 0x3C => reserve (d = 0 ∧ a = 0) (.hold p b)
  | 0x3D => reserve (d = 0 ∧ a = 0 ∧ b = 0) (.relh p)
  | 0x40 => reserve (b = 0) (.rsum p d a)
  | 0x41 => reserve (b = 0) (.rmin p d a)
  | 0x42 => reserve (b = 0) (.rmax p d a)
  | 0x43 => reserve (b = 0) (.argmx p d a)
  | 0x44 => reserve (b = 0) (.rand p d a)
  | 0x45 => reserve (b = 0) (.ror p d a)
  | 0x46 => reserve (b.extractLsb' 3 5 = 0) (.scan p d a (b.extractLsb' 2 1) (b.extractLsb' 0 2))
  | 0x47 => reserve (b = 0) (.match_ p d a)
  | 0x50 => reserve (a = 0) (.waitc p d b)
  | 0x51 => reserve (d.extractLsb' 5 3 = 0) (.watch p (d.extractLsb' 3 2) (d.extractLsb' 0 3) a b)
  | 0x52 => reserve (d = 0 ∧ a = 0 ∧ b = 0) (.yield_ p)
  | 0x53 => reserve (d = 0 ∧ a = 0 ∧ b = 0) (.nopre p)
  | 0x54 => reserve (d = 0 ∧ a = 0 ∧ b = 0) (.pre p)
  | 0x55 => reserve (d = 0) (.ginit p a b)
  | 0x56 => reserve (b = 0) (.garr p d a)
  | 0x57 => reserve (d = 0) (.gexp p a b)
  | 0x58 => reserve (d = 0) (.gwait p a b)
  | 0x59 => reserve (d = 0 ∧ a = 0 ∧ b.extractLsb' 5 3 = 0) (.fence p (b.extractLsb' 3 2) (b.extractLsb' 0 3))
  | 0x60 => .ok (.vadd p d a b)
  | 0x61 => .ok (.vsub p d a b)
  | 0x62 => .ok (.vmul p d a b)
  | 0x63 => .ok (.vmulh p d a b)
  | 0x64 => .ok (.vfma p d a b)
  | 0x65 => .ok (.vmin p d a b)
  | 0x66 => .ok (.vmax p d a b)
  | 0x67 => reserve (b = 0) (.vabs p d a)
  | 0x68 => reserve (b = 0) (.vneg p d a)
  | 0x69 => .ok (.vclamp p d a b)
  | 0x6A => .ok (.vdot4 p d a b)
  | 0x6B => .ok (.vscal p d a b)
  | 0x70 => .ok (.vand p d a b)
  | 0x71 => .ok (.vor p d a b)
  | 0x72 => .ok (.vxor p d a b)
  | 0x73 => .ok (.vandn p d a b)
  | 0x74 => reserve (b = 0) (.vnot p d a)
  | 0x75 => .ok (.vshl p d a b)
  | 0x76 => .ok (.vshr p d a b)
  | 0x77 => .ok (.vsar p d a b)
  | 0x78 => .ok (.vrot p d a b)
  | 0x80 => reserve (b = 0) (.vpopc p d a)
  | 0x81 => reserve (b = 0) (.vclz p d a)
  | 0x82 => reserve (b = 0) (.vctz p d a)
  | 0x83 => .ok (.vfns p d a b)
  | 0x84 => reserve (b = 0) (.vbrev p d a)
  | 0x85 => .ok (.vbfx p d a b)
  | 0x86 => .ok (.vbfi p d a b)
  | 0x90 => reserve (l0.extractLsb' 4 28 = 0) (.vcmp p d a b (l0.extractLsb' 0 4))
  | 0x91 => .ok (.vsel p d a b)
  | 0x92 => if a = 0 then .ok (.vmov p d b) else reserve (a = 1) (.vmovScalar p d b)
  | 0x93 => reserve (a = 0 ∧ b = 0) (.vmovi p d l0)
  | 0x94 => reserve (a = 0 ∧ b = 0) (.tid p d)
  | 0x95 => reserve (b.extractLsb' 5 3 = 0) (.vcvt p d a (b.extractLsb' 4 1) (b.extractLsb' 0 4))
  | 0x96 => .ok (.vpack p d a b)
  | 0x97 => .ok (.vunpk p d a b)
  | 0xA0 => reserve (b = 0) (.vrcp p d a)
  | 0xA1 => reserve (b = 0) (.vrsq p d a)
  | 0xA2 => reserve (b = 0) (.vsqt p d a)
  | 0xA3 => reserve (b = 0) (.vex2 p d a)
  | 0xA4 => reserve (b = 0) (.vlg2 p d a)
  | 0xA5 => reserve (b = 0) (.vsin p d a)
  | 0xA6 => reserve (b = 0) (.vcos p d a)
  | 0xB0 => reserve (l0.extractLsb' 8 8 = 0) (.vld p d a b (Access.ofWord l0))
  | 0xB1 => reserve (l0.extractLsb' 8 8 = 0) (.vst p d a b (Access.ofWord l0))
  | 0xB2 => .ok (.vlds p d a (b.extractLsb' 6 2) (b.extractLsb' 5 1) (b.extractLsb' 0 5))
  | 0xB3 => reserve (b.extractLsb' 5 1 = 0) (.vsts p d a (b.extractLsb' 6 2) (b.extractLsb' 0 5))
  | 0xB4 => reserve (b.extractLsb' 0 5 = 0 ∧ b.extractLsb' 7 1 = 0) (.vldw p d a (b.extractLsb' 6 1) (b.extractLsb' 5 1))
  | 0xB5 => reserve (b.extractLsb' 0 5 = 0 ∧ b.extractLsb' 7 1 = 0) (.vstw p d a (b.extractLsb' 6 1) (b.extractLsb' 5 1))
  | 0xB6 => reserve (l0.extractLsb' 9 7 = 0) (if l0.extractLsb' 8 1 = 0 then .vatomGlobal p d a b (Access.ofWord l0) else .vatomSpad p d a b (Access.ofWord l0))
  | 0xB7 => reserve (l0.extractLsb' 9 7 = 0) (if l0.extractLsb' 8 1 = 0 then .vredGlobal p d a b (Access.ofWord l0) else .vredSpad p d a b (Access.ofWord l0))
  | 0xB8 => reserve (l0.extractLsb' 8 8 = 0) (.pref p d a b (Access.ofWord l0))
  | 0xB9 => reserve (d = 0 ∧ a = 0 ∧ b.extractLsb' 3 5 = 0) (.flush p (b.extractLsb' 0 3))
  | 0xBA => reserve (b.extractLsb' 3 5 = 0) (.inv p d a (b.extractLsb' 0 3))
  | 0xBB => .ok (.vperm p d a b)
  | 0xBC => reserve (b = 0 ∧ l0.extractLsb' 2 6 = 0 ∧ l0.extractLsb' 16 16 = 0) (.vshfl p d a (l0.extractLsb' 8 8) (l0.extractLsb' 0 2))
  | 0xBD => .ok (.vbcst p d a b)
  | 0xC0 => .ok (.cpy p d a (b.extractLsb' 4 4) (b.extractLsb' 0 4) ⟨l0, l1, l2, l3⟩)
  | 0xC1 => reserve (d.extractLsb' 3 5 = 0) (.gthr p (d.extractLsb' 0 3) a b)
  | 0xC2 => reserve (b = 0) (.gdesc p d a)
  | 0xC3 => .ok (.mrg p d a (b.extractLsb' 4 4) (b.extractLsb' 0 4) ⟨l0, l1, l2, l3⟩)
  | 0xC4 => .ok (.mma p d a b)
  | 0xC5 => .ok (.mmaq p d a b)
  | 0xC6 => .ok (.mmas p d a (b.extractLsb' 4 4) (b.extractLsb' 0 4) ⟨l0, l1, l2, l3⟩)
  | 0xC7 => reserve (b = 0) (.mdrn p d a)
  | 0xC8 => reserve (a = 0 ∧ b = 0) (.mzero p d)
  | 0xD0 => reserve (b = 0) (.launch p d a)
  | 0xD1 => reserve (d = 0 ∧ b = 0) (.spawn p a)
  | 0xD2 => reserve (d = 0 ∧ a = 0 ∧ b = 0) (.succ p)
  | 0xD3 => reserve (b = 0) (.cpstart p d a)
  | 0xD4 => reserve (d = 0 ∧ b = 0) (.cpstop p a)
  | 0xD5 => reserve (a = 0 ∧ b.extractLsb' 4 4 = 0) (.rcdef p d (b.extractLsb' 0 4) ⟨l0, l1, l2, l3⟩)
  | 0xD6 => reserve (b = 0) (.rcret p d a)
  | 0xD7 => reserve (b = 0) (.rcdrop p d a)
  | 0xD8 => reserve (b = 0) (.rcqry p d a)
  | 0xE0 => reserve (b = 0 ∧ l0.extractLsb' 20 12 = 0) (.sysc p d a (l0.extractLsb' 16 4) (l0.extractLsb' 0 16))
  | 0xE1 => reserve (d = 0 ∧ a = 0) (.trap p b)
  | 0xE2 => reserve (a = 0 ∧ b = 0) (.chke p d)
  | _ => .error .unassigned

/-- R103: whether the opcode map assigns an opcode. -/
def assigned (opc : Nat) : Bool :=
  (0x01 ≤ opc && opc ≤ 0x0A) || (0x10 ≤ opc && opc ≤ 0x2D) || (0x30 ≤ opc && opc ≤ 0x3D) ||
  (0x40 ≤ opc && opc ≤ 0x47) || (0x50 ≤ opc && opc ≤ 0x59) || (0x60 ≤ opc && opc ≤ 0x6B) ||
  (0x70 ≤ opc && opc ≤ 0x78) || (0x80 ≤ opc && opc ≤ 0x86) || (0x90 ≤ opc && opc ≤ 0x97) ||
  (0xA0 ≤ opc && opc ≤ 0xA6) || (0xB0 ≤ opc && opc ≤ 0xBD) || (0xC0 ≤ opc && opc ≤ 0xC8) ||
  (0xD0 ≤ opc && opc ≤ 0xD8) || (0xE0 ≤ opc && opc ≤ 0xE2)

/-- An instruction word and its extra words, which are the first words of the list; the words after
the instruction are handed back (R21, R90, steps 2, 4 and 5 of R105). -/
def decodeBody (p : Option Prefix) (w : Word) (rest : List Word) : Except DecodeError (Instr × List Word) :=
  let opc := (w.extractLsb' 24 8).toNat
  let n := extraWords opc
  if !assigned opc then .error .unassigned
  else if rest.length < n then .error .truncated
  else match assemble p opc (w.extractLsb' 16 8) (w.extractLsb' 8 8) (w.extractLsb' 0 8)
      (rest.getD 0 0) (rest.getD 1 0) (rest.getD 2 0) (rest.getD 3 0) with
    | .ok i => .ok (i, rest.drop n)
    | .error e => .error e

/-- The instruction at the head of a list of code words, and the words after it (R86, R87). -/
def decode : List Word → Except DecodeError (Instr × List Word)
  | [] => .error .truncated
  | w :: rest =>
    match wordKind w with
    | .header => .error .headerWord
    | .unused => .error .unassigned
    | .opcode => decodeBody none w rest
    | .pfx =>
      if w.extractLsb' 0 7 ≠ 0 then .error .prefixBits
      else match rest with
        | [] => .error .prefixLast
        | v :: rest' =>
          match wordKind v with
          | .header | .pfx => .error .prefixPosition
          | .unused => .error .unassigned
          | .opcode => decodeBody (some (Prefix.ofWord w)) v rest'

/-- R7, R86: code words are little-endian. -/
def Word.ofBytes (b0 b1 b2 b3 : Byte) : Word := b3 ++ b2 ++ b1 ++ b0

/-- R7: the four bytes of a code word, the lowest address first. -/
def Word.bytes (w : Word) : List Byte :=
  [w.extractLsb' 0 8, w.extractLsb' 8 8, w.extractLsb' 16 8, w.extractLsb' 24 8]

/-- The code words that whole groups of four bytes hold. -/
def wordsOfBytes : List Byte → List Word
  | b0 :: b1 :: b2 :: b3 :: rest => Word.ofBytes b0 b1 b2 b3 :: wordsOfBytes rest
  | _ => []

/-- The instruction that the bytes at an instruction position hold. -/
def decodeBytes (bs : List Byte) : Except DecodeError Instr :=
  (decode (wordsOfBytes bs)).map Prod.fst

/-- The instruction word and the words after it, from the same encoding tables; none for a step
that has no encoding. -/
def encodeBody : Instr → Option (List Word)
  | .nop _ => some [word 0x01 0#8 0#8 0#8]
  | .end_ _ => some [word 0x02 0#8 0#8 0#8]
  | .br _ o => some [word 0x03 0#8 (o.extractLsb' 8 8) (o.extractLsb' 0 8)]
  | .brc _ d o => some [word 0x04 d (o.extractLsb' 8 8) (o.extractLsb' 0 8)]
  | .brz _ o => some [word 0x05 0#8 (o.extractLsb' 8 8) (o.extractLsb' 0 8)]
  | .brnz _ o => some [word 0x06 0#8 (o.extractLsb' 8 8) (o.extractLsb' 0 8)]
  | .loop _ d o => some [word 0x07 d (o.extractLsb' 8 8) (o.extractLsb' 0 8)]
  | .call _ d o => some [word 0x08 d (o.extractLsb' 8 8) (o.extractLsb' 0 8)]
  | .ret _ a => some [word 0x09 0#8 a 0#8]
  | .bri _ a lit => some [word 0x0A 0#8 a 0#8, lit]
  | .sadd _ d a b => some [word 0x10 d a b]
  | .ssub _ d a b => some [word 0x11 d a b]
  | .smul _ d a b => some [word 0x12 d a b]
  | .smulh _ d a b => some [word 0x13 d a b]
  | .sand _ d a b => some [word 0x14 d a b]
  | .sor _ d a b => some [word 0x15 d a b]
  | .sxor _ d a b => some [word 0x16 d a b]
  | .sshl _ d a b => some [word 0x17 d a b]
  | .sshr _ d a b => some [word 0x18 d a b]
  | .ssar _ d a b => some [word 0x19 d a b]
  | .smin _ d a b => some [word 0x1A d a b]
  | .smax _ d a b => some [word 0x1B d a b]
  | .scmp _ d a b => some [word 0x1C d a b]
  | .ssel _ d a b => some [word 0x1D d a b]
  | .smov _ d a => some [word 0x1E d a 0#8]
  | .sli _ d lo hi => some [word 0x1F d 0#8 0#8, lo, hi]
  | .spopc _ d a => some [word 0x20 d a 0#8]
  | .sclz _ d a => some [word 0x21 d a 0#8]
  | .sfns _ d a b => some [word 0x22 d a b]
  | .sbrev _ d a => some [word 0x23 d a 0#8]
  | .sld _ d a sp => some [word 0x24 d a (0#7 ++ sp)]
  | .sst _ d a sp => some [word 0x25 d a (0#7 ++ sp)]
  | .getst _ d a => some [word 0x26 d a 0#8]
  | .clrst _ a => some [word 0x27 0#8 a 0#8]
  | .setm _ a => some [word 0x28 0#8 a 0#8]
  | .setmLiteral _ lit => some [word 0x29 0#8 0#8 0#8, lit]
  | .setf _ a => some [word 0x2A 0#8 a 0#8]
  | .setfLiteral _ lit => some [word 0x2B 0#8 0#8 0#8, lit]
  | .getm _ d => some [word 0x2C d 0#8 0#8]
  | .getf _ d => some [word 0x2D d 0#8 0#8]
  | .srch _ d a b => some [word 0x30 d a b]
  | .srca _ d a b => some [word 0x31 d a b]
  | .srcx _ => some [word 0x32 0#8 0#8 0#8]
  | .popr _ => some [word 0x33 0#8 0#8 0#8]
  | .pushm _ m => some [word 0x34 0#8 (0#5 ++ m) 0#8]
  | .savm _ m => some [word 0x35 (0#5 ++ m) 0#8 0#8]
  | .maskop _ md ma mb op => some [word 0x36 (0#5 ++ md) (0#5 ++ ma) (0#5 ++ mb), 0#29 ++ op]
  | .frst _ => some [word 0x37 0#8 0#8 0#8]
  | .dropf _ => some [word 0x38 0#8 0#8 0#8]
  | .rcount _ d => some [word 0x39 d 0#8 0#8]
  | .rget _ d a => some [word 0x3A d a 0#8]
  | .rput _ d b => some [word 0x3B d 0#8 b]
  | .hold _ b => some [word 0x3C 0#8 0#8 b]
  | .relh _ => some [word 0x3D 0#8 0#8 0#8]
  | .rsum _ d a => some [word 0x40 d a 0#8]
  | .rmin _ d a => some [word 0x41 d a 0#8]
  | .rmax _ d a => some [word 0x42 d a 0#8]
  | .argmx _ d a => some [word 0x43 d a 0#8]
  | .rand _ d a => some [word 0x44 d a 0#8]
  | .ror _ d a => some [word 0x45 d a 0#8]
  | .scan _ d a excl op => some [word 0x46 d a (0#5 ++ excl ++ op)]
  | .match_ _ d a => some [word 0x47 d a 0#8]
  | .waitc _ d b => some [word 0x50 d 0#8 b]
  | .watch _ ord scope a b => some [word 0x51 (0#3 ++ ord ++ scope) a b]
  | .yield_ _ => some [word 0x52 0#8 0#8 0#8]
  | .nopre _ => some [word 0x53 0#8 0#8 0#8]
  | .pre _ => some [word 0x54 0#8 0#8 0#8]
  | .ginit _ a b => some [word 0x55 0#8 a b]
  | .garr _ d a => some [word 0x56 d a 0#8]
  | .gexp _ a b => some [word 0x57 0#8 a b]
  | .gwait _ a b => some [word 0x58 0#8 a b]
  | .fence _ ord scope => some [word 0x59 0#8 0#8 (0#3 ++ ord ++ scope)]
  | .vadd _ d a b => some [word 0x60 d a b]
  | .vsub _ d a b => some [word 0x61 d a b]
  | .vmul _ d a b => some [word 0x62 d a b]
  | .vmulh _ d a b => some [word 0x63 d a b]
  | .vfma _ d a b => some [word 0x64 d a b]
  | .vmin _ d a b => some [word 0x65 d a b]
  | .vmax _ d a b => some [word 0x66 d a b]
  | .vabs _ d a => some [word 0x67 d a 0#8]
  | .vneg _ d a => some [word 0x68 d a 0#8]
  | .vclamp _ d a b => some [word 0x69 d a b]
  | .vdot4 _ d a b => some [word 0x6A d a b]
  | .vscal _ d a b => some [word 0x6B d a b]
  | .vand _ d a b => some [word 0x70 d a b]
  | .vor _ d a b => some [word 0x71 d a b]
  | .vxor _ d a b => some [word 0x72 d a b]
  | .vandn _ d a b => some [word 0x73 d a b]
  | .vnot _ d a => some [word 0x74 d a 0#8]
  | .vshl _ d a b => some [word 0x75 d a b]
  | .vshr _ d a b => some [word 0x76 d a b]
  | .vsar _ d a b => some [word 0x77 d a b]
  | .vrot _ d a b => some [word 0x78 d a b]
  | .vpopc _ d a => some [word 0x80 d a 0#8]
  | .vclz _ d a => some [word 0x81 d a 0#8]
  | .vctz _ d a => some [word 0x82 d a 0#8]
  | .vfns _ d a b => some [word 0x83 d a b]
  | .vbrev _ d a => some [word 0x84 d a 0#8]
  | .vbfx _ d a b => some [word 0x85 d a b]
  | .vbfi _ d a b => some [word 0x86 d a b]
  | .vcmp _ d a b cond => some [word 0x90 d a b, 0#28 ++ cond]
  | .vsel _ d a b => some [word 0x91 d a b]
  | .vmov _ d b => some [word 0x92 d 0#8 b]
  | .vmovScalar _ d b => some [word 0x92 d 1#8 b]
  | .vmovi _ d lit => some [word 0x93 d 0#8 0#8, lit]
  | .tid _ d => some [word 0x94 d 0#8 0#8]
  | .vcvt _ d a e8 src => some [word 0x95 d a (0#3 ++ e8 ++ src)]
  | .vpack _ d a b => some [word 0x96 d a b]
  | .vunpk _ d a b => some [word 0x97 d a b]
  | .vrcp _ d a => some [word 0xA0 d a 0#8]
  | .vrsq _ d a => some [word 0xA1 d a 0#8]
  | .vsqt _ d a => some [word 0xA2 d a 0#8]
  | .vex2 _ d a => some [word 0xA3 d a 0#8]
  | .vlg2 _ d a => some [word 0xA4 d a 0#8]
  | .vsin _ d a => some [word 0xA5 d a 0#8]
  | .vcos _ d a => some [word 0xA6 d a 0#8]
  | .vld _ d a b w => some [word 0xB0 d a b, w.toWord 0]
  | .vst _ d a b w => some [word 0xB1 d a b, w.toWord 0]
  | .vlds _ d a size sx disp => some [word 0xB2 d a (size ++ sx ++ disp)]
  | .vsts _ d a size disp => some [word 0xB3 d a (size ++ 0#1 ++ disp)]
  | .vldw _ d a size win => some [word 0xB4 d a (0#1 ++ size ++ win ++ 0#5)]
  | .vstw _ d a size win => some [word 0xB5 d a (0#1 ++ size ++ win ++ 0#5)]
  | .vatomSpad _ d a b w => some [word 0xB6 d a b, w.toWord 1]
  | .vatomGlobal _ d a b w => some [word 0xB6 d a b, w.toWord 0]
  | .vredSpad _ d a b w => some [word 0xB7 d a b, w.toWord 1]
  | .vredGlobal _ d a b w => some [word 0xB7 d a b, w.toWord 0]
  | .pref _ d a b w => some [word 0xB8 d a b, w.toWord 0]
  | .flush _ scope => some [word 0xB9 0#8 0#8 (0#5 ++ scope)]
  | .inv _ d a scope => some [word 0xBA d a (0#5 ++ scope)]
  | .vperm _ d a b => some [word 0xBB d a b]
  | .vshfl _ d a delta kind => some [word 0xBC d a 0#8, 0#16 ++ delta ++ 0#6 ++ kind]
  | .vbcst _ d a b => some [word 0xBD d a b]
  | .cpy _ d a variant marks r => some [word 0xC0 d a (variant ++ marks), r.r0, r.r1, r.r2, r.r3]
  | .gthr _ m a b => some [word 0xC1 (0#5 ++ m) a b]
  | .gdesc _ d a => some [word 0xC2 d a 0#8]
  | .mrg _ d a variant marks r => some [word 0xC3 d a (variant ++ marks), r.r0, r.r1, r.r2, r.r3]
  | .mma _ d a b => some [word 0xC4 d a b]
  | .mmaq _ d a b => some [word 0xC5 d a b]
  | .mmas _ d a acc marks r => some [word 0xC6 d a (acc ++ marks), r.r0, r.r1, r.r2, r.r3]
  | .mdrn _ d a => some [word 0xC7 d a 0#8]
  | .mzero _ d => some [word 0xC8 d 0#8 0#8]
  | .launch _ d a => some [word 0xD0 d a 0#8]
  | .spawn _ a => some [word 0xD1 0#8 a 0#8]
  | .succ _ => some [word 0xD2 0#8 0#8 0#8]
  | .cpstart _ d a => some [word 0xD3 d a 0#8]
  | .cpstop _ a => some [word 0xD4 0#8 a 0#8]
  | .rcdef _ d marks r => some [word 0xD5 d 0#8 (0#4 ++ marks), r.r0, r.r1, r.r2, r.r3]
  | .rcret _ d a => some [word 0xD6 d a 0#8]
  | .rcdrop _ d a => some [word 0xD7 d a 0#8]
  | .rcqry _ d a => some [word 0xD8 d a 0#8]
  | .sysc _ d a narg service => some [word 0xE0 d a 0#8, 0#12 ++ narg ++ service]
  | .trap _ b => some [word 0xE1 0#8 0#8 b]
  | .chke _ d => some [word 0xE2 d 0#8 0#8]
  | .resultOpCompletion _ _ _ => none
  | .performedOpCompletion _ _ => none
  | .syscServiceDone _ _ _ _ => none
  | .copyCompletion _ _ => none
  | .gatherCompletion _ _ => none
  | .mergeCompletion _ _ => none
  | .matrixCommandExecute _ _ _ => none
  | .mdrnCompletion _ _ => none
  | .gongWake _ _ => none
  | .watchReread _ _ => none
  | .holdTimeout _ _ => none
  | .nopreBudget _ _ => none
  | .packingTimeout _ _ => none
  | .faultRecordComplete _ _ => none
  | .parkedLoadReissue _ _ => none
  | .preemption _ => none
  | .resume _ _ => none
  | .taskDispatch _ => none
  | .tollIntervalBoundary => none
  | .quantumBoundary => none
  | .commitRecordAccept _ _ => none
  | .commitRecordApply _ _ => none
  | .successorSignal _ => none
  | .taskCompletion _ => none
  | .rollback _ => none
  | .coreFence _ => none
  | .sequencerError _ => none
  | .clusterFence _ => none
  | .clusterCacheError _ _ => none
  | .llcError _ _ => none
  | .dieFence _ => none
  | .viralEntry _ => none
  | .packageReset _ => none
  | .boot _ => none
  | .regenerationAdmit _ => none
  | .slicePoolPlace _ _ => none
  | .slicePoolEnd _ => none
  | .sliceTrap _ => none
  | .regenHoldExpiry _ => none
  | .recipeLineEviction _ => none
  | .inFieldTestDue _ => none
  | .inFieldTestRun _ => none
  | .inFieldTestSkip _ => none
  | .scClockReport _ => none
  | .scAccessPerform _ => none
  | .powerSample _ => none
  | .thermalTrip _ => none
  | .deviceDmaRequest _ _ _ _ _ _ => none
  | .pcieAtomicop _ _ _ _ _ _ _ => none
  | .peerFlitReceive _ _ => none
  | .peerRequest _ _ _ _ _ => none
  | .peerLinkFence _ => none
  | .trapHandlerResume _ _ => none
  | .poolTerminate _ => none
  | .asidBind _ _ _ _ _ => none
  | .asidUnbind _ => none
  | .shootdown _ _ _ => none
  | .queueBind _ _ _ _ => none
  | .queueUnbind _ => none
  | .class0Grant _ _ => none
  | .wayMask _ _ _ => none
  | .recipeLimit _ _ => none
  | .keyLoad _ => none
  | .deviceBind _ _ _ => none
  | .timing _ _ _ => none
  | .fenceCommand _ => none
  | .viralCommand => none
  | .cxlWindow _ _ _ => none
  | .powerLimit _ => none
  | .attest _ => none
  | .illegalInstruction _ _ => none
  | .inFieldTestEnd _ _ _ => none
  | .deviceWriteAcknowledge _ => none
  | .replaysClear => none
  | .applicationDieAccess _ _ _ _ _ => none

/-- The code words of an instruction, its prefix first (R87); none for a step without an encoding. -/
def encode (i : Instr) : Option (List Word) :=
  match encodeBody i, i.pfx with
  | none, _ => none
  | some ws, none => some ws
  | some ws, some p => some (p.toWord :: ws)

/-- The longest instruction has six words: a prefix, the instruction word and four record words (R90). -/
def maxWords : Nat := 6

/-- The 32-bit words of an instruction whose bits are numbered from the first word's bit 0 upward,
followed by words of zeros up to the longest instruction. -/
def tableWords (w : Nat) : List Word :=
  (List.range maxWords).map fun k => BitVec.ofNat 32 (w >>> (32 * k))

/-- What the decoder reads from an instruction of `nbits` bits `w`, bit 0 the least significant bit of
the first word; the bits above `nbits` are zero. -/
def decodeTableWord (nbits w : Nat) : Option Instr :=
  match decodeBytes ((tableWords (w % 2 ^ nbits)).flatMap Word.bytes) with
  | .ok i => some i
  | .error _ => none

end Sys2Proof
end

