-- ==== Sys2Proof/Machine/Flags.lean ====
section
/-! DEFINITION. The bits of FSTAT (R83) and the codes of element types and roundings (R94, R95). -/

namespace Sys2Proof.Machine

/-- R83. -/
abbrev Flags := BitVec 16

def Flags.IV : Flags := 0x01
def Flags.DZ : Flags := 0x02
def Flags.OF : Flags := 0x04
def Flags.UF : Flags := 0x08
def Flags.NX : Flags := 0x10
def Flags.SAT : Flags := 0x20
def Flags.META : Flags := 0x40
def Flags.NANSCALE : Flags := 0x80

def flagIf (b : Bool) (f : Flags) : Flags := if b then f else 0

/-- R71: the rounding modes. -/
inductive RMode where
  | rne | rna | rz | ru | rd
  deriving DecidableEq, Repr

/-- R95. -/
def RMode.ofCode (c : Nat) : RMode :=
  match c with | 2 => .rz | 3 => .ru | 4 => .rd | _ => .rne

/-- R62: the floating-point formats. -/
inductive Fmt where
  | fp32 | fp16 | bf16 | e5m2 | e4m3 | e2m1
  deriving DecidableEq, Repr

/-- R94: an element type: an integer of w bits, or a floating-point format. -/
inductive Ty where
  | int (w : Nat) (signed : Bool)
  | flt (f : Fmt)
  deriving DecidableEq, Repr

/-- R94: the element type of a code 1 to 15. -/
def Ty.ofCode (c : Nat) : Ty :=
  match c with
  | 1 => .int 8 true
  | 2 => .int 16 true
  | 3 => .int 32 true
  | 4 => .int 64 true
  | 5 => .int 8 false
  | 6 => .int 16 false
  | 7 => .int 32 false
  | 8 => .int 64 false
  | 9 => .flt .fp16
  | 10 => .flt .bf16
  | 11 => .flt .fp32
  | 12 => .flt .e5m2
  | 13 => .flt .e4m3
  | 14 => .flt .e2m1
  | _ => .int 4 true

def Fmt.width : Fmt → Nat
  | .fp32 => 32 | .fp16 => 16 | .bf16 => 16 | .e5m2 => 8 | .e4m3 => 8 | .e2m1 => 4

/-- R62: mantissa bits and bias. -/
def Fmt.mant : Fmt → Nat
  | .fp32 => 23 | .fp16 => 10 | .bf16 => 7 | .e5m2 => 2 | .e4m3 => 3 | .e2m1 => 1

def Fmt.bias : Fmt → Nat
  | .fp32 => 127 | .fp16 => 15 | .bf16 => 127 | .e5m2 => 15 | .e4m3 => 7 | .e2m1 => 1

/-- The code of the largest finite magnitude. -/
def Fmt.maxCode : Fmt → Nat
  | .fp32 => 0x7F7FFFFF | .fp16 => 0x7BFF | .bf16 => 0x7F7F | .e5m2 => 0x7B | .e4m3 => 0x7E | .e2m1 => 0x7

def Fmt.hasInf : Fmt → Bool
  | .e4m3 | .e2m1 => false
  | _ => true

/-- The code of +∞, where the format has one. -/
def Fmt.infCode (f : Fmt) : Nat := f.maxCode + 1

/-- R65: the canonical NaN; E2M1 has none, and gives +0 (R74). -/
def Fmt.nanCode : Fmt → Nat
  | .fp32 => 0x7FC00000 | .fp16 => 0x7E00 | .bf16 => 0x7FC0 | .e5m2 => 0x7E | .e4m3 => 0x7F | .e2m1 => 0

def Ty.width : Ty → Nat
  | .int w _ => w
  | .flt f => f.width

def Ty.isFloat : Ty → Bool
  | .flt _ => true
  | .int .. => false

end Sys2Proof.Machine
end

