-- ==== Sys2Proof/Machine/Numbers.lean ====
section
/-! DEFINITION. Values of the number formats as exact dyadic numbers, rounding, overflow and conversion
(R59 to R74, R79, R80). -/

namespace Sys2Proof.Machine

/-- The value of a code (R63): a NaN, an infinity, or (−1)^neg × man × 2^exp. -/
inductive FVal where
  | nan (signalling : Bool)
  | inf (neg : Bool)
  | fin (neg : Bool) (man : Nat) (exp : Int)
  deriving DecidableEq, Repr

/-- R63 to R65: the value of a code of a format. -/
def Fmt.decode (f : Fmt) (code : Nat) : FVal :=
  let m := code % 2 ^ f.mant
  let neg := code.testBit (f.width - 1)
  let mag := code % 2 ^ (f.width - 1)
  let e := mag / 2 ^ f.mant
  if f.hasInf && mag = f.infCode then .inf neg
  else if mag > f.maxCode then
    .nan ((f == .fp32 || f == .fp16 || f == .bf16) && !m.testBit (f.mant - 1))
  else if e = 0 then .fin neg m (1 - (f.bias : Int) - f.mant)
  else .fin neg (2 ^ f.mant + m) ((e : Int) - f.bias - f.mant)

/-- An integer as a value. -/
def FVal.ofInt (i : Int) : FVal := .fin (i < 0) i.natAbs 0

/-- 2^n of an exponent that is not negative. -/
def pow2 (e : Int) : Nat := 2 ^ e.toNat

/-- R71: man / 2^shift rounded to an integer, and whether that changed it. -/
def roundShift (rm : RMode) (neg : Bool) (man : Nat) (shift : Int) : Nat × Bool :=
  if shift ≤ 0 then (man * pow2 (-shift), false)
  else
    let d := pow2 shift
    let q := man / d
    let r := man % d
    let up := match rm with
      | .rne => decide (d < 2 * r) || (2 * r = d && q % 2 = 1)
      | .rna => decide (d ≤ 2 * r)
      | .rz => false
      | .ru => !neg && r ≠ 0
      | .rd => neg && r ≠ 0
    (if up then q + 1 else q, r ≠ 0)

/-- The sign bit of a format on a magnitude code. -/
def Fmt.signed (f : Fmt) (neg : Bool) (mag : Nat) : Nat := if neg then 2 ^ (f.width - 1) + mag else mag

/-- R73: the code an overflow delivers. -/
def Fmt.overflow (f : Fmt) (rm : RMode) (sat neg : Bool) : Nat :=
  let towardZero := match rm with
    | .rne | .rna => false
    | .rz => true
    | .ru => neg
    | .rd => !neg
  if !f.hasInf || sat || towardZero then f.signed neg f.maxCode else f.signed neg f.infCode

/-- R71, R73: the finite value (−1)^neg × man × 2^exp rounded to a format. -/
def Fmt.roundFin (f : Fmt) (rm : RMode) (sat neg : Bool) (man : Nat) (exp : Int) : Nat × Flags :=
  if man = 0 then (f.signed neg 0, 0)
  else
    let m : Int := f.mant
    let emin : Int := 1 - f.bias
    let e : Int := (Nat.log2 man : Int) + exp
    -- rounded as if the exponent range were unbounded
    let u := roundShift rm neg man (e - m - exp)
    let eu := if u.1 = 2 ^ (f.mant + 1) then e + 1 else e
    let mu := if u.1 = 2 ^ (f.mant + 1) then 2 ^ f.mant else u.1
    let big := (eu + f.bias - 1) * 2 ^ f.mant + mu
    if (f.maxCode : Int) < big then (f.overflow rm sat neg, Flags.OF ||| Flags.NX)
    else
      let q := max (e - m) (emin - m)
      let d := roundShift rm neg man (q - exp)
      let code := (q + m + f.bias - 1).toNat * 2 ^ f.mant + d.1
      (f.signed neg code, flagIf d.2 Flags.NX ||| flagIf (d.2 && decide (eu < emin)) Flags.UF)

/-- R65, R73, R115: an exact result of arithmetic delivered into a format. -/
def Fmt.round (f : Fmt) (rm : RMode) (sat : Bool) (v : FVal) : Nat × Flags :=
  match v with
  | .nan s => (f.nanCode, flagIf s Flags.IV)
  | .inf n => (f.signed n f.infCode, 0)
  | .fin n m e => f.roundFin rm sat n m e

/-- R65, R73, R74: a value converted into a format. -/
def Fmt.convert (f : Fmt) (rm : RMode) (sat : Bool) (v : FVal) : Nat × Flags :=
  match v with
  | .nan s => (f.nanCode, flagIf (s || f == .e2m1) Flags.IV)
  | .inf n =>
      if f.hasInf && !sat then (f.signed n f.infCode, 0)
      else (f.signed n f.maxCode, Flags.OF)
  | .fin n m e => f.roundFin rm sat n m e

/-- R72: a destination narrower than 16 bits rounds by RNA. -/
def widthRule (width : Nat) (rm : RMode) : RMode := if width < 16 then .rna else rm

/-- R61: the least and the greatest integer of a format. -/
def intMin (w : Nat) (signed : Bool) : Int := if signed then -(2 ^ (w - 1)) else 0
def intMax (w : Nat) (signed : Bool) : Int := if signed then 2 ^ (w - 1) - 1 else 2 ^ w - 1

/-- The value of w bits as an integer of a format. -/
def intOf (w : Nat) (signed : Bool) (x : Nat) : Int :=
  let y := x % 2 ^ w
  if signed && y.testBit (w - 1) then (y : Int) - 2 ^ w else y

/-- The w bits of an integer, modulo 2^w. -/
def intBits (w : Nat) (i : Int) : Nat := (i % 2 ^ w).toNat

/-- An integer clamped to a format; SAT when that changes it. -/
def clampInt (w : Nat) (signed : Bool) (i : Int) : Nat × Flags :=
  if i < intMin w signed then (intBits w (intMin w signed), Flags.SAT)
  else if intMax w signed < i then (intBits w (intMax w signed), Flags.SAT)
  else (intBits w i, 0)

/-- R72, R74: a value converted to an integer format. -/
def FVal.toInt (v : FVal) (w : Nat) (signed : Bool) (rm : RMode) : Nat × Flags :=
  match v with
  | .nan _ => (0, Flags.IV)
  | .inf n => (intBits w (if n then intMin w signed else intMax w signed), Flags.SAT)
  | .fin n m e =>
      let r := roundShift rm n m (-e)
      let c := clampInt w signed (if n then -(r.1 : Int) else r.1)
      (c.1, c.2 ||| flagIf r.2 Flags.NX)

/-- A value of any element type: integers exact, floating-point codes decoded. -/
def Ty.value (t : Ty) (code : Nat) : FVal :=
  match t with
  | .int w s => .ofInt (intOf w s code)
  | .flt f => f.decode code

/-- R72 to R74, R131: a value delivered into any element type. -/
def Ty.deliver (t : Ty) (rm : RMode) (sat : Bool) (v : FVal) : Nat × Flags :=
  match t with
  | .int w s => v.toInt w s (widthRule w rm)
  | .flt f => f.convert (widthRule f.width rm) sat v

/-! ### Exact arithmetic -/

/-- The two mantissas on a common exponent. -/
def align (m1 : Nat) (e1 : Int) (m2 : Nat) (e2 : Int) : Nat × Nat × Int :=
  let e := min e1 e2
  (m1 * pow2 (e1 - e), m2 * pow2 (e2 - e), e)

def signedMan (neg : Bool) (m : Nat) : Int := if neg then -(m : Int) else m

/-- The exact sum; IV for ∞ − ∞ and a signalling NaN.  An exact zero sum of unlike signs is +0, or −0
under RD (R63: IEEE 754). -/
def FVal.add (rm : RMode) (a b : FVal) : FVal × Flags :=
  match a, b with
  | .nan s, .nan t => (.nan false, flagIf (s || t) Flags.IV)
  | .nan s, _ => (.nan false, flagIf s Flags.IV)
  | _, .nan t => (.nan false, flagIf t Flags.IV)
  | .inf n, .inf k => if n = k then (.inf n, 0) else (.nan false, Flags.IV)
  | .inf n, _ => (.inf n, 0)
  | _, .inf k => (.inf k, 0)
  | .fin n1 m1 e1, .fin n2 m2 e2 =>
      let (x, y, e) := align m1 e1 m2 e2
      let i := signedMan n1 x + signedMan n2 y
      if i = 0 then
        (.fin (if m1 = 0 ∧ m2 = 0 ∧ n1 = n2 then n1 else rm == .rd) 0 0, 0)
      else (.fin (i < 0) i.natAbs e, 0)

def FVal.neg : FVal → FVal
  | .nan s => .nan s
  | .inf n => .inf !n
  | .fin n m e => .fin (!n) m e

/-- The exact product; IV for 0 × ∞ and a signalling NaN. -/
def FVal.mul (a b : FVal) : FVal × Flags :=
  match a, b with
  | .nan s, .nan t => (.nan false, flagIf (s || t) Flags.IV)
  | .nan s, _ => (.nan false, flagIf s Flags.IV)
  | _, .nan t => (.nan false, flagIf t Flags.IV)
  | .inf n, .inf k => (.inf (n != k), 0)
  | .inf n, .fin k m _ => if m = 0 then (.nan false, Flags.IV) else (.inf (n != k), 0)
  | .fin n m _, .inf k => if m = 0 then (.nan false, Flags.IV) else (.inf (n != k), 0)
  | .fin n1 m1 e1, .fin n2 m2 e2 => (.fin (n1 != n2) (m1 * m2) (e1 + e2), 0)

/-- The exact sum of several terms (R81): a NaN or infinities of opposite sign give a NaN. -/
def FVal.sum (rm : RMode) (l : List FVal) : FVal × Flags :=
  match l with
  | [] => (.fin false 0 0, 0)
  | v :: r => r.foldl (fun acc x => let s := FVal.add rm acc.1 x; (s.1, acc.2 ||| s.2)) (v, 0)

/-- Multiplication by 2^k. -/
def FVal.scale (v : FVal) (k : Int) : FVal :=
  match v with
  | .fin n m e => .fin n m (e + k)
  | v => v

def FVal.isNan : FVal → Bool
  | .nan _ => true
  | _ => false

def FVal.isSignalling : FVal → Bool
  | .nan s => s
  | _ => false

def FVal.isZero : FVal → Bool
  | .fin _ 0 _ => true
  | _ => false

def FVal.isNeg : FVal → Bool
  | .nan _ => false
  | .inf n => n
  | .fin n _ _ => n

/-- a < b of two values that are no NaN. -/
def FVal.lt (a b : FVal) : Bool :=
  match a, b with
  | .nan _, _ | _, .nan _ => false
  | .inf n, .inf k => n && !k
  | .inf n, .fin .. => n
  | .fin .., .inf k => !k
  | .fin n1 m1 e1, .fin n2 m2 e2 =>
      let (x, y, _) := align m1 e1 m2 e2
      decide (signedMan n1 x < signedMan n2 y)

def FVal.eq (a b : FVal) : Bool := !a.isNan && !b.isNan && !a.lt b && !b.lt a

/-- R80: the result of the matrix unit's accumulator: RNE, no saturation, and a nonzero magnitude below
the smallest normal becomes zero of its sign with UF. -/
def roundAcc (v : FVal) : Nat × Flags :=
  let r := Fmt.round .fp32 .rne false v
  let mag := r.1 % 2 ^ 31
  if mag ≠ 0 ∧ mag < 2 ^ 23 then (Fmt.signed .fp32 (r.1.testBit 31) 0, r.2 ||| Flags.UF)
  else r

/-! ### E8M0 (R67, R69, R70) -/

/-- The exponent of a scale code; none for the NaN code. -/
def scaleExp (code : Nat) : Option Int := if code = 0xFF then none else some ((code : Int) - 127)

/-- R70. -/
def toE8M0 (v : FVal) : Nat × Flags :=
  match v with
  | .nan _ | .inf _ => (0xFF, Flags.IV)
  | .fin _ m e =>
      if m = 0 then (0, Flags.NX)
      else
        let l := (Nat.log2 m : Int) + e
        let c := l + 127
        let d := if c < 0 then 0 else if 0xFE < c then 0xFE else c.toNat
        let exact := decide (m = 2 ^ Nat.log2 m) && (0 ≤ c && c ≤ 0xFE)
        (d, flagIf (!exact) Flags.NX ||| flagIf (0xFE < c) Flags.OF ||| flagIf (c < 0) Flags.UF)

end Sys2Proof.Machine
end

