-- ==== Sys2Proof/Machine/Functions.lean ====
section
/-! DEFINITION. The special functions of R134, correctly rounded.  Reciprocals and roots come from
integer division and integer square roots with a sticky bit; powers, logarithms, sines and cosines from
integer intervals of rising precision that end when both ends round alike (the results are irrational
but for the cases treated apart). -/

namespace Sys2Proof.Machine

/-- The integer square root, bit by bit from bit `k` down. -/
def isqrtFrom (n : Nat) (k r : Nat) : Nat :=
  match k with
  | 0 => if (r + 1) * (r + 1) ≤ n then r + 1 else r
  | j + 1 => isqrtFrom n j (if (r + 2 ^ (j + 1)) * (r + 2 ^ (j + 1)) ≤ n then r + 2 ^ (j + 1) else r)

def isqrt (n : Nat) : Nat := isqrtFrom n (Nat.log2 n / 2 + 1) 0

/-- A quotient or root `q` with a sticky bit below it, at exponent `e`. -/
def sticky (neg : Bool) (q : Nat) (inexact : Bool) (e : Int) : FVal :=
  .fin neg (2 * q + (if inexact then 1 else 0)) (e - 1)

/-- 1/a for a finite nonzero a. -/
def recipFin (neg : Bool) (m : Nat) (e : Int) : FVal :=
  let k := Nat.log2 m + 40
  sticky neg (2 ^ k / m) (2 ^ k % m ≠ 0) (-(k : Int) - e)

/-- √a and 1/√a for a finite positive a. -/
def sqrtFin (m : Nat) (e : Int) : FVal :=
  let m' := if e % 2 = 0 then m else 2 * m
  let e' := if e % 2 = 0 then e else e - 1
  let n := m' * 2 ^ 80
  let q := isqrt n
  sticky false q (q * q ≠ n) (e' / 2 - 40)

def rsqrtFin (m : Nat) (e : Int) : FVal :=
  let m' := if e % 2 = 0 then m else 2 * m
  let e' := if e % 2 = 0 then e else e - 1
  let k := Nat.log2 m' + 40
  let q := isqrt (2 ^ (2 * k) / m')
  sticky false q (q * q * m' ≠ 2 ^ (2 * k)) (-(k : Int) - e' / 2)

/-- An interval [lo, hi] of numbers scaled by 2^p. -/
structure Interval where
  lo : Nat
  hi : Nat
  deriving DecidableEq, Repr

def Interval.mul (p : Nat) (a b : Interval) : Interval :=
  ⟨a.lo * b.lo / 2 ^ p, a.hi * b.hi / 2 ^ p + 1⟩

def Interval.sqrt (p : Nat) (a : Interval) : Interval :=
  ⟨isqrt (a.lo * 2 ^ p), isqrt (a.hi * 2 ^ p) + 1⟩

/-- Π of 2^(2^−i) over the set bits of f / 2^k, for i = 1 upward (bit k − i of f). -/
def exp2Frac (p f : Nat) (n : Nat) (c acc : Interval) : Interval :=
  match n with
  | 0 => acc
  | j + 1 =>
      let c := c.sqrt p
      exp2Frac p f j c (if f.testBit j then acc.mul p c else acc)

/-- 2^(f / 2^k) for 0 ≤ f < 2^k. -/
def exp2Unit (p f k : Nat) : Interval := exp2Frac p f k ⟨2 ^ (p + 1), 2 ^ (p + 1)⟩ ⟨2 ^ p, 2 ^ p⟩

/-- Binary digits of log2 of a number in [1, 2], by squaring: (digits so far, how many). -/
def log2Digits (p : Nat) (n : Nat) (y : Interval) (d got : Nat) : Nat × Nat :=
  match n with
  | 0 => (d, got)
  | j + 1 =>
      let y := y.mul p y
      let two := 2 ^ (p + 1)
      if two ≤ y.lo then log2Digits p j ⟨y.lo / 2, y.hi / 2 + 1⟩ (2 * d + 1) (got + 1)
      else if y.hi < two then log2Digits p j y (2 * d) (got + 1)
      else (d, got)

/-- cos and sin of an angle in [0, π/2]. -/
structure Angle where
  c : Interval
  s : Interval
  deriving DecidableEq, Repr

/-- The half angle: c' = √((1 + c)/2), s' = s / 2c'. -/
def Angle.half (p : Nat) (a : Angle) : Angle :=
  let c : Interval := Interval.sqrt p ⟨(2 ^ p + a.c.lo) / 2, (2 ^ p + a.c.hi) / 2 + 1⟩
  ⟨c, ⟨a.s.lo * 2 ^ p / (2 * c.hi), a.s.hi * 2 ^ p / (2 * c.lo) + 1⟩⟩

def Angle.add (p : Nat) (a b : Angle) : Angle :=
  ⟨⟨(a.c.lo * b.c.lo - a.s.hi * b.s.hi) / 2 ^ p - 1, (a.c.hi * b.c.hi - a.s.lo * b.s.lo) / 2 ^ p + 1⟩,
   ⟨(a.s.lo * b.c.lo + a.c.lo * b.s.lo) / 2 ^ p, (a.s.hi * b.c.hi + a.c.hi * b.s.hi) / 2 ^ p + 1⟩⟩

/-- The angle π f / 2^k from the set bits of f, starting at π/2 for bit k − 1. -/
def angleFrom (p f : Nat) (n : Nat) (unit acc : Angle) : Angle :=
  match n with
  | 0 => acc
  | j + 1 => angleFrom p f j (unit.half p) (if f.testBit j then acc.add p unit else acc)

/-- π f / 2^k for 0 ≤ f / 2^k ≤ 1/4. -/
def angleOf (p f k : Nat) : Angle :=
  angleFrom p f k ⟨⟨0, 0⟩, ⟨2 ^ p, 2 ^ p⟩⟩ ⟨⟨2 ^ p, 2 ^ p⟩, ⟨0, 0⟩⟩

/-- The first precision at which both ends of an interval round alike decides; the result is inexact. -/
def roundFirst (rm : RMode) (sat neg : Bool) (at_ : Nat → Interval × Int) (ps : List Nat) : Nat × Flags :=
  match ps with
  | [] => (Fmt.nanCode .fp32, 0)
  | p :: r =>
      let (i, e) := at_ p
      let a := Fmt.roundFin .fp32 rm sat neg i.lo e
      let b := Fmt.roundFin .fp32 rm sat neg i.hi e
      if i.lo ≠ 0 ∧ a.1 = b.1 ∧ (a.2 ||| Flags.NX) = (b.2 ||| Flags.NX) then (a.1, a.2 ||| Flags.NX)
      else roundFirst rm sat neg at_ r

/-- The precisions tried. -/
def precisions : List Nat := [100, 200, 400, 800]

def nan32 (iv : Bool) : Nat × Flags := (0x7FC00000, flagIf iv Flags.IV)
def inf32 (neg : Bool) : Nat := if neg then 0xFF800000 else 0x7F800000
def zero32 (neg : Bool) : Nat := if neg then 0x80000000 else 0
def one32 (neg : Bool) : Nat := if neg then 0xBF800000 else 0x3F800000

/-- R134: VRCP. -/
def vrcpF (rm : RMode) (sat : Bool) (a : FVal) : Nat × Flags :=
  match a with
  | .nan s => nan32 s
  | .inf n => (zero32 n, 0)
  | .fin n m e => if m = 0 then (inf32 n, Flags.DZ) else Fmt.round .fp32 rm sat (recipFin n m e)

/-- R134: VRSQ. -/
def vrsqF (rm : RMode) (sat : Bool) (a : FVal) : Nat × Flags :=
  match a with
  | .nan s => nan32 s
  | .inf n => if n then nan32 true else (zero32 false, 0)
  | .fin n m e =>
      if m = 0 then (inf32 n, Flags.DZ)
      else if n then nan32 true
      else Fmt.round .fp32 rm sat (rsqrtFin m e)

/-- R134: VSQT. -/
def vsqtF (rm : RMode) (sat : Bool) (a : FVal) : Nat × Flags :=
  match a with
  | .nan s => nan32 s
  | .inf n => if n then nan32 true else (inf32 false, 0)
  | .fin n m e =>
      if m = 0 then (zero32 n, 0)
      else if n then nan32 true
      else Fmt.round .fp32 rm sat (sqrtFin m e)

/-- R134: VEX2.  Beyond the range of FP32 any exponent past it rounds alike. -/
def vex2F (rm : RMode) (sat : Bool) (a : FVal) : Nat × Flags :=
  match a with
  | .nan s => nan32 s
  | .inf n => (if n then zero32 false else inf32 false, 0)
  | .fin n m e =>
      let k := (-e).toNat
      let x : Int := signedMan n (m * pow2 e)
      let whole : Int := x / 2 ^ k
      let f := (x % 2 ^ k).toNat
      if 200 < whole then Fmt.roundFin .fp32 rm sat false 1 200
      else if whole < -200 then Fmt.roundFin .fp32 rm sat false 1 (-300)
      else if f = 0 then Fmt.roundFin .fp32 rm sat false 1 whole
      else roundFirst rm sat false (fun p => (exp2Unit p f k, whole - p)) precisions

/-- R134: VLG2. -/
def vlg2F (rm : RMode) (sat : Bool) (a : FVal) : Nat × Flags :=
  match a with
  | .nan s => nan32 s
  | .inf n => if n then nan32 true else (inf32 false, 0)
  | .fin n m e =>
      if m = 0 then (inf32 true, 0)
      else if n then nan32 true
      else
        let l := Nat.log2 m
        let whole : Int := l + e
        if m = 2 ^ l then
          if whole = 0 then (zero32 false, 0)
          else Fmt.roundFin .fp32 rm sat (whole < 0) whole.natAbs 0
        else
          roundFirst rm sat (whole < 0) (fun p =>
            let y := m * 2 ^ p / 2 ^ l
            let d := log2Digits p (p / 2) ⟨y, y + (if m * 2 ^ p % 2 ^ l = 0 then 0 else 1)⟩ 0 0
            -- log2 a lies in [whole + d.1 / 2^got, whole + (d.1 + 1) / 2^got]
            let lo : Int := whole * 2 ^ d.2 + d.1
            let hi : Int := lo + 1
            (if whole < 0 then ⟨hi.natAbs, lo.natAbs⟩ else ⟨lo.natAbs, hi.natAbs⟩, -(d.2 : Int)))
            precisions

/-- sin(π f / 2^k) for 0 < f / 2^k ≤ 1/2, where the sine is not rational: f / 2^k ≠ 1/2. -/
def sinPiFrac (rm : RMode) (sat neg : Bool) (f k : Nat) : Nat × Flags :=
  -- beyond a quarter turn's half the cosine of the rest of it is the sine
  if 4 * f ≤ 2 ^ k then roundFirst rm sat neg (fun p => ((angleOf p f k).s, -(p : Int))) precisions
  else roundFirst rm sat neg (fun p => ((angleOf p (2 ^ (k - 1) - f) k).c, -(p : Int))) precisions

/-- sin(π x / 2^k) for a whole number x of 2^k-ths of a half-turn; `zeroNeg` is the sign of a zero
result. -/
def sinPi (rm : RMode) (sat : Bool) (x : Int) (k : Nat) (zeroNeg : Bool) : Nat × Flags :=
  let y := (x % (2 * 2 ^ k)).toNat
  let neg := decide (2 ^ k ≤ y)
  let z := y % 2 ^ k
  let f := if 2 * z ≤ 2 ^ k then z else 2 ^ k - z
  if f = 0 then (zero32 zeroNeg, 0)
  else if 2 * f = 2 ^ k then (one32 neg, 0)
  else sinPiFrac rm sat neg f k

/-- R134: VSIN. -/
def vsinF (rm : RMode) (sat : Bool) (a : FVal) : Nat × Flags :=
  match a with
  | .nan s => nan32 s
  | .inf _ => nan32 true
  | .fin n m e => sinPi rm sat (signedMan n (m * pow2 e)) (-e).toNat n

/-- R134: VCOS: cos(π a) = sin(π (a + 1/2)). -/
def vcosF (rm : RMode) (sat : Bool) (a : FVal) : Nat × Flags :=
  match a with
  | .nan s => nan32 s
  | .inf _ => nan32 true
  | .fin n m e =>
      let k := (-e).toNat
      sinPi rm sat (2 * signedMan n (m * pow2 e) + 2 ^ k) (k + 1) false

end Sys2Proof.Machine
end

