-- ==== Sys2Proof/Config.lean ====
section
/-! DEFINITION. What the package fixes (00, R168, R291) and the values the manual leaves open.  An open
value is an opaque function with no body of the counter `State.fresh`, which every use advances, so
nothing can be proved about which value comes (log 2).  The secure element's functions are opaque
functions of their operands (log 2). -/

namespace Sys2Proof.Config

/-- R1, R168: compute dies, clusters, cores and partitions of the package. -/
def dies : Nat := 8
def clusters : Nat := 64
def cores : Nat := 256
def partitions : Nat := 1536

/-- R30: threads of a full pool part. -/
def partThreads : Nat := 1024

/-- R3, R241: the lines of a cluster cache of 12 MiB. -/
def clusterLines : Nat := 196608

/-- R173: store units of a partition, and the journal and undo log of a core in bytes. -/
def unitsPerPartition : Nat := 96
def journalBytes : Nat := 65536

/-- R357: ticks of the model's clock in a microsecond, a whole number of which are one arithmetic clock at every
rate from 600 to 1,500 MHz in steps of 25 MHz, and one dispatch at 64 million a second (R312). -/
def ticksPerMicro : Nat := (List.range 37).foldl (fun n i => Nat.lcm n (600 + 25 * i)) 64

/-- R3, R294: the set of a slice, one of 4,096, in which a line stands, which the manual does not give. -/
opaque llcSet : Nat → BitVec 12

/-- R296: region entries of the directory. -/
def directoryEntries : Nat := 1048576

/-- R291: the bytes of HBM, and the ranges of CXL memory and of register space. -/
def hbmEnd : Nat := 0x006000000000
def cxlStart : Nat := 0x008000000000
def cxlEnd : Nat := 0x100000000000
def regsEnd : Nat := 0x100100000000

/-- R353, R355: constants fused into the package. -/
opaque serial : BitVec 64
opaque fusedVersion : BitVec 32

/-- Free choices between two things the manual allows (11 R243, 12 R253, 09 R207). -/
opaque freeBool : Nat → Bool
/-- Bytes the manual calls undefined, unspecified or the device's own. -/
opaque freeByte : Nat → BitVec 8
/-- Words the manual leaves open. -/
opaque freeWord : Nat → BitVec 32
opaque freeDWord : Nat → BitVec 64

/-- R307: what HBM holds after a reset: the bytes that are not 0, among them addresses of no HBM, which count for
nothing. -/
opaque hbmAfterReset : Nat → List (Nat × BitVec 8)

/-- R356: what a byte reads back as under another key than the one it was written under, by the counter of free values
and its address. -/
opaque foreignByte : Nat → Nat → BitVec 8

/-- R141 selector 10: by how much a partition's own clock count differs from the package's. -/
opaque clockSkew : Nat → BitVec 64

/-- R353 to R355: SHA3-384 of 96 bytes (an extension of a measurement register), and the two
signatures over the first 0x1C8 bytes of a report. -/
opaque extend : BitVec 384 → BitVec 384 → BitVec 384
opaque signEd25519 : List (BitVec 8) → Nat → BitVec 8
opaque signMldsa : List (BitVec 8) → Nat → BitVec 8

end Sys2Proof.Config
end

