-- ==== Sys2Proof/Machine/State.lean ====
section
/-! DEFINITION. The whole state of the package as plain data: every control program, pool, core, cluster
and the carillon.  Sparse tables are lists of key and value pairs with strictly rising keys (`KMap`);
Machine/Map.lean holds the operations on them. -/

namespace Sys2Proof.Machine

/-- A sparse table: keys strictly rising, no key twice. -/
abbrev KMap (α : Type) := List (Nat × α)

/-- R35: one level of the responder stack, for all parts of the pool. -/
structure Level where
  mask : Mask
  mode : Word
  fmt : Word
  deriving DecidableEq, Repr

/-- R15: the clause a CP executes; word addresses of its header and of the word after it, and the
flags its operations bind to (15: none). -/
structure Clause where
  header : DWord
  stop : DWord
  fa : Nat
  fb : Nat
  deriving DecidableEq, Repr

/-- R191: the fields of a trap record. -/
structure TrapRecord where
  pc : DWord
  cause : Byte
  cpx : Nat
  detail : Word
  addr : DWord
  tcount : Nat
  tfirst : Word
  deriving DecidableEq, Repr

/-- R264: a defined gather handle, the four registers of its descriptor. -/
structure Handle where
  q0 : DWord
  q1 : DWord
  q2 : DWord
  q3 : DWord
  deriving DecidableEq, Repr

/-- R209, R270: an engine fault recorded against a CP; `cls` is the engine class (R102). -/
structure EngineFault where
  cls : Nat
  detail : Word
  addr : DWord
  deriving DecidableEq, Repr

/-- R255, R332: what a parked access waits for, or a fetch (R300). -/
inductive Park where
  | page (asid vpage : Nat)
  | tile (recipe : Nat)
  /-- A line of CXL memory that its slice holds (R300). -/
  | line (line : Nat)
  deriving DecidableEq, Repr

/-- What a CP stands at.  `no`: it can issue.  `stall`: a wait that is no blocking point; neither is `parkedFetch`, a
fetch of code from a dropped tile.  The others are the blocking points of R183. -/
inductive Stand where
  | no
  | stall
  | watch (addr : Nat) (val : DWord) (ord scope words : Nat)
  | parkedWatch (park : Park)
  | parkedIssue (park : Park)
  | parkedFetch (park : Park)
  | yielded (pc : DWord)
  | gong (off : Nat) (phase : Bool) (words : Nat)
  | counter (cls limit : Nat)
  | load (op : Nat) (pc : DWord) (clause : Option Clause)
  | sysc (op : Nat) (pc : DWord)
  deriving DecidableEq, Repr

/-- What happens when the commit a CP waits for is complete. -/
inductive After where
  | go
  | acquire
  | endCp
  deriving DecidableEq, Repr

/-- R33, R34, R56, R327: idle (not started), running, stopped at a trap, stopped by CPSTOP and taking the
steps of END, ended. -/
inductive CpStatus where
  | idle | running | trapped | stopping | ended
  deriving DecidableEq, Repr

/-- R33: a control program.  The flags f0 to f11 are computed from the outstanding operations of the
pool (R16). -/
structure Cp where
  status : CpStatus
  pc : DWord
  clause : Option Clause
  s : KMap DWord
  m : KMap Mask
  stack : List Level
  cpy : Nat
  gth : Nat
  mrg : Nat
  mtx : Nat
  fstat : BitVec 16
  cki : Word
  tmask : Mask
  holdLeft : Nat
  holdSince : Nat
  /-- The arbiter has granted the hold: a held broadcast has taken its point (R48). -/
  begun : Bool
  nopre : Option Nat
  handles : KMap Handle
  faults : List EngineFault
  stand : Stand
  trap : Option TrapRecord
  wait : Option (Nat × After)
  fencedRel : Bool
  /-- The clock from which it may issue again (R169), and since when its next instruction has been a ready
  candidate for its slot (R170). -/
  next : Nat
  ready : Option Nat
  /-- The grants to others that its ready instruction has seen, each a broadcast, a hold or a completion point (R171):
  the pool and CP granted, and the clock at which the grant was made or the hold opened. -/
  passed : List (Nat × Nat × Nat)
  /-- Bits 1:0 of the address it was started at (R106). -/
  skew : Nat
  deriving DecidableEq, Repr

/-- One thread's share of an outstanding operation: its virtual address, the physical address its checks
gave, and its captured operands.  For a load `y` is the value once `x` is not 0. -/
structure Lane where
  tid : Nat
  addr : Nat
  pa : Nat
  y : DWord
  x : DWord
  deriving DecidableEq, Repr

/-- What an outstanding long-latency operation does (R16). -/
inductive OpKind where
  /-- Results known at issue: scratchpad loads and atomics, window loads, permutes. -/
  | known
  /-- VLD. -/
  | load
  /-- SLD from global memory. -/
  | sload
  /-- SLD from the scratchpad; the value is in the lane's `y`. -/
  | sknown
  /-- Global VATOM, applied by a commit record. -/
  | vatom
  /-- SYSC. -/
  | sysc
  /-- VST and SST to global memory. -/
  | store
  /-- Global VRED. -/
  | red
  /-- VSTS, SST to the scratchpad. -/
  | spad
  /-- FLUSH, done with the named record (none: at once). -/
  | flush (rec : Nat)
  /-- INV. -/
  | inv (len : Nat)
  /-- GTHR that has parked: mask register, descriptor, index register (R183, R265); none once its indices have been
  saved, which the lanes hold as addresses (R179, R185). -/
  | gather (md : Nat) (h : Handle) (a : Option Nat)
  deriving DecidableEq, Repr

/-- An outstanding result or performed operation. -/
structure Op where
  id : Nat
  cp : Nat
  kind : OpKind
  /-- The clause flag it is bound to, 15 for none. -/
  flag : Nat
  /-- The destination register. -/
  dest : Nat
  /-- 64-bit elements. -/
  wide : Bool
  /-- An SST: it has no thread, and goes through the core of its CP. -/
  scalar : Bool
  lanes : List Lane
  /-- Non-responders that receive 0 (R19). -/
  zero : Mask
  /-- Atomic operation and element type codes (R100, R94), rounding code and SAT bit. -/
  aop : Nat
  ty : Nat
  rm : Nat
  sat : Bool
  ord : Nat
  scope : Nat
  /-- The argument registers of each responder of a SYSC (R162). -/
  args : List (List Word)
  /-- The values read or returned, one per lane, once they are known. -/
  got : Option (List DWord)
  /-- FSTAT flags the operation raises at completion. -/
  flags : BitVec 16
  poisoned : Bool
  park : Option Park
  /-- The bytes of the scratchpad a store replaced (R207 lets engines still read them). -/
  old : KMap Byte
  /-- The timestamp of an `.sc` access (R287). -/
  stamp : Option Nat
  /-- The records under way whose bytes it has read (R277). -/
  seen : List Nat
  deriving DecidableEq, Repr

/-- R204, R205: a copy command. -/
structure CopyCmd where
  variant : Nat
  spad : Nat
  addr : Nat
  rowBytes : Nat
  rows : Nat
  gpitch : Nat
  gong : Option Nat
  deriving DecidableEq, Repr

/-- R265: a gather command; rows in rank order as (tid, index). -/
structure GatherCmd where
  md : Nat
  h : Handle
  rows : List (Nat × Nat)
  deriving DecidableEq, Repr

/-- R267: a merge command. -/
structure MergeCmd where
  block : Nat
  first : Nat
  rows : Nat
  set : Bool
  keepz : Bool
  comb : Nat
  vt : Nat
  olimit : Nat
  ostart : Nat
  deriving DecidableEq, Repr

/-- The five matrix commands. -/
inductive MatrixOp where
  | mma | mmaq | mmas | mzero | mdrn
  deriving DecidableEq, Repr

/-- R216 to R228: a matrix command with the registers and scratchpad bytes it read at issue. -/
structure MatrixCmd where
  op : MatrixOp
  acc : Nat
  words : List Nat
  fmt : Word
  d : Nat
  a : Nat
  b : Nat
  x0 : Word
  x1 : Word
  x2 : Word
  regs : KMap Word
  spad : KMap Byte
  deriving DecidableEq, Repr

inductive CmdKind where
  | copy (c : CopyCmd)
  | gather (c : GatherCmd)
  | merge (c : MergeCmd)
  | matrix (c : MatrixCmd)
  deriving DecidableEq, Repr

/-- The data movement of a copy, gather or merge, decided: the scratchpad bytes still to be written by
offset, the global writes still to be entered in the journal in order, whether a source granule was
poisoned, the rows of a gather, the flags it raises, and the fault that stops it (detail, address).
A merge that parks has decided only its complete rows (R270): `next` is the row and the output element it
goes on from, `block` its merge block as it was read, `park` what it waits for.  Its writes enter the journal at its
completion (R286). -/
structure Plan where
  bytes : KMap Byte := []
  writes : List (Nat × List Byte) := []
  /-- What a merge had raised, and whether it had read poison, at each of its writes (R270). -/
  marks : List (BitVec 16 × Bool) := []
  poison : Bool := false
  rows : Nat := 0
  flags : BitVec 16 := 0
  fault : Option (Nat × Nat) := none
  next : Option (Nat × Nat) := none
  block : List Byte := []
  park : Option Park := none
  deriving DecidableEq, Repr

/-- R182: an outstanding engine command. -/
structure Cmd where
  id : Nat
  cp : Nat
  kind : CmdKind
  rm : Nat
  sat : Bool
  park : Option Park
  /-- A copy's source bytes as they stood at issue: a byte that changes before the copy completes is read
  as it was or as it is (R207). -/
  snap : List (Option Byte)
  /-- Decided before its completion, when the pool has met a byte it writes (R207) or a forced commit
  divides its writes (R178). -/
  plan : Option Plan
  deriving DecidableEq, Repr

/-- R215: the kind of an accumulator tile. -/
inductive TileKind where
  | empty | fp | residue
  deriving DecidableEq, Repr

/-- R215, R233: one accumulator tile.  ELEM(i, j) has key 32i + j. -/
structure Tile where
  kind : TileKind
  count : Nat
  elem : KMap Word
  rsc : KMap Byte
  csc : KMap Byte
  capt : Bool
  owner : Option Nat
  poison : Bool
  corrp : Nat
  deriving DecidableEq, Repr

/-- R315: the fields of a task record. -/
structure TaskRec where
  entry : DWord
  arg : DWord
  coord : DWord
  succb : DWord
  shape : DWord
  aff : DWord
  rlink : DWord
  deriving DecidableEq, Repr

/-- A task from its dispatch on: its record, the queue it is credited to (R321), the READ value of its
ring record, the items of a packed pool (R52), the recipe of a slice (R333). -/
structure Task where
  record : TaskRec
  asid : Nat
  queue : Option Nat
  ring : Option Nat
  items : List (Word × Word × Word)
  packed : Bool
  recipe : Option Nat
  /-- The pools whose SPAWNs gave the items (R301). -/
  spawners : List Nat
  status : Byte
  signalled : Bool
  nonReplay : Bool
  /-- What its start, and a place it has left, have observed of SC clocks (R287). -/
  clock : Nat := 0
  deriving DecidableEq, Repr

/-- R179: what a local checkpoint records apart from the bytes the undo log holds. -/
structure Ckpt where
  cps : KMap Cp
  ops : List Op
  /-- The outstanding commands, each with what was decided of it. -/
  cmds : KMap (Option Plan)
  signalled : Bool
  started : Nat
  deriving DecidableEq, Repr

/-- R299: the checkpoint image of a DURABLE pool. -/
structure Image where
  cps : KMap Cp
  regs : KMap Word
  spad : KMap Byte
  tiles : KMap Tile
  ops : List Op
  cmds : List Cmd
  signalled : Bool
  started : Nat
  deriving DecidableEq, Repr

/-- A pool.  Thread register vn of thread t has key 256t + n; the tile of accumulator k in pool word w
has key 2w + k. -/
structure Pool where
  task : Task
  threads : Nat
  allot : Nat
  spadSize : Nat
  cpsMax : Nat
  group : Nat
  durable : Bool
  rslice : Bool
  parts : List Nat
  spadUnits : List (Nat × Nat)
  contexts : List (Nat × Nat)
  cps : KMap Cp
  /-- The highest CP index started (R326). -/
  started : Nat
  regs : KMap Word
  spad : KMap Byte
  tiles : KMap Tile
  ops : List Op
  cmds : List Cmd
  ckpt : Ckpt
  image : Option Image
  undoRegs : KMap Word
  undoSpad : KMap Byte
  undoTiles : KMap Tile
  /-- Since when the undo log holds anything of it, and the records of forced commits that its undo entries wait for
  (R180). -/
  undoSince : Option Nat
  undoWait : List Nat
  /-- Rollbacks since the last commit point (R189). -/
  rollbacks : Nat
  /-- R181: pools whose journal data this pool has read. -/
  deps : List Nat
  /-- Records under way whose bytes its CPs have read (R276, R279, R281). -/
  seen : List Nat
  /-- The arbiter's last granted CP (R48). -/
  granted : Nat
  /-- Since when every CP of it stands at a blocking point with an unmet wake condition (R314). -/
  blockedSince : Option Nat
  /-- How many writes `State.overwritten` listed when it was placed (R107). -/
  placed : Nat
  deriving DecidableEq, Repr

/-- Why a pool waits for placement. -/
inductive WhyOut where
  | preempted | lost | restarted
  deriving DecidableEq, Repr

/-- R185, R303: a pool that waits to be placed again, and since when its wake condition has been seen to be
met (R312). -/
structure OutPool where
  id : Nat
  pool : Pool
  why : WhyOut
  since : Option Nat
  deriving DecidableEq, Repr

/-- What a journal entry does when it is applied (R178, R261, R323, R330). -/
inductive EntryKind where
  | store (bytes : List Byte)
  | red (op ty rm : Nat) (sat : Bool) (y : DWord)
  | launch (bytes : List Byte)
  | define (bytes : List Byte) (sizes : List Word)
  /-- RLINK: the recipe record is read when the entry is applied (R330). -/
  | link
  deriving DecidableEq, Repr

/-- A journal entry: the virtual and physical address it writes, the core whose journal holds it and
the pool and CP it belongs to.  `release` marks a write that is a release at .cl or wider (R301);
`record` names the commit record that carries it, once one does. -/
structure Entry where
  pool : Nat
  cp : Nat
  core : Nat
  asid : Nat
  va : Nat
  pa : Nat
  kind : EntryKind
  release : Bool
  record : Option Nat
  /-- Written by a command issued before the last local checkpoint: a rollback does not discard it (R180). -/
  kept : Bool := false
  /-- Of a recipe slice: no other pool reads it (R289). -/
  slice : Bool := false
  /-- Of an SST. -/
  scalar : Bool := false
  deriving DecidableEq, Repr

/-- One responder's atomic in a commit record (R260, R297). -/
structure Atom where
  pool : Nat
  op : Nat
  asid : Nat
  va : Nat
  pa : Nat
  aop : Nat
  ty : Nat
  rm : Nat
  sat : Bool
  y : DWord
  x : DWord
  /-- The old value, the flags of the operation, and whether it read poison, once it is applied. -/
  result : Option (DWord × BitVec 16 × Bool)
  deriving DecidableEq, Repr

/-- A commit record (R297).  `pools` is empty for a record from outside every cluster. -/
structure Record where
  id : Nat
  pools : List Nat
  cluster : Option Nat
  /-- The cores of its pools, whose messages keep their order (R293). -/
  cores : List Nat
  /-- Whose key its writes carry (R356); none: the application die's own, by physical address. -/
  asid : Option Nat
  entries : List Entry
  atoms : List Atom
  images : List (Nat × Image)
  /-- Pools whose task, as it stood then, signals its successor block with this record (R320): `true` at its SUCC,
  with status 0, else at its completion. -/
  signals : List (Nat × Bool × Task)
  clock : Nat
  accepted : Bool
  /-- Acceptance order. -/
  seq : Nat
  /-- Slices that still have to apply it. -/
  left : List Nat
  /-- The timestamp of an `.sc` access the record carries, until it may be performed (R288). -/
  stamp : Option (Nat × Nat)
  /-- Writes homed in CXL memory or a port that await acknowledgement (R290). -/
  sys : Bool
  /-- It makes a RESTART pool non-replayable (R301). -/
  marks : Bool
  /-- FSTAT flags that its VREDs raise in a pool's CP once it is complete (R261). -/
  raised : List (Nat × Nat × BitVec 16)
  /-- Records that take effect and complete before it (R181, R281, R282, R349). -/
  after : List Nat := []
  /-- Lines whose new bytes a core of its cluster has read before they are applied (R276). -/
  shown : List Nat := []
  /-- A release at .sys: earlier device writes of its pools are waited for (R290). -/
  drain : Bool := false
  /-- Where a record from outside every cluster comes from: a port number, 16 for the application die. -/
  port : Option Nat := none
  /-- The recipe whose slice committed it: its writes are staged (R333). -/
  recipe : Option Nat := none
  /-- The lines of the slots that its launches have filled in rings in CXL memory (R290, R323). -/
  device : List Nat := []
  /-- The devices have acknowledged its writes (R290). -/
  acked : Bool := false
  deriving DecidableEq, Repr

/-- A line held by an L1 or a cluster cache (R173, R241): a copy of committed bytes, and the key slot and generation
under which it was read (R356). -/
structure CacheLine where
  bytes : List Byte
  poison : Bool
  key : Nat × Nat
  deriving DecidableEq, Repr

/-- R107: bytes that a committed write replaced: where, what stood there, and the key under which it read so; none
where the line had been written under no key. -/
structure Overwrite where
  pa : Nat
  old : List Byte
  key : Option (Nat × Nat)
  deriving DecidableEq, Repr

/-- R296: a directory region entry; bit c of each mask stands for cluster c. -/
structure Region where
  holders : BitVec 64
  written : BitVec 64
  deriving DecidableEq, Repr

/-- R253: an entry of a cluster's translation cache; `leaf` is the entry word, `bits` the page-size
exponent, `base` the virtual page base. -/
structure TlbEntry where
  cluster : Nat
  asid : Nat
  base : Nat
  bits : Nat
  leaf : DWord
  deriving DecidableEq, Repr

/-- R346 0x01: what an ASID is bound to. -/
structure AsidBinding where
  l4 : Nat
  table : Nat
  count : Nat
  key : Nat
  deriving DecidableEq, Repr

/-- R310, R311: a hardware slot held by a mapped queue. -/
structure Slot where
  eff : Nat
  /-- Dispatched in this toll interval, in this quantum; non-empty, empty for the whole toll interval so
  far; the clock at which the queue was mapped. -/
  tollDispatched : Bool
  quantumDispatched : Bool
  nonEmpty : Bool
  empty : Bool
  held : Nat
  deriving DecidableEq, Repr

/-- A bound user queue (R308 to R314).  Its header words stand in memory. -/
structure Queue where
  asid : Nat
  header : Nat
  caplog : Nat
  base : Nat
  slot : Option Slot
  broken : Bool
  /-- Packed pools and successors that stand ahead of the ring (R312). -/
  heads : List Task
  /-- The ring is not empty; the clock from which the queue's head has waited in its slot. -/
  ring : Bool
  headSince : Nat
  /-- Since when the queue is not empty (R311). -/
  filled : Nat
  /-- Dispatched tasks of the queue that have not completed, and the number dispatched before the
  present head became head (R310). -/
  running : List Nat
  before : List Nat
  grant : Nat
  unbinding : Bool
  deriving DecidableEq, Repr

/-- R52: a pending pool of a core's packing unit. -/
structure Pending where
  core : Nat
  asid : Nat
  entry : Nat
  queue : Option Nat
  spawners : List Nat
  items : List (Word × Word × Word)
  since : Nat
  deriving DecidableEq, Repr

/-- R329: the state of a live recipe. -/
inductive RState where
  | resident | dropped | regenerating | anchored | failed
  deriving DecidableEq, Repr

/-- R328 to R334: a live recipe. -/
structure Recipe where
  id : Nat
  tenant : Nat
  asid : Nat
  record : Nat
  tbase : Nat
  tsize : Nat
  entry : DWord
  args : DWord
  /-- Source ranges while the recipe holds them, and the source sizes of its definition. -/
  sources : List (Nat × Nat)
  sizes : List Word
  /-- The recipes whose tiles the sources overlap (R330 step 4). -/
  tiles : List Nat
  state : RState
  err : Nat
  digest : DWord
  gen : Nat
  depth : Nat
  /-- Held until this clock for parked requesters (R332). -/
  holdUntil : Option Nat
  /-- Recipes whose regeneration holds this tile. -/
  holders : List Nat
  /-- The number of the waiting chain it belongs to, in the order in which chains begin, and when it was requested. -/
  chain : Nat
  requested : Nat
  /-- When that chain began (R247). -/
  began : Nat
  /-- The recipe whose request began the chain (R332). -/
  root : Nat
  /-- Admitted, with the shape word read then (R333). -/
  admitted : Bool
  shape : DWord
  slice : Option Nat
  /-- The slice pool has ended, and its tile is to be checked. -/
  ended : Bool
  staging : KMap Byte
  mismatches : Nat
  lastCluster : Option Nat
  /-- Its slice pool was lost and has not been started again (R305). -/
  lost : Bool
  silent : Nat
  deriving DecidableEq, Repr

/-- R288: an `.sc` access held at its home slice. -/
structure Held where
  pool : Nat
  op : Nat
  core : Nat
  stamp : Nat
  deriving DecidableEq, Repr

/-- R320: a successor signal on its way to its block; `pool` is the number of the task's pool, whose
records must be applied first (R336); a task that is never placed has a number of its own. -/
structure Signal where
  task : Task
  pool : Nat
  status : Byte
  /-- A page it waits for. -/
  park : Option Nat
  deriving DecidableEq, Repr

/-- R321: a finished task whose queue update is due. -/
structure Completion where
  task : Task
  pool : Nat
  deriving DecidableEq, Repr

/-- R249: the in-field test of a cluster. -/
structure FieldTest where
  nextDue : Nat
  due : Option Nat
  /-- Every CP on the cluster has stood at a blocking point within the 250 ms. -/
  ready : Bool
  /-- A pool has been pre-empted for it: it will run (R249 step 3). -/
  cleared : Bool := false
  running : Bool
  /-- When it began to run. -/
  began : Nat
  overdue : Bool
  deriving DecidableEq, Repr

/-- R351: a request of a PEERPUT or a PEERGET to a peer, and the SYSC it belongs to. -/
structure PeerReq where
  op : Nat
  write : Bool
  va : Nat
  len : Nat
  data : List Byte
  deriving DecidableEq, Repr

/-- R350: what a data flit carries: a request, or the response to a read of the peer, its bytes or (none) an error. -/
inductive PeerMsg where
  | request (r : PeerReq)
  | response (data : Option (List Byte))
  deriving DecidableEq, Repr

/-- R350: the state of a peer link. -/
structure Link where
  /-- Requests and responses that wait for credits, the SEQ of the next data flit sent, and the last 512 sent. -/
  queue : List PeerMsg
  next : Nat
  store : List PeerFlit
  expect : Nat
  acked : Nat
  credits : Word
  replays : Nat
  fenced : Bool
  asid : Option Nat
  deriving DecidableEq, Repr

/-- R353: the phases of the package. -/
inductive Phase where
  | off | running | recovery
  deriving DecidableEq, Repr

/-- What the error logs hold (08 R188, 11 R238, R245, R249, 16 R295, 17 R320, R330, R334, 20 R349). -/
inductive LogEvent where
  | rollback (pool : Nat)
  | coreFenced (core : Nat)
  | sequencerReset (cluster : Nat)
  | cacheError (cluster : Nat)
  | poisoned (line : Nat)
  | testSkipped (cluster : Nat) (at_ : List (Nat × Nat))
  | signalLost (block : Nat)
  | signalEmpty (block : Nat)
  | recipeWriteBack (record : Nat)
  | rlinkLost (record : Nat)
  | silentError (recipe : Nat)
  | deviceRefused (port rid : Nat)
  | queueBroken (queue : Nat)
  | corrected (line : Nat)
  /-- R295: an uncorrectable error of a Recipe line. -/
  | recipeError (recipe : Nat)
  | coreCorrected (core : Nat)
  deriving DecidableEq, Repr

/-- An answer to a device, a peer or Unquel. -/
inductive Reply where
  | bytes (port : Nat) (data : List Byte)
  | value (port : Nat) (old : DWord)
  | done (port : Nat)
  | error (port : Nat)
  | nak (port seq : Nat)
  | replay (port from_ : Nat)
  | ack (port seq : Nat)
  /-- Credits returned to a peer (R350). -/
  | credit (port : Nat) (credits : Word)
  /-- What Unquel reads in the management block: PKGSTAT and the error logs (R305, R306). -/
  | management (stat : DWord) (log : List LogEvent)
  /-- A data flit to a peer. -/
  | flit (port : Nat) (f : PeerFlit)
  /-- A write of a control program that a port takes (R344). -/
  | write (pa : Nat) (data : List Byte)
  /-- An atomic of a control program that a port performs, once (R344): the operation code, its type, its operands. -/
  | atomic (pa op ty : Nat) (y x : DWord)
  /-- The completion word of a management command: 0, or 1 for a bad operand (R346, log 33). -/
  | status (code word : Nat)
  /-- R306: the machine-check interrupt of the application die, with the unit that has failed. -/
  | machineCheck (unit : Byte)
  deriving DecidableEq, Repr

/-- R346: what the completion of a management command still waits for: accesses that an old entry has translated,
issued before the operation number; the tasks of a queue. -/
inductive CmdWait where
  | none
  | shootdown (asid va len before : Nat)
  | unbind (queue : Nat)
  deriving DecidableEq, Repr

/-- R346: a management command that has not completed: its code, its status, what it waits for. -/
structure Command where
  code : Nat
  status : Nat
  wait : CmdWait
  deriving DecidableEq, Repr

/-- R294: the state of a line of the LLC as far as it is its own: Recipe and Poisoned lines are those of the recipes
and of the poison marks. -/
inductive LineState where
  | clean | dirty
  deriving DecidableEq, Repr

/-- R294: a line that the LLC holds, its way, and when it was used last. -/
structure LlcLine where
  state : LineState
  way : Nat
  used : Nat
  deriving DecidableEq, Repr

/-- A read from outside the compute dies that its port holds (R300, R337, R349): the port, the Requester ID, the
address space (none: by physical address), the range. -/
structure PortRead where
  port : Nat
  rid : Nat
  asid : Option Nat
  va : Nat
  len : Nat
  deriving DecidableEq, Repr

/-- What the agenda names next: an event, the issue of a CP, or arithmetic clocks that pass (log 1). -/
inductive Move where
  | event (i : Instr)
  | issue (pool cp : Nat)
  | pass (clocks : Nat)
  /-- A single-bit error of a core's store, of a line of the LLC, is corrected and logged (R175, R295). -/
  | corrected (core : Nat)
  | lineCorrected (line : Nat)
  /-- The peer links send what waits (R350, R351). -/
  | send
  deriving DecidableEq, Repr

/-- The state of the package. -/
structure State where
  /-- Package memory, by physical address; an unlisted byte reads 0 (log 4). -/
  mem : List Host.Cell
  /-- Poisoned 64-byte granules by number (R190); key slot and generation of a written line (R356). -/
  poison : KMap Unit
  keyOf : KMap (Nat × Nat)
  lineClock : KMap Nat
  /-- R107: the committed writes that have changed bytes, the newest last. -/
  overwritten : List Overwrite
  /-- R294: the lines that the LLC holds; an unlisted one is Invalid.  The recipes whose Recipe lines it has
  evicted. -/
  llc : KMap LlcLine
  evicted : List Nat
  pools : KMap Pool
  out : List OutPool
  journal : List Entry
  records : List Record
  /-- R290: device writes of complete records that are not acknowledged yet: the record, its pools, and the lines of
  CXL memory it has written. -/
  unacked : KMap (List Nat × List Nat)
  l1 : KMap CacheLine
  cc : KMap CacheLine
  dir : KMap Region
  dropAll : BitVec 64
  watch : KMap (List Nat)
  tlb : List TlbEntry
  /-- R346: the management commands that have not completed, in the order written. -/
  commands : List Command
  faults : List (Nat × Nat)
  scClock : KMap Nat
  scReport : KMap Nat
  held : List Held
  asids : KMap AsidBinding
  keyGen : KMap Nat
  queues : KMap Queue
  waiting : List Nat
  packing : List Pending
  signals : List Signal
  completions : List Completion
  recipes : KMap Recipe
  recipeLimit : KMap Nat
  ways : KMap (BitVec 16)
  windows : KMap (Nat × Nat)
  devices : List (Nat × Nat × Nat)
  links : KMap Link
  /-- R341: the open handles, 4096 × tenant + handle; 0 for a file, 1 for a connection. -/
  handles : KMap Nat
  /-- R351, R352: the SYSCs whose peer requests have been handed to the links, and those a link was fenced under,
  with its port. -/
  peerOps : List Nat
  peerCut : List (Nat × Nat)
  replies : List Reply
  /-- R337, R349: reads that their ports hold. -/
  portReads : List PortRead
  measured : KMap (BitVec 384)
  report : List Byte
  log : List LogEvent
  tests : KMap FieldTest
  seqResets : List (Nat × Nat)
  fencedCores : List Nat
  fencedClusters : List Nat
  fencedDies : List Nat
  replReq : Bool
  viral : Option Byte
  replays : Nat
  /-- R314: by queue and whether the head is a packed pool or successor (`State.headKey`). -/
  headDie : KMap Nat
  toll : Nat
  quantum : Nat
  period : Nat
  tollAt : Nat
  quantumAt : Nat
  phase : Phase
  powerLimit : Nat
  clockMHz : Nat
  /-- R357: when the power was sampled last. -/
  sampleAt : Nat
  now : Nat
  /-- R3, R169: the clock from which each issue slot is free; slot 2q of partition q takes broadcasts, slot
  2q + 1 the other instructions. -/
  slots : KMap Nat
  /-- R171: the grant that held each broadcast slot last, as `Cp.passed` names it. -/
  slotUnits : KMap (Nat × Nat × Nat)
  /-- The time since reset in ticks (Config.ticksPerMicro), and the time from which the next task may be
  dispatched (R312). -/
  time : Nat
  dispatchAt : Nat
  /-- The model's own: what moves next, which CP issues when the agenda is empty, the counter of free
  values, the next number for a pool, operation, command or record (log 1, log 2). -/
  agenda : List Move
  focus : Nat × Nat
  /-- When the agenda is empty, the step looks for a due event before it issues a CP (log 1). -/
  eventTurn : Bool
  fresh : Nat
  nextId : Nat
  deriving DecidableEq, Repr

/-- Nothing stops this machine with a fault: a trap is a next state (R56), and so is the viral state
(R306).  The type has no constructor. -/
inductive Fault where
  deriving DecidableEq, Repr

/-- Reasons for which a step has no meaning. -/
inductive Refusal where
  /-- Raised by the dispatcher for an instruction that has no meaning yet.  Safe: the machine stops. -/
  | notModelled (mnemonic : String)
  deriving DecidableEq, Repr

/-- R353, R307: the package right after reset, before boot: no pool, no binding, nothing in flight. -/
def State.reset : State where
  mem := []
  poison := []
  keyOf := []
  lineClock := []
  overwritten := []
  llc := []
  evicted := []
  pools := []
  out := []
  journal := []
  records := []
  unacked := []
  l1 := []
  cc := []
  dir := []
  dropAll := 0
  watch := []
  tlb := []
  commands := []
  faults := []
  scClock := []
  scReport := []
  held := []
  asids := []
  keyGen := []
  queues := []
  waiting := []
  packing := []
  signals := []
  completions := []
  recipes := []
  recipeLimit := []
  ways := []
  windows := []
  devices := []
  links := []
  handles := []
  peerOps := []
  peerCut := []
  replies := []
  portReads := []
  measured := []
  report := []
  log := []
  tests := []
  seqResets := []
  fencedCores := []
  fencedClusters := []
  fencedDies := []
  replReq := false
  viral := none
  replays := 0
  headDie := []
  toll := 1000
  quantum := 8
  period := 86400
  tollAt := 0
  quantumAt := 0
  phase := .off
  powerLimit := 3200
  clockMHz := 1500
  sampleAt := 0
  now := 0
  slots := []
  slotUnits := []
  time := 0
  dispatchAt := 0
  agenda := []
  focus := (0, 0)
  eventTurn := false
  fresh := 0
  nextId := 1

end Sys2Proof.Machine
end

