-- ==== Sys2Proof/Machine/Map.lean ====
section
/-! DEFINITION. Operations on sparse tables, on masks and on the bytes of package memory. -/

namespace Sys2Proof.Machine

/-- The value at a key. -/
def KMap.find? (m : KMap α) (k : Nat) : Option α :=
  match m with
  | [] => none
  | (j, a) :: r => if j = k then some a else KMap.find? r k

/-- The value at a key, or what the table reads as where it lists nothing. -/
def KMap.get (m : KMap α) (dflt : α) (k : Nat) : α := (KMap.find? m k).getD dflt

/-- The table without a key. -/
def KMap.del (m : KMap α) (k : Nat) : KMap α := m.filter fun e => e.1 != k

/-- The table with a new entry at a key it does not list, in its place. -/
def KMap.insert (m : KMap α) (k : Nat) (a : α) : KMap α :=
  match m with
  | [] => [(k, a)]
  | (j, b) :: r => if k < j then (k, a) :: (j, b) :: r else (j, b) :: KMap.insert r k a

/-- The table with `a` at `k`. -/
def KMap.put (m : KMap α) (k : Nat) (a : α) : KMap α := KMap.insert (KMap.del m k) k a

/-- The table with `a` at `k`; the value an unlisted key reads as is not listed. -/
def KMap.set [DecidableEq α] (m : KMap α) (dflt : α) (k : Nat) (a : α) : KMap α :=
  if a = dflt then KMap.del m k else KMap.put m k a

/-- The table with the value at a key changed, where there is one. -/
def KMap.modify (m : KMap α) (k : Nat) (f : α → α) : KMap α :=
  m.map fun e => if e.1 = k then (e.1, f e.2) else e

/-- Several entries set one after the other. -/
def KMap.setAll [DecidableEq α] (m : KMap α) (dflt : α) (l : List (Nat × α)) : KMap α :=
  l.foldl (fun m e => KMap.set m dflt e.1 e.2) m

/-- The keys. -/
def KMap.keys (m : KMap α) : List Nat := m.map (·.1)

/-- Keys strictly rising. -/
def KMap.sorted (m : KMap α) : Bool :=
  match m with
  | [] => true
  | (j, _) :: r => r.all (fun e => j < e.1) && KMap.sorted r

def insertBy (lt : α → α → Bool) (a : α) (l : List α) : List α :=
  match l with
  | [] => [a]
  | b :: r => if lt b a || !lt a b then b :: insertBy lt a r else a :: b :: r

/-- A stable sort. -/
def sortBy (lt : α → α → Bool) (l : List α) : List α := l.foldl (fun acc a => insertBy lt a acc) []

/-- Keep the first value recorded for a key (the undo log, R180). -/
def KMap.record (m : KMap α) (k : Nat) (a : α) : KMap α :=
  if (KMap.find? m k).isSome then m else KMap.insert m k a

/-- Package memory (R291): keys strictly rising, and no listed byte is 0, which is what an unlisted
address reads as. -/
def Memory.wf (m : List Host.Cell) : Bool := KMap.sorted m && m.all (fun e => e.2 != 0)

def Memory.read (m : List Host.Cell) (a : Nat) : Byte := KMap.get m 0 a

def Memory.write (m : List Host.Cell) (a : Nat) (b : Byte) : List Host.Cell := KMap.set m 0 a b

/-- Successive bytes, the first at the lowest address. -/
def Memory.writeBytes (m : List Host.Cell) (a : Nat) (bs : List Byte) : List Host.Cell :=
  match bs with
  | [] => m
  | b :: r => Memory.writeBytes (Memory.write m a b) (a + 1) r

def Memory.readBytes (m : List Host.Cell) (a n : Nat) : List Byte :=
  (List.range n).map fun i => Memory.read m (a + i)

/-- R7: little-endian bytes as a number, and back. -/
def ofBytes (bs : List Byte) : Nat := bs.foldr (fun b n => b.toNat + 256 * n) 0

def toBytes (n len : Nat) : List Byte :=
  match len with
  | 0 => []
  | k + 1 => BitVec.ofNat 8 n :: toBytes (n / 256) k

/-- The set of the threads 0 to n − 1 (R31). -/
def Mask.full (n : Nat) : Mask := BitVec.ofNat 16384 (2 ^ n - 1)

def Mask.has (m : Mask) (t : Nat) : Bool := m.getLsbD t

/-- The threads of a set below `n`, in ascending tid (R32).  Words of 32 threads that are empty are
skipped, as the sweep of R40 skips them. -/
def Mask.tids (m : Mask) (n : Nat) : List Nat :=
  (List.range ((n + 31) / 32)).flatMap fun w =>
    let x := bits 31 0 (m.extractLsb' (32 * w) 32)
    if x = 0 then [] else ((List.range 32).filter fun i => x.testBit i).map (32 * w + ·)

def Mask.ofTids (l : List Nat) : Mask :=
  BitVec.ofNat 16384 (l.foldl (fun n t => n ||| 2 ^ t) 0)

/-- The lowest and the highest thread of a set. -/
def Mask.first (m : Mask) (n : Nat) : Option Nat := (Mask.tids m n).head?

def Mask.count (m : Mask) (n : Nat) : Nat := (Mask.tids m n).length

/-- A set without its lowest thread, and that thread alone. -/
def Mask.lowest (m : Mask) : Mask := m &&& (-m)

end Sys2Proof.Machine
end

