-- ==== Sys2Proof/WellFormed.lean ====
section
/-! DEFINITION. The checks of step 5 of R105 on the fields of an instruction: register numbers, code
fields, immediates, records and prefix acceptance (R88, R89, R92 to R102 and the entries).  They depend
on the code words only.  An instruction that fails one is a precise illegal-instruction trap (R104). -/

namespace Sys2Proof

/-- R92: which prefix fields an instruction accepts. -/
structure Accepts where
  mask : Bool := false
  zero : Bool := false
  rnd : Bool := false
  type : Bool := false
  x : Bool := false
  deriving DecidableEq, Repr

/-- R92, by opcode. -/
def accepts (opc : Nat) : Accepts :=
  if 0x60 ≤ opc ∧ opc ≤ 0xA6 then
    { mask := true, zero := true, rnd := true, type := true,
      x := opc ∈ [0x64, 0x69, 0x91, 0x85, 0x86, 0x6A] }
  else if opc ∈ [0xB0, 0xB2, 0xB4, 0xB6, 0xBB, 0xBC, 0xBD] then
    { mask := true, zero := true, type := true, x := opc = 0xB6 }
  else if opc ∈ [0xB1, 0xB3, 0xB5, 0xB7, 0xB8] then { mask := true, type := true }
  else if opc ∈ [0x30, 0x3A, 0x40, 0x41, 0x42, 0x43, 0x44, 0x45] then
    { mask := true, type := true, rnd := opc = 0x40 }
  else if opc ∈ [0x46, 0x47, 0x3B] then
    { mask := true, zero := true, type := true, rnd := opc = 0x46 }
  else if opc = 0x31 then { type := true }
  else if opc ∈ [0xC1, 0xD1, 0xE0] then { mask := true }
  else {}

/-- R20, R92, R95: the prefix has no field that the opcode does not accept, and no reserved rounding
code. -/
def prefixOk (opc : Nat) (p : Prefix) : Bool :=
  let k := accepts opc
  (k.mask || p.mask == 0) && (k.zero || p.zero == 0) && (k.rnd || p.rnd == 0) &&
  (k.type || p.type == 0) && (k.x || p.x == 0) && decide (p.rnd.toNat ≤ 4)

/-- R88: a scalar register number. -/
def sreg (r : Byte) : Bool := decide (r.toNat ≤ 95)

/-- R99: a scope code that is not reserved. -/
def scopeOk (c : BitVec 3) : Bool := decide (c.toNat ≤ 5)

/-- R257: an address code: the base register is s0 to s95, and without IDX field b is 0. -/
def addrOk (a b : Byte) : Bool :=
  decide ((a.extractLsb' 0 7).toNat ≤ 95) && (a.getLsbD 7 || b == 0)

/-- R21: a marked record word names a scalar register. -/
def markedOk (marked : Bool) (w : Word) : Bool := !marked || decide (w.toNat ≤ 95)

/-- R21, R89: each marked word names a register, and each word written as a number has no bit of
`reserved` set. -/
def recordOk (marks : BitVec 4) (r : TensorRecord) (res0 res1 res2 res3 : Word) : Bool :=
  let ok (k : Nat) (w res : Word) := markedOk (marks.getLsbD k) w && (marks.getLsbD k || w &&& res == 0)
  ok 0 r.r0 res0 && ok 1 r.r1 res1 && ok 2 r.r2 res2 && ok 3 r.r3 res3

/-- R101: a search condition and its key registers; codes 8 and 10 read s_b and s_b+1. -/
def searchOk (d b : Byte) : Bool :=
  decide (d.toNat ≤ 10) && sreg b && (!(d == 8 || d == 10) || decide (b.toNat ≤ 94))

/-- Step 5 of R105 on the fields of an instruction, its prefix apart. -/
def fieldsOk : Instr → Bool
  | .brc _ d _ | .loop _ d _ | .call _ d _ => sreg d
  | .ret _ a | .bri _ a _ => sreg a
  | .sadd _ d a b | .ssub _ d a b | .smul _ d a b | .smulh _ d a b | .sand _ d a b | .sor _ d a b
  | .sxor _ d a b | .sshl _ d a b | .sshr _ d a b | .ssar _ d a b | .smin _ d a b | .smax _ d a b
  | .scmp _ d a b | .ssel _ d a b | .sfns _ d a b => sreg d && sreg a && sreg b
  | .smov _ d a | .spopc _ d a | .sclz _ d a | .sbrev _ d a => sreg d && sreg a
  | .sli _ d _ _ => sreg d
  | .sld _ d a _ | .sst _ d a _ => sreg d && sreg a
  | .getst _ d a => sreg d && decide (a.toNat ≤ 11)
  | .clrst _ a => a == 5 || a == 6
  | .setm _ a | .setf _ a => sreg a
  | .getm _ d | .getf _ d | .rcount _ d | .chke _ d => sreg d
  | .srch _ d _ b | .srca _ d _ b => searchOk d b
  | .maskop _ _ ma mb op =>
      (op.toNat ≤ 3 || mb == 0) && (!(op == 5 || op == 6) || ma == 0)
  | .rget _ d _ | .rsum _ d _ | .rmin _ d _ | .rmax _ d _ | .argmx _ d _ | .rand _ d _ | .ror _ d _ =>
      sreg d
  | .rput _ _ b => sreg b
  | .hold _ b => decide (1 ≤ b.toNat ∧ b.toNat ≤ 16)
  | .waitc _ d b => decide (d.toNat ≤ 3) && decide (b.toNat ≤ 63)
  | .watch _ ord scope a b => decide (ord.toNat ≤ 1) && scopeOk scope && sreg a && sreg b
  | .ginit _ a b | .gexp _ a b | .gwait _ a b => sreg a && sreg b
  | .garr _ d a => sreg d && sreg a
  | .fence _ ord scope => ord != 0 && scopeOk scope
  | .vcmp _ _ _ _ cond => decide (cond.toNat ≤ 7)
  | .vmovScalar _ _ b => sreg b
  | .vcvt _ _ _ e8 src => src != 0 && (e8 == 0 || src == 9 || src == 10 || src == 11)
  | .vld _ _ a b w => addrOk a b && w.ord != 2 && w.op == 0 && scopeOk w.scope
  | .vst _ _ a b w => addrOk a b && w.ord != 1 && w.op == 0 && scopeOk w.scope
  | .pref _ d a b w => d == 0 && addrOk a b && w.ord == 0 && w.op == 0 && scopeOk w.scope
  | .vatomGlobal _ _ a b w => addrOk a b && scopeOk w.scope
  | .vredGlobal _ _ a b w => addrOk a b && decide (w.op.toNat ≤ 5) && w.ord != 1 && scopeOk w.scope
  | .vatomSpad _ _ _ _ w => decide (w.scope.toNat ≤ 1)
  | .vredSpad _ _ _ b w => b == 0 && decide (w.op.toNat ≤ 5) && w.ord != 1 && decide (w.scope.toNat ≤ 1)
  | .vlds _ _ _ size sx _ => sx == 0 || decide (2 ≤ size.toNat)
  | .flush _ scope => scopeOk scope
  | .inv _ d a scope => sreg d && sreg a && scopeOk scope
  | .vshfl _ _ _ delta _ => decide (delta.toNat ≤ 63)
  | .vbcst _ _ _ b => sreg b
  | .cpy _ d a variant marks r =>
      sreg d && sreg a && decide (variant.toNat ≤ 2) &&
      recordOk marks r 0 0xFFFF0000 0 0x7FFC0000
  | .gthr _ _ _ b => decide (b.toNat ≤ 7)
  | .gdesc _ d a => decide (d.toNat ≤ 7) && decide (a.toNat ≤ 92)
  | .mrg _ d a variant marks r =>
      sreg d && sreg a && decide (variant.toNat ≤ 1) &&
      recordOk marks r 0xFFFF0000 0xFFFFFF80 0 0
  | .mma _ d _ _ | .mmaq _ d _ _ | .mzero _ d => decide (d.toNat ≤ 1)
  | .mmas _ _ _ acc marks r => decide (acc.toNat ≤ 1) && recordOk marks r 0 0xFFFF0000 0 0xFFFFFFFF
  | .mdrn _ _ a => decide (a.toNat ≤ 1)
  | .launch _ d a | .cpstart _ d a | .rcret _ d a | .rcdrop _ d a | .rcqry _ d a => sreg d && sreg a
  | .cpstop _ a => sreg a
  | .rcdef _ d marks r => sreg d && recordOk marks r 0 0 0 0
  | .sysc _ _ a narg _ => decide (narg.toNat ≤ 8) && (narg != 0 || a == 0)
  | _ => true

/-- R93: VFMA, VCLAMP, VDOT4, VBFX, VBFI and VSEL need the fourth operand of a prefix; VATOM needs one
for cas, and its x field is 0 otherwise. -/
def fourthOk : Instr → Bool
  | .vfma p _ _ _ | .vclamp p _ _ _ | .vdot4 p _ _ _ | .vbfx p _ _ _ | .vbfi p _ _ _ | .vsel p _ _ _ =>
      p.isSome
  | .vatomSpad p _ _ _ w | .vatomGlobal p _ _ _ w =>
      if w.op == 7 then p.isSome else (p.map (·.x)).getD 0 == 0
  | _ => true

/-- Step 5 of R105: the prefix, the fields and the fourth operand of an instruction are legal.  A prefix field that
the instruction does not accept (R20, R92) fails here, after the check of the clause's end (log 52).  A step that
has no encoding has no prefix and is legal. -/
def Instr.wellFormed (i : Instr) : Bool :=
  (match i.pfx, i.opcode with
   | some p, some opc => prefixOk opc p
   | _, _ => true) && fieldsOk i && fourthOk i

/-- The instructions that step 5 of R105 lets pass. -/
abbrev WellFormed (i : Instr) : Prop := i.wellFormed = true

end Sys2Proof
end

