-- ==== Sys2Proof/Machine/Ops.lean ====
section
/-! DEFINITION. The named operations on pools, control programs and registers; taking a trap and
resuming from one (R56 to R58, R191); free values. -/

namespace Sys2Proof.Machine

/-! ### Pools and control programs -/

def State.pool? (s : State) (p : Nat) : Option Pool := KMap.find? s.pools p

def State.setPool (s : State) (p : Nat) (x : Pool) : State := { s with pools := KMap.put s.pools p x }

def State.modPool (s : State) (p : Nat) (f : Pool → Pool) : State :=
  { s with pools := KMap.modify s.pools p f }

def Pool.cp? (p : Pool) (c : Nat) : Option Cp := KMap.find? p.cps c

def Pool.modCp (p : Pool) (c : Nat) (f : Cp → Cp) : Pool := { p with cps := KMap.modify p.cps c f }

/-- A change of a CP by an operation; `kept` where it was issued before the last local checkpoint, to which a
rollback goes back: the change stands there too (R180, R188). -/
def Pool.modCpKept (p : Pool) (kept : Bool) (c : Nat) (f : Cp → Cp) : Pool :=
  let q := p.modCp c f
  if kept then { q with ckpt := { q.ckpt with cps := KMap.modify q.ckpt.cps c f } } else q

def State.cp? (s : State) (p c : Nat) : Option Cp := (s.pool? p).bind (·.cp? c)

def State.modCp (s : State) (p c : Nat) (f : Cp → Cp) : State := s.modPool p (·.modCp c f)

/-- R168: the core of a partition, the cluster and the die of a core. -/
def coreOf (partition : Nat) : Nat := partition / 6
def clusterOf (core : Nat) : Nat := core / 4
def dieOf (core : Nat) : Nat := core / 32

/-- R189, R248, R302: a core, a cluster that is not fenced. -/
def State.coreLive (s : State) (c : Nat) : Bool := !s.fencedCores.contains c && !s.fencedDies.contains (dieOf c)
def State.clusterLive (s : State) (k : Nat) : Bool :=
  !s.fencedClusters.contains k && !s.fencedDies.contains (k / 8)

/-- R33: the partition of a CP's context, that of part (index mod P). -/
def Pool.cpPartition (p : Pool) (c : Nat) : Nat :=
  p.parts.getD (c % p.parts.length) 0

def Pool.cpCore (p : Pool) (c : Nat) : Nat := coreOf (p.cpPartition c)

/-- R234: the core of part 0. -/
def Pool.homeCore (p : Pool) : Nat := coreOf (p.parts.headD 0)

def Pool.cluster (p : Pool) : Nat := clusterOf p.homeCore

/-- The cores that hold a part. -/
def Pool.cores (p : Pool) : List Nat := (p.parts.map coreOf).dedup

/-- R239: the core that holds a thread's part. -/
def Pool.coreOfThread (p : Pool) (t : Nat) : Nat := coreOf (p.parts.getD (t / 1024) 0)

/-- R26, R30: parts of a pool of n threads. -/
def partsOf (n : Nat) : Nat := (n + 1023) / 1024

/-! ### Registers -/

def Pool.reg (p : Pool) (t n : Nat) : Word := KMap.get p.regs 0 (256 * t + n)

/-- R26: the pair vn, vn+1, low word first. -/
def Pool.reg64 (p : Pool) (t n : Nat) : DWord := p.reg t (n + 1) ++ p.reg t n

/-- A thread register written by an instruction or command issued after the last local checkpoint: the
undo log keeps its old value (R180). -/
def Pool.setReg (p : Pool) (t n : Nat) (w : Word) : Pool :=
  { p with
    regs := KMap.set p.regs 0 (256 * t + n) w
    undoRegs := KMap.record p.undoRegs (256 * t + n) (p.reg t n) }

/-- A thread register written on behalf of something issued before the last local checkpoint: a rollback
does not undo it (R180, R260). -/
def Pool.setRegKept (p : Pool) (t n : Nat) (w : Word) : Pool :=
  { p with
    regs := KMap.set p.regs 0 (256 * t + n) w
    undoRegs := KMap.modify p.undoRegs (256 * t + n) fun _ => w }

def Pool.setReg64 (p : Pool) (t n : Nat) (x : DWord) : Pool :=
  (p.setReg t n (x.extractLsb' 0 32)).setReg t (n + 1) (x.extractLsb' 32 32)

/-- An element of 32 or 64 bits written to vn or the pair vn, vn+1. -/
def Pool.setElem (p : Pool) (wide : Bool) (t n : Nat) (x : DWord) : Pool :=
  if wide then p.setReg64 t n x else p.setReg t n (x.extractLsb' 0 32)

def Pool.getElem (p : Pool) (wide : Bool) (t n : Nat) : DWord :=
  if wide then p.reg64 t n else (p.reg t n).zeroExtend 64

/-- R19: the zero form writes 0 to a register or pair of every thread of a set. -/
def Pool.zeroElems (p : Pool) (wide : Bool) (n : Nat) (set : Mask) : Pool :=
  (Mask.tids set p.threads).foldl (fun p t => p.setElem wide t n 0) p

/-- Results in ascending tid. -/
def Pool.setElems (p : Pool) (wide : Bool) (n : Nat) (l : List (Nat × DWord)) : Pool :=
  l.foldl (fun p e => p.setElem wide e.1 n e.2) p

/-! ### Scratchpad -/

def Pool.spadByte (p : Pool) (a : Nat) : Byte := KMap.get p.spad 0 a

def Pool.setSpadByte (p : Pool) (a : Nat) (b : Byte) : Pool :=
  { p with
    spad := KMap.set p.spad 0 a b
    undoSpad := KMap.record p.undoSpad a (p.spadByte a) }

def Pool.setSpadByteKept (p : Pool) (a : Nat) (b : Byte) : Pool :=
  { p with
    spad := KMap.set p.spad 0 a b
    undoSpad := KMap.modify p.undoSpad a fun _ => b }

def Pool.spadRead (p : Pool) (a len : Nat) : Nat :=
  ofBytes ((List.range len).map fun i => p.spadByte (a + i))

def Pool.spadWriteBytes (p : Pool) (a : Nat) (bs : List Byte) : Pool :=
  match bs with
  | [] => p
  | b :: r => Pool.spadWriteBytes (p.setSpadByte a b) (a + 1) r

def Pool.spadWriteBytesKept (p : Pool) (a : Nat) (bs : List Byte) : Pool :=
  match bs with
  | [] => p
  | b :: r => Pool.spadWriteBytesKept (p.setSpadByteKept a b) (a + 1) r

def Pool.spadWrite (p : Pool) (a len v : Nat) : Pool := p.spadWriteBytes a (toBytes v len)

/-! ### Scalar state of a CP -/

def Cp.sreg (c : Cp) (n : Nat) : DWord := KMap.get c.s 0 n

def Cp.setS (c : Cp) (n : Nat) (x : DWord) : Cp := { c with s := KMap.set c.s 0 n x }

def Cp.mreg (c : Cp) (n : Nat) : Mask := KMap.get c.m 0 n

def Cp.setM (c : Cp) (n : Nat) (x : Mask) : Cp := { c with m := KMap.set c.m 0 n x }

/-- R35, R36: the top level. -/
def Cp.topLevel (c : Cp) : Level := c.stack.headD ⟨0, 0, 0⟩

/-- The index of the top level. -/
def Cp.levelIndex (c : Cp) : Nat := c.stack.length - 1

def Cp.setTop (c : Cp) (l : Level) : Cp := { c with stack := l :: c.stack.tail }

/-- R83: sticky flags. -/
def Cp.raise (c : Cp) (f : BitVec 16) : Cp := { c with fstat := c.fstat ||| f }

/-- R142, R190. -/
def Cp.setPoison (c : Cp) : Cp := { c with cki := c.cki ||| 0x80000000 }

def Cp.poisoned (c : Cp) : Bool := c.cki.getLsbD 31

/-- R142: CORR saturates. -/
def Cp.addCorr (c : Cp) (n : Nat) : Cp :=
  let old := bits 23 0 c.cki
  { c with cki := (c.cki &&& 0x80000000) ||| BitVec.ofNat 32 (min (old + n) 0xFFFFFF) }

def Cp.counter (c : Cp) (cls : Nat) : Nat :=
  match cls with | 0 => c.cpy | 1 => c.gth | 2 => c.mrg | _ => c.mtx

def Cp.setCounter (c : Cp) (cls n : Nat) : Cp :=
  match cls with
  | 0 => { c with cpy := n }
  | 1 => { c with gth := n }
  | 2 => { c with mrg := n }
  | _ => { c with mtx := n }

/-- R45: an open hold. -/
def Cp.holding (c : Cp) : Bool := c.holdLeft != 0

/-- R48: an open hold that the arbiter has granted, whose held broadcasts are consecutive. -/
def Cp.inUnit (c : Cp) : Bool := c.holding && c.begun

/-- R33: a CP as it starts, at the clause header at word address pc, with s0. -/
def Cp.start (threads : Nat) (pc s0 : DWord) (skew : Nat := 0) : Cp where
  status := .running
  pc := pc
  clause := none
  s := KMap.set [] 0 0 s0
  m := [(0, Mask.full threads)]
  stack := [⟨Mask.full threads, 0x13, 0xAA⟩]
  cpy := 0
  gth := 0
  mrg := 0
  mtx := 0
  fstat := 0
  cki := 0
  tmask := 0
  holdLeft := 0
  holdSince := 0
  begun := false
  nopre := none
  handles := []
  faults := []
  stand := .no
  trap := none
  wait := none
  fencedRel := false
  next := 0
  ready := none
  passed := []
  skew := skew

/-! ### Flags and outstanding operations -/

def OpKind.isResult : OpKind → Bool
  | .known | .load | .sload | .sknown | .vatom | .sysc => true
  | .store | .red | .spad | .flush _ | .inv _ | .gather .. => false

/-- R16: flag f of CP c is set while an operation bound to it is outstanding. -/
def Pool.flagSet (p : Pool) (c f : Nat) : Bool := p.ops.any fun o => o.cp = c && o.flag = f && f < 12

def Pool.opsOf (p : Pool) (c : Nat) : List Op := p.ops.filter (·.cp = c)

def Pool.cmdsOf (p : Pool) (c cls : Nat) : List Cmd :=
  p.cmds.filter fun k => k.cp = c && (match k.kind with
    | .copy _ => cls = 0 | .gather _ => cls = 1 | .merge _ => cls = 2 | .matrix _ => cls = 3)

/-- Whether an access waits for a page or a tile. -/
def Op.isParked (o : Op) : Bool := o.park.isSome

def Pool.removeOp (p : Pool) (id : Nat) : Pool := { p with ops := p.ops.filter (·.id != id) }

def Pool.modOp (p : Pool) (id : Nat) (f : Op → Op) : Pool :=
  { p with ops := p.ops.map fun o => if o.id = id then f o else o }

def Pool.removeCmd (p : Pool) (id : Nat) : Pool := { p with cmds := p.cmds.filter (·.id != id) }

def Pool.modCmd (p : Pool) (id : Nat) (f : Cmd → Cmd) : Pool :=
  { p with cmds := p.cmds.map fun o => if o.id = id then f o else o }

/-! ### Free values and numbers -/

def State.takeId (s : State) : Nat × State := (s.nextId, { s with nextId := s.nextId + 1 })

def State.freeBool (s : State) : Bool × State :=
  (Config.freeBool s.fresh, { s with fresh := s.fresh + 1 })

def State.freeBools (s : State) (n : Nat) : List Bool × State :=
  ((List.range n).map fun i => Config.freeBool (s.fresh + i), { s with fresh := s.fresh + n })

def State.freeBytes (s : State) (n : Nat) : List Byte × State :=
  ((List.range n).map fun i => Config.freeByte (s.fresh + i), { s with fresh := s.fresh + n })

def State.freeWord (s : State) : Word × State :=
  (Config.freeWord s.fresh, { s with fresh := s.fresh + 1 })

def State.freeDWord (s : State) : DWord × State :=
  (Config.freeDWord s.fresh, { s with fresh := s.fresh + 1 })

/-! ### Time -/

/-- A time in microseconds, in ticks. -/
def micros (us : Nat) : Nat := us * Config.ticksPerMicro

/-- R3, R357: one arithmetic clock takes 1 / f µs. -/
def State.clockTicks (s : State) : Nat := Config.ticksPerMicro / s.clockMHz

/-- R169: slots are held from now on for the clocks named. -/
def State.takeSlots (s : State) (l : List (Nat × Nat)) : State :=
  { s with slots := l.foldl (fun m e => KMap.put m e.1 (s.now + e.2)) s.slots }

/-- R172: a completion point holds slots, once the grants that hold them end (log 3). -/
def State.holdSlots (s : State) (l : List (Nat × Nat)) : State :=
  { s with slots := l.foldl (fun m e => KMap.put m e.1 (max s.now (KMap.get m 0 e.1) + e.2)) s.slots }

def State.logEvent (s : State) (e : LogEvent) : State := { s with log := s.log ++ [e] }

/-! ### Traps -/

/-- R56, R191: CP c of pool p stops at pc with a trap record; any hold ends (R57), an interval of NOPRE
stays open unless the cause is its budget (R160).  Nothing else changes. -/
def State.takeTrap (s : State) (p c : Nat) (pc : DWord) (cause : Byte) (tmask : Mask) (detail : Word)
    (addr : DWord) : State :=
  s.modPool p fun pool => pool.modCp c fun cp =>
    { cp with
      status := .trapped
      pc := pc
      tmask := tmask
      holdLeft := 0
      nopre := if cause = 0x06 then none else cp.nopre
      stand := .no
      trap := some {
        pc := pc
        cause := cause
        cpx := c
        detail := detail
        addr := addr
        tcount := Mask.count tmask pool.threads
        tfirst := match Mask.first tmask pool.threads with
          | some t => BitVec.ofNat 32 t
          | none => 0xFFFFFFFF } }

/-- R58: the trap handler resumes a CP at its stopped PC, with its state as stopped. -/
def State.resumeTrap (s : State) (p c : Nat) : State :=
  s.modCp p c fun cp => { cp with status := .running, trap := none }

end Sys2Proof.Machine
end

