-- ==== Sys2Proof/Machine/Memory.lean ====
section
/-! DEFINITION. Global memory as an access sees it: translation (R250 to R254), the journal of a core
(R178), the caches (R241 to R244), the directory (R296) and committed bytes with their poison and keys
(R190, R356). -/

namespace Sys2Proof.Machine

/-! ### Physical addresses -/

/-- R292: the home slice of a physical address. -/
def homeSlice (pa : Nat) : Nat :=
  let f (hi lo : Nat) := bits hi lo (BitVec.ofNat 52 pa)
  8 * (f 10 8 ^^^ f 21 19) + (f 13 11 ^^^ f 24 22)

/-- R291, R344: register space that decodes for a compute die or a device: not the management block
(R345). -/
def portSpace (pa : Nat) : Bool :=
  (0x100010000000 ≤ pa && pa < 0x100060000000) || (0x100060000000 ≤ pa && pa < 0x100070000000)

/-- R291, R348: memory that exists: HBM, or inside a CXL window. -/
def State.isMemory (s : State) (pa : Nat) : Bool :=
  pa < Config.hbmEnd ||
  (Config.cxlStart ≤ pa && pa < Config.cxlEnd &&
    s.windows.any fun w => w.2.1 ≤ pa && pa < w.2.1 + w.2.2)

/-- R254 step 4: what decodes for a requester that is not the application die. -/
def State.decodes (s : State) (pa : Nat) : Bool := s.isMemory pa || portSpace pa

/-! ### Translation -/

/-- Why an access fails a check of R254. -/
inductive XFail where
  | address
  | pinned
  | absent
  | recoverable
  | denied
  | tile (recipe : Nat)
  deriving DecidableEq, Repr

/-- R254: who accesses, and how. -/
inductive XKind where
  | load | store | fetch | engineRead | engineWrite
  deriving DecidableEq, Repr

def XKind.writes : XKind → Bool
  | .store | .engineWrite => true
  | _ => false

/-- A leaf found by the walk of R250: the word, where it stands, the page base and size exponent. -/
structure Leaf where
  word : DWord
  at_ : Nat
  base : Nat
  bits : Nat
  deriving DecidableEq, Repr

/-- R251: the fields of a translation entry. -/
def Pte.v (e : DWord) : Bool := e.getLsbD 0
def Pte.leaf (e : DWord) : Bool := e.getLsbD 1
def Pte.r (e : DWord) : Bool := e.getLsbD 2
def Pte.w (e : DWord) : Bool := e.getLsbD 3
def Pte.x (e : DWord) : Bool := e.getLsbD 4
def Pte.rcv (e : DWord) : Bool := e.getLsbD 6
def Pte.a (e : DWord) : Bool := e.getLsbD 7
def Pte.d (e : DWord) : Bool := e.getLsbD 8
def Pte.c64 (e : DWord) : Bool := e.getLsbD 9
def Pte.pa (e : DWord) : Nat := bits 51 12 e * 4096
def Pte.reserved (e : DWord) : Bool := e &&& 0xFFF0000000000C20 != 0

def State.readEntry (s : State) (a : Nat) : DWord :=
  BitVec.ofNat 64 (ofBytes (Memory.readBytes s.mem a 8))

/-- R250: the lowest bit of the index of a level, and its width. -/
def levelShift (level : Nat) : Nat := 12 + 9 * level
def levelBits (level : Nat) : Nat := if level = 4 then 8 else 9

/-- R250 to R252: the walk from the table of a level down to a leaf, reading committed memory.  A valid entry of
level 0 that is no leaf translates nothing, and of the sixteen entries of a 64 KiB page the one that the address
indexes decides before the first (log 53). -/
def State.walkFrom (s : State) (level table va : Nat) : Except XFail Leaf :=
  let shift := levelShift level
  let at_ := table + 8 * ((va / 2 ^ shift) % 2 ^ levelBits level)
  let e := s.readEntry at_
  if !Pte.v e then
    if Pte.reserved e then .error .absent
    else if Pte.rcv e then .error .recoverable else .error .absent
  else if Pte.reserved e then .error .absent
  else if Pte.leaf e then
    if 3 ≤ level then .error .absent
    else if level ≠ 0 && Pte.pa e % 2 ^ shift ≠ 0 then .error .absent
    else if level = 0 && Pte.c64 e then
      -- R252: the first of the sixteen entries translates the whole 64 KiB page
      let at0 := table + 8 * ((va / 2 ^ 16) % 32 * 16)
      let e0 := s.readEntry at0
      if Pte.reserved e0 then .error .absent
      else if !Pte.v e0 then (if Pte.rcv e0 then .error .recoverable else .error .absent)
      else if !Pte.leaf e0 then .error .absent
      else .ok ⟨e0, at0, va / 2 ^ 16 * 2 ^ 16, 16⟩
    else .ok ⟨e, at_, va / 2 ^ shift * 2 ^ shift, shift⟩
  else
    match level with
    | 0 => .error .absent
    | l + 1 => s.walkFrom l (Pte.pa e) va

/-- R250: the walk of a 56-bit virtual address of an ASID. -/
def State.walk (s : State) (asid va : Nat) : Except XFail Leaf :=
  match KMap.find? s.asids asid with
  | none => .error .absent
  | some b => s.walkFrom 4 b.l4 va

/-- The physical address a leaf gives (R252). -/
def leafPa (leaf : DWord) (pageBits va : Nat) : Nat :=
  Pte.pa leaf / 2 ^ pageBits * 2 ^ pageBits + va % 2 ^ pageBits

def TlbEntry.covers (e : TlbEntry) (cluster asid va : Nat) : Bool :=
  e.cluster = cluster && e.asid = asid && e.base ≤ va && va < e.base + 2 ^ e.bits

/-- The tenant of an ASID: its key slot (R356). -/
def State.tenant (s : State) (asid : Nat) : Option Nat := (KMap.find? s.asids asid).map (·.key)

def rangesOverlap (a n b m : Nat) : Bool := 0 < n && 0 < m && a < b + m && b < a + n

/-- R330: the ranges whose pages a live recipe pins. -/
def State.pinnedRanges (s : State) (r : Recipe) : List (Nat × Nat) :=
  r.sources ++ r.tiles.filterMap fun t => (KMap.find? s.recipes t).map fun q => (q.tbase, q.tsize)

/-- R254 step 3: the 4 KiB page of a virtual address is pinned as a recipe source of the tenant. -/
def State.pinned (s : State) (asid va : Nat) : Bool :=
  s.recipes.any fun e =>
    some e.2.tenant == s.tenant asid &&
    (s.pinnedRanges e.2).any fun r => r.2 != 0 &&
      rangesOverlap (r.1 / 4096 * 4096) ((r.1 % 4096 + r.2 + 4095) / 4096 * 4096) va 1

/-- The live recipe of the tenant whose tile holds a virtual address. -/
def State.recipeAt (s : State) (asid va : Nat) : Option Recipe :=
  (s.recipes.map (·.2)).find? fun r =>
    some r.tenant == s.tenant asid && decide (r.tbase ≤ va) && decide (va < r.tbase + r.tsize)

/-- R254 step 7: the tile at the address is not held anywhere. -/
def State.droppedAt (s : State) (asid va : Nat) : Option Nat :=
  match s.recipeAt asid va with
  | some r => if r.state = .dropped ∨ r.state = .regenerating then some r.id else none
  | none => none

/-- R251, R252: the entry as the walker leaves it: A set, and D for a write that W allows. -/
def Pte.touched (e : DWord) (write : Bool) : DWord := e ||| 0x80 ||| (if write && Pte.w e then 0x100 else 0)

/-- R252: the walker's indivisible update of the leaf in memory. -/
def State.touchLeaf (s : State) (l : Leaf) (write : Bool) : State :=
  let e := Pte.touched l.word write
  if e = l.word then s
  else { s with mem := Memory.writeBytes s.mem l.at_ (toBytes e.toNat 8) }

/-- The permission of a leaf for a kind of access (R251, R254 step 6). -/
def Pte.allows (e : DWord) : XKind → Bool
  | .load | .engineRead => Pte.r e
  | .store | .engineWrite => Pte.w e
  | .fetch => Pte.x e

/-- An entry of a translation cache that a walk gives too, but for A and D, which the walker itself sets; where system
software has cleared them without a shootdown the walk is taken, which sets them again (log 36). -/
def TlbEntry.sameAs (e : TlbEntry) (w : Except XFail Leaf) : Bool :=
  match w with
  | .ok l => l.base = e.base && l.bits = e.bits && (l.word ||| 0x180) = (e.leaf ||| 0x180)
  | .error _ => false

/-- R253: a translation cache of 4,096 entries takes one more; which of its own goes is free. -/
def State.tlbRoom (s : State) (cluster : Nat) : State :=
  let mine := s.tlb.filter (·.cluster = cluster)
  if mine.length < 4096 then s
  else
    let (w, s) := s.freeWord
    { s with tlb := match mine[w.toNat % mine.length]? with | some e => s.tlb.erase e | none => s.tlb }

/-- R252, R253: a translation by the walk as memory stands; what the cache holds of an older entry stays in it. -/
def State.walkedLeaf (s : State) (cluster asid va : Nat) (write : Bool) : Except XFail (DWord × Nat) × State :=
  let w := s.walk asid va
  match w with
  | .error f => (.error f, s)
  | .ok l =>
      let s := s.tlbRoom cluster
      (.ok (l.word, l.bits),
       { s.touchLeaf l write with
         tlb := ⟨cluster, asid, l.base, l.bits, Pte.touched l.word write⟩ ::
                  s.tlb.filter fun e => !(e.covers cluster asid va && e.sameAs w) })

/-- R253: the choice among cached entries that system software has since changed, and the walk. -/
def State.chooseLeaf (s : State) (cluster asid va : Nat) (write : Bool) (l : List TlbEntry) :
    Except XFail (DWord × Nat) × State :=
  match l with
  | [] => s.walkedLeaf cluster asid va write
  | e :: r =>
      let (old, s) := s.freeBool
      if old then (.ok (e.leaf, e.bits), s) else s.chooseLeaf cluster asid va write r

/-- R253: the leaf an access of a cluster is translated by.  A cached entry that system software has
since changed may still serve, access by access, until a shootdown; a write needs one whose D is set (R252). -/
def State.leafFor (s : State) (cluster asid va : Nat) (write : Bool) :
    Except XFail (DWord × Nat) × State :=
  let w := s.walk asid va
  s.chooseLeaf cluster asid va write
    (s.tlb.filter fun e => e.covers cluster asid va && !e.sameAs w && (!write || Pte.d e.leaf))

/-- R254 steps 2 to 6 for one byte address; the answer is the physical address. -/
def State.translate (s : State) (cluster asid va : Nat) (k : XKind) : Except XFail Nat × State :=
  if 2 ^ 56 ≤ va then (.error .address, s)
  else if k.writes && s.pinned asid va then (.error .pinned, s)
  else
    match s.leafFor cluster asid va k.writes with
    | (.error f, s') => (.error f, s')
    | (.ok (leaf, n), s') =>
        let pa := leafPa leaf n va
        if !s.decodes pa then (.error .absent, s')
        else if !Pte.allows leaf k then (.error .denied, s')
        else (.ok pa, s')

/-- The cause and DETAIL that R254 gives a failed check that does not park. -/
def XFail.cause (f : XFail) (fetch : Bool) : Byte × Word :=
  if fetch then (0x08, 0)
  else match f with
    | .address => (0x0A, 0)
    | .pinned => (0x0E, 1)
    | .absent => (0x0D, 0)
    | .recoverable => (0x0D, 1)
    | .denied => (0x0E, 0)
    | .tile _ => (0x0D, 0)

/-! ### The journal -/

/-- The bytes an entry carries as plain data: where, and which. -/
def Entry.data (e : Entry) : Option (Nat × List Byte) :=
  match e.kind with
  | .store bs => some (e.pa, bs)
  | _ => none

/-- The size in bytes that an entry takes of a journal share (R178): its data (log 6). -/
def Entry.size (e : Entry) : Nat :=
  match e.kind with
  | .store bs => bs.length
  | .red _ ty _ _ _ => if ty = 4 ∨ ty = 8 then 8 else 4
  | .launch _ => 64
  | .define _ _ => 144
  | .link => 0

/-- R261: a reduction. -/
def Entry.isRed (e : Entry) : Bool := match e.kind with | .red .. => true | _ => false

/-- The bytes of memory that an entry writes: address and count. -/
def Entry.span (e : Entry) : Nat × Nat :=
  match e.kind with
  | .store bs => (e.pa, bs.length)
  | .red _ ty _ _ _ => (e.pa, if ty = 4 ∨ ty = 8 then 8 else 4)
  | _ => (e.pa, 0)

/-- R276: an accepted record that every slice it touches has applied; it takes effect then. -/
def Record.effective (r : Record) : Bool := r.accepted && r.left.isEmpty

/-- A record that carries the entry has taken effect: its bytes are committed (R276, R281). -/
def State.entryApplied (s : State) (e : Entry) : Bool :=
  match e.record with
  | none => false
  | some id => s.records.any fun r => r.id = id && r.effective

/-- The key slot of a tenant's ASID with its generation (R356). -/
def State.keyFor (s : State) (asid : Nat) : Nat × Nat :=
  let k := (s.tenant asid).getD 0
  (k, KMap.get s.keyGen 0 k)

/-- R280: the youngest journal byte of a core at a physical address, with the entry that holds it.  What has taken
effect is read as committed (R281); what a recipe slice has written is read by no one (R289). -/
def State.journalByte (s : State) (core pa : Nat) : Option (Byte × Entry) :=
  s.journal.foldl (fun acc e =>
    if e.core = core && !e.slice && !s.entryApplied e then
      match e.data with
      | some (a, bs) => if a ≤ pa ∧ pa < a + bs.length then some (bs.getD (pa - a) 0, e) else acc
      | none => acc
    else acc) none

/-- R261: the pools whose pending reductions cover a byte of a range in a core's journal. -/
def State.pendingReds (s : State) (core pa n : Nat) : List Nat :=
  (s.journal.filterMap fun e =>
    match e.kind with
    | .red .. =>
        if e.core = core && rangesOverlap e.span.1 e.span.2 pa n then some e.pool else none
    | _ => none).dedup

/-! ### Committed bytes and the caches -/

def lineOf (pa : Nat) : Nat := pa / 64
def cacheKey (unit line : Nat) : Nat := unit * 2 ^ 46 + line

/-- R190: a poisoned granule. -/
def State.poisonedLine (s : State) (line : Nat) : Bool := (KMap.find? s.poison line).isSome

/-- R356: whether a line reads back what was written when it is read under a key; none is the application die's
own access, by physical address, for no tenant (log 34). -/
def State.keyMatches (s : State) (key : Option (Nat × Nat)) (line : Nat) : Bool :=
  match KMap.find? s.keyOf line with
  | some k => key == some k
  | none => true

/-- R280: the copies of a line in the L1s of other cores that share a pool with this one go when the line is
filled anew: a CP's later read through them would be older than this one. -/
def State.dropShared (s : State) (core line : Nat) : State :=
  let shares (k : Nat) : Bool := k != core && s.pools.any fun e => e.2.cores.contains core && e.2.cores.contains k
  { s with l1 := s.l1.filter fun e => !(e.1 % 2 ^ 46 = line && shares (e.1 / 2 ^ 46)) }

/-- The line that holds a virtual address in an ASID. -/
def State.lineAt (s : State) (asid va : Nat) : Option Nat :=
  match s.walk asid va with
  | .ok l => some (lineOf (leafPa l.word l.bits va))
  | .error _ => none

/-- The lines of a tile, in ascending address. -/
def State.tileLines (s : State) (r : Recipe) : List Nat :=
  (List.range (r.tsize / 64)).filterMap fun i => s.lineAt r.asid (r.tbase + 64 * i)

/-- R339: the line belongs to a tile that is not held: what memory holds there is no value of it. -/
def State.tileDown (s : State) (line : Nat) : Bool :=
  s.recipes.any fun e => (e.2.state == .dropped || e.2.state == .regenerating) && (s.tileLines e.2).contains line

/-! ### The LLC (R294) -/

/-- R294: the way mask of a tenant at a slice; 0 until it is set (log 9). -/
def State.wayMask (s : State) (tenant slice : Nat) : BitVec 16 := KMap.get s.ways 0 (64 * tenant + slice)

/-- R294: the ways in which a fill on behalf of a tenant may be placed; of the application die's own accesses, all
that are no part of the reserve (log 36). -/
def State.fillWays (s : State) (tenant : Option Nat) (slice : Nat) : List Nat :=
  let l := ((List.range 12).map (4 + ·)).filter fun w => match tenant with
    | some t => (s.wayMask t slice).getLsbD w
    | none => true
  if l.isEmpty then [15] else l

/-- R332: a tile that is not dropped: a regeneration needs it, or its requesters have still to reissue. -/
def Recipe.isHeld (r : Recipe) : Bool := !r.holders.isEmpty || r.holdUntil.isSome

/-- R294, R329: the live recipe whose tile holds a line that is a Recipe line. -/
def State.residentTile (s : State) (line : Nat) : Option Recipe :=
  (s.recipes.map (·.2)).find? fun r => r.state == .resident && (s.tileLines r).contains line

/-- The lines of the LLC that stand in the same set of the same slice. -/
def State.llcSet (s : State) (line : Nat) : List (Nat × LlcLine) :=
  s.llc.filter fun e => homeSlice (64 * e.1) = homeSlice (64 * line) && Config.llcSet e.1 = Config.llcSet line

/-- R294: a line leaves the LLC: a Clean one is discarded; a Dirty or Poisoned one is written back, which memory holds
already; with a Recipe line its tile is to be dropped (R329).  The line's SC clock is kept for when it comes back (log
36). -/
def State.evictLlc (s : State) (line : Nat) : State :=
  { s with
    llc := KMap.del s.llc line
    evicted := match s.residentTile line with | some r => (s.evicted ++ [r.id]).dedup | none => s.evicted }

/-- R294: the way that a fill takes among some, with the line that leaves it: one that holds nothing, else that of the
line used least recently; none where all of them hold lines of held tiles (R332). -/
def State.pickWay (s : State) (line : Nat) (ways : List Nat) : Option (Nat × Option Nat) :=
  let there := s.llcSet line
  match ways.find? fun w => !there.any fun e => e.2.way = w with
  | some w => some (w, none)
  | none =>
      let may := there.filter fun e => ways.contains e.2.way && !((s.residentTile e.1).any Recipe.isHeld)
      (sortBy (fun (a b : Nat × LlcLine) => decide (a.2.used < b.2.used)) may).head?.map fun e => (e.2.way, some e.1)

/-- R294: a line taken into the LLC in one of some ways, in a state; it passes the LLC by where no way can be had
(log 36). -/
def State.putLlc (s : State) (line : Nat) (ways : List Nat) (st : LineState) : State :=
  match s.pickWay line ways with
  | none => s
  | some (w, old) =>
      let s := match old with | some o => s.evictLlc o | none => s
      { s with llc := KMap.put s.llc line ⟨st, w, s.now⟩ }

/-- R294: a read or a write of a tenant hits in any way, else it fills. -/
def State.touchLlc (s : State) (tenant : Option Nat) (line : Nat) (write : Bool) : State :=
  match KMap.find? s.llc line with
  | some l => { s with llc := KMap.put s.llc line { l with state := if write then .dirty else l.state, used := s.now } }
  | none => s.putLlc line (s.fillWays tenant (homeSlice (64 * line))) (if write then .dirty else .clean)

/-- R294: a read fills the LLC. -/
def State.fillLlc (s : State) (tenant line : Nat) : State := s.touchLlc (some tenant) line false

/-- The committed bytes of a line as its home slice gives them to a tenant. -/
def State.homeLine (s : State) (key : Nat × Nat) (line : Nat) : CacheLine × State :=
  if s.keyMatches (some key) line then
    (⟨Memory.readBytes s.mem (64 * line) 64, s.poisonedLine line, key⟩, s)
  else
    let (bs, s) := s.freeBytes 64
    (⟨bs, s.poisonedLine line, key⟩, s)

/-- R356: a committed byte as it reads under a key; a poisoned granule reads 0 (R190). -/
def State.byteUnder (s : State) (key : Option (Nat × Nat)) (pa : Nat) : Byte :=
  if s.poisonedLine (lineOf pa) then 0
  else if s.keyMatches key (lineOf pa) then Memory.read s.mem pa
  else Config.foreignByte s.fresh pa

/-- R287: a core has observed a clock. -/
def State.raiseClock (s : State) (core c : Nat) : State :=
  if c ≤ KMap.get s.scClock 0 core then s else { s with scClock := KMap.set s.scClock 0 core c }

/-- R287: the largest clock of some cores. -/
def State.clockOf (s : State) (cores : List Nat) : Nat := (cores.map (KMap.get s.scClock 0)).foldl max 0

/-- R287: a read served from a line raises the reading core's clock. -/
def State.observeClock (s : State) (core line : Nat) : State := s.raiseClock core (KMap.get s.lineClock 0 line)

/-- R296: a full directory evicts an entry, which of them is free, and marks its holders "drop all". -/
def State.evictDir (s : State) : State :=
  if s.dir.length < Config.directoryEntries then s
  else
    let (w, s) := s.freeWord
    let n := w.toNat % s.dir.length
    { s with
      dir := s.dir.eraseIdx n
      dropAll := s.dropAll ||| ((s.dir[n]?).map (·.2.holders)).getD 0 }

/-- R296: a fill by a cluster records it as a holder. -/
def State.fillDir (s : State) (cluster line : Nat) : State :=
  let r := line / 64
  let old := KMap.get s.dir ⟨0, 0⟩ r
  if old.holders.getLsbD cluster then s
  else
    let s := if (KMap.find? s.dir r).isSome then s else s.evictDir
    { s with
      dir := KMap.set s.dir ⟨0, 0⟩ r
        ⟨old.holders ||| BitVec.ofNat 64 (2 ^ cluster), old.written &&& ~~~BitVec.ofNat 64 (2 ^ cluster)⟩ }

/-- R3, R241: a cluster cache of 12 MiB takes one more line; which of its own goes is free. -/
def State.ccRoom (s : State) (cluster line : Nat) : State :=
  let mine := s.cc.filter fun e => e.1 / 2 ^ 46 = cluster && e.1 % 2 ^ 46 != line
  if mine.length < Config.clusterLines then s
  else
    let (w, s) := s.freeWord
    { s with cc := match mine[w.toNat % mine.length]? with | some e => KMap.del s.cc e.1 | none => s.cc }

/-- A line taken into the L1 of a core and the cluster cache. -/
def State.fillCaches (s : State) (core line : Nat) (l : CacheLine) : State :=
  let s := (s.dropShared core line).ccRoom (clusterOf core) line
  (({ s with
      l1 := KMap.put s.l1 (cacheKey core line) l
      cc := KMap.put s.cc (cacheKey (clusterOf core) line) l }).fillDir (clusterOf core) line).observeClock core line

/-- Whether a cached copy serves a read, where the home slice would give `m`: not one read under another key (R356);
one of a tile that is not held, which stands nowhere else, always; one that equals the home slice's, always; else it
may have been evicted, which is free (R243, R276). -/
def State.useCopy (s : State) (m : CacheLine) (line : Nat) (c : Option CacheLine) : Bool × State :=
  match c with
  | none => (false, s)
  | some l =>
      if l.key ≠ m.key then (false, s)
      else if l = m then (true, s)
      else if s.tileDown line then (true, s)
      else s.freeBool

/-- A committed line as a core reads it: from its L1 or the cluster cache, when a copy stands there and serves, else
from the home slice. `home`: the read is served at the home slice (R259). -/
def State.committedLine (s : State) (core : Nat) (key : Nat × Nat) (line : Nat) (home : Bool) :
    CacheLine × State :=
  let (m, s) := s.homeLine key line
  if home then (m, (s.fillLlc key.1 line).observeClock core line)
  else
    let c1 := KMap.find? s.l1 (cacheKey core line)
    let (u1, s) := s.useCopy m line c1
    if u1 then (c1.getD m, s.observeClock core line)
    else
      let c2 := KMap.find? s.cc (cacheKey (clusterOf core) line)
      let (u2, s) := s.useCopy m line c2
      if u2 then
        let s := s.dropShared core line
        (c2.getD m,
         ({ s with l1 := KMap.put s.l1 (cacheKey core line) (c2.getD m) }).observeClock core line)
      else (m, (s.fillLlc key.1 line).fillCaches core line m)

/-- Whether a core's caches may serve a line of a tile that is dropped (R339), read under a key (R356). -/
def State.cachedCopy (s : State) (core : Nat) (key : Nat × Nat) (line : Nat) : Option CacheLine :=
  match (KMap.find? s.l1 (cacheKey core line)).filter (·.key = key) with
  | some l => some l
  | none => (KMap.find? s.cc (cacheKey (clusterOf core) line)).filter (·.key = key)

/-- R262: a line filled into the cluster cache alone. -/
def State.fillCluster (s : State) (core : Nat) (key : Nat × Nat) (line : Nat) : State :=
  let cl := clusterOf core
  if ((KMap.find? s.cc (cacheKey cl line)).filter (·.key = key)).isSome then s
  else
    let (m, s) := s.homeLine key line
    let s := (s.fillLlc key.1 line).ccRoom cl line
    (({ s with cc := KMap.put s.cc (cacheKey cl line) m }).fillDir cl line).observeClock core line

/-! ### Code that is written while a pool is in place (R107) -/

/-- A word as it was before a committed write. -/
def Overwrite.undo (o : Overwrite) (pa : Nat) (w : List Byte) : List Byte :=
  w.zipIdx.map fun b =>
    if o.pa ≤ pa + b.2 && decide (pa + b.2 < o.pa + o.old.length) then o.old.getD (pa + b.2 - o.pa) 0 else b.1

/-- The values that a word has had, the newest first, before each of some committed writes, the newest of them
first. -/
def wordsBefore (pa : Nat) (w : List Byte) : List Overwrite → List (List Byte)
  | [] => []
  | o :: r => if o.undo pa w = w then wordsBefore pa w r else o.undo pa w :: wordsBefore pa (o.undo pa w) r

/-- R107: the values that a word of code has had since a pool was placed, as they read under its key. -/
def State.wordsSince (s : State) (placed : Nat) (key : Nat × Nat) (pa : Nat) : List (List Byte) :=
  wordsBefore pa ((List.range 4).map fun i => s.byteUnder (some key) (pa + i))
    ((s.overwritten.drop placed).reverse.filter fun o => o.key.all (· == key))

/-- R107: which of the values of a word is executed is free, word by word: one that it has had since, else the one
read. -/
def State.chooseWord (s : State) (read : List Byte) : List (List Byte) → List Byte × State
  | [] => (read, s)
  | w :: r =>
      let (old, s) := s.freeBool
      if old then (w, s) else s.chooseWord read r

/-! ### Records under way -/

/-- The bytes an atomic touches. -/
def Atom.size (a : Atom) : Nat := if a.ty = 4 ∨ a.ty = 8 then 8 else 4

/-- Whether a core may have read bytes of a range from a record: from its own journal, or because the record has taken
effect, or because its cluster has read the line early (R276). -/
def Record.gives (r : Record) (core pa n : Nat) : Bool :=
  r.recipe.isNone &&
  ((r.entries.any fun e => rangesOverlap e.span.1 e.span.2 pa n &&
    ((e.core == core && r.cluster.isSome) || r.effective ||
      (r.cluster == some (clusterOf core) && r.shown.contains (lineOf pa)))) ||
  (r.effective && r.atoms.any fun x => rangesOverlap x.pa x.size pa n))

/-- The records under way that a core may have read bytes of a range from. -/
def State.openRecs (s : State) (core pa n : Nat) : List Nat :=
  (s.records.filter fun r => r.gives core pa n).map (·.id)

/-- R300: a line of CXL memory that its slice holds until the device has acknowledged the write-back. -/
def State.lineHeld (s : State) (line : Nat) : Bool :=
  s.records.any fun r => r.effective && r.sys &&
    ((r.atoms.any fun x => decide (Config.cxlStart ≤ x.pa) && lineOf x.pa = line) ||
     r.entries.any fun e => e.isRed && decide (Config.cxlStart ≤ e.pa) && lineOf e.pa = line)

/-- R276 stage 2: the store bytes of accepted records of a cluster over a line that is not applied yet, in the order
of acceptance; whether a record is seen already is free, until it once has been.  What is read raises the core's
clock to the record's (R287); the bytes of another tenant are not served (R356). -/
def State.overlay (s : State) (core : Nat) (key : Nat × Nat) (line : Nat) (home : Bool) (l : List Record)
    (bs : List Byte) : List Byte × State :=
  match l with
  | [] => (bs, s)
  | r :: rest =>
      let es := (r.entries.filter fun e => s.keyFor e.asid = key).filterMap fun e =>
        e.data.filter fun d => lineOf d.1 = line
      if r.cluster ≠ some (clusterOf core) || !r.accepted || r.left.isEmpty || es.isEmpty || r.recipe.isSome then
        s.overlay core key line home rest bs
      else
        let was := r.shown.contains line
        let (now, s) := if was || home then (was, s) else s.freeBool
        if now then
          let s := if was then s else
            { s with records := s.records.map fun q => if q.id = r.id then { q with shown := q.shown ++ [line] } else q }
          let s := s.raiseClock core r.clock
          let bs := es.foldl (fun bs d => bs.zipIdx.map fun b =>
            if d.1 ≤ 64 * line + b.2 ∧ 64 * line + b.2 < d.1 + d.2.length then d.2.getD (64 * line + b.2 - d.1) 0 else b.1) bs
          s.overlay core key line home rest bs
        else s.overlay core key line home rest bs

/-- Records in the order of acceptance. -/
def bySeq (l : List Record) : List Record := sortBy (fun a b => decide (a.seq < b.seq)) l

/-- What a read of global memory answers. -/
structure ReadResult where
  bytes : List Byte
  poison : Bool
  /-- The pools whose uncommitted stores it read (R181), and the records under way whose bytes it may have read. -/
  from_ : List Nat
  recs : List Nat
  deriving DecidableEq, Repr

/-- A line as a core reads it: the committed copy, under the bytes of its cluster's records that are seen early. -/
def State.seenLine (s : State) (core : Nat) (key : Nat × Nat) (line : Nat) (home : Bool) : CacheLine × State :=
  let (l, s) := s.committedLine core key line home
  let (bs, s) := s.overlay core key line home (bySeq s.records) l.bytes
  ({ l with bytes := bs }, s)

/-- R356: a journal byte as a read under a key gets it: that of another tenant reads unspecified. -/
def State.forwarded (s : State) (key : Nat × Nat) (pa : Nat) (x : Byte × Entry) : Byte :=
  if s.keyFor x.2.asid = key then x.1 else Config.foreignByte s.fresh pa

/-- The bytes of an access of z bytes within one line, as a core reads them: journal entries of the core
first (R280), else committed; a poisoned granule gives 0 (R190); register space gives what the device
gives (a free value). -/
def State.readPhys (s : State) (core : Nat) (key : Nat × Nat) (pa z : Nat) (home : Bool) :
    ReadResult × State :=
  if portSpace pa then
    let (bs, s) := s.freeBytes z
    (⟨bs, false, [], []⟩, s)
  else
    let j := (List.range z).map fun i => s.journalByte core (pa + i)
    let from_ := (j.filterMap fun b => b.bind fun x => if x.2.record.isNone then some x.2.pool else none).dedup
    if j.all (·.isSome) then
      (⟨j.zipIdx.map fun b => (b.1.map (s.forwarded key (pa + b.2))).getD 0, false, from_, s.openRecs core pa z⟩, s)
    else
      let (l, s) := s.seenLine core key (lineOf pa) home
      (⟨(List.range z).map fun i =>
          match j.getD i none with
          | some x => s.forwarded key (pa + i) x
          | none => if l.poison then 0 else l.bytes.getD (pa % 64 + i) 0,
        l.poison, from_, s.openRecs core pa z⟩, s)

/-! ### Committed writes -/

/-- R356: a line written under another key loses its other bytes to that key. -/
def State.rekey (s : State) (key : Option (Nat × Nat)) (line : Nat) : State :=
  let s' := if s.keyMatches key line then s else
    let (bs, s) := s.freeBytes 64
    { s with
      mem := Memory.writeBytes s.mem (64 * line) bs
      l1 := s.l1.filter fun e => e.1 % 2 ^ 46 != line
      cc := s.cc.filter fun e => e.1 % 2 ^ 46 != line }
  { s' with keyOf := match key with | some k => KMap.put s'.keyOf line k | none => KMap.del s'.keyOf line }

/-- R242, R296: what a committed write to a line does to the caches, the directory and the watchers.  A copy is
updated to the line as it stands committed then (log 36); one under another key goes (R356).  `by_` is the core that
commits it, none for an agent outside every cluster. -/
def State.snoop (s : State) (by_ : Option Nat) (line : Nat) : State :=
  let own := by_.map clusterOf
  let r := line / 64
  let old := KMap.get s.dir ⟨0, 0⟩ r
  let others : BitVec 64 := match own with
    | some c => ~~~BitVec.ofNat 64 (2 ^ c)
    | none => ~~~0
  let fresh (k : Nat × Nat) : CacheLine := ⟨Memory.readBytes s.mem (64 * line) 64, s.poisonedLine line, k⟩
  let s := { s with
    dir := KMap.set s.dir ⟨0, 0⟩ r ⟨old.holders, old.written ||| (old.holders &&& others)⟩
    watch := KMap.del s.watch line }
  match by_ with
  | none => s
  | some core =>
      let foreign (c : CacheLine) : Bool := !s.keyMatches (some c.key) line
      { s with
        cc := KMap.modify (s.cc.filter fun e => !(e.1 = cacheKey (clusterOf core) line && foreign e.2))
          (cacheKey (clusterOf core) line) fun c => fresh c.key
        l1 := (s.l1.filter fun e =>
            !(e.1 % 2 ^ 46 = line && clusterOf (e.1 / 2 ^ 46) = clusterOf core && (e.1 / 2 ^ 46 != core || foreign e.2))).map
          fun e => if e.1 = cacheKey core line then (e.1, fresh e.2.key) else e }

/-- The bytes of a line as they stand for its own key, 0 in a poisoned granule (R190). -/
def State.standing (s : State) (pa n : Nat) : List Byte :=
  if s.poisonedLine (lineOf pa) then List.replicate n 0 else Memory.readBytes s.mem pa n

/-- R107: the bytes that a write within a line replaces are kept, where it changes them. -/
def State.noteOverwrite (s : State) (pa : Nat) (bs : List Byte) : State :=
  let old := s.standing pa bs.length
  if old = bs then s
  else { s with overwritten := s.overwritten ++ [⟨pa, old, KMap.find? s.keyOf (lineOf pa)⟩] }

/-- Committed bytes written within one line at its home slice: memory, the poison mark (R295: a write of a whole
granule clears it, several that cover it together do not: log 22), the line's clock (R287), the snoop. -/
def State.commitLine (s : State) (by_ : Option Nat) (key : Option (Nat × Nat)) (clock pa : Nat) (bs : List Byte) :
    State :=
  let line := lineOf pa
  let s := ((s.noteOverwrite pa bs).rekey key line).touchLlc (key.map (·.1)) line true
  let s := { s with
    mem := Memory.writeBytes s.mem pa bs
    poison := if bs.length = 64 then KMap.del s.poison line else s.poison
    lineClock := if KMap.get s.lineClock 0 line < clock then KMap.set s.lineClock 0 line clock
                 else s.lineClock }
  s.snoop by_ line

/-- Committed bytes written at a physical address, line by line. -/
def State.commitBytes (s : State) (by_ : Option Nat) (key : Option (Nat × Nat)) (clock pa : Nat) (bs : List Byte) :
    State :=
  let first := 64 - pa % 64
  let rec go (fuel : Nat) (s : State) (pa : Nat) (bs : List Byte) (n : Nat) : State :=
    match fuel with
    | 0 => s
    | f + 1 =>
        if bs.isEmpty then s
        else go f (s.commitLine by_ key clock pa (bs.take n)) (pa + n) (bs.drop n) 64
  go (bs.length + 1) s pa bs first

/-! ### Acquires and drops -/

/-- R243: the invalidation of an acquire at .die or wider by a CP of a cluster: the marked regions are
dropped from the cluster cache and its four L1s, all lines when more than 4,096 are marked or the
cluster is marked "drop all" (R296). -/
def State.invalidate (s : State) (cluster : Nat) : State :=
  let marked := s.dir.filterMap fun e => if e.2.written.getLsbD cluster then some e.1 else none
  let all := decide (4096 < marked.length) || s.dropAll.getLsbD cluster
  let gone (region : Nat) : Bool := all || marked.contains region
  let off : BitVec 64 := ~~~BitVec.ofNat 64 (2 ^ cluster)
  { s with
    cc := s.cc.filter fun e => !(e.1 / 2 ^ 46 = cluster && gone (e.1 % 2 ^ 46 / 64))
    l1 := s.l1.filter fun e => !(clusterOf (e.1 / 2 ^ 46) = cluster && gone (e.1 % 2 ^ 46 / 64))
    dir := (s.dir.map fun e =>
        if gone e.1 then (e.1, ⟨e.2.holders &&& off, e.2.written &&& off⟩) else e).filter
          fun e => e.2 != ⟨0, 0⟩
    dropAll := s.dropAll &&& off }

/-- R244: INV drops the lines of a physical range by scope; of the bits of a region that it covers it clears the
holder's alone (R296). -/
def State.dropLines (s : State) (core scope pa n : Nat) : State :=
  let hit (line : Nat) : Bool := rangesOverlap (64 * line) 64 pa n
  let cl := clusterOf core
  { s with
    l1 := s.l1.filter fun e =>
      !(hit (e.1 % 2 ^ 46) &&
        (if scope ≤ 1 then e.1 / 2 ^ 46 = core else clusterOf (e.1 / 2 ^ 46) = cl))
    cc := s.cc.filter fun e => !(hit (e.1 % 2 ^ 46) && 3 ≤ scope && e.1 / 2 ^ 46 = cl)
    dir := if scope ≤ 2 then s.dir else
      (s.dir.map fun e =>
        if pa ≤ 4096 * e.1 && 4096 * e.1 + 4096 ≤ pa + n then
          (e.1, ⟨e.2.holders &&& ~~~BitVec.ofNat 64 (2 ^ cl), e.2.written⟩)
        else e).filter fun e => e.2 != ⟨0, 0⟩ }

/-! ### System reads and writes -/

/-- A translation for the application die, a device, a peer or the carillon itself: the checks of R254 with
the R or W of R251, no cache (R320, R328, R340, R349). -/
def State.outsideTranslate (s : State) (asid va : Nat) (write : Bool) : Except XFail Nat :=
  if 2 ^ 56 ≤ va then .error .address
  else if write && s.pinned asid va then .error .pinned
  else match s.walk asid va with
    | .error f => .error f
    | .ok l =>
        let pa := leafPa l.word l.bits va
        if !s.isMemory pa && !portSpace pa then .error .absent
        else if (if write then Pte.w l.word else Pte.r l.word) then .ok pa else .error .denied

/-- R252: the walker's update of the leaf, for an access from outside every cluster. -/
def State.touchOutside (s : State) (asid va : Nat) (write : Bool) : State :=
  match s.walk asid va with
  | .ok l => s.touchLeaf l write
  | .error _ => s

/-- The same for the pages of a range. -/
def State.touchRange (s : State) (asid va n : Nat) (write : Bool) : State :=
  ((List.range ((va % 4096 + n + 4095) / 4096)).map fun i => max va (va / 4096 * 4096 + 4096 * i)).foldl
    (fun s a => s.touchOutside asid a write) s

/-- The same for the pages of several pieces that are written. -/
def State.touchWrites (s : State) (asid : Nat) (ws : List (Nat × Nat × List Byte)) : State :=
  ws.foldl (fun s w => s.touchOutside asid w.1 true) s

/-- The committed bytes of an ASID's range, where every page translates. -/
def State.outsideRead (s : State) (asid va n : Nat) : Option (List Byte) :=
  (List.range n).mapM fun i =>
    match s.outsideTranslate asid (va + i) false with
    | .ok pa => some (s.byteUnder (some (s.keyFor asid)) pa)
    | .error _ => none

end Sys2Proof.Machine
end

