-- ==== Sys2Proof/Machine/Journal.lean ====
section
/-! DEFINITION. The journal and its shares (R178), dependences (R181, R282), local checkpoints (R179),
commit records as a core forms them (R297), and rollback (R188). -/

namespace Sys2Proof.Machine

/-! ### Shares -/

/-- The pools with a part or scratchpad on a core (R174). -/
def State.resident (s : State) (core : Nat) : List Nat :=
  s.pools.filterMap fun e =>
    if e.2.cores.contains core || e.2.spadUnits.any (fun u => coreOf u.1 = core) then some e.1 else none

/-- R178: a resident pool's share of the journal, and of the undo log (R180), in bytes. -/
def shareOf (residents : Nat) : Nat := Config.journalBytes / max residents 1 / 256 * 256

def State.share (s : State) (core : Nat) : Nat := shareOf (s.resident core).length

/-- The bytes a pool holds in a core's journal: entries stay in it until the commit that applies them is done. -/
def State.journalHeld (s : State) (pool core : Nat) : Nat :=
  ((s.journal.filter fun e => e.pool = pool && e.core = core).map Entry.size).sum

def State.journalTotal (s : State) (core : Nat) : Nat :=
  ((s.journal.filter fun e => e.core = core).map Entry.size).sum

/-- The pools with entries in a core's journal that no commit record carries yet, oldest entries first. -/
def State.uncommitted (s : State) (core : Nat) : List Nat :=
  ((s.journal.filter fun e => e.core = core && e.record.isNone).map (·.pool)).eraseDups

/-- R180: the bytes a pool's undo log holds (log 6). -/
def Pool.undoHeld (p : Pool) : Nat :=
  4 * p.undoRegs.length + p.undoSpad.length + 4224 * p.undoTiles.length

/-! ### Dependences -/

/-- R282: the pools of whose earlier journal entries a pool overwrites a byte. -/
def State.commitDeps (s : State) (pool : Nat) : List Nat :=
  let rec go (before : List Entry) (l : List Entry) (acc : List Nat) : List Nat :=
    match l with
    | [] => acc
    | e :: r =>
        let acc := if e.pool = pool && e.record.isNone then
            acc ++ (before.filter fun b => b.pool != pool && b.core = e.core && b.record.isNone &&
              rangesOverlap b.span.1 b.span.2 e.span.1 e.span.2).map (·.pool)
          else acc
        go (before ++ [e]) r acc
  (go [] s.journal []).dedup

/-- R181, R282: what must commit with or before a pool, directly. -/
def State.directDeps (s : State) (pool : Nat) : List Nat :=
  ((match s.pool? pool with | some p => p.deps | none => []) ++ s.commitDeps pool).dedup.filter
    fun q => (s.pool? q).isSome

/-- The pools reachable by dependences, the pool itself first. -/
def State.reachDeps (s : State) (pool : Nat) : List Nat :=
  let rec go (fuel : Nat) (l : List Nat) : List Nat :=
    match fuel with
    | 0 => l
    | f + 1 =>
        let l' := (l ++ l.flatMap s.directDeps).dedup
        if l'.length = l.length then l else go f l'
  go s.pools.length [pool]

/-- The groups of pools to commit, in order: the pools of a cycle together, every other pool alone, and
each after the groups it depends on. -/
def State.commitGroups (s : State) (pool : Nat) : List (List Nat) :=
  let all := s.reachDeps pool
  let group (q : Nat) : List Nat :=
    let r := s.reachDeps q
    all.filter fun x => r.contains x && (s.reachDeps x).contains q
  let rec go (fuel : Nat) (left : List Nat) (out : List (List Nat)) : List (List Nat) :=
    match fuel with
    | 0 => out
    | f + 1 =>
        match left.find? (fun q => (s.reachDeps q).all fun x => (group q).contains x || !left.contains x) with
        | none => out
        | some q => go f (left.filter fun x => !(group q).contains x) (out ++ [group q])
  go all.length all []

/-! ### Checkpoints and records -/

/-- R280: an earlier store or reduction of a CP on these bytes that is not yet in the journal; `before` is the
number of the reading operation, none for a read at issue. -/
def Pool.ownWrite (p : Pool) (c : Nat) (before : Option Nat) (pa n : Nat) : Option Op :=
  p.ops.find? fun o => o.cp = c && (o.kind == .store || o.kind == .red) &&
    (match before with | some b => decide (o.id < b) | none => true) &&
    o.lanes.any fun l => rangesOverlap l.pa (if o.wide then 8 else 4) pa n

/-- An outstanding access that still has to reach memory: a store, an atomic that no slice has applied, or a lane of
a load that has not read. -/
def Op.unperformed (o : Op) (l : Lane) : Bool :=
  o.kind == .store || o.kind == .red || (o.kind == .vatom && o.got.isNone) ||
    ((o.kind == .load || o.kind == .sload) && l.x = 0 && !o.isParked)

/-- R287, R288: an `.sc` access of the same cores, earlier in the order of timestamps, to these bytes, that has not
been performed. -/
def State.scBefore (s : State) (p : Pool) (o : Op) (pa n : Nat) : Bool :=
  match o.stamp with
  | none => false
  | some me => s.pools.any fun e => e.2.cores.any p.cores.contains && e.2.ops.any fun x =>
      x.stamp.any (fun t => decide (t < me)) &&
      x.lanes.any fun l => x.unperformed l && rangesOverlap l.pa (if x.wide then 8 else 4) pa n

/-- R239: the core whose journal an access of a thread (or an SST) goes through. -/
def Op.coreFor (p : Pool) (o : Op) (l : Lane) : Nat :=
  if o.scalar || o.kind == .sload then p.cpCore o.cp else p.coreOfThread l.tid

/-- R178, R258: the journal entries of a store or reduction, in ascending tid. -/
def Op.entries (pid : Nat) (p : Pool) (o : Op) (release : Bool) : List Entry :=
  o.lanes.map fun l =>
    { pool := pid, cp := o.cp, core := o.coreFor p l, asid := p.task.asid, va := l.addr, pa := l.pa
      kind := match o.kind with
        | .red => .red o.aop o.ty o.rm o.sat l.y
        | _ => .store (toBytes l.y.toNat (if o.wide then 8 else 4))
      release := release, record := none, slice := p.rslice, scalar := o.scalar }

/-- R178: what the entries of one instruction wait for at a core: nothing; or the end of commits, of which those of
the pools named have still to be formed.  Entries within the pool's share enter at once, also where an oversize
instruction of another pool has left the journal without room: the rule makes room for an oversize one only (log 6).
-/
def State.journalNeed (s : State) (pool : Nat) (es : List Entry) (core : Nat) : Option (List Nat) :=
  let held := s.journalHeld pool core
  let new := ((es.filter fun e => e.core = core).map Entry.size).sum
  if held + new ≤ s.share core then none
  else if held ≠ 0 then some ((s.uncommitted core).filter (· = pool))
  else if s.journalTotal core + new ≤ Config.journalBytes then none
  else some ((s.uncommitted core).filter (· != pool)).head?.toList

/-- The core through which a lane of a load reads. -/
def Pool.laneCore (p : Pool) (o : Op) (l : Lane) : Nat :=
  if o.kind == .load then p.coreOfThread l.tid else p.cpCore o.cp

/-- R261, R280, R288, R300: a lane of a load that cannot read yet. -/
def State.laneWaits (s : State) (p : Pool) (o : Op) (l : Lane) : Bool :=
  let z := if o.wide then 8 else 4
  l.x = 0 && (!(s.pendingReds (p.laneCore o l) l.pa z).isEmpty ||
    (p.ownWrite o.cp (some o.id) l.pa z).isSome || s.scBefore p o l.pa z || s.lineHeld (lineOf l.pa))

/-- R261: the pools with reductions on a range in a core's journal that no commit record carries yet. -/
def State.uncommittedReds (s : State) (core pa n : Nat) : List Nat :=
  ((s.journal.filter fun e => e.core = core && e.record.isNone && e.isRed && rangesOverlap e.span.1 e.span.2 pa n).map
    (·.pool)).dedup

/-- R261: the pools for whose commit loads of a pool wait. -/
def State.redsAwaited (s : State) (pid : Nat) : List Nat :=
  match s.pool? pid with
  | none => []
  | some p => (p.ops.flatMap fun o => if o.kind == .load || o.kind == .sload then
      (o.lanes.filter (·.x = 0)).flatMap fun l => s.uncommittedReds (p.laneCore o l) l.pa (if o.wide then 8 else 4)
    else []).dedup

/-- The pools that a pool waits for in this way, at however many removes. -/
def State.redsReach (s : State) (pid : Nat) : List Nat :=
  let rec go (fuel : Nat) (l : List Nat) : List Nat :=
    match fuel with
    | 0 => l
    | f + 1 => go f (l ++ l.flatMap s.redsAwaited).dedup
  go s.pools.length [pid]

/-- R178: an outstanding store of a pool that waits for a commit which comes with or after the pool's own: its entries
have no room, or those of a store of its CP that enters before it. -/
def State.storeForces (s : State) (pid : Nat) (p : Pool) (o : Op) : Bool :=
  (p.ops.filter fun x => x.cp = o.cp && (x.kind == .store || x.kind == .red) && decide (x.id ≤ o.id)).any fun x =>
    let es := x.entries pid p false
    (es.map (·.core)).any fun k => ((s.journalNeed pid es k).getD []).any fun q => (s.reachDeps q).contains pid

/-- R179, R261: a load for which the commit of its pool does not wait, because it waits for that commit: for a
reduction of its own pool, or of one whose commit waits for this pool's; or for an earlier store of its CP that
waits for room in the journal (log 13). -/
def State.awaitsReds (s : State) (pid : Nat) (p : Pool) (o : Op) : Bool :=
  (o.kind == .load || o.kind == .sload) && o.lanes.any fun l => l.x = 0 &&
    (let z := if o.wide then 8 else 4
     (s.uncommittedReds (p.laneCore o l) l.pa z).any (fun q => (s.redsReach q).contains pid) ||
     (p.ownWrite o.cp (some o.id) l.pa z).any (s.storeForces pid p))

/-- R179, R232: whether a pool can take a local checkpoint: every result operation has completed, but
for parked loads and for those of `except`: the operation that is itself the commit point, and one whose
own completion waits for the commit; so has every matrix command. -/
def Pool.settled (p : Pool) (except : List Nat) : Bool :=
  p.ops.all (fun o => !o.kind.isResult || o.isParked || o.kind == .sysc || except.contains o.id) &&
  p.cmds.all (fun k => match k.kind with | .matrix _ => false | _ => true)

/-- R179, R185: an operation as it is saved: a parked gather with the indices read at its issue. -/
def Op.saved (o : Op) : Op :=
  match o.kind with
  | .gather md h _ => { o with kind := .gather md h none }
  | _ => o

/-- R179: the local checkpoint of a pool as it stands. -/
def Pool.checkpoint (p : Pool) : Pool :=
  { p with
    ckpt := ⟨p.cps, p.ops.map Op.saved, p.cmds.map (fun k => (k.id, k.plan)), p.task.signalled, p.started⟩
    undoRegs := []
    undoSpad := []
    undoTiles := []
    undoSince := none
    rollbacks := 0 }

/-- R299: the image of a pool.  A CP that waits for the record is past its commit point in it, and one
that ends with it has ended. -/
def Pool.toImage (p : Pool) : Image where
  cps := p.cps.map fun e => (e.1, match e.2.wait with
    | some (_, .endCp) => { e.2 with wait := none, status := .ended, stack := [] }
    | _ => { e.2 with wait := none })
  regs := p.regs
  spad := p.spad
  tiles := p.tiles
  ops := p.ops.map Op.saved
  cmds := p.cmds
  signalled := p.task.signalled
  started := p.started

/-- What a commit record carries besides the journal entries and the images. -/
structure Carry where
  atoms : List Atom := []
  /-- The pools that signal with it (R320). -/
  signals : List (Nat × Bool) := []
  stamp : Option (Nat × Nat) := none
  marks : Bool := false
  sys : Bool := false
  deriving DecidableEq, Repr

/-- R301: an entry that makes a RESTART pool non-replayable. -/
def Entry.marksPool (e : Entry) : Bool :=
  e.release || (match e.kind with | .store _ => false | _ => true)

/-- The slices a record touches; register space is never homed (R291). -/
def touched (es : List Entry) (atoms : List Atom) : List Nat :=
  (((es.map (·.pa) ++ atoms.map (·.pa)).filter fun a => a < Config.cxlEnd).map homeSlice).dedup

/-- R290: a write to a device: CXL memory or a port. -/
def Entry.toDevice (e : Entry) : Bool := decide (Config.cxlStart ≤ e.pa) && (match e.kind with | .link => false | _ => true)

/-- R300: a VATOM or a VRED on CXL memory, whose slice holds the line until the device has acknowledged. -/
def holdsLine (es : List Entry) (atoms : List Atom) : Bool :=
  (es.any fun e => e.isRed && decide (Config.cxlStart ≤ e.pa)) || atoms.any fun a => decide (Config.cxlStart ≤ a.pa)

/-- R300: an atomic on CXL memory. -/
def Atom.toDevice (a : Atom) : Bool := decide (Config.cxlStart ≤ a.pa)

/-- R181, R282: the records under way that are to take effect and complete before a record of a group of pools with
these entries: earlier ones of its pools, those whose bytes they have read, and those that wrote the same bytes of a
journal. -/
def State.before (s : State) (group : List Nat) (es : List Entry) : List Nat :=
  (s.records.filter fun r => r.pools.any group.contains ||
    group.any (fun q => (s.pool? q).any fun p => p.seen.contains r.id) ||
    r.entries.any fun b => es.any fun e => b.core = e.core && rangesOverlap b.span.1 b.span.2 e.span.1 e.span.2).map (·.id)

/-- R179, R297: one record of a group of pools that commit together.  It carries the largest clock of the cores whose
journals it takes from (R287, log 50). -/
def State.formRecord (s : State) (group : List Nat) (c : Carry) : Nat × State :=
  let (id, s) := s.takeId
  let es := s.journal.filter fun e => group.contains e.pool && e.record.isNone
  let home := (group.head?.bind s.pool?).map (·.homeCore)
  let cores := ((group.filterMap s.pool?).flatMap Pool.cores).dedup
  let recipe := (group.head?.bind s.pool?).bind (·.task.recipe)
  let r : Record := {
    id := id
    pools := group
    cluster := home.map clusterOf
    cores := cores
    asid := (group.head?.bind s.pool?).map (·.task.asid)
    entries := es
    atoms := c.atoms
    images := group.filterMap fun q => (s.pool? q).bind fun p =>
      if p.durable then some (q, p.toImage) else none
    signals := c.signals.filterMap fun x => (s.pool? x.1).map fun p => (x.1, x.2, p.task)
    clock := s.clockOf cores
    accepted := false
    seq := 0
    left := if recipe.isSome then [] else touched es c.atoms
    stamp := c.stamp
    sys := (c.sys && es.any Entry.toDevice) || holdsLine es c.atoms
    marks := c.marks || !c.atoms.isEmpty || es.any Entry.marksPool
    raised := []
    after := s.before group es
    drain := c.sys
    recipe := recipe }
  let s : State := { s with
    journal := s.journal.map fun e =>
      if group.contains e.pool && e.record.isNone then { e with record := some id } else e
    records := s.records ++ [r] }
  (id, ({ s with
    pools := s.pools.map fun e =>
      let p : Pool := { e.2 with
        deps := e.2.deps.filter fun d => !group.contains d
        seen := if e.2.deps.any group.contains then e.2.seen ++ [id] else e.2.seen }
      (e.1, if group.contains e.1 then p.checkpoint else p) } : State))

/-- The records a commit point of a pool needs, all but the last without anything to carry (R181,
R282).  None when some pool is not settled yet.  `except` is the operation that is itself the commit
point; `prep` is what the instruction does to the state before the checkpoint is taken, given the number
of its record. -/
def State.commitPool (s : State) (pool : Nat) (except : Option Nat) (c : Carry)
    (prep : Nat → State → State) : Option State :=
  let groups := s.commitGroups pool
  if groups.flatten.all fun q =>
      ((s.pool? q).map fun p => p.settled ((if q = pool then except.toList else []) ++
        (p.ops.filter (s.awaitsReds q p)).map (·.id))).getD true then
    let s' := prep (s.nextId + groups.length - 1) s
    some (groups.foldl (fun acc g => (acc.formRecord g (if g.contains pool then c else {})).2) s')
  else none

/-- A forced commit (R275) of a pool, where it can be taken now. -/
def State.forceCommit (s : State) (pool : Nat) : State :=
  (s.commitPool pool none {} fun _ s => s).getD s

/-- Bytes to be stored, cut at 64-byte lines (each entry then has one home slice). -/
def splitLines (pa : Nat) (bs : List Byte) : List (Nat × List Byte) :=
  let rec go (fuel pa : Nat) (bs : List Byte) : List (Nat × List Byte) :=
    match fuel with
    | 0 => []
    | f + 1 =>
        if bs.isEmpty then []
        else
          let n := 64 - pa % 64
          (pa, bs.take n) :: go f (pa + n) (bs.drop n)
  go (bs.length + 1) pa bs

/-- A record from outside every cluster (R276, R290): virtual and physical address and bytes of each write, or
an AtomicOp (R300).  It is accepted as it is made; those of one port take effect in their order (R349, R351). -/
def State.outsideRecord (s : State) (asid : Option Nat) (ws : List (Nat × Nat × List Byte)) (port : Option Nat := none)
    (atoms : List Atom := []) : Nat × State :=
  let (id, s) := s.takeId
  let es : List Entry := ws.flatMap fun w => (splitLines w.2.1 w.2.2).map fun e =>
    { pool := 0, cp := 0, core := 0, asid := asid.getD 0, va := w.1 + (e.1 - w.2.1), pa := e.1
      kind := .store e.2, release := false, record := some id }
  let r : Record := {
    id := id, pools := [], cluster := none, cores := [], asid := asid, entries := es, atoms := atoms
    images := [], signals := [], clock := 0, accepted := true, seq := id, left := touched es atoms
    stamp := none, sys := atoms.any Atom.toDevice, marks := false, raised := []
    after := if port.isNone then [] else (s.records.filter fun q => q.port = port).map (·.id)
    port := port }
  (id, { s with records := s.records ++ [r] })

/-! ### Entering the journal -/

/-- What the entry of one instruction's entries into the journals needs first. -/
inductive Enter where
  | entered (s : State)
  | commitFirst (pools : List Nat)

/-- R287: some cores have observed what the cores of a pool have, because other CPs read what the pool writes into
their journals, or follows on it, there (log 50). -/
def State.shareClock (s : State) (pool : Nat) (cores : List Nat) : State :=
  let t := s.clockOf (((s.pool? pool).map (·.cores)).getD [])
  cores.foldl (fun s k => s.raiseClock k t) s

/-- R178: the entries of one instruction enter together, or wait for forced commits to be done. -/
def State.enterJournal (s : State) (pool : Nat) (es : List Entry) : Enter :=
  match (es.map (·.core)).dedup.filterMap (s.journalNeed pool es) with
  | [] => .entered { s.shareClock pool (es.map (·.core)).dedup with journal := s.journal ++ es }
  | l => .commitFirst l.flatten.eraseDups

/-- R181: a pool has read uncommitted stores of others. -/
def State.addDeps (s : State) (pool : Nat) (from_ : List Nat) : State :=
  s.modPool pool fun p => { p with deps := (p.deps ++ from_.filter (· != pool)).dedup }

/-- R276, R279: a pool has read bytes of records under way. -/
def State.addSeen (s : State) (pool : Nat) (recs : List Nat) : State :=
  if recs.isEmpty then s else s.modPool pool fun p => { p with seen := (p.seen ++ recs).dedup }

/-! ### Rollback -/

/-- A CP restored from a checkpoint: a commit it waited for that is complete by now is done. -/
def Cp.settleWait (c : Cp) (open_ : List Nat) : Cp :=
  match c.wait with
  | some (r, a) =>
      if open_.contains r then c
      else match a with
        | .endCp => { c with wait := none, status := .ended, stack := [] }
        | _ => { c with wait := none }
  | none => c

/-- R188: the operations a rollback leaves outstanding: those of the checkpoint, but for atomics and services that
have since completed; a load that was parked then is parked again, whatever it has read since. -/
def Pool.rolledOps (p : Pool) : List Op :=
  p.ckpt.ops.filterMap fun o =>
    match p.ops.find? (·.id = o.id) with
    | some now => some (if o.isParked then o else now)
    | none => match o.kind with
        | .vatom | .sysc | .flush _ => none
        | _ => some o

/-- R180: a command was issued before the checkpoint. -/
def Ckpt.kept (k : Ckpt) (cmd : Nat) : Bool := (KMap.find? k.cmds cmd).isSome

/-- R188: one pool goes back to its local checkpoint.  A hold or a NOPRE interval that was open at the checkpoint is
discarded with those opened since (log 25). -/
def Pool.rollBack (p : Pool) (open_ : List Nat) : Pool :=
  { p with
    cps := p.ckpt.cps.map fun e =>
      let kept := p.cmds.filter fun k => k.cp = e.1 && p.ckpt.kept k.id
      let n (cls : Nat) : Nat := (kept.filter fun k => match k.kind with
        | .copy _ => cls = 0 | .gather _ => cls = 1 | .merge _ => cls = 2 | .matrix _ => cls = 3).length
      (e.1, { e.2.settleWait open_ with
        cpy := n 0, gth := n 1, mrg := n 2, mtx := n 3, holdLeft := 0, nopre := none })
    regs := p.undoRegs.foldl (fun m e => KMap.set m 0 e.1 e.2) p.regs
    spad := p.undoSpad.foldl (fun m e => KMap.set m 0 e.1 e.2) p.spad
    tiles := p.undoTiles.foldl (fun m e => KMap.put m e.1 e.2) p.tiles
    ops := p.rolledOps
    cmds := (p.cmds.filter fun k => p.ckpt.kept k.id).map fun k =>
      { k with plan := (KMap.find? p.ckpt.cmds k.id).getD none }
    started := p.ckpt.started
    task := { p.task with signalled := p.ckpt.signalled }
    undoRegs := []
    undoSpad := []
    undoTiles := []
    undoSince := none
    deps := []
    rollbacks := p.rollbacks + 1 }

/-- R181: some pools and every pool that depends on their uncommitted stores. -/
def State.dependents (s : State) (pools : List Nat) : List Nat :=
  let rec go (fuel : Nat) (l : List Nat) : List Nat :=
    match fuel with
    | 0 => l
    | f + 1 => go f (l ++ (s.pools.filter fun e => e.2.deps.any l.contains).map (·.1)).dedup
  (go s.pools.length pools).filter fun q => (s.pool? q).isSome

/-- R181: the pools that go back with a pool. -/
def State.rollVictims (s : State) (pool : Nat) : List Nat := s.dependents [pool]

/-- R188: some pools go back, each once; the journal entries of their intervals are discarded, but for those of
commands issued before the checkpoint (R180). -/
def State.rollBackAll (s : State) (vs : List Nat) : State :=
  let open_ := s.records.map (·.id)
  { s with
    pools := s.pools.map fun e => if vs.contains e.1 then (e.1, e.2.rollBack open_) else e
    journal := s.journal.filter fun e => !(vs.contains e.pool && e.record.isNone && !e.kept)
    log := s.log ++ vs.map .rollback }

/-- R188, R181: a pool and every pool that depends on its uncommitted stores go back. -/
def State.rollBack (s : State) (pool : Nat) : State := s.rollBackAll (s.rollVictims pool)

end Sys2Proof.Machine
end

