-- ==== Sys2Proof/Machine/Operands.lean ====
section
/-! DEFINITION. What an instruction sees when it issues: its pool and CP, the set it applies to, its
element type and rounding (R39, R109), its elements; and its outcome. -/

namespace Sys2Proof.Machine

/-- The issuing CP and its instruction. -/
structure Ctx where
  pid : Nat
  cid : Nat
  pool : Pool
  cp : Cp
  pfx : Option Prefix
  deriving DecidableEq, Repr

/-- What an instruction's own effect comes to. `done`: the next instruction follows. `jump`: a taken
branch. `stay`: the CP stands at the instruction. `trap`: R56. -/
inductive Res where
  | done (s : State)
  | jump (s : State) (target : DWord) (eff : Cp → Cp)
  | stay (s : State)
  | trap (cause : Byte) (tmask : Mask) (detail : Word) (addr : DWord)

/-- R104: the illegal-instruction trap of step 7 of R105. -/
def Res.illegal : Res := .trap 0x01 0 0 0

def Ctx.mode (c : Ctx) : Word := c.cp.topLevel.mode
def Ctx.fmt (c : Ctx) : Word := c.cp.topLevel.fmt

/-- R109: the type code in force. -/
def Ctx.tyCode (c : Ctx) : Nat :=
  match c.pfx with
  | some p => if p.type = 0 then bits 3 0 c.mode else p.type.toNat
  | none => bits 3 0 c.mode

def Ctx.ty (c : Ctx) : Ty := Ty.ofCode c.tyCode

/-- R109: the rounding code in force, before the width rule of R72. -/
def Ctx.rmCode (c : Ctx) : Nat :=
  match c.pfx with
  | some p => if p.rnd = 0 then bits 6 4 c.mode else p.rnd.toNat
  | none => bits 6 4 c.mode

def Ctx.rm (c : Ctx) : RMode := RMode.ofCode c.rmCode

/-- R96: MODE SAT. -/
def Ctx.sat (c : Ctx) : Bool := c.mode.getLsbD 7

/-- R109: 64-bit elements (types 4 and 8). -/
def Ctx.wide (c : Ctx) : Bool := c.tyCode = 4 || c.tyCode = 8

/-- R19, R39: the responders, the set the prefix names or else the top set. -/
def Ctx.set (c : Ctx) : Mask :=
  match c.pfx with
  | some p => if p.mask = 0 then c.cp.topLevel.mask else c.cp.mreg p.mask.toNat
  | none => c.cp.topLevel.mask

def Ctx.all (c : Ctx) : Mask := Mask.full c.pool.threads

/-- The responders in ascending tid (R32). -/
def Ctx.tids (c : Ctx) : List Nat := Mask.tids c.set c.pool.threads

/-- R19: the zero form. -/
def Ctx.zeroForm (c : Ctx) : Bool := match c.pfx with | some p => p.zero = 1 | none => false

/-- The non-responders that the zero form clears. -/
def Ctx.zeroSet (c : Ctx) : Mask := if c.zeroForm then c.all &&& ~~~c.set else 0

/-- R93: the fourth operand. -/
def Ctx.x (c : Ctx) : Nat := match c.pfx with | some p => p.x.toNat | none => 0

def Ctx.s (c : Ctx) (n : Byte) : DWord := c.cp.sreg n.toNat

/-- The core of the CP's partition, its cluster, the ASID and tenant key of the task. -/
def Ctx.core (c : Ctx) : Nat := c.pool.cpCore c.cid
def Ctx.asid (c : Ctx) : Nat := c.pool.task.asid

/-! ### Elements -/

/-- R109: the elements of an operand of thread t as numbers, element 0 first. -/
def Ctx.elems (c : Ctx) (w t n : Nat) : List Nat :=
  if w = 64 then [(c.pool.reg64 t n).toNat]
  else (List.range (32 / w)).map fun i => (c.pool.reg t n).toNat / 2 ^ (w * i) % 2 ^ w

/-- Elements packed into a register or pair, element 0 lowest (R59). -/
def packElems (w : Nat) (l : List Nat) : DWord :=
  BitVec.ofNat 64 (l.foldr (fun x acc => x % 2 ^ w + 2 ^ w * acc) 0)

/-- Element 0 of an operand: bits w−1:0, or the pair. -/
def Ctx.elem0 (c : Ctx) (w t n : Nat) : Nat :=
  if w = 64 then (c.pool.reg64 t n).toNat else (c.pool.reg t n).toNat % 2 ^ w

/-! ### Register runs (R26) -/

/-- A run of thread registers an instruction names: its first number, how many, whether it must be an
even-odd pair, and whether the instruction writes it. -/
structure Run where
  first : Nat
  len : Nat
  even : Bool
  deriving DecidableEq, Repr

def Run.ok (r : Run) (allot : Nat) : Bool :=
  r.len = 0 || ((!r.even || r.first % 2 = 0) && r.first + r.len ≤ allot)

def Run.has (r : Run) (n : Nat) : Bool := r.first ≤ n && n < r.first + r.len

/-- One operand register, a pair under a 64-bit type. -/
def run1 (wide : Bool) (n : Nat) : Run := ⟨n, if wide then 2 else 1, wide⟩

/-- A single 32-bit register whatever the type. -/
def run32 (n : Nat) : Run := ⟨n, 1, false⟩

/-- A CP changed in the state. -/
def Ctx.modCp (c : Ctx) (s : State) (f : Cp → Cp) : State := s.modCp c.pid c.cid f

def Ctx.modPool (c : Ctx) (s : State) (f : Pool → Pool) : State := s.modPool c.pid f

/-- A new top level pushed (R36), or the overflow trap of R37. -/
def Ctx.push (c : Ctx) (s : State) (m : Mask) : Res :=
  if 15 ≤ c.cp.levelIndex then .trap 0x02 0 0 0
  else .done (c.modCp s fun cp => { cp with stack := ⟨m, c.mode, c.fmt⟩ :: cp.stack })

end Sys2Proof.Machine
end

