-- ==== Sys2Proof/Machine/Access.lean ====
section
/-! DEFINITION. The checks of R254 on the accesses of an instruction, and what a parked access asks for
(R255, R332). -/

namespace Sys2Proof.Machine

/-! ### Parking -/

/-- R255: one fault record for an ASID and a 4 KiB virtual page. -/
def State.raiseFault (s : State) (asid va : Nat) : State :=
  if s.faults.contains (asid, va / 4096) then s
  else { s with faults := s.faults ++ [(asid, va / 4096)] }

/-- R329: the STATE codes. -/
def RState.code : RState → Nat
  | .resident => 1
  | .dropped => 2
  | .regenerating => 3
  | .anchored => 4
  | .failed => 5

/-- Bytes that the carillon writes at a virtual address of an ASID within one page: a record of its own, or
nothing where the page cannot be written. -/
def State.systemWrite (s : State) (asid : Nat) (page : Nat) (ws : List (Nat × List Byte)) : Option State :=
  match s.outsideTranslate asid page true with
  | .error _ => none
  | .ok pa => some ((s.touchOutside asid page true).outsideRecord (some asid) (ws.map fun w => (w.1, pa + (w.1 - page), w.2))).2

/-- R328, R330: the device's own fields written back into a recipe record; a page that is no longer
writable is logged.  `code` is STATE, 0 once the recipe is not live. -/
def State.writeBack (s : State) (r : Recipe) (code : Nat) : State :=
  let sizes := (List.range 4).flatMap fun i => toBytes (r.sizes.getD i 0).toNat 4
  (s.systemWrite r.asid r.record
    [(r.record + 0x0F, toBytes (code + 16 * r.err) 1),
     (r.record + 0x40, sizes ++ toBytes r.digest.toNat 8 ++ toBytes r.gen 8 ++ toBytes r.depth 4)]).getD
    (s.logEvent (.recipeWriteBack r.record))

/-- A recipe in a new state, written back. -/
def State.setRecipe (s : State) (r : Recipe) : State :=
  ({ s with recipes := KMap.put s.recipes r.id r } : State).writeBack r r.state.code

/-- R332: a read of a Dropped tile starts its regeneration, and that of each Dropped source tile; all requesters share
it.  `root` is the recipe whose walk this is, which began at `began`; `fuel` bounds the depth of the chain. -/
def State.requestFrom (s : State) (root r chain began : Nat) (fuel : Nat) : State :=
  match fuel with
  | 0 => s
  | f + 1 =>
      match KMap.find? s.recipes r with
      | none => s
      | some q =>
          if q.state = .dropped then
            let q' : Recipe := { q with
              state := .regenerating
              chain := chain
              root := root
              requested := s.time
              began := began
              admitted := false
              slice := none
              ended := false
              staging := []
              mismatches := 0
              lastCluster := none }
            let s : State := s.setRecipe q'
            q.tiles.foldl (fun s t => s.requestFrom root t chain began f) s
          else s

/-- R332: a tile is read while it is dropped.  Chains are numbered in the order in which they begin, no two alike
(log 31). -/
def State.requestTile (s : State) (r : Nat) : State :=
  let (chain, s) := s.takeId
  s.requestFrom r r chain s.time (s.recipes.length + 1)

/-- The request of one parked access. -/
def State.parkFor (s : State) (asid va : Nat) (f : XFail) : Park × State :=
  match f with
  | .tile r => (.tile r, s.requestTile r)
  | _ => (.page asid (va / 4096), s.raiseFault asid va)

/-- What a parked access waits for is asked for (R255, R332). -/
def State.askFor (s : State) (p : Park) : State :=
  match p with
  | .page asid v => s.raiseFault asid (4096 * v)
  | .tile r => s.requestTile r
  | .line _ => s

/-- Whether what a parked access waits for has come (R255, R332).  A tile that has been dropped again is requested
anew when the access is reissued (R338). -/
def State.parkOver (s : State) (p : Park) : Bool :=
  match p with
  | .page asid v => !s.faults.contains (asid, v)
  | .tile r =>
      match KMap.find? s.recipes r with
      | none => true
      | some q => q.state != .regenerating
  | .line l => !s.lineHeld l

/-! ### The checks of an instruction -/

/-- R333: where a recipe slice may read and write: each byte inside its tile, inside one of its sources. -/
def Ctx.sliceAllows (c : Ctx) (s : State) (va z : Nat) (write : Bool) : Bool :=
  match c.pool.task.recipe.bind (KMap.find? s.recipes ·) with
  | none => true
  | some r =>
      let ranges := if write then [(r.tbase, r.tsize)] else s.pinnedRanges r
      (List.range z).all fun i => ranges.any fun x => decide (x.1 ≤ va + i) && decide (va + i < x.1 + x.2)

/-- A failed check of one access: its place in the order of R254 (slice scope after step 2, log 7). -/
inductive Fail where
  | misaligned
  | scope
  | x (f : XFail)
  deriving DecidableEq, Repr

def Fail.order : Fail → Nat
  | .misaligned => 10
  | .x .address => 20
  | .scope => 25
  | .x .pinned => 30
  | .x .absent => 40
  | .x .recoverable => 50
  | .x .denied => 60
  | .x (.tile _) => 70

/-- The checks on one access of z bytes; the walk for a slice's store to its own tile sets no D (R289); a copy that
still stands in the caches of the core that reads serves a read of a dropped tile, while it is not evicted (R339). -/
def Ctx.checkOne (c : Ctx) (s : State) (va : Int) (z : Nat) (k : XKind) (core : Nat := c.core) : Except Fail Nat × State :=
  if va % z ≠ 0 then (.error .misaligned, s)
  else if va < 0 ∨ 2 ^ 56 ≤ va then (.error (.x .address), s)
  else
    let a := va.toNat
    if !c.sliceAllows s a z k.writes then (.error .scope, s)
    else
      let own := c.pool.task.recipe.isSome && k.writes
      let t := if own then s.leafFor c.pool.cluster c.asid a false |> fun r => match r with
          | (.error f, s') => (Except.error f, s')
          | (.ok (leaf, n), s') =>
              if !s'.decodes (leafPa leaf n a) then (.error .absent, s')
              else if !Pte.allows leaf k then (.error .denied, s')
              else (.ok (leafPa leaf n a), s')
        else s.translate (clusterOf c.core) c.asid a k
      match t with
      | (.error f, s') => (.error (.x f), s')
      | (.ok pa, s') =>
          if k.writes then (.ok pa, s')
          else match s'.droppedAt c.asid a with
            | none => (.ok pa, s')
            | some r =>
                match s'.cachedCopy core (s'.keyFor c.asid) (lineOf pa) with
                | none => (.error (.x (.tile r)), s')
                | some _ =>
                    let (kept, s') := s'.freeBool
                    if kept then (.ok pa, s') else (.error (.x (.tile r)), s'.dropLines core 3 pa z)

/-- R254, R333: the checks on bytes of one line that an engine moves; the scope of a slice holds for each of them. -/
def Ctx.checkChunk (c : Ctx) (s : State) (va n : Nat) (k : XKind) : Except Fail Nat × State :=
  if va < 2 ^ 56 && !c.sliceAllows s va n k.writes then (.error .scope, s) else c.checkOne s va 1 k

/-- What the checks on all accesses of an instruction come to. -/
inductive Checked where
  | ok (pas : List Nat) (s : State)
  | trap (cause : Byte) (tmask : Mask) (detail : Word) (addr : DWord)
  | park (p : Park) (s : State)

/-- R254: the accesses (tid and address) of an instruction are checked in order; the first check that any
of them fails decides, and TMASK names those that fail it.  For an instruction without threads
(`named` false) TMASK is empty.  Of several absent pages or dropped tiles the one of the lowest tid is reported and
waited for; the others are met when the access is reissued (log 18). -/
def Ctx.checkAll (c : Ctx) (s : State) (l : List (Nat × Int)) (z : Nat) (k : XKind) (named : Bool) : Checked :=
  let r := l.foldl (fun (acc : List (Nat × Int × Except Fail Nat) × State) e =>
    let (x, s') := c.checkOne acc.2 e.2 z k (if named then c.pool.coreOfThread e.1 else c.core)
    (acc.1 ++ [(e.1, e.2, x)], s')) ([], s)
  let fails := r.1.filterMap fun e => match e.2.2 with | .error f => some (e.1, e.2.1, f) | .ok _ => none
  match fails with
  | [] => .ok (r.1.filterMap fun e => match e.2.2 with | .ok pa => some pa | .error _ => none) r.2
  | f0 :: rest =>
      let worst := rest.foldl (fun m f => min m f.2.2.order) f0.2.2.order
      let these := fails.filter fun f => f.2.2.order = worst
      let first := these.headD f0
      let tm := if named then Mask.ofTids (these.map (·.1)) else 0
      let addr : DWord := BitVec.ofInt 64 first.2.1
      match first.2.2 with
      | .misaligned => .trap 0x09 tm 0 addr
      | .scope => .trap 0x0F tm 0 addr
      | .x (.tile t) => .park (s.parkFor c.asid first.2.1.toNat (.tile t)).1
          (r.2.parkFor c.asid first.2.1.toNat (.tile t)).2
      | .x .recoverable =>
          if k.writes && k != .engineWrite then .trap 0x0D tm 1 addr
          else .park (s.parkFor c.asid first.2.1.toNat .recoverable).1
            (r.2.parkFor c.asid first.2.1.toNat .recoverable).2
      | .x f => .trap (f.cause false).1 tm (f.cause false).2 addr

/-! ### Reading for a CP -/

/-- The bytes a core reads at a checked address: reductions that wait in its journal are to be committed
first (R261). -/
def State.readFor (s : State) (pid core asid pa z : Nat) (home : Bool) : ReadResult × State :=
  let (r, s) := s.readPhys core (s.keyFor asid) pa z home
  (r, (s.addDeps pid r.from_).addSeen pid r.recs)

end Sys2Proof.Machine
end

