-- ==== Sys2Proof/Machine/Issue.lean ====
section
/-! DEFINITION. Fetching code (R106), clause headers (R15 to R17), and the one wrapper through which
every instruction issues: the order of checks (R105), the interlocks (R18, R223, R266), holds (R45 to
R47), the slot's clocks, and the step to the next instruction. -/

namespace Sys2Proof.Machine

/-! ### Code -/

/-- What fetching a code word comes to. -/
inductive Fetched where
  | word (w : Word) (s : State)
  | fault (addr : DWord)
  | park (p : Park) (s : State)

/-- R106, R254: the code word at a word address, as committed, read by the CP's core: from a cached copy, which serves
for a dropped tile too (R339), else as it stands at the fetch, a line that its slice holds (R300) later; register
space is uncached (R291).  A word stored to since the pool was placed, after the first `placed` of the writes listed,
may be the one that stood there before (R107, log 49). -/
def State.fetchWord (s : State) (core asid placed : Nat) (pc : DWord) : Fetched :=
  let a := 4 * pc.toNat
  match s.translate (clusterOf core) asid a .fetch with
  | (.error _, _) => .fault (BitVec.ofNat 64 a)
  | (.ok pa, s') =>
      if portSpace pa then
        let (bs, s'') := s'.freeBytes 4
        .word (BitVec.ofNat 32 (ofBytes bs)) s''
      else match (if (s'.cachedCopy core (s'.keyFor asid) (lineOf pa)).isNone then s'.droppedAt asid a else none) with
        | some r => .park (s'.parkFor asid a (.tile r)).1 (s'.parkFor asid a (.tile r)).2
        | none =>
            if s'.lineHeld (lineOf pa) then .park (.line (lineOf pa)) s' else
            let (l, s'') := s'.committedLine core (s'.keyFor asid) (lineOf pa) false
            let bs := (List.range 4).map fun i => if l.poison then 0 else l.bytes.getD (pa % 64 + i) 0
            let (w, s3) := s''.chooseWord bs (s'.wordsSince placed (s'.keyFor asid) pa)
            .word (BitVec.ofNat 32 (ofBytes w)) s3

/-- R15: bits 31:26 = 111100. -/
def isHeader (w : Word) : Bool := bits 31 26 w = 0x3C

/-- Whether what a CP stands at lets it issue (again): it does not while it stands at a parked access
whose page or tile has not come (R255) or at a SYSC that Unquel has not done (R162). -/
def State.standOver (s : State) (p : Nat) (st : Stand) : Bool :=
  let op? (o : Nat) : Option Op := (s.pool? p).bind fun pool => pool.ops.find? (·.id = o)
  match st with
  | .load o _ _ => ((op? o).map fun x => !x.isParked).getD true
  | .sysc o _ => (op? o).isNone
  | .parkedIssue k | .parkedWatch k | .parkedFetch k => s.parkOver k
  | _ => true

/-- R184: every CP that has not ended stands at a blocking point, with no hold and no NOPRE interval open. -/
def Stand.blocks : Stand → Bool
  | .no | .stall | .parkedFetch _ => false
  | _ => true

def Pool.preemptable (p : Pool) : Bool :=
  (p.cps.all fun e => e.2.status == .ended || e.2.status == .idle ||
    (e.2.status == .running && e.2.stand.blocks && e.2.wait.isNone)) &&
  (p.cps.all fun e => !e.2.holding && e.2.nopre.isNone) &&
  p.cps.any fun e => e.2.status == .running

/-- R249: every CP of a cluster of the pool stands, and its test is about to begin: the pools are pre-empted first.
Once one has been, the others that stand are held until they are; a slice placed since runs (log 32). -/
def State.testHolds (s : State) (p : Nat) : Bool :=
  (s.pool? p).any fun q => q.parts.any fun x =>
    (KMap.find? s.tests (clusterOf (coreOf x))).any fun t => t.due.isSome && (t.ready || (t.cleared && !q.rslice && q.preemptable))

/-- Whether a CP of the pool can issue at all: it runs, waits for no commit, does not stand at something
parked, the package is not viral (R306), and no test holds its pool (R249). -/
def State.canIssue (s : State) (p c : Nat) : Bool :=
  match s.cp? p c with
  | some cp => cp.status == .running && cp.wait.isNone && s.viral.isNone && s.standOver p cp.stand && !s.testHolds p
  | none => false

/-! ### Standing and stalling -/

/-- A CP stands at something without issuing. -/
def State.standAt (s : State) (p c : Nat) (st : Stand) : State :=
  s.modCp p c fun cp => { cp with stand := st }

/-- A wait for an outstanding operation.  A wait for a parked load is a blocking point (R183), and with an
open hold it is a hold violation (R46); any other is a plain stall. -/
def State.waitOp (s : State) (p c : Nat) (pc : DWord) (o : Op) : State :=
  match s.cp? p c with
  | none => s
  | some cp =>
      if o.isParked then
        if cp.holding then s.takeTrap p c pc 0x04 0 0 0
        else s.standAt p c (.load o.id pc cp.clause)
      else s.standAt p c .stall

/-- A CP moves past an instruction of `n` words (R87), out of its clause at the clause's end. -/
def Cp.advance (cp : Cp) (n : Nat) : Cp :=
  let pc := cp.pc + BitVec.ofNat 64 n
  { cp with
    pc := pc
    clause := match cp.clause with
      | some cl => if cl.stop = pc then none else some cl
      | none => none
    stand := .no }

/-! ### Clause headers -/

/-- R15 to R17, R105 step 1: a CP that stands between clauses begins the clause at its PC, once no flag of its wait
mask is set and every unbound operation of the clause before it has completed (R16).  A CP whose start address is no
word address traps before it fetches anything, each time it is resumed (R106, R192).  A word that is no legal header
traps before any of these waits (log 52). -/
def State.beginClause (s : State) (p c : Nat) : State :=
  match s.pool? p, s.cp? p c with
  | some pool, some cp =>
      if !s.canIssue p c || cp.clause.isSome then s
      else if cp.skew ≠ 0 then s.takeTrap p c cp.pc 0x01 0 0 (4 * cp.pc + BitVec.ofNat 64 cp.skew)
      else
        match s.fetchWord (pool.cpCore c) pool.task.asid pool.placed cp.pc with
        | .fault a => s.takeTrap p c cp.pc 0x08 0 0 a
        | .park k s' => s'.standAt p c (.parkedFetch k)
        | .word w s' =>
            let len := bits 5 0 w
            let fa := bits 13 10 w
            let fb := bits 9 6 w
            let bad (f : Nat) : Bool := 12 ≤ f && f ≤ 14
            if !isHeader w || len = 0 || bad fa || bad fb then s.takeTrap p c cp.pc 0x01 0 0 0
            else
              let waits (o : Op) : Bool :=
                o.cp = c && o.kind != .sysc && (o.flag = 15 || (o.flag < 12 && w.getLsbD (14 + o.flag)))
              match pool.ops.find? (fun o => waits o && !o.isParked), pool.ops.find? waits with
              | some o, _ => s'.waitOp p c cp.pc o
              | none, some o => s'.waitOp p c cp.pc o
              | none, none =>
                  s'.modCp p c fun cp =>
                    { cp with
                      clause := some ⟨cp.pc, cp.pc + 1 + BitVec.ofNat 64 len, fa, fb⟩
                      pc := cp.pc + 1
                      stand := .no }
  | _, _ => s

/-! ### Instruction positions -/

/-- What stands at the PC of a CP inside a clause: an instruction, or a trap with its cause and PC
(R105 steps 2 to 4), or a fetch that parks. -/
inductive At where
  | instr (i : Instr) (s : State)
  | trap (cause : Byte) (pc : DWord)
  | park (p : Park) (s : State)

/-- The words of an instruction from the second on, read one by one. -/
def State.fetchRest (s : State) (core asid placed : Nat) (pc : DWord) (n : Nat) (acc : List Word) :
    Except (Option (Park × State)) (List Word × State) :=
  match n with
  | 0 => .ok (acc, s)
  | k + 1 =>
      match s.fetchWord core asid placed pc with
      | .fault _ => .error none
      | .park q s' => .error (some (q, s'))
      | .word w s' => s'.fetchRest core asid placed (pc + 1) k (acc ++ [w])

/-- R105 steps 2 to 4 at a PC inside a clause that ends before word address `stop`.  A fetch fault on a later word
has the PC of the instruction (log 52).  A prefix field that the instruction does not accept is left to step 5 (log
52). -/
def State.instrAt (s : State) (core asid placed : Nat) (pc header stop : DWord) : At :=
  match s.fetchWord core asid placed pc with
  | .fault _ => .trap 0x08 pc
  | .park q s' => .park q s'
  | .word w s' =>
      let pfx := bits 31 26 w = 0x3D
      if pfx && (bits 6 0 w ≠ 0 || pc + 1 = stop) then .trap 0x01 pc
      else
        let second : Except At (List Word × State) :=
          if !pfx then .ok ([w], s')
          else match s'.fetchRest core asid placed (pc + 1) 1 [w] with
            | .ok r => .ok r
            | .error none => .error (.trap 0x08 pc)
            | .error (some (q, s'')) => .error (.park q s'')
        match second with
        | .error a => a
        | .ok (ws, s1) =>
            let iw := ws.getLastD 0
            let opc := bits 31 24 iw
            if 0xF0 ≤ opc || !assigned opc then .trap 0x01 pc
            else
              let n := ws.length + extraWords opc
              if (stop - pc).toNat < n then .trap 0x01 header
              else
                match s1.fetchRest core asid placed (pc + BitVec.ofNat 64 ws.length) (extraWords opc) ws with
                | .error none => .trap 0x08 pc
                | .error (some (q, s'')) => .park q s''
                | .ok (all, s2) =>
                    match decode all with
                    | .ok (i, _) => .instr i s2
                    | .error _ => .trap 0x01 pc

/-! ### Issue -/

/-- How an instruction issues. -/
structure Shape where
  /-- R42. -/
  broadcast : Bool := false
  /-- A memory or scratchpad access, which waits for a pending acquire (R259). -/
  memory : Bool := false
  /-- The same for an instruction whose operands decide it (R200). -/
  memoryIf : Ctx → Bool := fun _ => false
  /-- The runs of thread registers it names (R26). -/
  runs : Ctx → List Run := fun _ => []
  /-- The scalar and mask registers it names (R18, R266). -/
  sregs : List Nat := []
  mregs : List Nat := []
  /-- Clocks of the broadcast slot per pass (R112, R135, R172). -/
  perPass : Ctx → Nat := fun _ => 1
  /-- The set that a broadcast is swept over (R40). -/
  sweep : Ctx → Mask := fun c => if c.zeroForm then c.all else c.set
  /-- What step 5 of R105 asks beyond the words themselves (R133). -/
  legal : Ctx → Bool := fun _ => true

/-- R40, R112, R135: the clocks that a broadcast over a set takes in part k: `per` for each nonzero word, one where
there is none. -/
def setClocks (set : Mask) (per k : Nat) : Nat :=
  let n := ((List.range 32).filter fun w => bits 31 0 (set.extractLsb' (1024 * k + 32 * w) 32) ≠ 0).length
  if n = 0 then 1 else n * per

/-- R169: the broadcast slots of the partitions of a pool, each with its clocks. -/
def Pool.broadcastSlots (p : Pool) (f : Nat → Nat) : List (Nat × Nat) :=
  (List.range p.parts.length).map fun k => (2 * p.parts.getD k 0, f k)

/-- The clocks that an instruction takes of the broadcast slot of part k. -/
def Ctx.partClocks (c : Ctx) (h : Shape) (k : Nat) : Nat := setClocks (h.sweep c) (h.perPass c) k

/-- R169: the slots an instruction takes, and for how many clocks: the broadcast slot of every part's
partition, or the other slot of its CP's. -/
def Ctx.slotTimes (c : Ctx) (h : Shape) : List (Nat × Nat) :=
  if h.broadcast then c.pool.broadcastSlots (c.partClocks h)
  else [(2 * c.pool.cpPartition c.cid + 1, 1)]

/-- R40, R169: the clocks until an instruction has left its slots, those of its slowest part. -/
def Ctx.slotClocks (c : Ctx) (h : Shape) : Nat := ((c.slotTimes h).map (·.2)).foldl max 1

/-- R18, R223: the thread registers a result operation or an MDRN is still to write. -/
def Op.awaits (o : Op) : List Run :=
  match o.kind with
  | .known | .load | .vatom => [run1 o.wide o.dest]
  | .sysc => [run1 true o.dest]
  | _ => []

def Op.awaitsS (o : Op) : Option Nat :=
  match o.kind with
  | .sload | .sknown => some o.dest
  | _ => none

def Run.meets (r q : Run) : Bool := 0 < r.len && 0 < q.len && r.first < q.first + q.len && q.first < r.first + r.len

/-- R18: the oldest operation of the CP on which an instruction stalls.  One that is not parked comes
first. -/
def Ctx.interlock (c : Ctx) (runs : List Run) (sregs : List Nat) : Option Op :=
  let hits (o : Op) : Bool :=
    o.cp = c.cid && (o.awaits.any (fun r => runs.any r.meets) ||
      (match o.awaitsS with | some n => sregs.contains n | none => false))
  match c.pool.ops.find? (fun o => hits o && !o.isParked) with
  | some o => some o
  | none => c.pool.ops.find? hits

/-- R223, R266: an outstanding MDRN or gather of the CP that writes a register of an instruction. -/
def Ctx.engineBlocks (c : Ctx) (runs : List Run) (mregs : List Nat) (k : Cmd) : Bool :=
  k.cp = c.cid && (match k.kind with
    | .matrix m => m.op == .mdrn && runs.any fun r => r.meets ⟨m.d, 32, false⟩
    | .gather g => mregs.contains g.md
    | _ => false)

/-- R223, R266: an instruction stalls on a register that an outstanding MDRN or gather of its CP writes. -/
def Ctx.engineInterlock (c : Ctx) (runs : List Run) (mregs : List Nat) : Bool :=
  c.pool.cmds.any (c.engineBlocks runs mregs)

/-- R183: every command that an instruction stalls on is a parked gather. -/
def Ctx.gatherParked (c : Ctx) (runs : List Run) (mregs : List Nat) : Bool :=
  (c.pool.cmds.filter (c.engineBlocks runs mregs)).all fun k =>
    k.park.isSome && (match k.kind with | .gather _ => true | _ => false)

/-- R182, R266: how many gathers of the CP are outstanding when the last that writes one of the mask registers has
completed; they complete in issue order. -/
def Ctx.gathersAfter (c : Ctx) (mregs : List Nat) : Nat :=
  ((c.pool.cmdsOf c.cid 1).reverse.takeWhile fun k => !(match k.kind with
    | .gather g => mregs.contains g.md | _ => false)).length

/-- R183, R266: the wait of an instruction for such a command: for a parked gather a blocking point, and with an
open hold a violation (R46); else a plain stall. -/
def Ctx.waitEngine (c : Ctx) (s : State) (runs : List Run) (mregs : List Nat) : State :=
  if !c.gatherParked runs mregs then s.standAt c.pid c.cid .stall
  else if c.cp.holding then s.takeTrap c.pid c.cid c.cp.pc 0x04 0 0 0
  else s.standAt c.pid c.cid (.counter 1 (c.gathersAfter mregs))

/-- R259: an acquire of the CP that has not completed. -/
def Ctx.acquiring (c : Ctx) : Option Op :=
  c.pool.ops.find? fun o => o.cp = c.cid && (o.ord = 1 || o.ord = 3)

/-- R45, R48: another CP's granted hold keeps this CP's broadcasts back. -/
def Ctx.heldByOther (c : Ctx) : Bool := c.pool.cps.any fun e => e.1 != c.cid && e.2.inUnit

/-- The mask register a prefix names. -/
def Ctx.pfxMask (c : Ctx) : List Nat :=
  match c.pfx with | some p => if p.mask = 0 then [] else [p.mask.toNat] | none => []

/-- R180: the bytes of undo log a pool holds on a core. -/
def Pool.undoOn (p : Pool) (core : Nat) : Nat :=
  4 * (p.undoRegs.filter fun e => p.coreOfThread (e.1 / 256) = core).length +
  (if core = p.homeCore then p.undoSpad.length else 0) +
  4224 * (p.undoTiles.filter fun e => coreOf (p.parts.getD (e.1 / 64) 0) = core).length

/-- R180: what is to be committed first where a write adds to some core's undo log and leaves more than the pool's
share there: the pool itself while it holds undo entries; then, where the log has no room for them all, the pool of
the core whose entries are the oldest (R178; log 6). -/
def State.undoNeed (before after : State) (p : Nat) : List Nat :=
  match before.pool? p, after.pool? p with
  | some b, some a =>
      let full := a.cores.filter fun k => decide (before.share k < a.undoOn k ∧ b.undoOn k < a.undoOn k)
      if full.isEmpty then []
      else if b.undoRegs.length ≠ 0 || b.undoSpad.length ≠ 0 || b.undoTiles.length ≠ 0 then [p]
      else (full.flatMap fun k =>
        let others := before.pools.filter fun e => e.1 != p && decide (0 < e.2.undoOn k)
        let oldest := sortBy (fun (x y : Nat × Pool) => decide (x.2.undoSince.getD before.now < y.2.undoSince.getD before.now)) others
        if Config.journalBytes < a.undoOn k + (others.map fun e => e.2.undoOn k).sum then (oldest.map (·.1)).head?.toList
        else []).dedup
  | _, _ => []

/-- R180: an engine command's writes would take some core's undo log above the pool's share. -/
def State.undoFull (before after : State) (p : Nat) : Bool :=
  match before.pool? p, after.pool? p with
  | some b, some a => a.cores.any fun k => decide (before.share k < a.undoOn k ∧ b.undoOn k < a.undoOn k)
  | _, _ => false

/-- A forced commit that a CP waits for (R178, R180): of each pool named, where it can be taken now; where none is
named, one is under way already. -/
def State.forceFor (s : State) (p c : Nat) (pools : List Nat) : State :=
  if pools.isEmpty then s.standAt p c .stall else
  pools.foldl (fun s q =>
    (s.commitPool q none {} fun id s =>
      s.modCp p c fun cp => { cp with wait := some (id, .go), stand := .stall }).getD
    (s.standAt p c .stall)) s

/-- The same for a completion point, where no CP waits: `except` is the operation that completes; what is still to
complete in the pool waits until the commit is done. -/
def State.forceUndo (s : State) (p : Nat) (except : Option Nat) (pools : List Nat) : State :=
  pools.foldl (fun s q => (s.commitPool q (if q = p then except else none) {} fun id s =>
    s.modPool p fun x => { x with undoWait := x.undoWait.filter (fun r => s.records.any (·.id = r)) ++ [id] }).getD s) s

/-- R180: a forced commit for the pool's undo entries is not done. -/
def State.undoForced (s : State) (p : Nat) : Bool :=
  (s.pool? p).any fun x => s.records.any fun r => x.undoWait.contains r.id

/-- What a taken branch comes to. -/
inductive Branched where
  | go (s : State)
  | wait (s : State)
  | noHeader

/-- A taken branch with its effect on the CP (R17, R22): the target must be a clause header.  A target that cannot
be fetched is found when the CP gets there (R106); while its fetch is parked the branch waits, with nothing of it
done. -/
def Ctx.branch (c : Ctx) (s : State) (target : DWord) (eff : Cp → Cp) : Branched :=
  let go (s : State) : Branched := .go (c.modCp s fun cp => { eff cp with pc := target, clause := none, stand := .no })
  match s.fetchWord c.core c.asid c.pool.placed target with
  | .word w s' => if isHeader w then go s' else .noHeader
  | .fault _ => go s
  | .park k s' => .wait (s'.standAt c.pid c.cid (.parkedFetch k))

/-- After an instruction's own effect: the next PC, the hold count (R45), the clocks of its slot (R169). -/
def Ctx.finish (c : Ctx) (h : Shape) (words : Nat) (s : State) : State :=
  let s := c.modCp s fun cp =>
    let cp := if h.broadcast && c.cp.holding then { cp with holdLeft := cp.holdLeft - 1, begun := true } else cp
    { cp.advance words with next := s.now + c.slotClocks h }
  (c.modPool s (fun p => if h.broadcast then { p with granted := c.cid } else p)).takeSlots (c.slotTimes h)

/-- The issue of an instruction of the focused CP.  A CP that cannot issue changes nothing.  A hold that has been
open too long comes before an interval that has, and both before the checks (log 53).  The waits for operands stand
before the conditions of step 7 that `body` checks, such as R110's, which R105 does not order: under an open hold an
operand that awaits a parked load gives the violation 0x04 first (log 53). -/
def issue (i : Instr) (h : Shape) (body : Ctx → State → Res) (s : State) :
    Host.Outcome State Fault Refusal :=
  let p := s.focus.1
  let c := s.focus.2
  match s.pool? p, s.cp? p c with
  | some pool, some cp =>
      if !s.canIssue p c || cp.clause.isNone then .next s
      else if cp.holding && 4096 < s.now - cp.holdSince then .next (s.takeTrap p c cp.pc 0x05 0 0 0)
      else if cp.nopre.any fun t => 65536 < s.now - t then .next (s.takeTrap p c cp.pc 0x06 0 0 0)
      else
        let x : Ctx := ⟨p, c, pool, cp, i.pfx⟩
        let runs := h.runs x
        if !i.wellFormed || !h.legal x then .next (s.takeTrap p c cp.pc 0x01 0 0 0)
        else if !runs.all (·.ok pool.allot) then .next (s.takeTrap p c cp.pc 0x01 0 0 0)
        else
          match x.interlock runs h.sregs with
          | some o => .next (s.waitOp p c cp.pc o)
          | none =>
              if x.engineInterlock runs (h.mregs ++ x.pfxMask) then .next (x.waitEngine s runs (h.mregs ++ x.pfxMask))
              else if h.broadcast && x.heldByOther then .next (s.standAt p c .stall)
              else
                match (if h.memory || h.memoryIf x then x.acquiring else none) with
                | some o => .next (s.waitOp p c cp.pc o)
                | none =>
                    match body x s with
                    | .done s' =>
                        match s.undoNeed s' p with
                        | [] => .next (x.finish h i.words s')
                        | ps => .next (s.forceFor p c ps)
                    | .jump s' target eff =>
                        match x.branch s' target eff with
                        | .go s'' => .next (s''.takeSlots (x.slotTimes h))
                        | .wait s'' => .next s''
                        | .noHeader => .next (s.takeTrap p c cp.pc 0x01 0 0 0)
                    | .stay s' => .next s'
                    | .trap cause tm detail addr => .next (s.takeTrap p c cp.pc cause tm detail addr)
  | _, _ => .next s

end Sys2Proof.Machine
end

