-- ==== Sys2Proof/Machine/Elements.lean ====
section
/-! DEFINITION. Operations on single elements (R114 to R121, R123 to R126, R199) and the frame in which
a thread instruction applies one to its responders (R109, R111). -/

namespace Sys2Proof.Machine

/-! ### Integer and floating-point elements -/

/-- R114: an exact integer result delivered modulo 2^w, or saturated. -/
def deliverInt (w : Nat) (signed sat : Bool) (i : Int) : Nat × Flags :=
  if sat then clampInt w signed i else (intBits w i, 0)

/-- R116: the three two-operand sums and products. -/
inductive Arith where
  | add | sub | mul
  deriving DecidableEq, Repr

def arith (op : Arith) (t : Ty) (rm : RMode) (sat : Bool) (x y : Nat) : Nat × Flags :=
  match t with
  | .int w s =>
      let a := intOf w s x
      let b := intOf w s y
      deliverInt w s sat (match op with | .add => a + b | .sub => a - b | .mul => a * b)
  | .flt f =>
      let a := f.decode x
      let b := f.decode y
      let e := match op with
        | .add => FVal.add rm a b
        | .sub => FVal.add rm a b.neg
        | .mul => FVal.mul a b
      let r := f.round rm sat e.1
      (r.1, r.2 ||| e.2)

/-- R115: the flags that special operands of a sum of products raise even beside a NaN: a product 0 × ∞,
opposite infinities among the terms that are no NaN. -/
def termFlags (terms : List FVal) : Flags :=
  flagIf (terms.any (· == .inf false) && terms.any (· == .inf true)) Flags.IV

/-- R116: a × b + c, rounded once. -/
def fma (t : Ty) (rm : RMode) (sat : Bool) (x y z : Nat) : Nat × Flags :=
  match t with
  | .int w s => deliverInt w s sat (intOf w s x * intOf w s y + intOf w s z)
  | .flt f =>
      let p := FVal.mul (f.decode x) (f.decode y)
      let e := FVal.add rm p.1 (f.decode z)
      let r := f.round rm sat e.1
      (r.1, r.2 ||| e.2 ||| p.2)

/-- R116: the high half of the exact product. -/
def mulHigh (w : Nat) (signed : Bool) (x y : Nat) : Nat :=
  intBits w ((intOf w signed x * intOf w signed y) / 2 ^ w)

/-- R117: whether x comes before y in the order of T, −0 before +0. -/
def before (t : Ty) (x y : Nat) : Bool :=
  match t with
  | .int w s => decide (intOf w s x < intOf w s y)
  | .flt f =>
      let a := f.decode x
      let b := f.decode y
      a.lt b || (a.isZero && b.isZero && a.isNeg && !b.isNeg)

/-- R117: VMIN (`max` false) and VMAX of two elements. -/
def minMax (max : Bool) (t : Ty) (x y : Nat) : Nat × Flags :=
  let pick : Nat := if max then (if before t x y then y else x) else (if before t y x then y else x)
  match t with
  | .int .. => (pick, 0)
  | .flt f =>
      let a := f.decode x
      let b := f.decode y
      let fl := flagIf (a.isSignalling || b.isSignalling) Flags.IV
      if a.isNan && b.isNan then (f.nanCode, fl)
      else if a.isNan then (y, fl)
      else if b.isNan then (x, fl)
      else (pick, fl)

/-- R118. -/
def absElem (t : Ty) (sat : Bool) (x : Nat) : Nat × Flags :=
  match t with
  | .int w s => if s then deliverInt w s sat (intOf w s x).natAbs else (x, 0)
  | .flt f =>
      let a := f.decode x
      if a.isNan then (f.nanCode, flagIf a.isSignalling Flags.IV) else (x % 2 ^ (f.width - 1), 0)

/-- R118. -/
def negElem (t : Ty) (sat : Bool) (x : Nat) : Nat × Flags :=
  match t with
  | .int w s => deliverInt w s sat (-(intOf w s x))
  | .flt f =>
      let a := f.decode x
      if a.isNan then (f.nanCode, flagIf a.isSignalling Flags.IV) else (x ^^^ 2 ^ (f.width - 1), 0)

/-- R119. -/
def clampElem (t : Ty) (x lo hi : Nat) : Nat × Flags :=
  let a := minMax true t x lo
  let b := minMax false t a.1 hi
  (b.1, a.2 ||| b.2)

/-- R120: the exact sum of four products and an addend of one kind of value. -/
def dotFloat (fa fb : Fmt) (rm : RMode) (sat : Bool) (a b z : Nat) : Nat × Flags :=
  let ps := (List.range 4).map fun i =>
    FVal.mul (fa.decode (a / 2 ^ (8 * i) % 256)) (fb.decode (b / 2 ^ (8 * i) % 256))
  let c := Fmt.decode .fp32 z
  let terms := ps.map (·.1) ++ [c]
  let e := FVal.sum rm terms
  let r := Fmt.round .fp32 rm sat e.1
  (r.1, r.2 ||| e.2 ||| termFlags terms ||| (ps.foldl (fun f p => f ||| p.2) 0))

def dotInt (signed sat : Bool) (a b z : Nat) : Nat × Flags :=
  let ps := (List.range 4).map fun i =>
    intOf 8 signed (a / 2 ^ (8 * i)) * intOf 8 signed (b / 2 ^ (8 * i))
  deliverInt 32 signed sat (ps.foldl (· + ·) 0 + intOf 32 signed z)

/-- R121: a × 2^(e − 127). -/
def scaleElem (f : Fmt) (rm : RMode) (sat : Bool) (x e : Nat) : Nat × Flags :=
  match scaleExp e with
  | none => (f.nanCode, Flags.NANSCALE)
  | some k => f.round rm sat ((f.decode x).scale k)

/-! ### Shifts and bits (R123 to R125) -/

inductive Shift where
  | shl | shr | sar | rot
  deriving DecidableEq, Repr

/-- R123: the count is modulo the lane width. -/
def shiftElem (op : Shift) (w x n : Nat) : Nat :=
  let k := n % w
  match op with
  | .shl => x * 2 ^ k % 2 ^ w
  | .shr => x / 2 ^ k
  | .sar => intBits w (intOf w true x / 2 ^ k)
  | .rot => (x * 2 ^ k % 2 ^ w) ||| (x / 2 ^ (w - k))

/-- The indexes of the 1 bits of a w-bit element, lowest first. -/
def oneBits (w x : Nat) : List Nat := (List.range w).filter fun i => x.testBit i

def popcount (w x : Nat) : Nat := (oneBits w x).length
def clz (w x : Nat) : Nat := if x = 0 then w else w - 1 - Nat.log2 x
def ctz (w x : Nat) : Nat := (oneBits w x).headD w
def fns (w x n : Nat) : Nat := (oneBits w x).getD n (2 ^ w - 1)
def brev (w x : Nat) : Nat := (oneBits w x).foldl (fun acc i => acc + 2 ^ (w - 1 - i)) 0

/-- R125: the length of the field cut to the element. -/
def fieldLen (w pos len : Nat) : Nat := if w ≤ pos then 0 else min len (w - pos)

def bfx (w : Nat) (signed : Bool) (x pos len : Nat) : Nat :=
  let l := fieldLen w pos len
  if l = 0 then 0
  else
    let v := x / 2 ^ pos % 2 ^ l
    if signed then intBits w (intOf l true v) else v

def bfi (w old x pos len : Nat) : Nat :=
  let l := fieldLen w pos len
  let m := (2 ^ l - 1) * 2 ^ pos
  (old &&& (2 ^ w - 1 - m)) ||| (x % 2 ^ l * 2 ^ pos)

/-! ### Comparison (R101, R126) -/

/-- R101 codes 0 to 7 on elements x and k; IV as R126 states. -/
def compare (cond : Nat) (t : Ty) (x k : Nat) : Bool × Flags :=
  let w := t.width
  if cond = 6 then (decide (x % 2 ^ w < k % 2 ^ w), 0)
  else if cond = 7 then (decide (k % 2 ^ w ≤ x % 2 ^ w), 0)
  else
    match t with
    | .int w s =>
        let a := intOf w s x
        let b := intOf w s k
        (match cond with
          | 0 => decide (a = b)
          | 1 => decide (a ≠ b)
          | 2 => decide (a < b)
          | 3 => decide (a ≤ b)
          | 4 => decide (b < a)
          | _ => decide (b ≤ a), 0)
    | .flt f =>
        let a := f.decode x
        let b := f.decode k
        let nan := a.isNan || b.isNan
        let sig := a.isSignalling || b.isSignalling
        match cond with
        | 0 => (a.eq b, flagIf sig Flags.IV)
        | 1 => (!a.eq b, flagIf sig Flags.IV)
        | 2 => (a.lt b, flagIf nan Flags.IV)
        | 3 => (!nan && !b.lt a, flagIf nan Flags.IV)
        | 4 => (b.lt a, flagIf nan Flags.IV)
        | _ => (!nan && !a.lt b, flagIf nan Flags.IV)

/-! ### Atomics (R199) -/

/-- R199: what an atomic operation stores, from the old value, the operand y and the new value x of
cas, on elements of type code `ty` (3, 4, 7, 8, 11), with the flags of an FP32 add, min or max. -/
def atomicElem (op ty : Nat) (rm : RMode) (sat : Bool) (old y x : Nat) : Nat × Flags :=
  let t := Ty.ofCode ty
  match op with
  | 0 => match t with
      | .int w _ => ((old + y) % 2 ^ w, 0)
      | .flt _ => arith .add t rm sat old y
  | 1 => minMax false t old y
  | 2 => minMax true t old y
  | 3 => (old &&& y, 0)
  | 4 => (old ||| y, 0)
  | 5 => (old ^^^ y, 0)
  | 6 => (y, 0)
  | _ => (if old = y then x else old, 0)

/-! ### The frame of a thread instruction -/

/-- R110: the classes. -/
def classNumeric (c : Nat) : Bool := (1 ≤ c && c ≤ 11) || c = 15
def classInteger (c : Nat) : Bool := (1 ≤ c && c ≤ 8) || c = 15
def classNarrow (c : Nat) : Bool := [1, 2, 5, 6, 9, 10, 12, 13, 14, 15].contains c

/-- Results written to v_d of the responders and zeros to the non-responders of a zero form (R19, R111);
the flags raised in the CP (R85). -/
def Ctx.write (c : Ctx) (s : State) (wide : Bool) (d : Nat) (vals : List (Nat × DWord)) (fl : Flags) : Res :=
  .done (c.modCp (c.modPool s fun p => (p.zeroElems wide d c.zeroSet).setElems wide d vals)
    fun cp => cp.raise fl)

/-- An element-wise instruction: `f` on the elements with one index of the operand registers `srcs`. -/
def Ctx.lanewise (c : Ctx) (s : State) (w : Nat) (d : Nat) (srcs : List Nat)
    (f : List Nat → Nat × Flags) : Res :=
  let l := if w = 64 then 1 else 32 / w
  let one (t : Nat) : DWord × Flags :=
    let ops := srcs.map (c.elems w t)
    let rs := (List.range l).map fun i => f (ops.map fun o => o.getD i 0)
    (packElems w (rs.map (·.1)), rs.foldl (fun acc r => acc ||| r.2) 0)
  let rs := c.tids.map fun t => (t, one t)
  c.write s (w = 64) d (rs.map fun r => (r.1, r.2.1)) (rs.foldl (fun acc r => acc ||| r.2.2) 0)

/-- R109: the element width of the bitwise instructions. -/
def Ctx.bitWidth (c : Ctx) : Nat := if c.wide then 64 else 32

/-- A thread instruction whose operand registers follow the element type. -/
def threadShape (regs : List Nat) (perPass : Ctx → Nat) (fourth : Bool := false) : Shape where
  broadcast := true
  runs := fun c => (regs ++ if fourth then [c.x] else []).map (run1 c.wide)
  perPass := perPass

/-- R112: 1 clock, or `n` under a 64-bit type. -/
def clocksWide (n : Nat) (c : Ctx) : Nat := if c.wide then n else 1

/-- An element-wise instruction of a type class, elements of the type's own width. -/
def execLanes (i : Instr) (cls : Nat → Bool) (clocks : Ctx → Nat) (d : Byte) (srcs : List Nat)
    (fourth : Bool) (f : Ctx → List Nat → Nat × Flags) (s : State) : Host.Outcome State Fault Refusal :=
  issue i (threadShape (d.toNat :: srcs) clocks fourth) (fun c s =>
    if !cls c.tyCode then .illegal
    else c.lanewise s c.ty.width d.toNat (srcs ++ if fourth then [c.x] else []) (f c)) s

/-- A bitwise instruction: any type, elements of 32 or 64 bits (R109). -/
def execBits (i : Instr) (d : Byte) (srcs : List Nat) (fourth : Bool)
    (f : Ctx → List Nat → Nat) (s : State) : Host.Outcome State Fault Refusal :=
  issue i (threadShape (d.toNat :: srcs) (fun _ => 1) fourth) (fun c s =>
    c.lanewise s c.bitWidth d.toNat (srcs ++ if fourth then [c.x] else []) fun l => (f c l, 0)) s

def anyType (_ : Nat) : Bool := true

end Sys2Proof.Machine
end

