-- ==== Sys2Proof/Machine/Control.lean ====
section
/-! DEFINITION. Scalar arithmetic, status, MODE and FMT, and control flow: opcodes 0x01, 0x03 to 0x23
and 0x26 to 0x2D (06: R137, R138, R141, R143 to R146). -/

namespace Sys2Proof.Machine

/-- A scalar instruction that writes s_d (R137, R138). -/
def execScalar (i : Instr) (d : Byte) (srcs : List Byte) (f : Ctx → DWord) :
    State → Host.Outcome State Fault Refusal :=
  issue i { sregs := (d :: srcs).map (·.toNat) } fun c s =>
    .done (c.modCp s fun cp => cp.setS d.toNat (f c))

def execNop (p : Option Prefix) : State → Host.Outcome State Fault Refusal :=
  issue (.nop p) {} fun _ s => .done s

/-! ### Scalar arithmetic (R137, R138) -/

def execSadd (p : Option Prefix) (d a b : Byte) : State → Host.Outcome State Fault Refusal :=
  execScalar (.sadd p d a b) d [a, b] fun c => c.s a + c.s b

def execSsub (p : Option Prefix) (d a b : Byte) : State → Host.Outcome State Fault Refusal :=
  execScalar (.ssub p d a b) d [a, b] fun c => c.s a - c.s b

def execSmul (p : Option Prefix) (d a b : Byte) : State → Host.Outcome State Fault Refusal :=
  execScalar (.smul p d a b) d [a, b] fun c => c.s a * c.s b

def execSmulh (p : Option Prefix) (d a b : Byte) : State → Host.Outcome State Fault Refusal :=
  execScalar (.smulh p d a b) d [a, b] fun c =>
    BitVec.ofNat 64 (mulHigh 64 true (c.s a).toNat (c.s b).toNat)

def execSand (p : Option Prefix) (d a b : Byte) : State → Host.Outcome State Fault Refusal :=
  execScalar (.sand p d a b) d [a, b] fun c => c.s a &&& c.s b

def execSor (p : Option Prefix) (d a b : Byte) : State → Host.Outcome State Fault Refusal :=
  execScalar (.sor p d a b) d [a, b] fun c => c.s a ||| c.s b

def execSxor (p : Option Prefix) (d a b : Byte) : State → Host.Outcome State Fault Refusal :=
  execScalar (.sxor p d a b) d [a, b] fun c => c.s a ^^^ c.s b

def execSshl (p : Option Prefix) (d a b : Byte) : State → Host.Outcome State Fault Refusal :=
  execScalar (.sshl p d a b) d [a, b] fun c => c.s a <<< ((c.s b).toNat % 64)

def execSshr (p : Option Prefix) (d a b : Byte) : State → Host.Outcome State Fault Refusal :=
  execScalar (.sshr p d a b) d [a, b] fun c => c.s a >>> ((c.s b).toNat % 64)

def execSsar (p : Option Prefix) (d a b : Byte) : State → Host.Outcome State Fault Refusal :=
  execScalar (.ssar p d a b) d [a, b] fun c => (c.s a).sshiftRight ((c.s b).toNat % 64)

def execSmin (p : Option Prefix) (d a b : Byte) : State → Host.Outcome State Fault Refusal :=
  execScalar (.smin p d a b) d [a, b] fun c => if (c.s b).toInt < (c.s a).toInt then c.s b else c.s a

def execSmax (p : Option Prefix) (d a b : Byte) : State → Host.Outcome State Fault Refusal :=
  execScalar (.smax p d a b) d [a, b] fun c => if (c.s a).toInt < (c.s b).toInt then c.s b else c.s a

/-- R138: bit c is 1 when condition code c holds, for c from 0 to 7. -/
def conditionWord (x k : DWord) : DWord :=
  BitVec.ofNat 64 ((List.range 8).foldl (fun acc code =>
    acc + (if (compare code (.int 64 true) x.toNat k.toNat).1 then 2 ^ code else 0)) 0)

def execScmp (p : Option Prefix) (d a b : Byte) : State → Host.Outcome State Fault Refusal :=
  execScalar (.scmp p d a b) d [a, b] fun c => conditionWord (c.s a) (c.s b)

def execSsel (p : Option Prefix) (d a b : Byte) : State → Host.Outcome State Fault Refusal :=
  execScalar (.ssel p d a b) d [a, b] fun c => if c.s d ≠ 0 then c.s a else c.s b

def execSmov (p : Option Prefix) (d a : Byte) : State → Host.Outcome State Fault Refusal :=
  execScalar (.smov p d a) d [a] fun c => c.s a

def execSli (p : Option Prefix) (d : Byte) (lo hi : Word) : State → Host.Outcome State Fault Refusal :=
  execScalar (.sli p d lo hi) d [] fun _ => hi ++ lo

def execSpopc (p : Option Prefix) (d a : Byte) : State → Host.Outcome State Fault Refusal :=
  execScalar (.spopc p d a) d [a] fun c => BitVec.ofNat 64 (popcount 64 (c.s a).toNat)

def execSclz (p : Option Prefix) (d a : Byte) : State → Host.Outcome State Fault Refusal :=
  execScalar (.sclz p d a) d [a] fun c => BitVec.ofNat 64 (clz 64 (c.s a).toNat)

def execSfns (p : Option Prefix) (d a b : Byte) : State → Host.Outcome State Fault Refusal :=
  execScalar (.sfns p d a b) d [a, b] fun c => BitVec.ofNat 64 (fns 64 (c.s a).toNat (c.s b).toNat)

def execSbrev (p : Option Prefix) (d a : Byte) : State → Host.Outcome State Fault Refusal :=
  execScalar (.sbrev p d a) d [a] fun c => BitVec.ofNat 64 (brev 64 (c.s a).toNat)

/-! ### Status (R141) -/

/-- R141: what a selector reads. -/
def Ctx.status (c : Ctx) (s : State) (sel : Nat) : DWord :=
  match sel with
  | 0 => BitVec.ofNat 64 c.pool.threads
  | 1 => BitVec.ofNat 64 c.cid
  | 2 => BitVec.ofNat 64 (partsOf c.pool.threads)
  | 3 => BitVec.ofNat 64 (c.pool.cpPartition c.cid)
  | 4 => BitVec.ofNat 64 c.core
  | 5 => c.cp.fstat.zeroExtend 64
  | 6 => c.cp.cki.zeroExtend 64
  | 7 => BitVec.ofNat 64 c.cp.levelIndex
  | 8 => BitVec.ofNat 64 c.cp.holdLeft
  | 9 => BitVec.ofNat 64 c.pool.group
  | 10 => BitVec.ofNat 64 s.now + Config.clockSkew (c.pool.cpPartition c.cid)
  | _ => BitVec.ofNat 64 (c.cp.cpy + 2 ^ 8 * c.cp.gth + 2 ^ 16 * c.cp.mrg + 2 ^ 24 * c.cp.mtx)

/-- R333: the pool is a recipe slice. -/
def Ctx.slice (c : Ctx) : Bool := c.pool.rslice

def execGetst (p : Option Prefix) (d a : Byte) : State → Host.Outcome State Fault Refusal :=
  issue (.getst p d a) { sregs := [d.toNat] } fun c s =>
    if c.slice && (a = 3 || a = 4 || a = 10) then .trap 0x0F 0 0 0
    else .done (c.modCp s fun cp => cp.setS d.toNat (c.status s a.toNat))

def execClrst (p : Option Prefix) (a : Byte) : State → Host.Outcome State Fault Refusal :=
  issue (.clrst p a) {} fun c s =>
    .done (c.modCp s fun cp => if a = 5 then { cp with fstat := 0 } else { cp with cki := 0 })

/-! ### MODE and FMT (R96 to R98, R143) -/

/-- R96: a MODE value that may be written. -/
def modeOk (w : Word) : Bool :=
  bits 31 8 w = 0 && bits 3 0 w ≠ 0 && 1 ≤ bits 6 4 w && bits 6 4 w ≤ 4

/-- R94: a format code of a matrix operand. -/
def fmtCodeOk (c : Nat) : Bool := [1, 9, 10, 12, 13, 14, 15].contains c

/-- R97, R98: an FMT value that may be written; the shapes are those of R218. -/
def fmtOk (w : Word) : Bool :=
  let a := bits 3 0 w
  let b := bits 7 4 w
  let fp8 (x : Nat) : Bool := x = 12 || x = 13
  let q (x : Nat) : Bool := x = 1 || x = 15
  bits 31 15 w = 0 && bits 14 12 w ≤ 1 && bits 11 10 w ≤ 1 && bits 9 8 w ≤ 2 &&
  fmtCodeOk a && fmtCodeOk b && (a = b || (fp8 a && fp8 b) || (q a && q b)) &&
  !(bits 11 10 w = 1 && (a = 14 || a = 15 || b = 14 || b = 15))

def Ctx.setMode (c : Ctx) (s : State) (w : Word) : Res :=
  if modeOk w then .done (c.modCp s fun cp => cp.setTop { cp.topLevel with mode := w }) else .illegal

def Ctx.setFmt (c : Ctx) (s : State) (w : Word) : Res :=
  if fmtOk w then .done (c.modCp s fun cp => cp.setTop { cp.topLevel with fmt := w }) else .illegal

def execSetm (p : Option Prefix) (a : Byte) : State → Host.Outcome State Fault Refusal :=
  issue (.setm p a) { sregs := [a.toNat] } fun c s =>
    if bits 63 32 (c.s a) ≠ 0 then .illegal else c.setMode s ((c.s a).extractLsb' 0 32)

def execSetmLiteral (p : Option Prefix) (lit : Word) : State → Host.Outcome State Fault Refusal :=
  issue (.setmLiteral p lit) {} fun c s => c.setMode s lit

def execSetf (p : Option Prefix) (a : Byte) : State → Host.Outcome State Fault Refusal :=
  issue (.setf p a) { sregs := [a.toNat] } fun c s =>
    if bits 63 32 (c.s a) ≠ 0 then .illegal else c.setFmt s ((c.s a).extractLsb' 0 32)

def execSetfLiteral (p : Option Prefix) (lit : Word) : State → Host.Outcome State Fault Refusal :=
  issue (.setfLiteral p lit) {} fun c s => c.setFmt s lit

def execGetm (p : Option Prefix) (d : Byte) : State → Host.Outcome State Fault Refusal :=
  execScalar (.getm p d) d [] fun c => c.mode.zeroExtend 64

def execGetf (p : Option Prefix) (d : Byte) : State → Host.Outcome State Fault Refusal :=
  execScalar (.getf p d) d [] fun c => c.fmt.zeroExtend 64

/-! ### Control flow (R22, R23, R144 to R146) -/

/-- The word address of the instruction word: after the prefix, when there is one. -/
def Ctx.instrPc (c : Ctx) : DWord := if c.pfx.isSome then c.cp.pc + 1 else c.cp.pc

/-- R22: the target of a direct branch. -/
def Ctx.target (c : Ctx) (o : BitVec 16) : DWord := c.instrPc + o.signExtend 64

/-- R144: taken or not. -/
def Ctx.branchIf (c : Ctx) (s : State) (o : BitVec 16) (taken : Bool) : Res :=
  if taken then .jump s (c.target o) id else .done s

def execBr (p : Option Prefix) (o : BitVec 16) : State → Host.Outcome State Fault Refusal :=
  issue (.br p o) {} fun c s => c.branchIf s o true

def execBrc (p : Option Prefix) (d : Byte) (o : BitVec 16) : State → Host.Outcome State Fault Refusal :=
  issue (.brc p d o) { sregs := [d.toNat] } fun c s => c.branchIf s o (c.s d != 0)

def execBrz (p : Option Prefix) (o : BitVec 16) : State → Host.Outcome State Fault Refusal :=
  issue (.brz p o) {} fun c s => c.branchIf s o (c.cp.topLevel.mask == 0)

def execBrnz (p : Option Prefix) (o : BitVec 16) : State → Host.Outcome State Fault Refusal :=
  issue (.brnz p o) {} fun c s => c.branchIf s o (c.cp.topLevel.mask != 0)

def execLoop (p : Option Prefix) (d : Byte) (o : BitVec 16) : State → Host.Outcome State Fault Refusal :=
  issue (.loop p d o) { sregs := [d.toNat] } fun c s =>
    let eff (cp : Cp) : Cp := cp.setS d.toNat (c.s d - 1)
    if c.s d - 1 != 0 then .jump s (c.target o) eff else .done (c.modCp s eff)

/-- R144: the byte address of the word after the CALL, also under a prefix (log 52). -/
def execCall (p : Option Prefix) (d : Byte) (o : BitVec 16) : State → Host.Outcome State Fault Refusal :=
  issue (.call p d o) { sregs := [d.toNat] } fun c s =>
    .jump s (c.target o) fun cp => cp.setS d.toNat ((c.instrPc + 1) <<< 2)

/-- R145. -/
def execRet (p : Option Prefix) (a : Byte) : State → Host.Outcome State Fault Refusal :=
  issue (.ret p a) { sregs := [a.toNat] } fun c s =>
    if bits 63 56 (c.s a) ≠ 0 then .trap 0x0A 0 0 (c.s a)
    else if bits 1 0 (c.s a) ≠ 0 then .illegal
    else .jump s (c.s a >>> 2) id

/-- R23: the table is read as code (log 8).  An index at or above N records cause 0x07; a target that is no clause
header records 0x01, as a branch's does (log 52). -/
def execBri (p : Option Prefix) (a : Byte) (lit : Word) : State → Host.Outcome State Fault Refusal :=
  issue (.bri p a lit) { sregs := [a.toNat] } fun c s =>
    let table := c.instrPc + lit.signExtend 64
    let word (s : State) (pc : DWord) (k : Word → State → Res) : Res :=
      match s.fetchWord c.core c.asid c.pool.placed pc with
      | .fault addr => .trap 0x08 0 0 addr
      | .park q s' => .stay (s'.standAt c.pid c.cid (.parkedFetch q))
      | .word w s' => k w s'
    word s table fun n s1 =>
      if n.toNat ≤ (c.s a).toNat then .trap 0x07 0 0 0
      else word s1 (table + 1 + c.s a) fun dist s2 => .jump s2 (table + dist.signExtend 64) id

end Sys2Proof.Machine
end

