-- ==== Sys2Proof/Machine/Thread.lean ====
section
/-! DEFINITION. The thread instructions, opcodes 0x60 to 0xA6 (05: R109 to R134). -/

namespace Sys2Proof.Machine

/-! ### Arithmetic (R114 to R121) -/

def execVadd (p : Option Prefix) (d a b : Byte) : State → Host.Outcome State Fault Refusal :=
  execLanes (.vadd p d a b) classNumeric (clocksWide 2) d [a.toNat, b.toNat] false
    fun c l => arith .add c.ty c.rm c.sat (l.getD 0 0) (l.getD 1 0)

def execVsub (p : Option Prefix) (d a b : Byte) : State → Host.Outcome State Fault Refusal :=
  execLanes (.vsub p d a b) classNumeric (clocksWide 2) d [a.toNat, b.toNat] false
    fun c l => arith .sub c.ty c.rm c.sat (l.getD 0 0) (l.getD 1 0)

def execVmul (p : Option Prefix) (d a b : Byte) : State → Host.Outcome State Fault Refusal :=
  execLanes (.vmul p d a b) classNumeric (clocksWide 4) d [a.toNat, b.toNat] false
    fun c l => arith .mul c.ty c.rm c.sat (l.getD 0 0) (l.getD 1 0)

def execVmulh (p : Option Prefix) (d a b : Byte) : State → Host.Outcome State Fault Refusal :=
  execLanes (.vmulh p d a b) classInteger (clocksWide 4) d [a.toNat, b.toNat] false
    fun c l => match c.ty with
      | .int w sg => (mulHigh w sg (l.getD 0 0) (l.getD 1 0), 0)
      | .flt _ => (0, 0)

def execVfma (p : Option Prefix) (d a b : Byte) : State → Host.Outcome State Fault Refusal :=
  execLanes (.vfma p d a b) classNumeric (clocksWide 4) d [a.toNat, b.toNat] true
    fun c l => fma c.ty c.rm c.sat (l.getD 0 0) (l.getD 1 0) (l.getD 2 0)

def execVmin (p : Option Prefix) (d a b : Byte) : State → Host.Outcome State Fault Refusal :=
  execLanes (.vmin p d a b) classNumeric (clocksWide 2) d [a.toNat, b.toNat] false
    fun c l => minMax false c.ty (l.getD 0 0) (l.getD 1 0)

def execVmax (p : Option Prefix) (d a b : Byte) : State → Host.Outcome State Fault Refusal :=
  execLanes (.vmax p d a b) classNumeric (clocksWide 2) d [a.toNat, b.toNat] false
    fun c l => minMax true c.ty (l.getD 0 0) (l.getD 1 0)

def execVabs (p : Option Prefix) (d a : Byte) : State → Host.Outcome State Fault Refusal :=
  execLanes (.vabs p d a) classNumeric (clocksWide 2) d [a.toNat] false
    fun c l => absElem c.ty c.sat (l.getD 0 0)

def execVneg (p : Option Prefix) (d a : Byte) : State → Host.Outcome State Fault Refusal :=
  execLanes (.vneg p d a) classNumeric (clocksWide 2) d [a.toNat] false
    fun c l => negElem c.ty c.sat (l.getD 0 0)

def execVclamp (p : Option Prefix) (d a b : Byte) : State → Host.Outcome State Fault Refusal :=
  execLanes (.vclamp p d a b) classNumeric (clocksWide 2) d [a.toNat, b.toNat] true
    fun c l => clampElem c.ty (l.getD 0 0) (l.getD 1 0) (l.getD 2 0)

/-- R120: under FP32 the formats of FMT must each be E5M2 or E4M3. -/
def dotFmt (code : Nat) : Option Fmt :=
  match code with | 12 => some .e5m2 | 13 => some .e4m3 | _ => none

def execVdot4 (p : Option Prefix) (d a b : Byte) : State → Host.Outcome State Fault Refusal :=
  issue (.vdot4 p d a b) (threadShape [d.toNat, a.toNat, b.toNat] (fun _ => 1) true) fun c s =>
    let go (f : Nat → Nat → Nat → Nat × Flags) : Res :=
      c.lanewise s 32 d.toNat [a.toNat, b.toNat, c.x] fun l => f (l.getD 0 0) (l.getD 1 0) (l.getD 2 0)
    match c.tyCode with
    | 3 => go (dotInt true c.sat)
    | 7 => go (dotInt false c.sat)
    | 11 =>
        match dotFmt (bits 3 0 c.fmt), dotFmt (bits 7 4 c.fmt) with
        | some fa, some fb => go (dotFloat fa fb c.rm c.sat)
        | _, _ => .illegal
    | _ => .illegal

def execVscal (p : Option Prefix) (d a b : Byte) : State → Host.Outcome State Fault Refusal :=
  issue (.vscal p d a b) (threadShape [d.toNat, a.toNat, b.toNat] fun _ => 1) fun c s =>
    match c.ty with
    | .int .. => .illegal
    | .flt f =>
        if f != .fp32 && f != .fp16 && f != .bf16 then .illegal
        else
          let rs := c.tids.map fun t =>
            let e := (c.pool.reg t b.toNat).toNat % 256
            let l := (c.elems f.width t a.toNat).map fun x => scaleElem f c.rm c.sat x e
            (t, packElems f.width (l.map (·.1)), l.foldl (fun acc r => acc ||| r.2) 0)
          c.write s false d.toNat (rs.map fun r => (r.1, r.2.1)) (rs.foldl (fun acc r => acc ||| r.2.2) 0)

/-! ### Logic and shifts (R122, R123) -/

def execVand (p : Option Prefix) (d a b : Byte) : State → Host.Outcome State Fault Refusal :=
  execBits (.vand p d a b) d [a.toNat, b.toNat] false fun _ l => l.getD 0 0 &&& l.getD 1 0

def execVor (p : Option Prefix) (d a b : Byte) : State → Host.Outcome State Fault Refusal :=
  execBits (.vor p d a b) d [a.toNat, b.toNat] false fun _ l => l.getD 0 0 ||| l.getD 1 0

def execVxor (p : Option Prefix) (d a b : Byte) : State → Host.Outcome State Fault Refusal :=
  execBits (.vxor p d a b) d [a.toNat, b.toNat] false fun _ l => l.getD 0 0 ^^^ l.getD 1 0

/-- Every bit of an element of w bits inverted. -/
def notBits (w x : Nat) : Nat := 2 ^ w - 1 - x % 2 ^ w

def execVandn (p : Option Prefix) (d a b : Byte) : State → Host.Outcome State Fault Refusal :=
  execBits (.vandn p d a b) d [a.toNat, b.toNat] false fun c l => l.getD 0 0 &&& notBits c.bitWidth (l.getD 1 0)

def execVnot (p : Option Prefix) (d a : Byte) : State → Host.Outcome State Fault Refusal :=
  execBits (.vnot p d a) d [a.toNat] false fun c l => notBits c.bitWidth (l.getD 0 0)

def execVshl (p : Option Prefix) (d a b : Byte) : State → Host.Outcome State Fault Refusal :=
  execLanes (.vshl p d a b) anyType (fun _ => 1) d [a.toNat, b.toNat] false
    fun c l => (shiftElem .shl c.ty.width (l.getD 0 0) (l.getD 1 0), 0)

def execVshr (p : Option Prefix) (d a b : Byte) : State → Host.Outcome State Fault Refusal :=
  execLanes (.vshr p d a b) anyType (fun _ => 1) d [a.toNat, b.toNat] false
    fun c l => (shiftElem .shr c.ty.width (l.getD 0 0) (l.getD 1 0), 0)

def execVsar (p : Option Prefix) (d a b : Byte) : State → Host.Outcome State Fault Refusal :=
  execLanes (.vsar p d a b) anyType (fun _ => 1) d [a.toNat, b.toNat] false
    fun c l => (shiftElem .sar c.ty.width (l.getD 0 0) (l.getD 1 0), 0)

def execVrot (p : Option Prefix) (d a b : Byte) : State → Host.Outcome State Fault Refusal :=
  execLanes (.vrot p d a b) anyType (fun _ => 1) d [a.toNat, b.toNat] false
    fun c l => (shiftElem .rot c.ty.width (l.getD 0 0) (l.getD 1 0), 0)

/-! ### Bits (R124, R125) -/

def execVpopc (p : Option Prefix) (d a : Byte) : State → Host.Outcome State Fault Refusal :=
  execBits (.vpopc p d a) d [a.toNat] false fun c l => popcount c.bitWidth (l.getD 0 0)

def execVclz (p : Option Prefix) (d a : Byte) : State → Host.Outcome State Fault Refusal :=
  execBits (.vclz p d a) d [a.toNat] false fun c l => clz c.bitWidth (l.getD 0 0)

def execVctz (p : Option Prefix) (d a : Byte) : State → Host.Outcome State Fault Refusal :=
  execBits (.vctz p d a) d [a.toNat] false fun c l => ctz c.bitWidth (l.getD 0 0)

/-- R124: n is bits 31:0 of v_b. -/
def execVfns (p : Option Prefix) (d a b : Byte) : State → Host.Outcome State Fault Refusal :=
  execBits (.vfns p d a b) d [a.toNat, b.toNat] false fun c l =>
    fns c.bitWidth (l.getD 0 0) (l.getD 1 0 % 2 ^ 32)

def execVbrev (p : Option Prefix) (d a : Byte) : State → Host.Outcome State Fault Refusal :=
  execBits (.vbrev p d a) d [a.toNat] false fun c l => brev c.bitWidth (l.getD 0 0)

/-- R125: sign-extended under I32 and I64 only. -/
def execVbfx (p : Option Prefix) (d a b : Byte) : State → Host.Outcome State Fault Refusal :=
  execBits (.vbfx p d a b) d [a.toNat, b.toNat] true fun c l =>
    bfx c.bitWidth (c.tyCode = 3 || c.tyCode = 4) (l.getD 0 0) (l.getD 1 0 % 256) (l.getD 2 0 % 256)

def execVbfi (p : Option Prefix) (d a b : Byte) : State → Host.Outcome State Fault Refusal :=
  issue (.vbfi p d a b) (threadShape [d.toNat, a.toNat, b.toNat] (fun _ => 1) true) fun c s =>
    c.lanewise s c.bitWidth d.toNat [a.toNat, b.toNat, c.x, d.toNat] fun l =>
      (bfi c.bitWidth (l.getD 3 0) (l.getD 0 0) (l.getD 1 0 % 256) (l.getD 2 0 % 256), 0)

/-! ### Compare, select, move (R126 to R129) -/

def execVcmp (p : Option Prefix) (d a b : Byte) (cond : BitVec 4) :
    State → Host.Outcome State Fault Refusal :=
  execLanes (.vcmp p d a b cond) anyType (clocksWide 2) d [a.toNat, b.toNat] false
    fun c l =>
      let r := compare cond.toNat c.ty (l.getD 0 0) (l.getD 1 0)
      (if r.1 then 2 ^ c.ty.width - 1 else 0, r.2)

def execVsel (p : Option Prefix) (d a b : Byte) : State → Host.Outcome State Fault Refusal :=
  execBits (.vsel p d a b) d [a.toNat, b.toNat] true fun c l =>
    (l.getD 0 0 &&& l.getD 2 0) ||| (l.getD 1 0 &&& notBits c.bitWidth (l.getD 2 0))

def execVmov (p : Option Prefix) (d b : Byte) : State → Host.Outcome State Fault Refusal :=
  execBits (.vmov p d b) d [b.toNat] false fun _ l => l.getD 0 0

def execVmovScalar (p : Option Prefix) (d b : Byte) : State → Host.Outcome State Fault Refusal :=
  issue (.vmovScalar p d b) { threadShape [d.toNat] (fun _ => 1) with sregs := [b.toNat] } fun c s =>
    c.write s c.wide d.toNat (c.tids.map fun t => (t, c.s b)) 0

/-- R128: sign-extended under I64, zero-extended under U64. -/
def execVmovi (p : Option Prefix) (d : Byte) (lit : Word) : State → Host.Outcome State Fault Refusal :=
  issue (.vmovi p d lit) (threadShape [d.toNat] fun _ => 1) fun c s =>
    let x : DWord := if c.tyCode = 4 then lit.signExtend 64 else lit.zeroExtend 64
    c.write s c.wide d.toNat (c.tids.map fun t => (t, x)) 0

def execTid (p : Option Prefix) (d : Byte) : State → Host.Outcome State Fault Refusal :=
  issue (.tid p d) (threadShape [d.toNat] fun _ => 1) fun c s =>
    c.write s c.wide d.toNat (c.tids.map fun t => (t, BitVec.ofNat 64 t)) 0

/-! ### Conversion (R130 to R133) -/

/-- R131: one element converted.  To its own format a value is returned as it is, a NaN made canonical. -/
def convertElem (src dst : Ty) (rm : RMode) (sat : Bool) (x : Nat) : Nat × Flags :=
  let v := src.value x
  if src = dst && !v.isNan then (x, 0) else dst.deliver rm sat v

def execVcvt (p : Option Prefix) (d a : Byte) (e8 : BitVec 1) (src : BitVec 4) :
    State → Host.Outcome State Fault Refusal :=
  let st := Ty.ofCode src.toNat
  let toE8 := e8 = 1
  issue (.vcvt p d a e8 src)
    { broadcast := true
      runs := fun c => [run1 (!toE8 && c.wide) d.toNat, run1 (st.width = 64) a.toNat]
      perPass := fun c => if st.width = 64 || (!toE8 && c.wide) then 2 else 1 } fun c s =>
    let wd := if toE8 then 8 else c.ty.width
    let l := if max st.width wd = 64 then 1 else 32 / max st.width wd
    let one (x : Nat) : Nat × Flags := if toE8 then toE8M0 (st.value x) else convertElem st c.ty c.rm c.sat x
    let rs := c.tids.map fun t =>
      let es := ((c.elems st.width t a.toNat).take l).map one
      (t, packElems wd (es.map (·.1)), es.foldl (fun acc r => acc ||| r.2) 0)
    c.write s (wd = 64) d.toNat (rs.map fun r => (r.1, r.2.1)) (rs.foldl (fun acc r => acc ||| r.2.2) 0)

/-- R132: the source type of VPACK. -/
def packSource (t : Ty) : Ty :=
  match t with
  | .flt _ => .flt .fp32
  | .int _ s => .int 32 s

def execVpack (p : Option Prefix) (d a b : Byte) : State → Host.Outcome State Fault Refusal :=
  issue (.vpack p d a b) (threadShape [d.toNat, a.toNat, b.toNat] fun _ => 1) fun c s =>
    if !classNarrow c.tyCode then .illegal
    else
      let w := c.ty.width
      let rs := c.tids.map fun t =>
        let x := convertElem (packSource c.ty) c.ty c.rm c.sat (c.pool.reg t a.toNat).toNat
        let y := convertElem (packSource c.ty) c.ty c.rm c.sat (c.pool.reg t b.toNat).toNat
        let old := (c.elems w t d.toNat).take (32 / w - 2)
        (t, packElems w (x.1 :: y.1 :: old), x.2 ||| y.2)
      c.write s false d.toNat (rs.map fun r => (r.1, r.2.1)) (rs.foldl (fun acc r => acc ||| r.2.2) 0)

/-- R133: an index above the last element of a narrow type is found at step 5 of R105. -/
def Ctx.unpackIndex (c : Ctx) (b : Byte) : Bool := !classNarrow c.tyCode || decide (b.toNat < 32 / c.ty.width)

/-- R133.  The conversion is exact: an infinity stays an infinity, with no flag, also under SAT (log 40). -/
def execVunpk (p : Option Prefix) (d a b : Byte) : State → Host.Outcome State Fault Refusal :=
  issue (.vunpk p d a b) { threadShape [d.toNat, a.toNat] fun _ => 1 with legal := fun c => c.unpackIndex b } fun c s =>
    let w := c.ty.width
    if !classNarrow c.tyCode then .illegal
    else
      let one (x : Nat) : Nat × Flags :=
        match c.ty with
        | .int w sg => (intBits 32 (intOf w sg x), 0)
        | .flt f => Fmt.convert .fp32 .rne false (f.decode x)
      let rs := c.tids.map fun t => (t, one ((c.elems w t a.toNat).getD b.toNat 0))
      c.write s false d.toNat (rs.map fun r => (r.1, BitVec.ofNat 64 r.2.1))
        (rs.foldl (fun acc r => acc ||| r.2.2) 0)

/-! ### Special functions (R134) -/

/-- FP32 only, one element per register, 4 clocks per pass (R112). -/
def execSpecial (i : Instr) (d a : Byte) (f : RMode → Bool → FVal → Nat × Flags) :
    State → Host.Outcome State Fault Refusal :=
  execLanes i (· = 11) (fun _ => 4) d [a.toNat] false
    fun c l => f c.rm c.sat (Fmt.decode .fp32 (l.getD 0 0))

def execVrcp (p : Option Prefix) (d a : Byte) : State → Host.Outcome State Fault Refusal :=
  execSpecial (.vrcp p d a) d a vrcpF

def execVrsq (p : Option Prefix) (d a : Byte) : State → Host.Outcome State Fault Refusal :=
  execSpecial (.vrsq p d a) d a vrsqF

def execVsqt (p : Option Prefix) (d a : Byte) : State → Host.Outcome State Fault Refusal :=
  execSpecial (.vsqt p d a) d a vsqtF

def execVex2 (p : Option Prefix) (d a : Byte) : State → Host.Outcome State Fault Refusal :=
  execSpecial (.vex2 p d a) d a vex2F

def execVlg2 (p : Option Prefix) (d a : Byte) : State → Host.Outcome State Fault Refusal :=
  execSpecial (.vlg2 p d a) d a vlg2F

def execVsin (p : Option Prefix) (d a : Byte) : State → Host.Outcome State Fault Refusal :=
  execSpecial (.vsin p d a) d a vsinF

def execVcos (p : Option Prefix) (d a : Byte) : State → Host.Outcome State Fault Refusal :=
  execSpecial (.vcos p d a) d a vcosF

end Sys2Proof.Machine
end

