-- ==== Sys2Proof/Machine/Plans.lean ====
section
/-! DEFINITION. What an engine command moves: reads of global memory for an engine (R207, R266, R285),
the bytes of a copy (R204 to R209) and of a gather (R264 to R266), and the byte-by-byte races of the pool
with them (R207). -/

namespace Sys2Proof.Machine

/-- What a piece of engine work comes to: done; a wait for a page or a tile; a wait for a forced commit of
pending reductions (R261) or for a line that its slice holds (R300); or a fault with its cause and address. -/
inductive Moved (α : Type) where
  | ok (x : α) (s : State)
  | wait (p : Park) (s : State)
  | reds (s : State)
  | bad (cause addr : Nat) (s : State)

/-- The context in which a command of a CP works. -/
def State.ctxOf (s : State) (pid cid : Nat) : Option Ctx :=
  match s.pool? pid, s.cp? pid cid with
  | some p, some c => some ⟨pid, cid, p, c, none⟩
  | _, _ => none

/-- A range cut at 64-byte lines: addresses and counts. -/
def lineChunks (a n : Nat) : List (Nat × Nat) :=
  let rec go (fuel a n : Nat) : List (Nat × Nat) :=
    match fuel with
    | 0 => []
    | f + 1 => if n = 0 then [] else
        let k := min n (64 - a % 64)
        (a, k) :: go f (a + k) (n - k)
  go n a n

/-- R261: the pools whose unrecorded reductions cover a range in a core's journal are committed, where
they can be now. -/
def State.forceReds (s : State) (core pa n : Nat) : State :=
  ((s.journal.filter fun e => e.core = core && e.record.isNone && (match e.kind with
      | .red .. => rangesOverlap e.span.1 e.span.2 pa n
      | _ => false)).map (·.pool)).dedup.foldl State.forceCommit s

/-- A failed check of an engine access: it parks on a page or tile (step 5 of R254 as a load), else it is
an engine fault with the cause of R254 (0x0F outside a slice's scope). -/
def Ctx.engineFail {α : Type} (c : Ctx) (s : State) (va : Nat) (f : Fail) : Moved α :=
  match f with
  | .x (.tile r) => .wait (.tile r) (s.parkFor c.asid va (.tile r)).2
  | .x .recoverable => .wait (.page c.asid (va / 4096)) (s.raiseFault c.asid va)
  | .x g => .bad (g.cause false).1.toNat va s
  | .scope => .bad 0x0F va s
  | .misaligned => .bad 0x0E va s

/-- The bytes an engine reads over ranges that each lie in one line, and whether any was poisoned: committed ones
and those in the journal of its own core (R270), of a cluster pool's stores too (log 17). -/
def Ctx.readChunks (c : Ctx) (l : List (Nat × Nat)) (acc : List Byte) (poison : Bool) (s : State) :
    Moved (List Byte × Bool) :=
  match l with
  | [] => .ok (acc, poison) s
  | (va, n) :: r =>
      match c.checkChunk s va n .engineRead with
      | (.error f, s') => c.engineFail s' va f
      | (.ok pa, s') =>
          if s'.lineHeld (lineOf pa) then .reds s'
          else if (s'.pendingReds c.core pa n).isEmpty then
            let (x, s'') := s'.readFor c.pid c.core c.asid pa n false
            c.readChunks r (acc ++ x.bytes) (poison || x.poison) s''
          else .reds (s'.forceReds c.core pa n)

/-- R266: the checks on all pieces of a row; the earliest step of R254 that any of them fails decides. -/
def Ctx.checkRow (c : Ctx) (l : List (Nat × Nat)) (s : State) : Except (Fail × Nat) Unit × State :=
  match l with
  | [] => (.ok (), s)
  | (va, n) :: r =>
      let (x, s1) := c.checkChunk s va n .engineRead
      let (y, s2) := c.checkRow r s1
      match x, y with
      | .ok _, y => (y, s2)
      | .error f, .error g => (.error (if g.1.order < f.order then g else (f, va)), s2)
      | .error f, .ok _ => (.error (f, va), s2)

/-- The first range of several whose page cannot be written. -/
def Ctx.checkChunks (c : Ctx) (l : List (Nat × Nat)) (s : State) : Moved Unit :=
  match l with
  | [] => .ok () s
  | (va, n) :: r =>
      match c.checkChunk s va n .engineWrite with
      | (.error f, s') => c.engineFail s' va f
      | (.ok _, s') => c.checkChunks r s'

/-- Each byte is read as it stood at issue or as it stands now (R207). -/
def chooseBytes (l : List (Byte × Option Byte)) (s : State) : List Byte × State :=
  match l with
  | [] => ([], s)
  | (b, o) :: r =>
      match o with
      | none => let (bs, s) := chooseBytes r s; (b :: bs, s)
      | some a =>
          if a = b then let (bs, s) := chooseBytes r s; (b :: bs, s)
          else
            let (old, s) := s.freeBool
            let (bs, s) := chooseBytes r s
            ((if old then a else b) :: bs, s)

/-! ### Copies -/

def CopyCmd.total (k : CopyCmd) : Nat := k.rowBytes * k.rows

/-- R205: the global address of row r. -/
def CopyCmd.rowAt (k : CopyCmd) (r : Nat) : Nat := k.addr + r * k.gpitch

/-- The global side in row order, cut at lines. -/
def CopyCmd.chunks (k : CopyCmd) : List (Nat × Nat) :=
  (List.range k.rows).flatMap fun r => lineChunks (k.rowAt r) k.rowBytes

/-- A byte of the scratchpad as it stood before the stores of the pool that are still outstanding. -/
def Pool.spadByteBefore (p : Pool) (a : Nat) : Byte :=
  match p.ops.findSome? (fun o => KMap.find? o.old a) with
  | some b => b
  | none => p.spadByte a

/-- The source bytes of a copy at its issue. -/
def Ctx.copySnap (c : Ctx) (s : State) (k : CopyCmd) : List (Option Byte) × State :=
  match k.variant with
  | 0 =>
      match c.readChunks k.chunks [] false s with
      | .ok (bs, p) s' => if p then ([], s) else (bs.map some, s')
      | _ => ([], s)
  | 1 => ((List.range k.total).map fun i => some (c.pool.spadByteBefore (k.spad + i)), s)
  | _ => ((List.range k.total).map fun i => some (c.pool.spadByteBefore (k.addr + i)), s)

/-- The bytes a copy moves, in the order of its index. -/
def Ctx.copyBytes (c : Ctx) (s : State) (cmd : Cmd) (k : CopyCmd) : Moved (List Byte × Bool) :=
  let choose (bs : List Byte) (p : Bool) (s : State) : Moved (List Byte × Bool) :=
    let r := chooseBytes (bs.zip (cmd.snap ++ List.replicate bs.length none)) s
    .ok (r.1, p) r.2
  match k.variant with
  | 0 =>
      match c.readChunks k.chunks [] false s with
      | .ok (bs, p) s' => choose bs p s'
      | m => m
  | 1 => choose ((List.range k.total).map fun i => c.pool.spadByte (k.spad + i)) false s
  | _ => choose ((List.range k.total).map fun i => c.pool.spadByte (k.addr + i)) false s

/-- Successive bytes as a table. -/
def tableFrom (a : Nat) (bs : List Byte) : KMap Byte :=
  match bs with
  | [] => []
  | b :: r => (a, b) :: tableFrom (a + 1) r

/-! ### Gathers (R264 to R266) -/

def Handle.base (h : Handle) : Nat := bits 55 0 h.q0
def Handle.stride (h : Handle) : Nat := bits 63 32 h.q1
def Handle.count (h : Handle) : Nat := bits 31 0 h.q1
def Handle.nel (h : Handle) : Nat := bits 15 8 h.q2
def Handle.dfmt (h : Handle) : Nat := bits 7 4 h.q2
def Handle.sfmt (h : Handle) : Nat := bits 3 0 h.q2
def Handle.dpitch (h : Handle) : Nat := bits 63 32 h.q3
def Handle.doff (h : Handle) : Nat := bits 31 0 h.q3

/-- The bytes of a source row and of a destination row. -/
def Handle.srcBytes (h : Handle) : Nat := h.nel * (Ty.ofCode h.sfmt).width / 8
def Handle.dstBytes (h : Handle) : Nat := h.nel * (Ty.ofCode h.dfmt).width / 8

/-- R265: where the source row of an index begins. -/
def Handle.rowAt (h : Handle) (i : Nat) : Nat := h.base + i * h.stride

/-- R266: one row converted, with the flags its elements raise. -/
def Handle.convertRow (h : Handle) (rm : RMode) (sat : Bool) (bs : List Byte) : List Byte × Flags :=
  if h.sfmt = h.dfmt then (bs, 0)
  else
    let st := Ty.ofCode h.sfmt
    let dt := Ty.ofCode h.dfmt
    let v := ofBytes bs
    let es := (List.range h.nel).map fun j => convertElem st dt rm sat (v / 2 ^ (st.width * j) % 2 ^ st.width)
    (toBytes (es.foldr (fun e acc => e.1 % 2 ^ dt.width + 2 ^ dt.width * acc) 0) h.dstBytes,
     es.foldl (fun acc e => acc ||| e.2) 0)

/-- R266: the rows of a gather from rank k on.  A failed check at rank k > 0 shortens it to k rows, by whatever
piece of the row, and at rank 0, whose row passed at issue, to none (log 16); a dropped tile is waited for where
nothing else fails. -/
def Ctx.gatherRows (c : Ctx) (h : Handle) (rm : RMode) (sat : Bool) (l : List (Nat × Nat)) (k : Nat)
    (acc : Plan) (s : State) : Moved Plan :=
  match l with
  | [] => .ok { acc with rows := k } s
  | (_, i) :: r =>
      if 0 < k && h.count ≤ i then .ok { acc with rows := k } s
      else
        let stop (m : Moved Plan) : Moved Plan := match m with
          | .wait (.page a v) s' => if 0 < k then .ok { acc with rows := k } s else .wait (.page a v) s'
          | .bad cause a s' => if cause = 0x0F then .bad cause a s' else .ok { acc with rows := k } s
          | m => m
        let row := lineChunks (h.rowAt i) h.srcBytes
        match c.checkRow row s with
        | (.error f, s') => stop (c.engineFail s' f.2 f.1)
        | (.ok _, s0) =>
            match c.readChunks row [] false s0 with
            | .ok (bs, p) s' =>
                let x := h.convertRow rm sat bs
                c.gatherRows h rm sat r (k + 1)
                  { acc with
                    bytes := acc.bytes ++ tableFrom (h.doff + k * h.dpitch) x.1
                    poison := acc.poison || p
                    flags := acc.flags ||| x.2 } s'
            | .wait p s' => stop (.wait p s')
            | .reds s' => .reds s'
            | .bad cause a s' => stop (.bad cause a s')

/-! ### Merges (R267 to R271) -/

/-- A merge in progress: its writes so far (the latest first), the next output element, the flags, whether it read
poison, and both as they stood at each write. -/
structure Merging where
  s : State
  out : List (Nat × List Byte)
  e : Nat
  flags : Flags
  poison : Bool
  marks : List (Flags × Bool)

/-- Why a merge does not go on. -/
inductive MStop where
  | wait (p : Park) (s : State)
  | reds (s : State)
  | stop (detail addr : Nat) (m : Merging)
  /-- It parks in a row; the writes of the rows before it stand. -/
  | parked (p : Park) (row : Nat) (m : Merging)

/-- The merge block (R268). -/
structure MergeBlock where
  akeys : Nat
  avals : Nat
  aptr : Nat
  bkeys : Nat
  bvals : Nat
  bptr : Nat
  okeys : Nat
  ovals : Nat
  ocnt : Nat
  prog : Nat

/-- Bytes read by the merge unit. -/
def Merging.readBytes (m : Merging) (c : Ctx) (va n : Nat) : Except MStop (List Byte × Merging) :=
  match c.readChunks (lineChunks va n) [] false m.s with
  | .ok (bs, p) s' => .ok (bs, { m with s := s', poison := m.poison || p })
  | .wait p s' => .error (.wait p s')
  | .reds s' => .error (.reds s')
  | .bad f a s' => .error (.stop f a { m with s := s' })

def Merging.read (m : Merging) (c : Ctx) (va n : Nat) : Except MStop (Nat × Merging) :=
  (m.readBytes c va n).map fun r => (ofBytes r.1, r.2)

/-- R270: a write of the merge unit is checked where it stands in the order of R269; it enters the journal at the
completion (R286). -/
def Merging.write (m : Merging) (c : Ctx) (va n v : Nat) : Except MStop Merging :=
  match c.checkChunks [(va, n)] m.s with
  | .ok _ s' => .ok { m with s := s', out := (va, toBytes v n) :: m.out, marks := (m.flags, m.poison) :: m.marks }
  | .wait p s' => .error (.wait p s')
  | .reds s' => .error (.reds s')
  | .bad f a s' => .error (.stop f a { m with s := s' })

/-- R270: the progress word. -/
def progWord (next oend : Nat) (done : Bool) : Nat := next + 2 ^ 32 * oend + (if done then 2 ^ 63 else 0)

def MergeCmd.ty (k : MergeCmd) : Ty := Ty.ofCode k.vt
def MergeCmd.valBytes (k : MergeCmd) : Nat := if k.vt = 4 ∨ k.vt = 8 then 8 else 4

/-- R269: emit. -/
def MergeCmd.emit (k : MergeCmd) (c : Ctx) (b : MergeBlock) (m : Merging) (key : Nat) (v : Nat) : Except MStop Merging :=
  if k.olimit ≤ m.e then .error (.stop 0x20 0 m)
  else do
    let m1 ← m.write c (b.okeys + 4 * m.e) 4 key
    let m2 ← if k.set then .ok m1 else m1.write c (b.ovals + k.valBytes * m.e) k.valBytes v
    .ok { m2 with e := m.e + 1 }

/-- R269: comb; codes 0 add, 1 min, 2 max, 3 or. -/
def MergeCmd.combine (k : MergeCmd) (rm : RMode) (sat : Bool) (x y : Nat) : Nat × Flags :=
  atomicElem (if k.comb = 3 then 4 else k.comb) k.vt rm sat x y 0

/-- R269: +0 and −0 are zero, a NaN is not. -/
def MergeCmd.isZero (k : MergeCmd) (v : Nat) : Bool := if k.vt = 11 then v % 2 ^ 31 = 0 else v = 0

/-- The head key of a list in its row: read once, and above the one before it. -/
def headKey (c : Ctx) (keys i iEnd : Nat) (have_ prev : Option Nat) (m : Merging) :
    Except MStop (Option Nat × Merging) :=
  if iEnd ≤ i then .ok (none, m)
  else match have_ with
    | some x => .ok (some x, m)
    | none => do
        let (x, m) ← m.read c (keys + 4 * i) 4
        if prev.any fun y => x ≤ y then .error (.stop 0x21 0 m) else .ok (some x, m)

/-- R269: the rest of one row; `fuel` is the number of elements that remain. -/
def MergeCmd.row (k : MergeCmd) (c : Ctx) (rm : RMode) (sat : Bool) (b : MergeBlock) (fuel i iEnd j jEnd : Nat)
    (ha pa hb pb : Option Nat) (m : Merging) : Except MStop Merging :=
  match fuel with
  | 0 => .ok m
  | f + 1 => do
      let (ka, m) ← headKey c b.akeys i iEnd ha pa m
      let (kb, m) ← headKey c b.bkeys j jEnd hb pb m
      let val (base n : Nat) (m : Merging) : Except MStop (Nat × Merging) :=
        if k.set then .ok (0, m) else m.read c (base + k.valBytes * n) k.valBytes
      match ka, kb with
      | none, none => .ok m
      | some x, none =>
          let (v, m) ← val b.avals i m
          let m ← k.emit c b m x v
          k.row c rm sat b f (i + 1) iEnd j jEnd none (some x) none pb m
      | none, some y =>
          let (v, m) ← val b.bvals j m
          let m ← k.emit c b m y v
          k.row c rm sat b f i iEnd (j + 1) jEnd none pa none (some y) m
      | some x, some y =>
          if x < y then
            let (v, m) ← val b.avals i m
            let m ← k.emit c b m x v
            k.row c rm sat b f (i + 1) iEnd j jEnd none (some x) (some y) pb m
          else if y < x then
            let (v, m) ← val b.bvals j m
            let m ← k.emit c b m y v
            k.row c rm sat b f i iEnd (j + 1) jEnd (some x) pa none (some y) m
          else
            let (v, m) ← val b.avals i m
            let (w, m) ← val b.bvals j m
            let r := if k.set then (0, 0) else k.combine rm sat v w
            let m := { m with flags := m.flags ||| r.2 }
            let m ← if k.set || k.keepz || !k.isZero r.1 then k.emit c b m x r.1 else .ok m
            k.row c rm sat b f (i + 1) iEnd (j + 1) jEnd none (some x) none (some y) m

/-- R269: the elements of row r. -/
def MergeCmd.oneRow (k : MergeCmd) (c : Ctx) (rm : RMode) (sat : Bool) (b : MergeBlock) (r : Nat) (m : Merging) :
    Except MStop Merging := do
  let (a0, m) ← m.read c (b.aptr + 4 * r) 4
  let (a1, m) ← m.read c (b.aptr + 4 * (r + 1)) 4
  let (b0, m) ← m.read c (b.bptr + 4 * r) 4
  let (b1, m) ← m.read c (b.bptr + 4 * (r + 1)) 4
  if a1 < a0 ∨ b1 < b0 then .error (.stop 0x21 0 m)
  else k.row c rm sat b (a1 - a0 + (b1 - b0)) a0 a1 b0 b1 none none none none m

/-- R269: n rows from r on. -/
def MergeCmd.rowsFrom (k : MergeCmd) (c : Ctx) (rm : RMode) (sat : Bool) (b : MergeBlock) (n r : Nat)
    (m : Merging) : Except MStop Merging :=
  match n with
  | 0 => .ok m
  | n + 1 =>
      let row : Except MStop Merging := do
        let x ← k.oneRow c rm sat b r m
        let x ← x.write c (b.ocnt + 4 * r) 4 (x.e - m.e)
        x.write c b.prog 8 (progWord (r + 1) x.e (n = 0))
      match row with
      | .error (.wait p s') => .error (.parked p r { m with s := s' })
      | .error x => .error x
      | .ok x => k.rowsFrom c rm sat b n (r + 1) x

/-- R268: the block, when it is good. -/
def MergeCmd.block? (k : MergeCmd) (bs : List Byte) : Option MergeBlock :=
  let f (i : Nat) : Nat := ofBytes ((bs.drop (8 * i)).take 8)
  let z := k.valBytes
  let b : MergeBlock := ⟨f 0, f 1, f 2, f 3, f 4, f 5, f 6, f 7, f 8, f 9⟩
  let four := [b.akeys, b.aptr, b.bkeys, b.bptr, b.okeys, b.ocnt].all fun x => x % 4 = 0
  let vals := k.set || [b.avals, b.bvals, b.ovals].all fun x => x % z = 0
  if four && vals && b.prog % 8 = 0 && (bs.drop 80).all (· == 0) then some b else none

/-- R269, R270: a merge from its beginning, or (`old`) from the row in which it parked, up to its end, its fault,
or the row in which it parks. -/
def Ctx.mergePlan (c : Ctx) (s : State) (cmd : Cmd) (k : MergeCmd) (old : Option Plan) : Moved Plan :=
  let at_ := (old.bind (·.next)).getD (k.first, k.ostart)
  let m0 : Merging := match old with
    | some p => ⟨s, p.writes.reverse, at_.2, p.flags, p.poison, p.marks.reverse⟩
    | none => ⟨s, [], at_.2, 0, false, []⟩
  let got : Except MStop (List Byte × Merging) := match old with
    | some p => .ok (p.block, m0)
    | none => m0.readBytes c k.block 128
  let done (m : Merging) (f : Option (Nat × Nat)) : Moved Plan :=
    .ok { writes := m.out.reverse, marks := m.marks.reverse, poison := m.poison, flags := m.flags, fault := f } m.s
  let run : Except MStop Merging := do
    let (bs, m) ← got
    match k.block? bs with
    | none => .error (.stop 0x22 0 m)
    | some b =>
        let m ← if old.isSome then .ok m else m.write c b.prog 8 (progWord k.first k.ostart false)
        k.rowsFrom c (RMode.ofCode cmd.rm) cmd.sat b (k.first + k.rows - at_.1) at_.1 m
  match run with
  | .ok m => done m none
  | .error (.stop f a m) => done m (some (f, a))
  | .error (.wait p s') => .wait p s'
  | .error (.reds s') => .reds s'
  | .error (.parked p r m) =>
      let bs := match got with | .ok x => x.1 | .error _ => []
      .ok { writes := m.out.reverse, marks := m.marks.reverse, poison := m.poison, flags := m.flags
            next := some (r, m.e), block := bs, park := some p } m.s

/-! ### Plans -/

/-- R209: the destination bytes of a faulted copy are unspecified over its whole range. -/
def CopyCmd.spoiled (k : CopyCmd) (f : Nat × Nat) (s : State) : Plan × State :=
  if k.variant = 1 then
    let r := k.chunks.foldl (fun (acc : List (Nat × List Byte) × State) e =>
      let (bs, s) := acc.2.freeBytes e.2
      (acc.1 ++ [(e.1, bs)], s)) ([], s)
    ({ writes := r.1, fault := some f }, r.2)
  else
    let (bs, s) := s.freeBytes k.total
    ({ bytes := tableFrom k.spad bs, fault := some f }, s)

/-- The bytes of a copy out, by the ranges they go to. -/
def CopyCmd.outWrites (l : List (Nat × Nat)) (bs : List Byte) : List (Nat × List Byte) :=
  match l with
  | [] => []
  | (va, n) :: r => (va, bs.take n) :: CopyCmd.outWrites r (bs.drop n)

/-- What a command writes, decided now. -/
def Ctx.plan (c : Ctx) (s : State) (cmd : Cmd) : Moved Plan :=
  match cmd.plan.filter fun p => p.next.isNone || p.park.isSome with
  | some p => .ok p s
  | none =>
      match cmd.kind with
      | .copy k =>
          let bad (f a : Nat) (s : State) : Moved Plan :=
            let r := k.spoiled (f, a) s
            .ok r.1 r.2
          let ready : Moved Unit := if k.variant = 1 then c.checkChunks k.chunks s else .ok () s
          match ready with
          | .wait p s' => .wait p s'
          | .reds s' => .reds s'
          | .bad f a s' => bad f a s'
          | .ok _ s1 =>
              match c.copyBytes s1 cmd k with
              | .ok (bs, p) s' =>
                  if k.variant = 1 then .ok { writes := CopyCmd.outWrites k.chunks bs } s'
                  else .ok { bytes := tableFrom k.spad bs, poison := p } s'
              | .wait p s' => .wait p s'
              | .reds s' => .reds s'
              | .bad f a s' => bad f a s'
      | .gather g => c.gatherRows g.h (RMode.ofCode cmd.rm) cmd.sat g.rows 0 {} s
      | .merge k => c.mergePlan s cmd k cmd.plan
      | .matrix _ => .ok {} s

/-- The scratchpad bytes a command may write: offset and count. -/
def Cmd.spadSpan (cmd : Cmd) : Nat × Nat :=
  match cmd.kind with
  | .copy k => if k.variant = 1 then (0, 0) else (k.spad, k.total)
  | .gather g =>
      if g.rows.isEmpty then (0, 0)
      else (g.h.doff, (g.rows.length - 1) * g.h.dpitch + g.h.dstBytes)
  | _ => (0, 0)

/-- A scratchpad byte written by an engine command: one issued before the last checkpoint is not undone
(R180). -/
def Pool.engineByte (p : Pool) (kept : Bool) (a : Nat) (b : Byte) : Pool :=
  if kept then p.setSpadByteKept a b else p.setSpadByte a b

/-- R180: the command was issued before the last local checkpoint. -/
def Pool.kept (p : Pool) (cmd : Nat) : Bool := p.ckpt.kept cmd

/-- R207: the pool meets bytes that an outstanding command writes: each may be written already, which is
free.  Of a command that is parked, or whose plan has to wait, none is (log 16). -/
def State.touchCmd (s : State) (pid id a len : Nat) : State :=
  match (s.pool? pid).bind fun p => p.cmds.find? (·.id = id) with
  | none => s
  | some cmd =>
      let planned : Option (Plan × State) :=
        if cmd.park.isSome then none
        else match s.ctxOf pid cmd.cp with
          | some c => (match c.plan s cmd with
              | .ok p s' => some (p, s')
              | _ => none)
          | none => none
      match planned with
      | none => s
      | some (p, s0) =>
          let r := (List.range len).foldl (fun (acc : Plan × State) i =>
            match KMap.find? acc.1.bytes (a + i) with
            | none => acc
            | some b =>
                let (now, s) := acc.2.freeBool
                if now then
                  ({ acc.1 with bytes := KMap.del acc.1.bytes (a + i) },
                   s.modPool pid fun q => q.engineByte (q.kept id) (a + i) b)
                else (acc.1, s)) (p, s0)
          r.2.modPool pid fun q => q.modCmd id fun k => { k with plan := some r.1 }

def State.touchSpad (s : State) (pid a len : Nat) : State :=
  match s.pool? pid with
  | none => s
  | some p =>
      (p.cmds.filter fun k => rangesOverlap k.spadSpan.1 k.spadSpan.2 a len).foldl
        (fun s k => s.touchCmd pid k.id a len) s

/-- Several accesses of one size. -/
def State.touchAll (s : State) (pid : Nat) (l : List Nat) (len : Nat) : State :=
  l.foldl (fun s a => s.touchSpad pid a len) s

/-- R209, R270: an engine fault recorded against a CP. -/
def State.engineFault (s : State) (pid cid cls : Nat) (detail : Word) (addr : Nat) : State :=
  s.modCp pid cid fun cp => { cp with faults := cp.faults ++ [⟨cls, detail, BitVec.ofNat 64 addr⟩] }

end Sys2Proof.Machine
end

