-- ==== Sys2Proof/Machine/Scratch.lean ====
section
/-! DEFINITION. Scratchpad and window accesses, scratchpad atomics, permutes, SLD and SST, gongs and WAITC
(06: R139, R140; 08: R176, R177; 09: R193 to R203 and R210 to R213). -/

namespace Sys2Proof.Machine

/-! ### Issuing an operation -/

/-- An operation of the CP as it issues: bound to the clause's flag of its class (R16), with the type,
rounding and SAT bit in force. -/
def Ctx.newOp (c : Ctx) (kind : OpKind) : Op where
  id := 0
  cp := c.cid
  kind := kind
  flag := match c.cp.clause with
    | some cl => if kind.isResult then cl.fa else cl.fb
    | none => 15
  dest := 0
  wide := false
  scalar := false
  lanes := []
  zero := 0
  aop := 0
  ty := c.tyCode
  rm := c.rmCode
  sat := c.sat
  ord := 0
  scope := 0
  args := []
  got := none
  flags := 0
  poisoned := false
  park := none
  seen := []
  old := []
  stamp := none

/-- The operation joins the outstanding ones; its number and the state. -/
def Ctx.addOp (c : Ctx) (s : State) (o : Op) : Nat × State :=
  let (id, s) := s.takeId
  (id, c.modPool s fun p => { p with ops := p.ops ++ [{ o with id := id }] })

/-- A result operation whose results are known at issue (R44): they are written when it completes. -/
def Ctx.knownOp (c : Ctx) (s : State) (wide : Bool) (d : Nat) (vals : List (Nat × DWord)) (fl : Flags)
    (ord : Nat) : State :=
  (c.addOp s { c.newOp .known with
    dest := d
    wide := wide
    lanes := vals.map fun v => ⟨v.1, 0, 0, 0, 0⟩
    zero := c.zeroSet
    got := some (vals.map (·.2))
    flags := fl
    ord := ord }).2

/-- R255: an access whose checks park is outstanding, and its CP stands at it; with a hold open it is a
hold violation and has no effect (R46). -/
def Ctx.parkLoad (c : Ctx) (h : Shape) (words : Nat) (o : Op) (k : Park) (s : State) : Res :=
  if c.cp.holding then .trap 0x04 0 0 0
  else
    let r := c.addOp s { o with park := some k }
    .stay ((c.finish h words r.2).standAt c.pid c.cid (.load r.1 c.cp.pc c.cp.clause))

/-- The oldest load, store or atomic of the CP that has not completed, one that is not parked first
(R200, R259, R213). -/
def Ctx.earlier (c : Ctx) : Option Op :=
  let mine (o : Op) : Bool := o.cp = c.cid && (match o.kind with
    | .known | .load | .sload | .sknown | .vatom | .store | .red | .spad => true
    | _ => false)
  match c.pool.ops.find? (fun o => mine o && !o.isParked) with
  | some o => some o
  | none => c.pool.ops.find? mine

/-- An effect that comes after every earlier load, store and atomic of the CP. -/
def Ctx.afterEarlier (c : Ctx) (s : State) (k : State → Res) : Res :=
  match c.earlier with
  | some o => .stay (s.waitOp c.pid c.cid c.cp.pc o)
  | none => k s

/-- R179, R275: an instruction that is a commit point.  With its own effect in `s` the CP moves past it, the
pool's records are formed, and the CP waits for the last of them; while the pool is not settled it stands
at the instruction (`s0`). -/
def Ctx.commitPoint (c : Ctx) (h : Shape) (words : Nat) (s0 s : State) (except : Option Nat)
    (carry : Carry) (after : After) : Res :=
  match (c.finish h words s).commitPool c.pid except carry (fun id s =>
      c.modCp s fun cp => { cp with wait := some (id, after) }) with
  | some s' => .stay s'
  | none => .stay (s0.standAt c.pid c.cid .stall)

/-! ### Scratchpad addresses (R194) -/

/-- R194: the first check that fails for any access, with TMASK naming the threads that fail it; ADDR is the offset
of the lowest of them (log 53). -/
def Ctx.spadCheck (c : Ctx) (l : List (Nat × Int)) (z : Nat) (named : Bool) : Option Res :=
  let bad1 := l.filter fun e => decide (e.2 % (z : Int) ≠ 0)
  let bad2 := l.filter fun e => decide (e.2 < 0 ∨ (c.pool.spadSize : Int) < e.2 + (z : Int))
  let trap (cause : Byte) (b : List (Nat × Int)) : Option Res :=
    some (.trap cause (if named then Mask.ofTids (b.map (·.1)) else 0) 0
      (BitVec.ofInt 64 ((b.headD (0, 0)).2)))
  if bad1 ≠ [] then trap 0x09 bad1
  else if bad2 ≠ [] then trap 0x0B bad2
  else none

/-- The offsets of the responders: bits 31:0 of v_a plus a displacement. -/
def Ctx.offsets (c : Ctx) (a : Nat) (disp : Int) : List (Nat × Int) :=
  c.tids.map fun t => (t, ((c.pool.reg t a).toNat : Int) + disp)

/-- R195: the bytes of a size code. -/
def sizeBytes (size : BitVec 2) : Nat := match size.toNat with | 0 => 4 | 1 => 8 | 2 => 1 | _ => 2

/-- R172: a 64-bit access size counts as a 64-bit type does (log 53). -/
def clocksSize (wide : Bool) (c : Ctx) : Nat := if wide || c.wide then 2 else 1

/-! ### VLDS and VSTS (R195, R196) -/

def execVlds (p : Option Prefix) (d a : Byte) (size : BitVec 2) (sx : BitVec 1) (disp : BitVec 5) :
    State → Host.Outcome State Fault Refusal :=
  let z := sizeBytes size
  let wide := z = 8
  issue (.vlds p d a size sx disp)
    { broadcast := true, memory := true, perPass := clocksSize wide
      runs := fun _ => [run1 wide d.toNat, run32 a.toNat] } fun c s =>
    let l := c.offsets a.toNat (disp.toNat * z)
    match c.spadCheck l z true with
    | some r => r
    | none =>
        let s := s.touchAll c.pid (l.map (·.2.toNat)) z
        let pool := (s.pool? c.pid).getD c.pool
        let val (o : Int) : DWord :=
          let v := pool.spadRead o.toNat z
          BitVec.ofNat 64 (if z < 4 then intBits 32 (intOf (8 * z) (sx = 1) v) else v)
        .done (c.knownOp s wide d.toNat (l.map fun e => (e.1, val e.2)) 0 0)

/-- R196, R199: scratchpad writes by one instruction, in order, with the bytes they replace. -/
def Pool.spadStore (p : Pool) (l : List (Nat × List Byte)) : Pool × KMap Byte :=
  l.foldl (fun acc e =>
    (acc.1.spadWriteBytes e.1 e.2,
     (List.range e.2.length).foldl (fun m i => KMap.record m (e.1 + i) (p.spadByte (e.1 + i))) acc.2))
    (p, [])

/-- The writes made, and the operation outstanding until it completes (R16). -/
def Ctx.spadOp (c : Ctx) (s : State) (l : List (Nat × List Byte)) (fl : Flags) (ord : Nat) : State :=
  let old := (((s.pool? c.pid).getD c.pool).spadStore l).2
  let s := c.modCp (c.modPool s fun q => (q.spadStore l).1) fun cp => cp.raise fl
  (c.addOp s { c.newOp .spad with old := old, ord := ord }).2

def execVsts (p : Option Prefix) (d a : Byte) (size : BitVec 2) (disp : BitVec 5) :
    State → Host.Outcome State Fault Refusal :=
  let z := sizeBytes size
  let wide := z = 8
  issue (.vsts p d a size disp)
    { broadcast := true, memory := true, perPass := clocksSize wide
      runs := fun _ => [run1 wide d.toNat, run32 a.toNat] } fun c s =>
    let l := c.offsets a.toNat (disp.toNat * z)
    match c.spadCheck l z true with
    | some r => r
    | none =>
        let s := s.touchAll c.pid (l.map (·.2.toNat)) z
        .done (c.spadOp s (l.map fun e =>
          (e.2.toNat, toBytes (c.pool.getElem wide e.1 d.toNat).toNat z)) 0 0)

/-! ### Register windows (R176, R177, R197) -/

/-- R176: the thread and register an offset of thread t names. -/
def windowTarget (peer : Bool) (t off : Nat) : Nat × Nat :=
  if peer then (off / 1024, off % 1024 / 4) else (t, off / 4)

/-- R176: the checks on the offsets. -/
def Ctx.windowCheck (c : Ctx) (peer : Bool) (l : List (Nat × Nat)) (z : Nat) : Option Res :=
  let bad1 := l.filter fun e => e.2 % z ≠ 0
  let bad2 := l.filter fun e =>
    let x := windowTarget peer e.1 e.2
    c.pool.allot ≤ x.2 || c.pool.threads ≤ x.1
  let trap (cause : Byte) (b : List (Nat × Nat)) : Option Res :=
    some (.trap cause (Mask.ofTids (b.map (·.1))) 0 (BitVec.ofNat 64 ((b.headD (0, 0)).2)))
  if bad1 ≠ [] then trap 0x09 bad1 else if bad2 ≠ [] then trap 0x0C bad2 else none

def Ctx.windowOffsets (c : Ctx) (a : Nat) : List (Nat × Nat) :=
  c.tids.map fun t => (t, (c.pool.reg t a).toNat)

def execVldw (p : Option Prefix) (d a : Byte) (size win : BitVec 1) :
    State → Host.Outcome State Fault Refusal :=
  let wide := size = 1
  issue (.vldw p d a size win)
    { broadcast := true, memory := true, perPass := clocksSize wide
      runs := fun _ => [run1 wide d.toNat, run32 a.toNat] } fun c s =>
    let l := c.windowOffsets a.toNat
    match c.windowCheck (win = 1) l (if wide then 8 else 4) with
    | some r => r
    | none =>
        .done (c.knownOp s wide d.toNat (l.map fun e =>
          let x := windowTarget (win = 1) e.1 e.2
          (e.1, c.pool.getElem wide x.1 x.2)) 0 0)

/-- R177: a window store is complete once its point is past. -/
def execVstw (p : Option Prefix) (d a : Byte) (size win : BitVec 1) :
    State → Host.Outcome State Fault Refusal :=
  let wide := size = 1
  issue (.vstw p d a size win)
    { broadcast := true, memory := true, perPass := clocksSize wide
      runs := fun _ => [run1 wide d.toNat, run32 a.toNat] } fun c s =>
    let l := c.windowOffsets a.toNat
    match c.windowCheck (win = 1) l (if wide then 8 else 4) with
    | some r => r
    | none =>
        .done (c.modPool s fun q => l.foldl (fun q e =>
          let x := windowTarget (win = 1) e.1 e.2
          q.setElem wide x.1 x.2 (c.pool.getElem wide e.1 d.toNat)) q)

/-! ### Scratchpad atomics (R199, R200) -/

/-- R199: the types atomics accept. -/
def atomicType (ty : Nat) : Bool := [3, 4, 7, 8, 11].contains ty

/-- R199: the operations in ascending tid on the scratchpad: the pool, the old values, the flags and the
bytes written. -/
def Ctx.spadAtomics (c : Ctx) (op : Nat) (l : List (Nat × Int)) (yreg xreg : Nat) (q : Pool) :
    Pool × List DWord × Flags × List (Nat × List Byte) :=
  let z := if c.wide then 8 else 4
  l.foldl (fun (acc : Pool × List DWord × Flags × List (Nat × List Byte)) e =>
    let o := e.2.toNat
    let old := acc.1.spadRead o z
    let y := (c.pool.getElem c.wide e.1 yreg).toNat
    let x := (c.pool.getElem c.wide e.1 xreg).toNat
    let r := atomicElem op c.tyCode c.rm c.sat old y x
    let bs := toBytes r.1 z
    (acc.1.spadWriteBytes o bs, acc.2.1 ++ [BitVec.ofNat 64 old], acc.2.2.1 ||| r.2,
      acc.2.2.2 ++ [(o, bs)])) (q, [], 0, [])

/-- R200: .rel and .sc wait for the earlier accesses of the CP. -/
def Ctx.ordered (c : Ctx) (ord : Nat) (s : State) (k : State → Res) : Res :=
  if ord = 2 ∨ ord = 3 then c.afterEarlier s k else k s

/-- A scratchpad atomic up to its writes (R194, R199, R200, R333). -/
def Ctx.atomicFrame (c : Ctx) (s : State) (a : Nat) (w : Access)
    (k : List (Nat × Int) → State → Res) : Res :=
  if !atomicType c.tyCode then .illegal
  else if c.slice then .trap 0x0F 0 0 0
  else
    let l := c.offsets a w.disp.toInt
    match c.spadCheck l (if c.wide then 8 else 4) true with
    | some r => r
    | none => c.ordered w.ord.toNat s fun s =>
        k l (s.touchAll c.pid (l.map (·.2.toNat)) (if c.wide then 8 else 4))

def execVatomSpad (p : Option Prefix) (d a b : Byte) (w : Access) :
    State → Host.Outcome State Fault Refusal :=
  issue (.vatomSpad p d a b w)
    { broadcast := true, memory := true, perPass := clocksSize false
      runs := fun c => [run1 c.wide d.toNat, run32 a.toNat, run1 c.wide b.toNat] ++
        if w.op = 7 then [run1 c.wide c.x] else [] } fun c s =>
    c.atomicFrame s a.toNat w fun l s =>
      let r := c.spadAtomics w.op.toNat l b.toNat c.x ((s.pool? c.pid).getD c.pool)
      let s := c.modPool s fun q => (c.spadAtomics w.op.toNat l b.toNat c.x q).1
      .done (c.knownOp s c.wide d.toNat ((l.map (·.1)).zip r.2.1) r.2.2.1 w.ord.toNat)

def execVredSpad (p : Option Prefix) (d a b : Byte) (w : Access) :
    State → Host.Outcome State Fault Refusal :=
  issue (.vredSpad p d a b w)
    { broadcast := true, memory := true, perPass := clocksSize false
      runs := fun c => [run1 c.wide d.toNat, run32 a.toNat] } fun c s =>
    c.atomicFrame s a.toNat w fun l s =>
      let r := c.spadAtomics w.op.toNat l d.toNat 0 ((s.pool? c.pid).getD c.pool)
      .done (c.spadOp s r.2.2.2 r.2.2.1 w.ord.toNat)

/-! ### Permutes (R201 to R203) -/

/-- A permute: the value of each responder. -/
def execPermute (i : Instr) (d a : Byte) (runs : Ctx → List Run) (sregs : List Nat)
    (ok : Ctx → Option Res) (src : Ctx → Nat → Option Nat) (other : Ctx → Nat → DWord) :
    State → Host.Outcome State Fault Refusal :=
  issue i { broadcast := true, perPass := clocksSize false, sregs := sregs
            runs := fun c => [run1 c.wide d.toNat, run1 c.wide a.toNat] ++ runs c } fun c s =>
    match ok c with
    | some r => r
    | none =>
        .done (c.knownOp s c.wide d.toNat (c.tids.map fun t =>
          (t, match src c t with
            | some u => c.pool.getElem c.wide u a.toNat
            | none => other c t)) 0 0)

/-- R201: the group base of a thread. -/
def Ctx.groupBase (c : Ctx) (t : Nat) : Nat := t / c.pool.group * c.pool.group

def execVperm (p : Option Prefix) (d a b : Byte) : State → Host.Outcome State Fault Refusal :=
  execPermute (.vperm p d a b) d a (fun c => [run1 c.wide b.toNat]) [] (fun _ => none)
    (fun c t =>
      let u := c.groupBase t + (c.pool.reg t b.toNat).toNat % c.pool.group
      if u < c.pool.threads then some u else none)
    fun _ _ => 0

/-- R202: the source lane of a responder in lane i, where it lies in the group. -/
def shuffleLane (kind delta group i : Nat) : Option Nat :=
  match kind with
  | 0 => if delta ≤ i then some (i - delta) else none
  | 1 => if i + delta < group then some (i + delta) else none
  | 2 => if (i ^^^ delta) < group then some (i ^^^ delta) else none
  | _ => if delta < group then some delta else none

def execVshfl (p : Option Prefix) (d a delta : Byte) (kind : BitVec 2) :
    State → Host.Outcome State Fault Refusal :=
  execPermute (.vshfl p d a delta kind) d a (fun _ => []) []
    (fun c => if c.pool.group ≤ delta.toNat then some .illegal else none)
    (fun c t =>
      let g := c.groupBase t
      (shuffleLane kind.toNat delta.toNat c.pool.group (t - g)).bind fun i =>
        if g + i < c.pool.threads then some (g + i) else none)
    fun c t => c.pool.getElem c.wide t a.toNat

def execVbcst (p : Option Prefix) (d a b : Byte) : State → Host.Outcome State Fault Refusal :=
  let tid (c : Ctx) : Nat := bits 31 0 (c.s b)
  execPermute (.vbcst p d a b) d a (fun _ => []) [b.toNat]
    (fun c => if c.pool.threads ≤ tid c then some (.trap 0x0C 0 0 (BitVec.ofNat 64 (tid c))) else none)
    (fun c _ => some (tid c))
    fun _ _ => 0

/-! ### SLD and SST (R139, R140) -/

/-- The shape of a scalar access. -/
def scalarAccess (d a : Byte) : Shape where
  memory := true
  sregs := [d.toNat, a.toNat]

def execSld (p : Option Prefix) (d a : Byte) (sp : BitVec 1) : State → Host.Outcome State Fault Refusal :=
  issue (.sld p d a sp) (scalarAccess d a) fun c s =>
    let addr := (c.s a).toNat
    if sp = 1 then
      match c.spadCheck [(0, (addr : Int))] 8 false with
      | some r => r
      | none =>
          let s := s.touchSpad c.pid addr 8
          let v := ((s.pool? c.pid).getD c.pool).spadRead addr 8
          .done (c.addOp s { c.newOp .sknown with
            dest := d.toNat, wide := true, lanes := [⟨0, addr, addr, BitVec.ofNat 64 v, 1⟩],
            got := some [BitVec.ofNat 64 v] }).2
    else
      let o : Op := { c.newOp .sload with
        dest := d.toNat, wide := true, lanes := [⟨0, addr, 0, 0, 0⟩] }
      match c.checkAll s [(0, (addr : Int))] 8 .load false with
      | .trap cause tm detail ad => .trap cause tm detail ad
      | .park k s' => c.parkLoad (scalarAccess d a) (Instr.sld p d a sp).words o k s'
      | .ok pas s' => .done (c.addOp s' { o with lanes := [⟨0, addr, pas.headD 0, 0, 0⟩] }).2

def execSst (p : Option Prefix) (d a : Byte) (sp : BitVec 1) : State → Host.Outcome State Fault Refusal :=
  issue (.sst p d a sp) (scalarAccess d a) fun c s =>
    let addr := (c.s a).toNat
    if sp = 1 then
      match c.spadCheck [(0, (addr : Int))] 8 false with
      | some r => r
      | none => .done (c.spadOp (s.touchSpad c.pid addr 8) [(addr, toBytes (c.s d).toNat 8)] 0 0)
    else
      match c.checkAll s [(0, (addr : Int))] 8 .store false with
      | .trap cause tm detail ad => .trap cause tm detail ad
      | .park _ _ => .trap 0x0D 0 1 (c.s a)
      | .ok pas s' => .done (c.addOp s' { c.newOp .store with
          wide := true, scalar := true, lanes := [⟨0, addr, pas.headD 0, c.s d, 0⟩] }).2

/-! ### Gongs (R211 to R213) -/

/-- R211: the fields of a gong word. -/
def Gong.arr (w : Nat) : Nat := w % 2 ^ 16
def Gong.pend (w : Nat) : Nat := w / 2 ^ 16 % 2 ^ 28
def Gong.phase (w : Nat) : Nat := w / 2 ^ 44 % 2
def Gong.exp (w : Nat) : Nat := w / 2 ^ 45 % 2 ^ 16

def Gong.word (exp phase pend arr : Nat) : Nat := arr + 2 ^ 16 * pend + 2 ^ 44 * phase + 2 ^ 45 * exp

def Gong.valid (w : Nat) : Bool := w / 2 ^ 61 = 0 && Gong.exp w ≠ 0 && Gong.arr w ≤ Gong.exp w

/-- R213: the test after a change. -/
def Gong.turns (w : Nat) : Bool := Gong.valid w && Gong.arr w = Gong.exp w && Gong.pend w = 0

/-- R213 step 2. -/
def Gong.turned (w : Nat) : Nat := Gong.word (Gong.exp w) (1 - Gong.phase w) 0 0

/-- R212: the checks on the offset in s_a; then the word. -/
def Ctx.gong (c : Ctx) (s : State) (a : Byte) (k : Nat → Nat → State → Res) : Res :=
  if bits 63 32 (c.s a) ≠ 0 then .trap 0x01 0 3 0
  else
    let o := bits 31 0 (c.s a)
    match c.spadCheck [(0, (o : Int))] 8 false with
    | some r => r
    | none =>
        let s := s.touchSpad c.pid o 8
        k o (((s.pool? c.pid).getD c.pool).spadRead o 8) s

/-- A changed gong word; where it turns the phase the change is a commit point (R213). -/
def Ctx.gongChange (c : Ctx) (h : Shape) (words : Nat) (s0 s : State) (o w : Nat) (f : Cp → Cp) : Res :=
  let s' (w : Nat) : State := c.modCp (c.modPool s fun p => p.spadWrite o 8 w) f
  if Gong.turns w then c.commitPoint h words s0 (s' (Gong.turned w)) none {} .go
  else .done (s' w)

def execGinit (p : Option Prefix) (a b : Byte) : State → Host.Outcome State Fault Refusal :=
  issue (.ginit p a b) { memory := true, sregs := [a.toNat, b.toNat] } fun c s =>
    c.gong s a fun o _ s =>
      let n := (c.s b).toNat
      if n = 0 ∨ 65535 < n then .trap 0x01 0 3 0
      else .done (c.modPool s fun q => q.spadWrite o 8 (Gong.word n 0 0 0))

def execGarr (p : Option Prefix) (d a : Byte) : State → Host.Outcome State Fault Refusal :=
  let h : Shape := { memory := true, sregs := [d.toNat, a.toNat] }
  issue (.garr p d a) h fun c s0 =>
    c.gong s0 a fun o w s =>
      if !Gong.valid w then .trap 0x01 0 1 0
      else if Gong.arr w = Gong.exp w then .trap 0x01 0 2 0
      else c.afterEarlier s0 fun _ =>
        c.gongChange h (Instr.garr p d a).words s0 s o (w + 1) fun cp =>
          cp.setS d.toNat (BitVec.ofNat 64 (Gong.phase w))

/-- R212: a word that is no gong gives DETAIL 1 before a bad count gives 3 (log 53). -/
def execGexp (p : Option Prefix) (a b : Byte) : State → Host.Outcome State Fault Refusal :=
  let h : Shape := { memory := true, sregs := [a.toNat, b.toNat] }
  issue (.gexp p a b) h fun c s0 =>
    c.gong s0 a fun o w s =>
      let n := (c.s b).toNat
      if !Gong.valid w then .trap 0x01 0 1 0
      else if n = 0 ∨ n < Gong.arr w ∨ 65535 < n then .trap 0x01 0 3 0
      else c.afterEarlier s0 fun _ =>
        c.gongChange h (Instr.gexp p a b).words s0 s o
          (Gong.word n (Gong.phase w) (Gong.pend w) (Gong.arr w)) id

/-- R213: a phase turn is visible once its commit is complete; no record of the pool is under way. -/
def State.quiet (s : State) (pid : Nat) : Bool := !s.records.any fun r => r.pools.contains pid

/-- R212: a blocking point while it waits; its wake condition is the offset and the phase bit. -/
def execGwait (p : Option Prefix) (a b : Byte) : State → Host.Outcome State Fault Refusal :=
  issue (.gwait p a b) { memory := true, sregs := [a.toNat, b.toNat] } fun c s =>
    if c.cp.holding then .trap 0x04 0 0 0
    else c.gong s a fun o w s =>
      if !Gong.valid w then .trap 0x01 0 1 0
      else if Gong.phase w ≠ bit ((c.s b).getLsbD 0) && s.quiet c.pid then .done s
      else .stay (s.standAt c.pid c.cid (.gong o ((c.s b).getLsbD 0) (Instr.gwait p a b).words))

/-! ### WAITC (R210) -/

/-- R209, R270: the first recorded engine fault of a class, and the rest. -/
def Cp.takeFault (cp : Cp) (cls : Nat → Bool) : Option (EngineFault × Cp) :=
  match cp.faults.find? fun f => cls f.cls with
  | some f => some (f, { cp with faults := cp.faults.erase f })
  | none => none

/-- The trap that reports an engine fault; the fault is not reported again. -/
def Ctx.reportFault (c : Ctx) (s : State) (cls : Nat → Bool) : Option Res :=
  (c.cp.takeFault cls).map fun f =>
    .stay ((c.modCp s fun _ => f.2).takeTrap c.pid c.cid c.cp.pc 0x17 0 f.1.detail f.1.addr)

/-- R210.  A copy that is parked for any reason makes a WAITC on c.cpy a blocking point: R46 speaks of a parked copy,
R183 of one parked on a recoverable fault (log 18). -/
def execWaitc (p : Option Prefix) (d b : Byte) : State → Host.Outcome State Fault Refusal :=
  issue (.waitc p d b) {} fun c s =>
    let cls := d.toNat
    if c.cp.holding && (cls = 1 || cls = 2) then .trap 0x04 0 0 0
    else match c.reportFault s (· = cls) with
      | some r => r
      | none =>
          if c.cp.counter cls ≤ b.toNat then .done s
          else
            let parked := (c.pool.cmdsOf c.cid cls).any (·.park.isSome)
            if cls = 1 || cls = 2 || (cls = 0 && parked) then
              if c.cp.holding then .trap 0x04 0 0 0
              else .stay (s.standAt c.pid c.cid (.counter cls b.toNat))
            else .stay (s.standAt c.pid c.cid .stall)

end Sys2Proof.Machine
end

