-- ==== Sys2Proof/Machine/Engine.lean ====
section
/-! DEFINITION. CPY, GDESC, GTHR and MRG, and the completion of copy, gather and merge commands
(08: R182; 09: R204 to R209; 12: R264 to R271; 15: R285, R286). -/

namespace Sys2Proof.Machine

/-! ### Issuing a command -/

/-- R21: the registers a record names, and a record word after substitution. -/
def recordRegs (marks : BitVec 4) (r : TensorRecord) : List Nat :=
  ([r.r0, r.r1, r.r2, r.r3].zipIdx.filter fun e => marks.getLsbD e.2).map fun e => e.1.toNat % 256

def Ctx.recordWord (c : Ctx) (marks : BitVec 4) (k : Nat) (w : Word) : Word :=
  if marks.getLsbD k then (c.cp.sreg (w.toNat % 256)).extractLsb' 0 32 else w

/-- R89: a reserved bit set in a value substituted from a register. -/
def Ctx.badSubst (c : Ctx) (marks : BitVec 4) (k : Nat) (w reserved : Word) : Bool :=
  marks.getLsbD k && c.recordWord marks k w &&& reserved != 0

/-- R182: a command counted in its class joins the outstanding ones. -/
def Ctx.addCmd (c : Ctx) (s : State) (cls : Nat) (kind : CmdKind) (snap : List (Option Byte)) : State :=
  let (id, s) := s.takeId
  let cmd : Cmd := ⟨id, c.cid, kind, c.rmCode, c.sat, none, snap, none⟩
  c.modCp (c.modPool s fun p => { p with cmds := p.cmds ++ [cmd] })
    fun cp => cp.setCounter cls (cp.counter cls + 1)

/-- R170, R182: a command that would take its counter above 63 is not ready. -/
def Ctx.counted (c : Ctx) (s : State) (cls : Nat) (k : Unit → Res) : Res :=
  if 63 ≤ c.cp.counter cls then .stay (s.standAt c.pid c.cid .stall) else k ()

/-! ### CPY (R204 to R206) -/

/-- R206 step 3: the lowest byte address of a copy at or above 2^56. -/
def CopyCmd.tooHigh (k : CopyCmd) : Option Nat :=
  ((List.range k.rows).find? fun r => 2 ^ 56 < k.rowAt r + k.rowBytes).map fun r => max (k.rowAt r) (2 ^ 56)

def execCpy (p : Option Prefix) (d a : Byte) (variant marks : BitVec 4) (r : TensorRecord) :
    State → Host.Outcome State Fault Refusal :=
  issue (.cpy p d a variant marks r)
    { memory := true, sregs := [d.toNat, a.toNat] ++ recordRegs marks r } fun c s =>
    c.counted s 0 fun _ =>
      let w1 := c.recordWord marks 1 r.r1
      let w3 := c.recordWord marks 3 r.r3
      let ge := w3.getLsbD 31
      let goff := bits 17 0 w3
      let k : CopyCmd := {
        variant := variant.toNat
        spad := (c.s d).toNat
        addr := (c.s a).toNat
        rowBytes := (c.recordWord marks 0 r.r0).toNat
        rows := bits 15 0 w1
        gpitch := (c.recordWord marks 2 r.r2).toNat
        gong := if ge then some (8 * goff) else none }
      let limits := 1 ≤ k.rowBytes && k.rowBytes ≤ 1572864 && 1 ≤ k.rows &&
        (if ge then decide (8 * goff + 8 ≤ c.pool.spadSize) else goff = 0) &&
        k.spad + k.total ≤ c.pool.spadSize &&
        (k.variant ≠ 2 || k.addr + k.total ≤ c.pool.spadSize)
      if c.badSubst marks 1 r.r1 0xFFFF0000 || c.badSubst marks 3 r.r3 0x7FFC0000 || !limits then
        .trap 0x14 0 0 0
      else match (if k.variant = 2 then none else k.tooHigh) with
        | some x => .trap 0x0A 0 0 (BitVec.ofNat 64 x)
        | none =>
            let go (s : State) : Res :=
              let sn := c.copySnap s k
              .done (c.addCmd sn.2 0 (.copy k) sn.1)
            match k.gong with
            | none => go s
            | some o =>
                let s := s.touchSpad c.pid o 8
                let w := ((s.pool? c.pid).getD c.pool).spadRead o 8
                if !Gong.valid w then .trap 0x01 0 1 0
                else if 2 ^ 28 - 1 < Gong.pend w + k.total then .trap 0x15 0 0 0
                else go (c.modPool s fun q => q.spadWrite o 8 (w + 2 ^ 16 * k.total))

/-! ### GDESC and GTHR (R264, R265) -/

/-- R264: the limits on a descriptor. -/
def Handle.ok (h : Handle) : Bool :=
  let sw := (Ty.ofCode h.sfmt).width
  let dw := (Ty.ofCode h.dfmt).width
  let size := if sw = 4 then 1 else sw / 8
  bits 63 56 h.q0 = 0 && h.base % size = 0 && h.stride % size = 0 && h.count ≠ 0 &&
  bits 63 16 h.q2 = 0 && 1 ≤ h.nel && h.nel ≤ 64 && h.dfmt ≠ 0 && h.sfmt ≠ 0 &&
  ((sw ≠ 4 && dw ≠ 4) || h.nel % 2 = 0) &&
  h.dpitch % 4 = 0 && h.dstBytes ≤ h.dpitch && h.doff % 4 = 0

def execGdesc (p : Option Prefix) (d a : Byte) : State → Host.Outcome State Fault Refusal :=
  let n := a.toNat
  issue (.gdesc p d a) { sregs := [n, n + 1, n + 2, n + 3] } fun c s =>
    let h : Handle := ⟨c.cp.sreg n, c.cp.sreg (n + 1), c.cp.sreg (n + 2), c.cp.sreg (n + 3)⟩
    if !h.ok then .trap 0x01 0 0x10 0
    else .done (c.modCp s fun cp => { cp with handles := KMap.put cp.handles d.toNat h })

/-- What the checks of a GTHR come to. -/
inductive RowCheck where
  | ok (s : State)
  | trap (cause : Byte) (tmask : Mask) (detail : Word) (addr : DWord)
  | park (k : Park) (s : State)

/-- R265: the checks 2 and 3 of a GTHR over its rows, in rank order as (tid, index). -/
def Ctx.gatherCheck (c : Ctx) (h : Handle) (rows : List (Nat × Nat)) (s : State) : RowCheck :=
  match rows with
  | [] => .ok s
  | (t, i) :: _ =>
      let first : Mask := Mask.ofTids [t]
      if c.pool.spadSize < h.doff + (rows.length - 1) * h.dpitch + h.dstBytes then .trap 0x14 0 0 0
      else if h.count ≤ i then .trap 0x16 first 0x14 0
      else
        match c.checkRow (lineChunks (h.rowAt i) h.srcBytes) s with
        | (.ok _, s') => .ok s'
        | (.error (f, va), s') =>
            let park (k : Park × State) : RowCheck := .park k.1 k.2
            match f with
            | .x (.tile r) => park (s'.parkFor c.asid va (.tile r))
            | .x .recoverable => park (s'.parkFor c.asid va .recoverable)
            | .x g => .trap 0x16 first ((g.cause false).1.zeroExtend 32) (BitVec.ofNat 64 va)
            | .scope => .trap 0x0F first 0 (BitVec.ofNat 64 va)
            | .misaligned => .trap 0x16 first 0x09 (BitVec.ofNat 64 va)

def gthrShape (m : BitVec 3) (a : Byte) : Shape where
  broadcast := true
  memory := true
  runs := fun _ => [run32 a.toNat]
  mregs := [m.toNat]
  perPass := clocksSize false

/-- A GTHR that parks has read its indices tentatively: it is kept apart from its CP, which stands at it, and is
checked anew with its indices when it is reissued (R183, R265). -/
def execGthr (p : Option Prefix) (m : BitVec 3) (a b : Byte) : State → Host.Outcome State Fault Refusal :=
  issue (.gthr p m a b) (gthrShape m a) fun c s =>
    c.counted s 1 fun _ =>
      match KMap.find? c.cp.handles b.toNat with
      | none => .trap 0x01 0 0x11 0
      | some h =>
          let rows := c.tids.map fun t => (t, (c.pool.reg t a.toNat).toNat)
          match c.gatherCheck h rows s with
          | .ok s' => .done (c.addCmd s' 1 (.gather ⟨m.toNat, h, rows⟩) [])
          | .trap cause tm detail addr => .trap cause tm detail addr
          | .park k s' => c.parkLoad (gthrShape m a) (Instr.gthr p m a b).words
              { c.newOp (.gather m.toNat h (some a.toNat)) with flag := 15, lanes := rows.map fun x => ⟨x.1, x.2, 0, 0, 0⟩ } k s'

/-! ### MRG (R267) -/

def execMrg (p : Option Prefix) (d a : Byte) (variant marks : BitVec 4) (r : TensorRecord) :
    State → Host.Outcome State Fault Refusal :=
  issue (.mrg p d a variant marks r)
    { memory := true, sregs := [d.toNat, a.toNat] ++ recordRegs marks r } fun c s =>
    c.counted s 2 fun _ =>
      let w0 := c.recordWord marks 0 r.r0
      let w1 := c.recordWord marks 1 r.r1
      let k : MergeCmd := {
        block := (c.s d).toNat
        first := bits 31 0 (c.s a)
        rows := bits 15 0 w0
        set := variant = 1
        keepz := w1.getLsbD 6
        comb := bits 5 4 w1
        vt := bits 3 0 w1
        olimit := (c.recordWord marks 2 r.r2).toNat
        ostart := (c.recordWord marks 3 r.r3).toNat }
      let limits := 1 ≤ k.rows &&
        (if k.set then bits 6 0 w1 = 0 else atomicType k.vt && !(k.comb = 3 && k.vt = 11)) &&
        k.olimit ≤ 0x7FFFFFFF && k.ostart ≤ k.olimit && bits 63 32 (c.s a) = 0 &&
        k.first + k.rows ≤ 2 ^ 32 - 1
      if c.badSubst marks 0 r.r0 0xFFFF0000 || c.badSubst marks 1 r.r1 0xFFFFFF80 || !limits then
        .trap 0x14 0 0 0
      else if k.block % 64 ≠ 0 then .trap 0x09 0 0 (c.s d)
      else if 2 ^ 56 ≤ k.block then .trap 0x0A 0 0 (c.s d)
      else .done (c.addCmd s 2 (.merge k) [])

/-! ### Completion (R208, R209, R266, R270) -/

/-- What the entry of a command's writes into the journal comes to: all of them are in it; a write has to wait for
commits, of which those of the pools named have still to be formed, with the writes that remain; a write waits for a
page; or one fails a check, with the number of writes that remain. -/
inductive Sent where
  | all (s : State)
  | full (pools : List Nat) (left : List (Nat × List Byte)) (s : State)
  | wait (p : Park)
  | bad (cause addr left : Nat) (s : State)

/-- A global write of an engine as journal entries; `kept` where its command was issued before the last checkpoint
(R180). -/
def Ctx.engineEntries (c : Ctx) (kept : Bool) (va pa : Nat) (bs : List Byte) : List Entry :=
  (splitLines pa bs).map fun e =>
    { pool := c.pid, cp := c.cid, core := c.core, asid := c.asid, va := va + (e.1 - pa), pa := e.1,
      kind := .store e.2, release := false, record := none, kept := kept, slice := c.slice }

/-- R178, R207: the writes enter the journal in order.  With `skip`, those that fail a check are left out: a copy that
has faulted goes on over its whole range (R209, log 16). -/
def Ctx.sendWrites (c : Ctx) (kept skip : Bool) (l : List (Nat × List Byte)) (s : State) : Sent :=
  match l with
  | [] => .all s
  | (va, bs) :: r =>
      match c.checkChunk s va bs.length .engineWrite with
      | (.error f, s') =>
          if skip then c.sendWrites kept skip r s'
          else (match (c.engineFail s' va f : Moved Unit) with
          | .wait p _ => .wait p
          | .bad cause a s'' => .bad cause a l.length s''
          | .reds s'' | .ok _ s'' => .full [] l s'')
      | (.ok pa, s') =>
          match s'.enterJournal c.pid (c.engineEntries kept va pa bs) with
          | .entered s'' => c.sendWrites kept skip r s''
          | .commitFirst ps => .full ps l s'

/-- A plan of which these writes remain. -/
def Plan.leave (pl : Plan) (left : List (Nat × List Byte)) : Plan :=
  { pl with writes := left, marks := pl.marks.drop (pl.writes.length - left.length), next := none }

/-- R270: a plan that a write stops, with `n` writes left: the cause is the write's, and what later elements would
have raised or read is not raised. -/
def Plan.stopAt (pl : Plan) (f : Nat × Nat) (n : Nat) : Plan :=
  match pl.marks[pl.writes.length - n]? with
  | some m => { pl with fault := some f, flags := m.1, poison := m.2 }
  | none => { pl with fault := some f }

/-- R208, R214: the bytes of a counted copy leave PEND; a command that a rollback does not cancel leaves it
in the word the undo log would restore too. -/
def Pool.gongSub (p : Pool) (kept : Bool) (o n : Nat) : Pool :=
  let sub (w : Nat) : Nat := w - 2 ^ 16 * min n (Gong.pend w)
  let now := toBytes (sub (p.spadRead o 8)) 8
  if kept then
    let old := ofBytes ((List.range 8).map fun i => KMap.get p.undoSpad (p.spadByte (o + i)) (o + i))
    { p with
      spad := KMap.setAll p.spad 0 (tableFrom o now)
      undoSpad := (tableFrom o (toBytes (sub old) 8)).foldl (fun m e => KMap.put m e.1 e.2) p.undoSpad }
  else p.spadWriteBytes o now

def CmdKind.cls : CmdKind → Nat
  | .copy _ => 0
  | .gather _ => 1
  | .merge _ => 2
  | .matrix _ => 3

/-- The end of a command (R208): its scratchpad bytes, its gong, its mask, its flags, its fault, its counter.  Of a
command issued before the last checkpoint a rollback undoes none of it; it counts anew (R188). -/
def Ctx.endCmd (c : Ctx) (s : State) (cmd : Cmd) (pl : Plan) : State :=
  let cls := cmd.kind.cls
  let s1 := s.modPool c.pid fun p =>
    let kept := p.kept cmd.id
    let p : Pool := pl.bytes.foldl (fun (p : Pool) (e : Nat × Byte) => p.engineByte kept e.1 e.2) p
    let p : Pool := match cmd.kind with
      | .copy k => (match k.gong with | some o => p.gongSub kept o k.total | none => p)
      | _ => p
    (p.removeCmd cmd.id).modCpKept kept c.cid fun cp =>
      let cp := cp.raise pl.flags
      let cp := if pl.poison then cp.setPoison else cp
      let cp := match cmd.kind with
        | .gather g => cp.setM g.md (Mask.ofTids ((g.rows.take pl.rows).map (·.1)))
        | _ => cp
      match pl.fault with
      | some f => { cp with faults := cp.faults ++ [⟨cls, BitVec.ofNat 32 f.1, BitVec.ofNat 64 f.2⟩] }
      | none => cp
  c.modCp s1 fun cp => cp.setCounter cls (cp.counter cls - 1)

/-- R213: the gong of a copy that completed turns its phase, with a commit of the pool. -/
def Ctx.turnAfterCopy (c : Ctx) (s : State) (cmd : Cmd) : Option State :=
  match cmd.kind with
  | .copy k => (match k.gong with
      | some o =>
          let w := ((s.pool? c.pid).getD c.pool).spadRead o 8
          if Gong.turns w then
            (c.modPool s fun p => p.spadWrite o 8 (Gong.turned w)).commitPool c.pid none {} fun _ s => s
          else some s
      | none => some s)
  | _ => some s

/-- R209, R270: what a write that fails a check after all makes of the plan of a command: a copy has bytes without a
value over its whole range, which its next completion event sends; a merge stops at the write. -/
def Ctx.failWrite (c : Ctx) (cmd : Cmd) (pl : Plan) (f : Nat × Nat) (n : Nat) (before sent : State)
    (finish : State → Plan → State) : State :=
  match cmd.kind with
  | .copy k =>
      let x := k.spoiled f before
      x.2.modPool c.pid fun p => p.modCmd cmd.id fun y => { y with plan := some x.1 }
  | _ => finish sent (pl.stopAt f n)

/-- A command completes, where it can: the commands of one class of a CP complete in issue order, a parked one
waits, a full undo log (R180) or an unsettled pool at a phase turn waits.  Its writes enter the journal with its
completion (R286), unless a forced commit divides them (R178): the command then stands before that checkpoint, with
the writes that remain.  A forced commit for its undo entries leaves it before that checkpoint, so that none of them
is recorded (R180, log 6).  What a merge that does not park reads, it reads here (log 16). -/
def State.completeCmd (s : State) (pid id : Nat) : State :=
  match (s.pool? pid).bind fun p => p.cmds.find? (·.id = id) with
  | none => s
  | some cmd =>
      match s.ctxOf pid cmd.cp with
      | none => s
      | some c =>
          let first := ((c.pool.cmds.filter fun k => k.cp = cmd.cp && k.kind.cls = cmd.kind.cls).head?.map (·.id)) == some id
          let parked := match cmd.park with | some k => !s.parkOver k | none => false
          if !first || parked || s.undoForced pid then s
          else
            let mark (s : State) (f : Cmd → Cmd) : State := s.modPool pid fun p => p.modCmd id f
            let finish (s' : State) (pl : Plan) : State :=
              let t := c.endCmd s' cmd pl
              if s'.undoFull t pid then s.forceUndo pid none [pid]
              else (c.turnAfterCopy t cmd).getD s
            match c.plan s { cmd with park := none } with
            | .wait k s' => mark s' fun x => { x with park := some k }
            | .reds s' => s'
            | .bad f a s' => finish s' { fault := some (f, a) }
            | .ok pl s' =>
                match pl.park with
                | some k => mark s' fun x => { x with park := some k, plan := some { pl with park := none } }
                | none =>
                    match c.sendWrites (c.pool.kept id) (cmd.kind.cls = 0 && pl.fault.isSome) pl.writes s' with
                    | .all s'' => finish s'' pl
                    | .full ps left s'' =>
                        if ps.contains pid then
                          let t := mark s'' fun x => { x with park := none, plan := some (pl.leave left) }
                          let u := t.forceCommit pid
                          if u.records.length = t.records.length then s else u
                        else ps.foldl State.forceCommit s
                    | .wait k => mark (s'.askFor k) fun x => { x with park := some k, plan := some (pl.leave pl.writes) }
                    | .bad f a n s'' => c.failWrite cmd pl (f, a) n s' s'' finish

/-- A completion of a command of one class. -/
def completion (cls pid id : Nat) (s : State) : Host.Outcome State Fault Refusal :=
  match (s.pool? pid).bind fun p => p.cmds.find? (·.id = id) with
  | some cmd => if cmd.kind.cls = cls && s.viral.isNone then .next (s.completeCmd pid id) else .next s
  | none => .next s

def execCopyCompletion (pool cmd : Nat) : State → Host.Outcome State Fault Refusal := completion 0 pool cmd

def execGatherCompletion (pool cmd : Nat) : State → Host.Outcome State Fault Refusal := completion 1 pool cmd

def execMergeCompletion (pool cmd : Nat) : State → Host.Outcome State Fault Refusal := completion 2 pool cmd

end Sys2Proof.Machine
end

