-- ==== Sys2Proof/Machine/Global.lean ====
section
/-! DEFINITION. Global loads, stores and atomics, PREF, FLUSH, INV, WATCH and FENCE, and the completion of
result and performed operations (06: R158, R161; 12: R256 to R263; 15: R259, R277, R287, R288). -/

namespace Sys2Proof.Machine

/-! ### Addresses and entries -/

/-- R257: the effective addresses of the responders, in ascending tid. -/
def Ctx.addresses (c : Ctx) (a b : Byte) (w : Access) : List (Nat × Int) :=
  let base : Int := (c.cp.sreg (a.toNat % 128)).toNat
  c.tids.map fun t =>
    (t, base + (if a.getLsbD 7 then ((c.pool.reg t b.toNat).toNat : Int) else 0) + w.disp.toInt)

/-- R257: the access size. -/
def Ctx.accessBytes (c : Ctx) : Nat := if c.wide then 8 else 4

/-- The shape of a global access. -/
def globalShape (a b : Byte) (runs : Ctx → List Run) : Shape where
  broadcast := true
  memory := true
  runs := fun c => runs c ++ if a.getLsbD 7 then [run32 b.toNat] else []
  sregs := [a.toNat % 128]
  perPass := clocksSize false

/-- R287: the timestamp of an `.sc` access or fence of a core, above every clock that the cores of its pool have. -/
def State.scTick (s : State) (core : Nat) (cores : List Nat) : Nat × State :=
  let t := (max (KMap.get s.scClock 0 core) (s.clockOf cores) + 1) % 2 ^ 64
  (t, { s with scClock := KMap.set s.scClock 0 core t })

/-- The timestamp, for an `.sc` access. -/
def Ctx.stampFor (c : Ctx) (ord : Nat) (s : State) : Option Nat × State :=
  if ord = 3 then (some (s.scTick c.core c.pool.cores).1, (s.scTick c.core c.pool.cores).2) else (none, s)

/-- R288: the record of an `.sc` access at .cl or wider is held for its timestamp (log 50). -/
def heldStamp (scope core : Nat) (stamp : Option Nat) : Option (Nat × Nat) :=
  if 2 ≤ scope then stamp.map fun t => (t, core) else none

/-! ### VLD (R258, R259) -/

def execVld (p : Option Prefix) (d a b : Byte) (w : Access) : State → Host.Outcome State Fault Refusal :=
  let h := globalShape a b fun c => [run1 c.wide d.toNat]
  let ord := w.ord.toNat
  let scope := w.scope.toNat
  issue (.vld p d a b w) h fun c s0 =>
    (if ord = 3 then c.afterEarlier s0 else fun k => k s0) fun s =>
      let l := c.addresses a b w
      let o : Op := { c.newOp .load with
        dest := d.toNat, wide := c.wide, zero := c.zeroSet, ord := ord, scope := scope
        lanes := l.map fun e => ⟨e.1, e.2.toNat, 0, 0, 0⟩ }
      match c.checkAll s l c.accessBytes .load true with
      | .trap cause tm detail ad => .trap cause tm detail ad
      | .park k s' => c.parkLoad h (Instr.vld p d a b w).words o k s'
      | .ok pas s' =>
          let st := c.stampFor ord s'
          let o : Op := { o with
            stamp := st.1
            lanes := (l.zip pas).map fun e => ⟨e.1.1, e.1.2.toNat, e.2, 0, 0⟩ }
          let r := c.addOp st.2 o
          if ord = 3 ∧ 2 ≤ scope then
            let s2 : State := { r.2 with held := r.2.held ++ [⟨c.pid, r.1, c.core, st.1.getD 0⟩] }
            c.commitPoint h (Instr.vld p d a b w).words s0 s2 (some r.1) { sys := scope = 5 } .go
          else .done r.2

/-! ### VST and VRED (R258, R261) -/

/-- R287, R288: an `.sc` access to these bytes on the same cores, which has an earlier timestamp than a new one
gets, has not been performed. -/
def State.scOpen (s : State) (p : Pool) (o : Op) : Bool :=
  let z (x : Op) : Nat := if x.wide then 8 else 4
  s.pools.any fun e => e.2.cores.any p.cores.contains && e.2.ops.any fun x =>
    x.stamp.isSome && x.lanes.any fun l => x.unperformed l && o.lanes.any fun k => rangesOverlap l.pa (z x) k.pa (z o)

/-- A store or reduction whose operands are captured: outstanding until it enters the journal, or, as a
release at .cl or wider, entered at once and committed (R259). -/
def Ctx.storeOp (c : Ctx) (h : Shape) (words : Nat) (s0 s : State) (o : Op) : Res :=
  let st := c.stampFor o.ord s
  if o.ord = 3 && s.scOpen c.pool o then .stay (s0.standAt c.pid c.cid .stall)
  else if 2 ≤ o.ord ∧ 2 ≤ o.scope then
    match st.2.enterJournal c.pid (o.entries c.pid c.pool true) with
    | .commitFirst ps => .stay (s0.forceFor c.pid c.cid ps)
    | .entered s' => c.commitPoint h words s0 s' none
        { stamp := heldStamp o.scope c.core st.1, sys := o.scope = 5 } .go
  else .done (c.addOp st.2 { o with stamp := st.1 }).2

def execVst (p : Option Prefix) (d a b : Byte) (w : Access) : State → Host.Outcome State Fault Refusal :=
  let h := globalShape a b fun c => [run1 c.wide d.toNat]
  issue (.vst p d a b w) h fun c s0 =>
    c.ordered w.ord.toNat s0 fun s =>
      let l := c.addresses a b w
      match c.checkAll s l c.accessBytes .store true with
      | .trap cause tm detail ad => .trap cause tm detail ad
      | .park _ _ => .illegal
      | .ok pas s' =>
          c.storeOp h (Instr.vst p d a b w).words s0 s' { c.newOp .store with
            wide := c.wide, ord := w.ord.toNat, scope := w.scope.toNat
            lanes := (l.zip pas).map fun e =>
              ⟨e.1.1, e.1.2.toNat, e.2, c.pool.getElem c.wide e.1.1 d.toNat, 0⟩ }

/-- The checks of a global atomic: its type, a slice (R333), its addresses. -/
def Ctx.globalAtomic (c : Ctx) (s : State) (l : List (Nat × Int)) (k : List Nat → State → Res) : Res :=
  if !atomicType c.tyCode then .illegal
  else if c.slice then .trap 0x0F 0 0 0
  else match c.checkAll s l c.accessBytes .store true with
    | .trap cause tm detail ad => .trap cause tm detail ad
    | .park _ _ => .illegal
    | .ok pas s' => k pas s'

def execVredGlobal (p : Option Prefix) (d a b : Byte) (w : Access) :
    State → Host.Outcome State Fault Refusal :=
  let h := globalShape a b fun c => [run1 c.wide d.toNat]
  issue (.vredGlobal p d a b w) h fun c s0 =>
    c.ordered w.ord.toNat s0 fun s =>
      let l := c.addresses a b w
      c.globalAtomic s l fun pas s' =>
        c.storeOp h (Instr.vredGlobal p d a b w).words s0 s' { c.newOp .red with
          wide := c.wide, ord := w.ord.toNat, scope := w.scope.toNat, aop := w.op.toNat
          lanes := (l.zip pas).map fun e =>
            ⟨e.1.1, e.1.2.toNat, e.2, c.pool.getElem c.wide e.1.1 d.toNat, 0⟩ }

/-! ### VATOM (R260) -/

/-- R260.  One without responders takes its commit point and marks a RESTART pool as any VATOM does (log 53). -/
def execVatomGlobal (p : Option Prefix) (d a b : Byte) (w : Access) :
    State → Host.Outcome State Fault Refusal :=
  let h := globalShape a b fun c => [run1 c.wide d.toNat] ++ if w.op = 7 then [run1 c.wide c.x] else []
  let ord := w.ord.toNat
  let scope := w.scope.toNat
  issue (.vatomGlobal p d a b w) h fun c s0 =>
    c.ordered ord s0 fun s =>
      let l := c.addresses a b w
      c.globalAtomic s l fun pas s' =>
        let st := c.stampFor ord s'
        let lanes := (l.zip pas).map fun e =>
          (⟨e.1.1, e.1.2.toNat, e.2, c.pool.getElem c.wide e.1.1 d.toNat,
            c.pool.getElem c.wide e.1.1 c.x⟩ : Lane)
        let o : Op := { c.newOp .vatom with
          dest := d.toNat, wide := c.wide, zero := c.zeroSet, ord := ord, scope := scope
          aop := w.op.toNat, lanes := lanes, stamp := st.1
          got := if lanes.isEmpty then some [] else none }
        let r := c.addOp st.2 o
        if ord = 3 && s'.scOpen c.pool o then .stay (s0.standAt c.pid c.cid .stall)
        else c.commitPoint h (Instr.vatomGlobal p d a b w).words s0 r.2 (some r.1)
          { atoms := lanes.map fun e => ⟨c.pid, r.1, c.asid, e.addr, e.pa, w.op.toNat, c.tyCode, c.rmCode, c.sat, e.y, e.x, none⟩
            stamp := heldStamp scope c.core st.1, sys := scope = 5, marks := true }
          (if (ord = 1 ∨ ord = 3) ∧ 3 ≤ scope then .acquire else .go)

/-! ### PREF, FLUSH and INV (R262, R263) -/

/-- R262: one line requested for a core: into its L1, its cluster cache, or the LLC; at .die or wider a dropped
tile, whatever copies of it stand in the caches; at narrower scopes that is dropped. -/
def Ctx.prefetch (c : Ctx) (s : State) (scope z : Nat) (e : Nat × Int) : State :=
  let core := c.pool.coreOfThread e.1
  let tile (s : State) (r : Nat) : State := if 3 ≤ scope then s.requestTile r else s
  match c.checkOne s e.2 z .load core with
  | (.error (.x (.tile r)), s') => tile s' r
  | (.error _, s') => s'
  | (.ok pa, s') =>
      if portSpace pa || s'.lineHeld (lineOf pa) then s'
      else match s'.droppedAt c.asid e.2.toNat with
        | some r => tile s' r
        | none =>
            let key := s'.keyFor c.asid
            if scope ≤ 1 then (s'.committedLine core key (lineOf pa) false).2
            else if scope = 2 then s'.fillCluster core key (lineOf pa)
            else s'.fillLlc key.1 (lineOf pa)

def execPref (p : Option Prefix) (d a b : Byte) (w : Access) : State → Host.Outcome State Fault Refusal :=
  issue (.pref p d a b w) (globalShape a b fun _ => []) fun c s =>
    .done ((c.addresses a b w).foldl (fun s e => c.prefetch s w.scope.toNat c.accessBytes e) s)

def execFlush (p : Option Prefix) (scope : BitVec 3) : State → Host.Outcome State Fault Refusal :=
  issue (.flush p scope) {} fun c s =>
    if scope.toNat < 2 then .done s
    else
      let r := c.addOp s (c.newOp (.flush 0))
      match (c.finish {} (Instr.flush p scope).words r.2).commitPool c.pid none { sys := scope = 5 }
          (fun id s => (c.modPool s fun q => q.modOp r.1 fun o => { o with kind := .flush id }).modCp
            c.pid c.cid fun cp => { cp with wait := some (id, .go) }) with
      | some s' => .stay s'
      | none => .stay (s.standAt c.pid c.cid .stall)

def execInv (p : Option Prefix) (d a : Byte) (scope : BitVec 3) : State → Host.Outcome State Fault Refusal :=
  issue (.inv p d a scope) { memory := true, sregs := [d.toNat, a.toNat] } fun c s =>
    let n := (c.s d).toNat
    if n = 0 then .done s
    else if 2 ^ 56 < (c.s a).toNat + n then .trap 0x0A 0 0 (c.s a)
    else .done (c.addOp s { c.newOp (.inv n) with
      scope := scope.toNat, lanes := [⟨0, (c.s a).toNat, 0, 0, 0⟩] }).2

/-- R263: INV page by page; a page that fails a check is skipped. -/
def Ctx.invPages (c : Ctx) (scope : Nat) (pages va n : Nat) (s : State) : State :=
  match pages with
  | 0 => s
  | k + 1 =>
      if n = 0 then s
      else
        let here := min n (4096 - va % 4096)
        let s' := match s.translate (clusterOf c.core) c.asid va .load with
          | (.ok pa, s') => s'.dropLines c.core scope pa here
          | (.error _, s') => s'
        c.invPages scope k (va + here) (n - here) s'

/-! ### WATCH (R158) -/

/-- R280: a read of a CP has completed: what its other outstanding loads have read of the same bytes may be older, and
is read again. -/
def State.readAgain (s : State) (pid cid pa n : Nat) : State :=
  s.modPool pid fun p => { p with ops := p.ops.map fun o =>
    if o.cp = cid && (o.kind == .load || o.kind == .sload) then
      { o with lanes := o.lanes.map fun l =>
          if rangesOverlap l.pa (if o.wide then 8 else 4) pa n then { l with x := 0 } else l }
    else o }

/-- R296: the core watches a line, where its slice has an entry left. -/
def State.addWatch (s : State) (core line : Nat) : State :=
  let old := KMap.get s.watch [] line
  let full := old.isEmpty && decide (16384 ≤
    (s.watch.filter fun e => homeSlice (64 * e.1) = homeSlice (64 * line)).length)
  if full || old.contains core then s
  else { s with watch := KMap.put s.watch line (core :: old) }

/-- What a WATCH's read comes to. -/
inductive Watched where
  | differs (s : State)
  | same (s : State)
  | reds (s : State)
  | park (k : Park) (s : State)
  | trap (cause : Byte) (detail : Word) (addr : DWord)

/-- R158, R277: one read of the word. -/
def Ctx.watchRead (c : Ctx) (s : State) (addr : Nat) (val : DWord) (ord scope : Nat) : Watched :=
  match c.checkAll s [(0, (addr : Int))] 8 .load false with
  | .trap cause _ detail ad => .trap cause detail ad
  | .park k s' => .park k s'
  | .ok pas s' =>
      let pa := pas.headD 0
      match (if ord = 1 ∧ 3 ≤ scope then s'.droppedAt c.asid addr else none) with
      | some r => .park (s'.parkFor c.asid addr (.tile r)).1 (s'.parkFor c.asid addr (.tile r)).2
      | none =>
      if (c.pool.ownWrite c.cid none pa 8).isSome then .reds s'
      else if !(s'.pendingReds c.core pa 8).isEmpty then .reds (s'.forceReds c.core pa 8)
      else if s'.lineHeld (lineOf pa) then .reds s'
      else
        let acq := ord = 1
        let home := acq && decide (3 ≤ scope)
        let (r, s2) := s'.readFor c.pid c.core c.asid pa 8 home
        if BitVec.ofNat 64 (ofBytes r.bytes) = val then .same (s2.addWatch c.core (lineOf pa))
        else if acq && decide (2 ≤ scope) && !r.recs.isEmpty then .same s2
        else
          let s3 := s2.readAgain c.pid c.cid pa 8
          .differs (if home then s3.invalidate c.pool.cluster else s3)

/-- R158.  An open hold is found first, whatever the instruction would then do (R46), also in a recipe slice. -/
def execWatch (p : Option Prefix) (ord : BitVec 2) (scope : BitVec 3) (a b : Byte) :
    State → Host.Outcome State Fault Refusal :=
  issue (.watch p ord scope a b) { memory := true, sregs := [a.toNat, b.toNat] } fun c s =>
    if c.cp.holding then .trap 0x04 0 0 0
    else if c.slice then .trap 0x0F 0 0 0
    else match c.watchRead s (c.s a).toNat (c.s b) ord.toNat scope.toNat with
      | .differs s' => .done s'
      | .same s' => .stay (s'.standAt c.pid c.cid
          (.watch (c.s a).toNat (c.s b) ord.toNat scope.toNat (Instr.watch p ord scope a b).words))
      | .reds s' => .stay (s'.standAt c.pid c.cid .stall)
      | .park k s' => .stay (s'.standAt c.pid c.cid (.parkedWatch k))
      | .trap cause detail ad => .trap cause 0 detail ad

/-- R158, R296: a waiting WATCH reads its word again. -/
def execWatchReread (pool cp : Nat) (s : State) : Host.Outcome State Fault Refusal :=
  match s.ctxOf pool cp with
  | none => .next s
  | some c =>
      match c.cp.stand with
      | .watch addr val ord scope words =>
          if !s.canIssue pool cp then .next s
          else match c.watchRead s addr val ord scope with
            | .differs s' => .next (c.modCp s' fun x => x.advance words)
            | .same s' => .next s'
            | .reds s' => .next s'
            | .park k s' => .next (s'.standAt pool cp (.parkedWatch k))
            | .trap cause detail ad => .next (s.takeTrap pool cp c.cp.pc cause 0 detail ad)
      | _ => .next s

/-- R212: a waiting GWAIT returns once the phase has turned. -/
def execGongWake (pool cp : Nat) (s : State) : Host.Outcome State Fault Refusal :=
  match s.ctxOf pool cp with
  | none => .next s
  | some c =>
      match c.cp.stand with
      | .gong o phase words =>
          if !s.canIssue pool cp then .next s
          else
            let s := s.touchSpad pool o 8
            let w := ((s.pool? pool).getD c.pool).spadRead o 8
            if !Gong.valid w then .next (s.takeTrap pool cp c.cp.pc 0x01 0 1 0)
            else if Gong.phase w ≠ bit phase && s.quiet pool then
              .next (c.modCp s fun x => x.advance words)
            else .next s
      | _ => .next s

/-! ### FENCE (R161, R279) -/

/-- R277, R279: a record whose bytes a pool has read is still under way. -/
def State.seenOpen (s : State) (pid : Nat) : Bool :=
  (s.pool? pid).any fun p => s.records.any fun r => p.seen.contains r.id

def execFence (p : Option Prefix) (ord : BitVec 2) (scope : BitVec 3) :
    State → Host.Outcome State Fault Refusal :=
  issue (.fence p ord scope) {} fun c s0 =>
    c.afterEarlier s0 fun s =>
      let rel := ord.toNat ≠ 1
      let acq := ord.toNat ≠ 2
      let st := c.stampFor ord.toNat s
      if acq && decide (2 ≤ scope.toNat) && s.seenOpen c.pid then .stay (s0.standAt c.pid c.cid .stall)
      else if rel && decide (2 ≤ scope.toNat) then
        c.commitPoint {} (Instr.fence p ord scope).words s0
          (c.modCp st.2 fun cp => { cp with fencedRel := true }) none { sys := scope = 5 }
          (if acq && decide (3 ≤ scope.toNat) then .acquire else .go)
      else .done (if acq && decide (3 ≤ scope.toNat) then st.2.invalidate c.pool.cluster else st.2)

/-! ### Result operations (R44, R258) -/

def Pool.setElemKept (p : Pool) (wide : Bool) (t n : Nat) (x : DWord) : Pool :=
  let q := p.setRegKept t n (x.extractLsb' 0 32)
  if wide then q.setRegKept t (n + 1) (x.extractLsb' 32 32) else q

/-- A write at a completion point: `kept` for one that a rollback does not undo (R188, R260). -/
def Pool.deliver (p : Pool) (kept : Bool) (o : Op) (vals : List DWord) : Pool :=
  let put (p : Pool) (t : Nat) (x : DWord) : Pool :=
    if kept then p.setElemKept o.wide t o.dest x else p.setElem o.wide t o.dest x
  let p := (Mask.tids o.zero p.threads).foldl (fun p t => put p t 0) p
  (o.lanes.zip vals).foldl (fun p e => put p e.1.tid e.2) p

/-- One lane of a load reads its memory: the value, and whether it was poisoned. -/
def State.sampleLane (s : State) (pid : Nat) (p : Pool) (o : Op) (l : Lane) (home : Bool) :
    Lane × Bool × State :=
  let (r, s') := s.readFor pid (o.coreFor p l) p.task.asid l.pa (if o.wide then 8 else 4) home
  ({ l with y := BitVec.ofNat 64 (ofBytes r.bytes), x := 1 }, r.poison, s')

/-- An acquire at .die or wider, or an `.sc` access there, is served at its home slice (R277, R288). -/
def Op.atHome (o : Op) : Bool := (o.ord = 1 || o.ord = 3) && decide (3 ≤ o.scope)

/-- R337, R339: a lane that has not read, at a tile that has been dropped since its checks and stands in no cache
that may serve it: the recipe and the address. -/
def State.laneGone (s : State) (p : Pool) (o : Op) (l : Lane) : Option (Nat × Nat) :=
  if l.x ≠ 0 || (!o.atHome && (s.cachedCopy (o.coreFor p l) (s.keyFor p.task.asid) (lineOf l.pa)).isSome) then none
  else (s.droppedAt p.task.asid l.addr).map fun r => (r, l.addr)

/-- The first such lane of a load. -/
def State.tileGone (s : State) (p : Pool) (o : Op) : Option (Nat × Nat) := o.lanes.findSome? (s.laneGone p o)

/-- R258: the lanes that have not read yet read now; with `choose`, each of them or not.  A lane whose copy has gone
meanwhile does not (R339). -/
def State.sampleLanes (s : State) (pid : Nat) (p : Pool) (o : Op) (home choose : Bool)
    (l : List Lane) : List Lane × Bool × State :=
  match l with
  | [] => ([], false, s)
  | x :: r =>
      if x.x ≠ 0 then
        let (r', q, s') := s.sampleLanes pid p o home choose r
        (x :: r', q, s')
      else
        let (now, s1) := if choose then s.freeBool else (true, s)
        if now && (s1.laneGone p o x).isNone then
          let (x', q, s2) := s1.sampleLane pid p o x home
          let (r', q', s3) := s2.sampleLanes pid p o home choose r
          (x' :: r', q || q', s3)
        else
          let (r', q', s3) := s1.sampleLanes pid p o home choose r
          (x :: r', q', s3)

def State.sampleOp (s : State) (pid id : Nat) (choose : Bool) : State :=
  match s.pool? pid with
  | none => s
  | some p =>
      match p.ops.find? (·.id = id) with
      | none => s
      | some o =>
          let (l, q, s') := s.sampleLanes pid p o o.atHome choose o.lanes
          let recs := o.lanes.flatMap fun l => s'.openRecs (o.coreFor p l) l.pa (if o.wide then 8 else 4)
          s'.modPool pid fun p => p.modOp id fun x =>
            { x with lanes := l, poisoned := x.poisoned || q, seen := (x.seen ++ recs).dedup }

/-- The lanes of a load that a pending reduction, or an earlier store of its CP, keeps from reading (R261,
R280). -/
def State.redLanes (s : State) (p : Pool) (o : Op) : List Lane := o.lanes.filter fun l => s.laneWaits p o l

/-- R277: an acquire at .cl or wider that has read bytes of a record still under way. -/
def State.acquireOpen (s : State) (o : Op) : Bool :=
  (o.ord = 1 || o.ord = 3) && decide (2 ≤ o.scope) && s.records.any fun r => o.seen.contains r.id

/-- R255: a load that parks after its issue. -/
def State.parkAgain (s : State) (pid : Nat) (p : Pool) (o : Op) (g : Nat × Nat) : State :=
  let k := s.parkFor p.task.asid g.2 (.tile g.1)
  k.2.modPool pid fun q => q.modOp o.id fun x => { x with park := some k.1 }

/-- R172: the slots that a completion point holds: a pass for each word of its threads. -/
def Pool.completionSlots (p : Pool) (o : Op) : List (Nat × Nat) :=
  p.broadcastSlots (setClocks (Mask.ofTids (o.lanes.map (·.tid)) ||| o.zero) 1)

/-- The completion point of a result operation: its destinations, its flags, its poison; those of a VATOM, which a
commit has published, no rollback undoes (R188). -/
def State.finishOp (s : State) (pid : Nat) (o : Op) (vals : List DWord) : State :=
  let s1 := s.modPool pid fun p =>
    let p := match o.kind with
      | .sload | .sknown => p.modCp o.cp fun cp => cp.setS o.dest (vals.headD 0)
      | .vatom => p.deliver true o vals
      | _ => p.deliver false o vals
    (p.removeOp o.id).modCpKept (o.kind == .vatom) o.cp fun cp =>
      let cp := cp.raise o.flags
      if o.poisoned then cp.setPoison else cp
  match s.pool? pid with
  | none => s1
  | some p =>
      let s2 := match o.kind with
        | .load | .sload | .vatom => o.lanes.foldl (fun s l => s.readAgain pid o.cp l.pa (if o.wide then 8 else 4)) s1
        | _ => s1
      let s3 := match o.kind with
        | .sload | .sknown => s2
        | _ => s2.holdSlots (p.completionSlots o)
      if o.atHome && o.kind != .vatom then s3.invalidate p.cluster else s3

/-- Whether a completion point of CP c may lie now: not between the held broadcasts of another CP (R45). -/
def Pool.noOtherHold (p : Pool) (c : Nat) : Bool := !p.cps.any fun e => e.1 != c && e.2.inUnit

/-- The completion of a result operation, where it can complete. -/
def State.completeOp (s : State) (pid id : Nat) (sampleOnly : Bool) : State :=
  match s.pool? pid with
  | none => s
  | some p =>
      match p.ops.find? (·.id = id) with
      | none => s
      | some o =>
          let scalar := o.kind == .sload || o.kind == .sknown
          let held := s.held.any fun h => h.pool = pid && h.op = id
          if !o.kind.isResult || o.kind == .sysc || o.isParked || held ||
              (!scalar && !sampleOnly && (!p.noOtherHold o.cp || s.undoForced pid)) then s
          else
            let finish (s' : State) (vals : List DWord) : State :=
              let t := s'.finishOp pid o vals
              match s.undoNeed t pid with
              | [] => t
              | ps => s.forceUndo pid (some id) ps
            match o.kind with
            | .load | .sload =>
                match s.redLanes p o with
                | l :: _ => s.forceReds (o.coreFor p l) l.pa (if o.wide then 8 else 4)
                | [] => match s.tileGone p o with
                  | some g => s.parkAgain pid p o g
                  | none =>
                    if sampleOnly then (if o.atHome then s else s.sampleOp pid id true)
                    else
                      let s' := s.sampleOp pid id false
                      match (s'.pool? pid).bind fun p => p.ops.find? (·.id = id) with
                      | none => s
                      | some o' =>
                          if o'.lanes.any (·.x = 0) then
                            s'.modPool pid fun q => q.modOp id fun x => { x with lanes := x.lanes.map fun l => { l with x := 0 } }
                          else if s'.acquireOpen o' then s'
                          else
                            let t := s'.finishOp pid o' (o'.lanes.map (·.y))
                            match s.undoNeed t pid with
                            | [] => t
                            | ps => s'.forceUndo pid (some id) ps
            | _ =>
                match o.got with
                | some vals => if sampleOnly then s else finish s vals
                | none => s

def execResultOpCompletion (pool op : Nat) (sampleOnly : Bool) (s : State) :
    Host.Outcome State Fault Refusal :=
  .next (if s.viral.isSome then s else s.completeOp pool op sampleOnly)

/-! ### Performed operations (R16) -/

/-- R280, R288: a store or reduction that an earlier load of its CP, or an `.sc` access of its cores that goes
first, keeps from the journal: the load has still to read the bytes. -/
def State.storeWaits (s : State) (p : Pool) (o : Op) : Bool :=
  let z (x : Op) : Nat := if x.wide then 8 else 4
  o.lanes.any fun k => s.scBefore p o k.pa (z o) ||
    p.ops.any fun x => x.cp = o.cp && decide (x.id < o.id) && (x.kind == .load || x.kind == .sload) && !x.isParked &&
      x.lanes.any fun l => l.x = 0 && rangesOverlap l.pa (z x) k.pa (z o)

/-- A store or reduction enters the journal in issue order (R258); FLUSH and INV complete as R263 says. -/
def State.performOp (s : State) (pid id : Nat) : State :=
  match s.pool? pid with
  | none => s
  | some p =>
      match p.ops.find? (·.id = id) with
      | none => s
      | some o =>
          let gone (s : State) : State := s.modPool pid fun q => q.removeOp id
          match o.kind with
          | .store | .red =>
              let first := p.ops.find? fun x => x.cp = o.cp && (x.kind == .store || x.kind == .red)
              if first.map (·.id) ≠ some id || s.storeWaits p o then s
              else
                let release := match p.cp? o.cp with | some cp => cp.fencedRel | none => false
                match s.enterJournal pid (o.entries pid p release) with
                | .entered s' => gone s'
                | .commitFirst ps => ps.foldl State.forceCommit s
          | .spad => gone s
          | .gather .. => s
          | .flush rec => if s.records.any (·.id = rec) then s else gone s
          | .inv n =>
              match s.ctxOf pid o.cp, o.lanes with
              | some c, l :: _ => gone (c.invPages o.scope (n / 4096 + 2) l.addr n s)
              | _, _ => gone s
          | _ => s

def execPerformedOpCompletion (pool op : Nat) (s : State) : Host.Outcome State Fault Refusal :=
  .next (if s.viral.isSome then s else s.performOp pool op)

/-! ### Parked loads (R255) -/

/-- A parked load or gather that traps when it is reissued: it is withdrawn, and its CP stops at it. -/
def State.trapParked (s : State) (pid : Nat) (o : Op) (cp : Cp) (cause : Byte) (tm : Mask) (detail : Word)
    (addr : DWord) : State :=
  let back (pc : DWord) (cl : Option Clause) : State :=
    ((s.modPool pid fun q => q.removeOp o.id).takeTrap pid o.cp pc cause tm detail addr).modCp
      pid o.cp fun cp => { cp with clause := cl }
  match cp.stand with
  | .load i pc cl => if i = o.id then back pc cl else back cp.pc cp.clause
  | _ => back cp.pc cp.clause

/-- A CP stands at an operation no more, where it stood at that one. -/
def Cp.leaveOp (cp : Cp) (id : Nat) : Cp :=
  match cp.stand with
  | .load i _ _ => if i = id then { cp with stand := .no } else cp
  | _ => cp

/-- R183, R265: a woken GTHR reads its indices and is checked anew; it takes its point where it does not park.  Once
it has been saved it is reissued with the indices read at its issue (R185, R187). -/
def State.reissueGather (s : State) (pid : Nat) (o : Op) (c : Ctx) (md : Nat) (h : Handle) (a : Option Nat) : State :=
  let rows := o.lanes.map fun l => (l.tid, match a with | some r => (c.pool.reg l.tid r).toNat | none => l.addr)
  match c.gatherCheck h rows s with
  | .park k s' => s'.modPool pid fun q => q.modOp o.id fun x => { x with park := some k }
  | .trap cause tm detail ad => s.trapParked pid o c.cp cause tm detail ad
  | .ok s' =>
      let s2 := c.addCmd (c.modPool s' fun q => q.removeOp o.id) 1 (.gather ⟨md, h, rows⟩) []
      s2.modCp pid o.cp (·.leaveOp o.id)

/-- A woken parked load is reissued from its translation, with the addresses read at its first issue.  A broadcast
takes its point then, which lies not between the held broadcasts of another CP (R45). -/
def State.reissueOp (s : State) (pid id : Nat) : State :=
  match s.pool? pid with
  | none => s
  | some p =>
      match p.ops.find? (·.id = id) with
      | none => s
      | some o =>
          match o.park, s.ctxOf pid o.cp with
          | some k, some c =>
              if !s.parkOver k || s.testHolds pid || (o.kind != .sload && !p.noOtherHold o.cp) then s
              else
                let z := if o.wide then 8 else 4
                match o.kind with
                | .gather md h a => s.reissueGather pid o c md h a
                | _ =>
                match c.checkAll s (o.lanes.map fun l => (l.tid, (l.addr : Int))) z .load (o.kind == .load) with
                | .park k' s' => s'.modPool pid fun q => q.modOp id fun x => { x with park := some k' }
                | .trap cause tm detail ad => s.trapParked pid o c.cp cause tm detail ad
                | .ok pas s' =>
                    let st := c.stampFor o.ord s'
                    let s2 := st.2.modPool pid fun q => q.modOp id fun x =>
                      { x with
                        park := none
                        stamp := st.1
                        lanes := (x.lanes.zip pas).map fun e => { e.1 with pa := e.2 } }
                    let s2 := s2.modCp pid o.cp (·.leaveOp id)
                    if o.ord = 3 ∧ 2 ≤ o.scope then
                      let s3 : State := { s2 with held := s2.held ++ [⟨pid, id, c.core, st.1.getD 0⟩] }
                      (s3.commitPool pid (some id) { sys := o.scope = 5 } fun r s =>
                        s.modCp pid o.cp fun cp => { cp with wait := some (r, .go) }).getD s
                    else s2
          | _, _ => s

def execParkedLoadReissue (pool op : Nat) (s : State) : Host.Outcome State Fault Refusal :=
  .next (if s.viral.isSome then s else s.reissueOp pool op)

end Sys2Proof.Machine
end

