-- ==== Sys2Proof/Machine/Recipes.lean ====
section
/-! DEFINITION. Live recipes as the carillon keeps them (R328 to R332): their names, holds and sources,
retiring and dropping, the tile and its digest, and the decision of a definition (R329, R330). -/

namespace Sys2Proof.Machine

/-! ### Names, holds and sources -/

/-- R328: the recipe of a tenant with a tile base. -/
def State.recipeNamed (s : State) (tenant : Option Nat) (tbase : Nat) : Option Recipe :=
  (s.recipes.map (·.2)).find? fun r => some r.tenant == tenant && r.tbase = tbase

/-- R331: the tile is a source of another live recipe. -/
def State.isSource (s : State) (r : Recipe) : Bool :=
  s.recipes.any fun e => e.1 != r.id && e.2.tiles.contains r.id

/-! ### Tiles -/

/-- The committed bytes of a tile. -/
def State.tileBytes (s : State) (r : Recipe) : List Byte :=
  (s.tileLines r).flatMap fun l => Memory.readBytes s.mem (64 * l) 64

/-- R328: CRC-64/ECMA-182, one byte. -/
def crcByte (crc : DWord) (b : Byte) : DWord :=
  (List.range 8).foldl (fun c _ =>
    if c.getLsbD 63 then (c <<< 1) ^^^ 0x42F0E1EBA9EA3693 else c <<< 1)
    (crc ^^^ (b.zeroExtend 64 <<< 56))

def crc64 (bs : List Byte) : DWord := bs.foldl crcByte 0

/-! ### Retiring and dropping (R331) -/

/-- A tile's bytes become what memory happens to hold (R331). -/
def State.loseTile (s : State) (r : Recipe) : State :=
  (s.tileLines r).foldl (fun s l =>
    let (bs, s) := s.freeBytes 64
    { s with mem := Memory.writeBytes s.mem (64 * l) bs, llc := KMap.del s.llc l }) s

/-- R331: a Resident tile is dropped. -/
def State.dropTile (s : State) (r : Recipe) : State := (s.loseTile r).setRecipe { r with state := .dropped }

/-- R337: no cached copy of a tile's lines is left. -/
def State.dropCopies (s : State) (r : Recipe) : State :=
  let ls := s.tileLines r
  { s with
    l1 := s.l1.filter fun e => !ls.contains (e.1 % 2 ^ 46)
    cc := s.cc.filter fun e => !ls.contains (e.1 % 2 ^ 46) }

/-- R331, R329: lines that become ordinary Dirty ones. -/
def State.dirtyLines (s : State) (tenant : Nat) (l : List Nat) : State :=
  l.foldl (fun s k => s.touchLlc (some tenant) k true) s

/-- R253, R330, R331: the shootdown of a pin: every translation cache drops what it holds of the pages of some
ranges in the tenant's address spaces; it is complete at once (log 23). -/
def State.dropPins (s : State) (tenant : Nat) (ranges : List (Nat × Nat)) : State :=
  { s with tlb := s.tlb.filter fun e => !(s.tenant e.asid == some tenant && ranges.any fun r => r.2 != 0 &&
      rangesOverlap (r.1 / 4096 * 4096) ((r.1 % 4096 + r.2 + 4095) / 4096 * 4096) e.base (2 ^ e.bits)) }

/-- R331: a recipe is retired; no pin of it is left, with a shootdown, and its record names no live recipe. -/
def State.retire (s : State) (r : Recipe) : State :=
  let s0 := s.dropPins r.tenant (s.pinnedRanges r)
  let s1 := ({ s0 with recipes := KMap.del s.recipes r.id } : State).writeBack r 0
  if r.state = .dropped then s1.loseTile r
  else if r.state = .resident then
    s1.dirtyLines r.tenant (s.tileLines r)
  else s1

/-- R329, R295: every granule of the tile poisoned, which is logged. -/
def State.poisonTile (s : State) (r : Recipe) : State :=
  { s with
    poison := (s.tileLines r).foldl (fun m l => KMap.put m l ()) s.poison
    log := s.log ++ (s.tileLines r).map .poisoned }

/-- R332: a regeneration of r has ended: it holds no tile any more. -/
def State.releaseHolds (s : State) (r : Nat) : State :=
  { s with recipes := s.recipes.map fun e => (e.1, { e.2 with holders := e.2.holders.filter (· != r) }) }

/-- R333, R334: a regeneration fails for good. -/
def State.failRecipe (s : State) (r : Recipe) (err : Nat) : State :=
  ((s.poisonTile r).releaseHolds r.id).setRecipe
    { r with state := .failed, err := err, slice := none, ended := false, staging := []
             admitted := false, holders := r.holders.filter (· != r.id) }

/-! ### Definitions (R329, R330) -/

/-- The fields of a recipe record as they were read. -/
def recordField (bs : List Byte) (off n : Nat) : Nat := ofBytes ((bs.drop off).take n)

/-- R316: a pool-shape word that may be used. -/
def shapeOk (w : DWord) : Bool :=
  bits 63 49 w = 0 && bits 47 46 w ≤ 1 && bits 45 44 w ≤ 2 && 1 ≤ bits 43 40 w && bits 43 40 w ≤ 8 &&
  bits 39 24 w ≤ 384 && 1 ≤ bits 23 16 w && bits 23 16 w ≤ 32 && 1 ≤ bits 15 0 w && bits 15 0 w ≤ 16384

/-- The shape word of the kernel at an entry, as committed: at byte address entry − 16 (R14, R316). -/
def State.kernelShape (s : State) (asid entry : Nat) : Option DWord :=
  if entry < 16 then none
  else (s.outsideRead asid (entry - 16) 8).map fun bs => BitVec.ofNat 64 (ofBytes bs)

/-- Every 4 KiB page that a range touches. -/
def pagesOf (a n : Nat) : List Nat :=
  if n = 0 then [] else (List.range ((a % 4096 + n + 4095) / 4096)).map fun i => a / 4096 * 4096 + 4096 * i

/-- A page of a tile: mapped to HBM and writable in the defining address space. -/
def State.tilePageOk (s : State) (asid va : Nat) : Bool :=
  if 2 ^ 56 ≤ va then false
  else match s.walk asid va with
    | .ok l => decide (leafPa l.word l.bits va < Config.hbmEnd) && Pte.w l.word
    | .error _ => false

/-- A page of a source range: mapped present and readable. -/
def State.sourcePageOk (s : State) (asid va : Nat) : Bool :=
  match s.outsideTranslate asid va false with
  | .ok _ => true
  | .error _ => false

/-- Whether the tenant's recipe limit or the package's is reached (R328). -/
def State.recipesFull (s : State) (tenant : Nat) : Bool :=
  decide (262144 ≤ s.recipes.length) ||
  (match KMap.find? s.recipeLimit tenant with
   | some n => decide (n ≤ (s.recipes.filter fun e => e.2.tenant = tenant).length)
   | none => false)

/-- A definition as its record and sizes give it. -/
structure Definition where
  asid : Nat
  tenant : Nat
  record : Nat
  tbase : Nat
  tsize : Nat
  mat : Bool
  entry : DWord
  args : DWord
  sources : List (Nat × Nat)
  sizes : List Word
  reserved : Bool

def Definition.read (asid tenant record : Nat) (bs : List Byte) (sizes : List Word) : Definition where
  asid := asid
  tenant := tenant
  record := record
  tbase := recordField bs 0 8
  tsize := recordField bs 8 4
  mat := recordField bs 12 4 % 2 = 1
  entry := BitVec.ofNat 64 (recordField bs 0x10 8)
  args := BitVec.ofNat 64 (recordField bs 0x18 8)
  sources := (List.range 4).map fun i => (recordField bs (0x20 + 8 * i) 8, (sizes.getD i 0).toNat)
  sizes := sizes
  reserved := recordField bs 12 3 / 2 ≠ 0 || (bs.drop 0x64).any (· != 0)

/-- R329: bad record or tile. -/
def Definition.bad (d : Definition) (s : State) : Bool :=
  let used := d.sources.filter (·.2 ≠ 0)
  d.reserved ||
  !(List.range 10).any (fun k => d.tsize = 2 ^ (12 + k)) ||
  d.tbase % d.tsize ≠ 0 || decide (2 ^ 56 ≤ d.tbase) ||
  !((pagesOf d.tbase d.tsize).all fun p => s.tilePageOk d.asid p) ||
  !(used.all fun x => (pagesOf x.1 x.2).all fun p => s.sourcePageOk d.asid p) ||
  !((s.kernelShape d.asid d.entry.toNat).any fun w => w.getLsbD 48) ||
  (d.mat && (List.range (d.tsize / 64)).any fun i =>
    (s.lineAt d.asid (d.tbase + 64 * i)).any s.poisonedLine)

/-- R329: the lowest error code of a definition, 0 for none. -/
def Definition.err (d : Definition) (s : State) : Nat :=
  let used := d.sources.filter (·.2 ≠ 0)
  let mine := (s.recipes.map (·.2)).filter fun r => r.tenant = d.tenant
  let onTile (a n : Nat) : Bool := rangesOverlap a n d.tbase d.tsize
  if d.bad s then 1
  else if mine.any (fun r => onTile r.tbase r.tsize) ||
      (pagesOf d.tbase d.tsize).any (fun p => s.pinned d.asid p) ||
      used.any (fun x => onTile x.1 x.2) then 2
  else if mine.any (fun r => r.state = .failed && used.any fun x => rangesOverlap x.1 x.2 r.tbase r.tsize) then 3
  else if s.recipesFull d.tenant then 4
  else 0

/-- The live tiles that the sources overlap (R330 step 4), in SBASE order (R332). -/
def Definition.tiles (d : Definition) (s : State) : List Recipe :=
  let mine := sortBy (fun (a b : Recipe) => decide (a.tbase < b.tbase))
    ((s.recipes.map (·.2)).filter fun r => r.tenant = d.tenant)
  (d.sources.flatMap fun x => mine.filter fun r => rangesOverlap x.1 x.2 r.tbase r.tsize).dedup

/-- R330 step 2: the pools of the tenant with journal entries, or stores under way, on source pages; the records
`but`, which carry the definition or come after it, are not counted. -/
def Definition.writers (d : Definition) (s : State) (but : List Nat) : List Nat :=
  let hits (asid va : Nat) : Bool :=
    s.tenant asid == some d.tenant && d.sources.any fun x => (pagesOf x.1 x.2).contains (va / 4096 * 4096)
  ((s.journal.filterMap fun e =>
      if !e.record.any but.contains && hits e.asid e.va then some e.pool else none) ++
   (s.pools.filterMap fun e =>
      if e.2.ops.any (fun o => (o.kind == .store || o.kind == .red) &&
          o.lanes.any fun l => hits e.2.task.asid l.addr) then some e.1 else none)).dedup

/-- R330 steps 3 to 6, R337: the recipe made live, with the shootdown of its pins. -/
def Definition.define (d : Definition) (s : State) : State :=
  let e := d.err s
  if e ≠ 0 then
    (s.systemWrite d.asid d.record [(d.record + 0x0F, toBytes (16 * e) 1)]).getD
      (s.logEvent (.recipeWriteBack d.record))
  else
    let ts := d.tiles s
    let depth := 1 + (ts.filter (·.state ≠ .anchored)).foldl (fun m r => max m r.depth) 0
    let anchor := d.mat && decide (8 ≤ depth)
    let (id, s) := (s.dropPins d.tenant (d.sources ++ ts.map fun r => (r.tbase, r.tsize))).takeId
    let r0 : Recipe := {
      id := id, tenant := d.tenant, asid := d.asid, record := d.record
      tbase := d.tbase, tsize := d.tsize, entry := d.entry, args := d.args
      sources := if anchor then [] else d.sources.filter (·.2 ≠ 0)
      sizes := d.sizes
      tiles := if anchor then [] else ts.map (·.id)
      state := if anchor then .anchored else if d.mat then .resident else .dropped
      err := 0, digest := 0, gen := if d.mat then 1 else 0, depth := depth
      holdUntil := none, holders := [], chain := 0, requested := 0, began := 0, root := id, admitted := false, shape := 0
      slice := none, ended := false, staging := [], mismatches := 0, lastCluster := none, lost := false
      silent := 0 }
    if d.mat then s.setRecipe { r0 with digest := crc64 (s.tileBytes r0) }
    else ((s.loseTile r0).dropCopies r0).setRecipe r0

end Sys2Proof.Machine
end

