-- ==== Sys2Proof/Machine/Queues.lean ====
section
/-! DEFINITION. User queues as the device keeps them (R308 to R313): header words, waking, mapping and
heads; the status of a task, its signal and its completion (R317, R320, R321, R336). -/

namespace Sys2Proof.Machine

/-! ### Header words (R308) -/

/-- Where the header of a queue stands in physical memory. -/
def State.headerPa (s : State) (q : Queue) : Option Nat :=
  match s.outsideTranslate q.asid q.header false with
  | .ok pa => some pa
  | .error _ => none

/-- A committed 32-bit word as it reads for an ASID. -/
def State.word32 (s : State) (asid pa : Nat) : Nat :=
  ofBytes ((List.range 4).map fun i => s.byteUnder (some (s.keyFor asid)) (pa + i))

/-- WRITE and READ of a queue; equal where the header cannot be read. -/
def State.ringEnds (s : State) (q : Queue) : Nat × Nat :=
  match s.headerPa q with
  | some pa => (s.word32 q.asid pa, s.word32 q.asid (pa + 4))
  | none => (0, 0)

/-- Records in the ring, modulo 2^32. -/
def State.ringCount (s : State) (q : Queue) : Nat :=
  let e := s.ringEnds q
  (e.1 + 2 ^ 32 - e.2) % 2 ^ 32

/-- R310: whether a queue has something to dispatch. -/
def State.queueFull (s : State) (q : Queue) : Bool := decide (s.ringCount q ≠ 0) || !q.heads.isEmpty

def State.modQueue (s : State) (q : Nat) (f : Queue → Queue) : State :=
  { s with queues := KMap.modify s.queues q f }

/-! ### Mapping (R313) -/

def State.slotsUsed (s : State) : Nat := (s.queues.filter fun e => e.2.slot.isSome).length

def State.class0Mapped (s : State) : Nat :=
  (s.queues.filter fun e => e.2.slot.isSome && e.2.base = 0).length

/-- R313: firmware maps Waiting queues onto free slots in their order; at most 448 class-0 queues are
mapped at once. -/
def State.mapWaiting (s : State) (l : List Nat) : State :=
  match l with
  | [] => s
  | q :: r =>
      match KMap.find? s.queues q with
      | none => ({ s with waiting := s.waiting.filter (· != q) } : State).mapWaiting r
      | some x =>
          if 512 ≤ s.slotsUsed then s
          else if x.base = 0 && decide (448 ≤ s.class0Mapped) then s.mapWaiting r
          else
            let slot : Slot := ⟨x.base, false, false, decide (x.filled ≤ s.tollAt), false, s.time⟩
            (({ s with waiting := s.waiting.filter (· != q) } : State).modQueue q fun x =>
              { x with slot := some slot, headSince := s.time }).mapWaiting r

/-- R309, R310: a queue after its header or its heads have changed: broken when the ring holds more than
its capacity, Waiting when it is non-empty and has no slot. -/
def State.wakeQueue (s : State) (q : Nat) : State :=
  match KMap.find? s.queues q with
  | none => s
  | some x =>
      if x.broken then s
      else if 2 ^ x.caplog < s.ringCount x then
        ({ s with waiting := s.waiting.filter (· != q) } : State).modQueue q (fun x =>
          { x with broken := true, slot := none }) |>.logEvent (.queueBroken q)
      else
        let has := decide (s.ringCount x ≠ 0)
        let s := s.modQueue q fun x =>
          { x with
            ring := has
            slot := if s.queueFull x then x.slot.map fun y => { y with empty := false } else x.slot
            headSince := if has && !x.ring && x.heads.isEmpty then s.time else x.headSince
            filled := if has && !x.ring && x.heads.isEmpty then s.time else x.filled
            before := if has && !x.ring && x.heads.isEmpty then x.running else x.before }
        if s.queueFull x && x.slot.isNone && !s.waiting.contains q then
          let s : State := { s with waiting := s.waiting ++ [q] }
          s.mapWaiting s.waiting
        else s

/-- R309: a commit to a line wakes the queue whose header it holds. -/
def State.wakeLine (s : State) (line : Nat) : State :=
  (s.queues.filter fun e => (s.headerPa e.2).map lineOf == some line).foldl (fun s e => s.wakeQueue e.1) s

/-- R312: a packed pool or a successor becomes a head of its queue. -/
def State.addHead (s : State) (t : Task) : State :=
  match t.queue with
  | none => s
  | some q =>
      (s.modQueue q fun x =>
        { x with
          heads := x.heads ++ [t]
          headSince := if x.heads.isEmpty then s.time else x.headSince
          filled := if x.heads.isEmpty && !x.ring then s.time else x.filled
          before := if x.heads.isEmpty then x.running else x.before }).wakeQueue q

/-! ### Commits the carillon makes itself -/

/-- R298, R300: no accepted record has still to take effect at the home slice of an address, and its line is not
held. -/
def State.sliceClear (s : State) (pa : Nat) : Bool :=
  !(s.records.any fun r => r.accepted && !r.left.isEmpty && (touched r.entries r.atoms).contains (homeSlice pa)) &&
    !s.lineHeld (lineOf pa)

/-- Bytes committed from outside every cluster within one line, with the clock of what they follow (R287), and the
queue they wake. -/
def State.systemCommit (s : State) (asid pa : Nat) (bs : List Byte) (clock : Nat := 0) : State :=
  (s.commitBytes none (some (s.keyFor asid)) clock pa bs).wakeLine (lineOf pa)

/-- R335: a write to an address is about to be applied: a Dropped tile is regenerated first (none: the write
waits); a tile that is held somewhere retires its recipe. -/
def State.tileWrite (s : State) (asid va : Nat) : Bool × State :=
  match s.recipeAt asid va with
  | none => (true, s)
  | some r =>
      if r.state = .dropped then (false, s.requestTile r.id)
      else if r.state = .regenerating then (false, s)
      else (true, s.retire r)

/-- R335: the header of a queue is about to be written by the device itself (log 44). -/
def State.headerWrite (s : State) (q : Queue) : Bool × State := s.tileWrite q.asid q.header

/-- The same for several addresses of an ASID. -/
def State.tileWrites (s : State) (l : List (Nat × Nat)) : Bool × State :=
  match l with
  | [] => (true, s)
  | (asid, va) :: r =>
      match s.tileWrite asid va with
      | (true, s') => s'.tileWrites r
      | x => x

/-- R337, R349: a read from outside the compute dies of a range, in an address space or (none) by physical address,
waits while a tile of it is not held anywhere, which it requests, or its slice holds a line of it (R300). -/
def State.outsideReady (s : State) (asid : Option Nat) (a n : Nat) : Bool × State :=
  (lineChunks a n).foldl (fun x c =>
    match asid.bind fun k => x.2.droppedAt k c.1 with
    | some r => (false, x.2.requestTile r)
    | none =>
        let pa := match asid with
          | some k => (match x.2.outsideTranslate k c.1 false with | .ok pa => some pa | .error _ => none)
          | none => some c.1
        (x.1 && !pa.any fun p => x.2.lineHeld (lineOf p), x.2)) (true, s)

/-- The same for several ranges of an ASID. -/
def State.allReady (s : State) (asid : Nat) (l : List (Nat × Nat)) : Bool × State :=
  l.foldl (fun x r => let y := x.2.outsideReady (some asid) r.1 r.2; (x.1 && y.1, y.2)) (true, s)

/-! ### Status, signals and completions (R320, R321) -/

/-- The first condition to occur decides the status (R321). -/
def Task.fail (t : Task) (code : Byte) : Task := if t.status = 0 then { t with status := code } else t

def State.failTask (s : State) (pid : Nat) (code : Byte) : State :=
  { s with
    pools := KMap.modify s.pools pid fun p => { p with task := p.task.fail code }
    out := s.out.map fun o => if o.id = pid then { o with pool := { o.pool with task := o.pool.task.fail code } } else o
    completions := s.completions.map fun c => if c.pool = pid then { c with task := c.task.fail code } else c }

/-- The task of a pool, placed or waiting for placement. -/
def State.taskOf (s : State) (pid : Nat) : Option Task :=
  match s.pool? pid with
  | some p => some p.task
  | none => (s.out.find? (·.id = pid)).map (·.pool.task)

/-- R314: the number under which the choice of a die for the present head of a queue is kept: a ring record gives its
place to a packed pool or a successor (R312), and keeps its own. -/
def State.headKey (s : State) (q : Nat) : Nat :=
  2 * q + (if (KMap.find? s.queues q).any fun x => !x.heads.isEmpty then 1 else 0)

/-- R320: the task signals its block, where it has one and has not signalled yet. -/
def State.sendSignal (s : State) (t : Task) (pid : Nat) (status : Byte) : State :=
  if t.record.succb = 0 || t.signalled then s
  else { s with signals := s.signals ++ [⟨{ t with signalled := true }, pid, status, none⟩] }

/-- R317, R321: a task is over; it signals, and its queue is updated once its records are applied. -/
def State.taskOver (s : State) (t : Task) (pid : Nat) : State :=
  let s := s.sendSignal t pid t.status
  { s with completions := s.completions ++ [⟨{ t with signalled := true }, pid⟩] }

/-- R336: every record of a pool is applied. -/
def State.poolClear (s : State) (pid : Nat) : Bool := !s.records.any fun r => r.pools.contains pid

/-! ### Task records (R315) -/

def TaskRec.ofBytes (bs : List Byte) : TaskRec :=
  let f (i : Nat) : DWord := BitVec.ofNat 64 (Machine.ofBytes ((bs.drop (8 * i)).take 8))
  ⟨f 0, f 1, f 2, f 3, f 4, f 5, f 6⟩

/-- A task as its record names it, before any dispatch. -/
def Task.ofRecord (r : TaskRec) (asid : Nat) (queue ring : Option Nat) : Task where
  record := r
  asid := asid
  queue := queue
  ring := ring
  items := []
  packed := false
  recipe := none
  spawners := []
  status := 0
  signalled := false
  nonReplay := false

/-! ### SUCCESSOR_SIGNAL (R320) -/

/-- A block whose COUNT reached 0: the successor becomes a head, or fails with its predecessor. -/
def State.successor (s : State) (t : Task) (next : Nat) (abort : Bool) : State :=
  let rec? := s.outsideRead t.asid next 64
  let task : Task := { Task.ofRecord (TaskRec.ofBytes (rec?.getD [])) t.asid t.queue none with clock := t.clock }
  if abort then
    let (id, s) := s.takeId
    s.taskOver { task with status := 0x08 } id
  else match rec? with
    | some _ => s.addHead task
    | none =>
        let (id, s) := s.takeId
        s.taskOver { task with status := 0x05 } id

/-- The signal applied at its block. -/
def State.signalBlock (s : State) (g : Signal) (pa : Nat) : State :=
  let block := g.task.record.succb.toNat
  let w (n : Nat) : Nat := s.word32 g.task.asid (pa + 4 * n)
  let count := w 0
  let flags := w 1
  let next := w 2 + 2 ^ 32 * w 3
  let s := s.touchOutside g.task.asid block true
  if count = 0 then s.logEvent (.signalEmpty block)
  else
    let flags := if g.status = 0 then flags else flags ||| 2 ^ 31
    let s := s.systemCommit g.task.asid pa (toBytes (count - 1) 4 ++ toBytes flags 4) g.task.clock
    if count = 1 && next ≠ 0 then
      s.successor g.task next (flags.testBit 0 && flags.testBit 31)
    else s

/-- R335: a block is about to be written, or, with COUNT 0 (R320), only read. -/
def State.signalWrite (s : State) (asid block pa : Nat) : Bool × State :=
  if (s.droppedAt asid block).isNone && s.word32 asid pa = 0 then (true, s) else s.tileWrite asid block

def State.applySignal (s : State) (i : Nat) : State :=
  match s.signals[i]? with
  | none => s
  | some g =>
      let block := g.task.record.succb.toNat
      let waits := match g.park with | some p => s.faults.contains (g.task.asid, p) | none => false
      let gone (s : State) : State := { s with signals := s.signals.eraseIdx i }
      if !s.poolClear g.pool || waits then s
      else match (if block % 16 ≠ 0 then .error .absent else s.outsideTranslate g.task.asid block true) with
        | .error .recoverable =>
            { s.raiseFault g.task.asid block with
              signals := s.signals.set i { g with park := some (block / 4096) } }
        | .error _ => ((gone s).logEvent (.signalLost block)).failTask g.pool 0x09
        | .ok pa =>
            if !s.sliceClear pa then s
            else match s.signalWrite g.task.asid block pa with
              | (false, s') => s'
              | (true, s') => (gone s').signalBlock g pa

def execSuccessorSignal (idx : Nat) (s : State) : Host.Outcome State Fault Refusal :=
  .next (if s.viral.isSome then s else s.applySignal idx)

/-! ### TASK_COMPLETION (R321) -/

/-- DONE, and for a failed task ERRS, LASTST and LASTIX, in one commit. -/
def State.queueDone (s : State) (q : Queue) (t : Task) : State :=
  match s.headerPa q with
  | none => s
  | some pa =>
      let w (n : Nat) : List Byte := toBytes (s.word32 q.asid (pa + 4 * n)) 4
      let inc (n : Nat) : List Byte := toBytes (s.word32 q.asid (pa + 4 * n) + 1) 4
      let bs :=
        if t.status = 0 then inc 2
        else inc 2 ++ inc 3 ++ (w 4).take 2 ++ toBytes t.status.toNat 1 ++ ((w 4).drop 3) ++
          toBytes (t.ring.getD 0xFFFFFFFF) 4
      (s.touchOutside q.asid q.header true).systemCommit q.asid (pa + 8) bs t.clock

/-- R346 0x05: an unbound queue goes once its dispatched tasks have completed. -/
def State.dropUnbound (s : State) (q : Nat) : State :=
  { s with
    queues := s.queues.filter fun e => !(e.1 = q && e.2.unbinding && e.2.running.isEmpty)
    waiting := s.waiting.filter fun w => w != q ||
      ((KMap.find? s.queues q).any fun x => !(x.unbinding && x.running.isEmpty)) }

def State.completeTask (s : State) (i : Nat) : State :=
  match s.completions[i]? with
  | none => s
  | some c =>
      if !s.poolClear c.pool || s.signals.any (·.pool = c.pool) then s
      else
        let s1 : State := { s with completions := s.completions.eraseIdx i }
        match c.task.queue with
        | none => s1
        | some q =>
            match KMap.find? s.queues q with
            | none => s1
            | some x =>
                if (s.headerPa x).any fun pa => !s.sliceClear pa then s
                else match s1.headerWrite x with
                  | (false, _) => (s.headerWrite x).2
                  | (true, s2) =>
                      ((s2.modQueue q fun x =>
                        { x with running := x.running.filter (· != c.pool)
                                 before := x.before.filter (· != c.pool) }).queueDone x c.task).dropUnbound q

def execTaskCompletion (idx : Nat) (s : State) : Host.Outcome State Fault Refusal :=
  .next (if s.viral.isSome then s else s.completeTask idx)

end Sys2Proof.Machine
end

