-- ==== Sys2Proof/Machine/Commit.lean ====
section
/-! DEFINITION. The commit engine: a record is accepted (R297), applied slice by slice (R298), and complete
(R299); the end of a pool (R34); COMMIT_RECORD_ACCEPT, COMMIT_RECORD_APPLY, DEVICE_WRITE_ACKNOWLEDGE,
SC_CLOCK_REPORT and SC_ACCESS_PERFORM. -/

namespace Sys2Proof.Machine

/-! ### Timestamps (R287, R288) -/

/-- R287: every core in the reporting set has reported a clock at or above a timestamp. -/
def State.reported (s : State) (stamp : Nat) : Bool :=
  (List.range Config.cores).all fun c => !s.coreLive c || decide (stamp ≤ KMap.get s.scReport 0 c)

/-- R287: order by timestamp, then by core number. -/
def stampBefore (a b : Nat × Nat) : Bool := a.1 < b.1 || (a.1 = b.1 && a.2 < b.2)

/-- The home slices of a load. -/
def State.opSlices (s : State) (pid op : Nat) : List Nat :=
  match (s.pool? pid).bind fun p => p.ops.find? (·.id = op) with
  | some o => o.lanes.map fun l => homeSlice l.pa
  | none => []

/-- A record that has not taken effect at some of these slices. -/
def Record.waitsAt (r : Record) (slices : List Nat) : Bool :=
  !r.left.isEmpty && (touched r.entries r.atoms).any slices.contains

/-- R288: a timestamped access goes first among those that touch these slices: none earlier is held or
waits to take effect.  Records of a core in `cores` keep the order in which it formed them. -/
def State.firstStamp (s : State) (me : Nat × Nat) (slices cores : List Nat) : Bool :=
  !(s.held.any fun h => stampBefore (h.stamp, h.core) me && (s.opSlices h.pool h.op).any slices.contains) &&
  !(s.records.any fun r => (r.stamp.any fun t => stampBefore t me) && r.waitsAt slices && !r.cores.any cores.contains)

/-! ### Acceptance (R297) -/

/-- A record may arrive: the records its cores formed before it have (R293), and those it depends on (R282). -/
def State.mayArrive (s : State) (r : Record) : Bool :=
  !(s.records.any fun q => !q.accepted && ((q.id < r.id && q.cores.any r.cores.contains) || r.after.contains q.id)) &&
  (match r.stamp with
   | some t => s.reported t.1 && s.firstStamp t r.left r.cores
   | none => true)

/-! ### Applying at a slice (R298, R300) -/

def Entry.home (e : Entry) : Nat := homeSlice e.pa

/-- R190, R300: the old value an atomic unit reads: 0 from a poisoned granule, under the key of its tenant (R356). -/
def State.atomicRead (s : State) (key : Option (Nat × Nat)) (pa z : Nat) : Nat :=
  if s.poisonedLine (lineOf pa) then 0
  else ofBytes ((List.range z).map fun i => s.byteUnder key (pa + i))

/-- One journal entry applied at its slice, under the key of its own tenant (R356), with the flags that a reduction
raises. -/
def State.applyEntry (s : State) (r : Record) (e : Entry) : State × BitVec 16 :=
  let by_ := if r.cluster.isSome then some e.core else none
  let key := r.asid.map fun _ => s.keyFor e.asid
  match e.kind with
  | .store bs => ((s.commitBytes by_ key r.clock e.pa bs).wakeLine (lineOf e.pa), 0)
  | .red op ty rm sat y =>
      let z := e.span.2
      let x := atomicElem op ty (RMode.ofCode rm) sat (s.atomicRead key e.pa z) y.toNat 0
      ((s.commitBytes by_ key r.clock e.pa (toBytes x.1 z)).wakeLine (lineOf e.pa), x.2)
  | _ => (s, 0)

/-- R323: the queue that a launch names by the header it writes, bound to the issuing tenant. -/
def State.launchQueue (s : State) (e : Entry) : Option (Nat × Queue) :=
  List.find? (fun (x : Nat × Queue) => s.headerPa x.2 == some e.pa && s.tenant x.2.asid == s.tenant e.asid &&
    !x.2.unbinding) s.queues

/-- R323: a launch entry applied: the record goes into the ring, or the launching task fails; so it does where the
ring slot cannot be translated for a write (log 33). -/
def State.applyLaunch (s : State) (clock : Nat) (e : Entry) (bs : List Byte) : State :=
  match s.launchQueue e with
  | none => s.failTask e.pool 0x07
  | some (id, q) =>
      let w := (s.ringEnds q).1
      if 2 ^ q.caplog ≤ s.ringCount q then s.failTask e.pool 0x07
      else
        match s.outsideTranslate q.asid (q.header + 64 + 64 * (w % 2 ^ q.caplog)) true with
        | .error _ => s.failTask e.pool 0x07
        | .ok slot =>
            let s := (s.touchOutside q.asid (q.header + 64 + 64 * (w % 2 ^ q.caplog)) true).commitBytes (some e.core)
              (some (s.keyFor q.asid)) clock slot bs
            (s.commitBytes (some e.core) (some (s.keyFor q.asid)) clock e.pa (toBytes (w + 1) 4)).wakeQueue id

/-- R260, R300: one responder's VATOM, or a device's AtomicOp; its read raises the clocks of the cores (R287). -/
def State.applyAtom (s : State) (r : Record) (a : Atom) : State × Atom :=
  let z := if a.ty = 4 ∨ a.ty = 8 then 8 else 4
  let key := r.asid.map fun _ => s.keyFor a.asid
  let old := s.atomicRead key a.pa z
  let x := atomicElem a.aop a.ty (RMode.ofCode a.rm) a.sat old a.y.toNat a.x.toNat
  let by_ := if r.cluster.isSome then r.cores.head? else none
  let s1 := if r.cluster.isSome then r.cores.foldl (fun s k => s.observeClock k (lineOf a.pa)) s else s
  let s' := (s1.commitBytes by_ key r.clock a.pa (toBytes x.1 z)).wakeLine (lineOf a.pa)
  (s', { a with result := some (BitVec.ofNat 64 old, x.2, s.poisonedLine (lineOf a.pa)) })

def State.modRecord (s : State) (id : Nat) (f : Record → Record) : State :=
  { s with records := s.records.map fun r => if r.id = id then f r else r }

/-- The journal entries of a record, in order. -/
def State.applyEntries (s : State) (r : Record) (l : List Entry) (raised : List (Nat × Nat × BitVec 16)) :
    State × List (Nat × Nat × BitVec 16) :=
  match l with
  | [] => (s, raised)
  | e :: es =>
      let x := s.applyEntry r e
      x.1.applyEntries r es (if x.2 = 0 then raised else raised ++ [(e.pool, e.cp, x.2)])

/-- R323: the ring slot that a launch fills after n more launches into its queue: address space, address, physical
address; none where it is refused. -/
def State.launchSlot (s : State) (e : Entry) (n : Nat) : Option (Nat × Nat × Nat) :=
  match s.launchQueue e with
  | none => none
  | some (_, q) =>
      let va := q.header + 64 + 64 * (((s.ringEnds q).1 + n) % 2 ^ q.caplog)
      if 2 ^ q.caplog ≤ s.ringCount q + n then none
      else match s.outsideTranslate q.asid va true with
        | .ok pa => some (q.asid, va, pa)
        | .error _ => none

/-- R290: the line of that slot, where it lies in CXL memory. -/
def State.launchDevice (s : State) (e : Entry) : List Nat :=
  ((s.launchSlot e 0).filter fun x => decide (Config.cxlStart ≤ x.2.2)).toList.map fun x => lineOf x.2.2

/-- The launches of a record, in order, and the lines of those that were device writes (R290). -/
def State.applyLaunches (s : State) (clock : Nat) (l : List Entry) : State × List Nat :=
  l.foldl (fun x e => match e.kind with
    | .launch bs => (x.1.applyLaunch clock e bs, x.2 ++ x.1.launchDevice e)
    | _ => x) (s, [])

/-- The VATOMs of a record, in record order; a port performs those on its registers later (R344). -/
def State.applyAtoms (s : State) (r : Record) (l : List Atom) : State × List Atom :=
  match l with
  | [] => (s, [])
  | a :: as =>
      let x := if Config.cxlEnd ≤ a.pa then (s, a) else s.applyAtom r a
      let y := x.1.applyAtoms r as
      (y.1, x.2 :: y.2)

def Entry.isLaunch (e : Entry) : Bool := match e.kind with | .launch _ => true | _ => false

/-- Whether a slice may apply a record now: in acceptance order (R298), once the records it depends on have taken
effect; a slice with launch entries after the others (R323); not while the slice holds a line of it (R300). -/
def State.mayApply (s : State) (r : Record) (slice : Nat) : Bool :=
  let launches (h : Nat) : Bool := r.entries.any fun e => e.isLaunch && e.home = h
  r.accepted && r.left.contains slice &&
  !(s.records.any fun q => q.accepted && q.seq < r.seq && q.waitsAt [slice]) &&
  !(s.records.any fun q => r.after.contains q.id && !q.effective) &&
  !((r.entries.map (·.pa) ++ r.atoms.map (·.pa)).any fun a => homeSlice a = slice && s.lineHeld (lineOf a)) &&
  (!launches slice || r.left.all launches)

/-- The places in recipe tiles that a physical write of the application die reaches. -/
def State.tilePlaces (s : State) (pa : Nat) : List (Nat × Nat) :=
  s.recipes.flatMap fun e => ((s.tileLines e.2).zipIdx.filter (·.1 = lineOf pa)).map fun x =>
    (e.2.asid, e.2.tbase + 64 * x.2)

/-- R335: what the launches among some entries write, by address space and virtual address: header and slot; a refused
one writes nothing (R323).  `done` are the headers of those that come before them. -/
def State.launchWrites (s : State) (l : List Entry) (done : List Nat) : List (Nat × Nat) :=
  match l with
  | [] => []
  | e :: r =>
      match (if e.isLaunch then s.launchSlot e (done.count e.pa) else none) with
      | some x => (e.asid, e.va) :: (x.1, x.2.1) :: s.launchWrites r (e.pa :: done)
      | none => s.launchWrites r done

/-- What a record writes, for R335: by address space and virtual address. -/
def State.recordWrites (s : State) (r : Record) : List (Nat × Nat) :=
  (r.entries.flatMap fun e => match e.kind with
    | .store _ | .red .. => if r.asid.isNone then s.tilePlaces e.pa else [(e.asid, e.va)]
    | _ => []) ++
  s.launchWrites r.entries [] ++ r.atoms.map fun a => (a.asid, a.va)

/-- R277: records under way from which the atomics of a record have read. -/
def State.readBefore (s : State) (r : Record) : List Nat :=
  (s.records.filter fun q => q.id != r.id && q.effective &&
    r.atoms.any fun a => (q.entries.any fun e => rangesOverlap e.span.1 e.span.2 a.pa a.size) ||
      q.atoms.any fun b => rangesOverlap b.pa b.size a.pa a.size).map (·.id)

/-- R276, R298: a record takes effect, for every byte of it at once: its journal entries, its launches, its
atomics.  A launch into a ring in CXL memory is a device write, which a release at .sys waits for (R290). -/
def State.takeEffect (s : State) (r : Record) : State :=
  let here := r.entries.filter fun e => decide (e.pa < Config.cxlEnd)
  let a := s.applyEntries r here r.raised
  let l := a.1.applyLaunches r.clock here
  let b := l.1.applyAtoms r r.atoms
  b.1.modRecord r.id fun x => { x with
    left := [], raised := a.2, atoms := b.2, device := l.2, sys := x.sys || (x.drain && !l.2.isEmpty), after := (x.after ++ s.readBefore r).dedup }

/-- A slice applies a record (R298); with the last of them, once the tiles it writes are retired (R335), it takes
effect. -/
def State.applySlice (s : State) (id slice : Nat) : State :=
  match s.records.find? (·.id = id) with
  | none => s
  | some r =>
      if !s.mayApply r slice then s
      else
        let left := r.left.filter (· != slice)
        if left ≠ [] then s.modRecord id fun x => { x with left := left }
        else match s.tileWrites (s.recordWrites r) with
          | (false, s') => s'
          | (true, s') => s'.takeEffect r

/-! ### The end of a pool (R34) -/

/-- A pool whose every CP has ended leaves its store; a task completes (R321), a slice is to be checked
(R334). -/
def State.endPool (s : State) (pid : Nat) : State :=
  match s.pool? pid with
  | none => s
  | some p =>
      let s1 : State := { s with
        pools := (KMap.del s.pools pid).map fun e => (e.1, { e.2 with deps := e.2.deps.filter (· != pid) })
        held := s.held.filter (·.pool != pid)
        journal := s.journal.filter fun e => e.pool != pid || e.record.isSome }
      match p.task.recipe with
      | some r => { s1 with
          recipes := KMap.modify s1.recipes r fun q => { q with
            slice := none, ended := true, lastCluster := some p.cluster } }
      | none => s1.taskOver { p.task with clock := s.clockOf p.cores } pid

/-- R34: every started CP has ended. -/
def Pool.allEnded (p : Pool) : Bool :=
  p.cps.all fun e => e.2.status == .ended || e.2.status == .idle

/-! ### The completion of a record (R298, R299) -/

/-- The results of an operation in a record: values, flags, poison. -/
def Record.results (r : Record) (pid op : Nat) : List DWord × BitVec 16 × Bool :=
  ((r.atoms.filter fun a => a.pool = pid && a.op = op).filterMap (·.result)).foldl
    (fun acc x => (acc.1 ++ [x.1], acc.2.1 ||| x.2.1, acc.2.2 || x.2.2)) ([], 0, false)

/-- R260, R299: the old values a record returns go to its operations. -/
def Record.giveResults (r : Record) (pid : Nat) (ops : List Op) : List Op :=
  ops.map fun o =>
    if o.kind == .vatom && r.atoms.any (fun a => a.pool = pid && a.op = o.id) then
      let x := r.results pid o.id
      { o with got := some x.1, flags := x.2.1, poisoned := x.2.2 }
    else o

/-- R261: the flags of a record's reductions. -/
def Record.raise (r : Record) (pid : Nat) (cps : KMap Cp) : KMap Cp :=
  r.raised.foldl (fun m x => if x.1 = pid then KMap.modify m x.2.1 (·.raise x.2.2) else m) cps

def Record.finishImage (r : Record) (pid : Nat) (i : Image) : Image :=
  { i with cps := r.raise pid i.cps, ops := r.giveResults pid i.ops }

/-- A pool after a record of it is complete: results, flags, image, and in its checkpoint the results too. -/
def Record.finishPool (r : Record) (pid : Nat) (p : Pool) : Pool :=
  let mine := r.pools.contains pid
  { p with
    cps := r.raise pid p.cps
    ops := r.giveResults pid p.ops
    ckpt := { p.ckpt with cps := r.raise pid p.ckpt.cps }
    seen := p.seen.filter (· != r.id)
    image := match (r.images.find? (·.1 = pid)).map (·.2) with
      | some i => if mine then some (r.finishImage pid i) else p.image
      | none => p.image }

/-- R289, R333: what a slice commits is staged, also once it has been pre-empted; not what a slice that is no more
has left. -/
def State.stage (s : State) (r : Record) : State :=
  match r.recipe with
  | none => s
  | some q => { s with
      recipes := KMap.modify s.recipes q fun x => if !x.slice.any r.pools.contains then x else { x with
        staging := r.entries.foldl (fun m e => match e.kind with
          | .store bs => (tableFrom (e.va - x.tbase) bs).foldl (fun m b => KMap.set m 0 b.1 b.2) m
          | _ => m) x.staging } }

/-- A record and those that complete after it (R181, R282). -/
def State.waitsOn (s : State) (id : Nat) : List Nat :=
  let rec go (fuel : Nat) (l : List Nat) : List Nat :=
    match fuel with
    | 0 => l
    | f + 1 => go f (l ++ (s.records.filter fun q => q.after.any l.contains ||
        s.records.any fun r => l.contains r.id && r.id < q.id && q.pools.any r.pools.contains).map (·.id)).dedup
  go s.records.length [id]

/-- The definition entries of a record, one after the other (R330); none while one of them waits for pools
of the tenant to commit. -/
def State.define (s : State) (r : Record) (e : Entry) : Option State :=
  let tenant := (s.tenant e.asid).getD 0
  let go (d : Definition) : Option State :=
    match d.writers s (s.waitsOn r.id) with
    | [] => some (d.define s)
    | ps => if d.err s ≠ 0 then some (d.define s) else
        let s' := ps.foldl State.forceCommit s
        if s' = s then none else some (s'.modRecord r.id fun x => { x with entries := e :: x.entries })
  match e.kind with
  | .define bs sizes => go (Definition.read e.asid tenant e.va bs sizes)
  | .link =>
      let ok := match s.outsideTranslate e.asid e.va true with | .ok _ => decide (e.va % 128 = 0) | .error _ => false
      let failed := match s.taskOf e.pool with | some t => t.status != 0 | none => true
      if failed then some s
      else match (if ok then s.outsideRead e.asid e.va 128 else none) with
        | none => some (s.logEvent (.rlinkLost e.va))
        | some bs => go (Definition.read e.asid tenant e.va bs
            ((List.range 4).map fun i => BitVec.ofNat 32 (recordField bs (0x40 + 4 * i) 4)))
  | _ => some s

def Entry.isDefine (e : Entry) : Bool := match e.kind with | .define _ _ | .link => true | _ => false

/-- CPs that waited for a record go on (R298); END ends its CP, an acquire invalidates first (R277). -/
def State.settleCp (s : State) (id pid cid : Nat) : State :=
  match s.pool? pid, s.cp? pid cid with
  | some p, some cp =>
      (match cp.wait with
      | some (r, a) =>
          if r ≠ id then s
          else
            let s1 := s.modCp pid cid fun cp => match a with
              | .endCp => { cp with wait := none, status := .ended, stack := [], clause := none }
              | _ => { cp with wait := none }
            (match a with
            | .acquire => s1.invalidate p.cluster
            | _ => s1)
      | none => s)
  | _, _ => s

def State.settleWaits (s : State) (id : Nat) : State :=
  (s.pools.flatMap fun e => e.2.cps.map fun c => (e.1, c.1)).foldl (fun s x => s.settleCp id x.1 x.2) s

/-- Pools with nothing left to run end. -/
def State.endPools (s : State) (l : List Nat) : State :=
  l.foldl (fun s pid => match s.pool? pid with
    | some p => if p.allEnded then s.endPool pid else s
    | none => s) s

/-- A lost pool whose image says that every CP has ended is over (R303). -/
def State.endLost (s : State) (l : List Nat) : State :=
  l.foldl (fun s pid => match s.out.find? (·.id = pid) with
    | some o =>
        (match o.pool.image with
        | some i =>
            if i.cps.all fun e => e.2.status == .ended || e.2.status == .idle then
              ({ s with out := s.out.filter (·.id != pid) } : State).taskOver
                { o.pool.task with signalled := i.signalled } pid
            else s
        | none => s)
    | none => s) s

/-- R320: the signals a record carries, also that of a task whose pool is no more; they carry its clock (R287). -/
def State.sendSignals (s : State) (r : Record) : State :=
  r.signals.foldl (fun s e =>
    let t := (s.taskOf e.1).getD e.2.2
    s.sendSignal { t with signalled := false, clock := max t.clock r.clock } e.1 (if e.2.1 then 0 else t.status)) s

/-- R323: a launch at an address that no home slice serves is refused. -/
def State.refuseLaunches (s : State) (r : Record) : State :=
  r.entries.foldl (fun s e => if e.isLaunch && decide (Config.cxlEnd ≤ e.pa) then s.failTask e.pool 0x07 else s) s

/-- R85, R299: an image formed since holds the flags of the record's reductions too. -/
def Record.raiseImages (r q : Record) : Record :=
  { q with images := q.images.map fun e => (e.1, { e.2 with cps := r.raise e.1 e.2.cps }) }

/-- R344: an atomic on register space is handed to its port, which performs it once.  The old value is the device's
own, hence free, and the flags are those that it raises. -/
def State.portAtom (s : State) (pa op ty rm : Nat) (sat : Bool) (y x : DWord) : (DWord × BitVec 16 × Bool) × State :=
  let (bs, s) := s.freeBytes (if ty = 4 ∨ ty = 8 then 8 else 4)
  let old := ofBytes bs
  ((BitVec.ofNat 64 old, (atomicElem op ty (RMode.ofCode rm) sat old y.toNat x.toNat).2, false),
   { s with replies := s.replies ++ [.atomic pa op ty y x] })

/-- R344: the writes and reductions of a record that go to a port are handed to it. -/
def State.portWrites (s : State) (l : List Entry) (raised : List (Nat × Nat × BitVec 16)) :
    State × List (Nat × Nat × BitVec 16) :=
  match l with
  | [] => (s, raised)
  | e :: es =>
      if e.pa < Config.cxlEnd then s.portWrites es raised
      else match e.kind with
        | .store bs => ({ s with replies := s.replies ++ [.write e.pa bs] } : State).portWrites es raised
        | .red op ty rm sat y =>
            let x := s.portAtom e.pa op ty rm sat y 0
            x.2.portWrites es (if x.1.2.1 = 0 then raised else raised ++ [(e.pool, e.cp, x.1.2.1)])
        | _ => s.portWrites es raised

/-- R344: and its VATOMs, after them. -/
def State.portAtoms (s : State) (l : List Atom) : State × List Atom :=
  match l with
  | [] => (s, [])
  | a :: as =>
      let x := if Config.cxlEnd ≤ a.pa then
          let y := s.portAtom a.pa a.aop a.ty a.rm a.sat a.y a.x
          (y.2, { a with result := some y.1 })
        else (s, a)
      let y := x.1.portAtoms as
      (y.1, x.2 :: y.2)

/-- R344: what a record does at the ports. -/
def State.portWork (s : State) (r : Record) : State × Record :=
  let a := s.portWrites r.entries r.raised
  let b := a.1.portAtoms r.atoms
  (b.1, { r with raised := a.2, atoms := b.2 })

/-- R300: a device's AtomicOp is answered. -/
def State.answerAtomic (s : State) (r : Record) : State :=
  match r.port, r.atoms with
  | some p, a :: _ => { s with replies := s.replies ++ [.value p ((a.result.map (·.1)).getD 0)] }
  | _, _ => s

/-- R290: a record has written to devices that have not acknowledged it. -/
def Record.unacked (r : Record) : Bool := !r.acked && (!r.device.isEmpty || r.entries.any Entry.toDevice)

/-- R294: the lines of CXL memory that a record has written. -/
def Record.cxlLines (r : Record) : List Nat :=
  let cxl (pa : Nat) : Bool := decide (Config.cxlStart ≤ pa ∧ pa < Config.cxlEnd)
  ((r.entries.filter fun e => cxl e.pa && !e.isDefine).map (lineOf ·.pa) ++
    (r.atoms.filter fun a => cxl a.pa).map (lineOf ·.pa) ++ r.device).dedup

/-- A record is complete. -/
def State.closeRecord (s : State) (r : Record) : State :=
  let x := (((s.stage r).refuseLaunches r).sendSignals r).portWork r
  let r := x.2
  let s1 := x.1.answerAtomic r
  let s2 : State := { s1 with
    records := (s1.records.filter (·.id != r.id)).map r.raiseImages
    unacked := if r.unacked then KMap.put s1.unacked r.id (r.pools, r.cxlLines) else s1.unacked
    journal := s1.journal.filter fun e => e.record != some r.id
    pools := s1.pools.map fun e => (e.1, r.finishPool e.1 e.2)
    out := s1.out.map fun o => { o with pool := r.finishPool o.id o.pool } }
  ((s2.settleWaits r.id).endPools r.pools).endLost r.pools

/-- R290: device writes that earlier records of its pools made are not acknowledged. -/
def State.unackedOf (s : State) (r : Record) : Bool := s.unacked.any fun e => e.2.1.any r.pools.contains

/-- A record whose every part is done completes, after those it depends on; records of one pool complete in order. -/
def State.tryFinish (s : State) (id : Nat) : State :=
  match s.records.find? (·.id = id) with
  | none => s
  | some r =>
      if !r.accepted || !r.left.isEmpty || r.sys ||
          s.records.any (fun q => (q.id < id && q.pools.any r.pools.contains) || r.after.contains q.id) ||
          (r.drain && s.unackedOf r) then s
      else match r.entries.find? Entry.isDefine with
        | none => s.closeRecord r
        | some e =>
            (match (s.modRecord id fun x => { x with entries := x.entries.erase e }).define r e with
            | some s' => s'
            | none => s)

/-- What is complete completes: each record is tried, the oldest first, again while that gets anywhere. -/
def State.finishRecords (s : State) : State :=
  let rec go (fuel : Nat) (s : State) : State :=
    match fuel with
    | 0 => s
    | f + 1 => go f ((s.records.map (·.id)).foldl State.tryFinish s)
  go 6 s

/-! ### Events -/

/-- R301: the acceptance of a record marks a RESTART pool. -/
def Record.mark (r : Record) (pid : Nat) (p : Pool) : Pool :=
  if r.marks && r.pools.contains pid && !p.durable && !p.rslice then
    { p with task := { p.task with nonReplay := true } } else p

def State.acceptRecord (s : State) (id : Nat) : State :=
  match s.records.find? (·.id = id) with
  | none => s
  | some r =>
      if r.accepted || !s.mayArrive r then s
      else
        let (seq, s) := s.takeId
        let s : State := { s.modRecord id fun x => { x with accepted := true, seq := seq } with
          pools := s.pools.map fun e => (e.1, r.mark e.1 e.2)
          out := s.out.map fun o => { o with pool := r.mark o.id o.pool } }
        s.finishRecords

/-- R297: a record that arrives with a bad check code is not accepted; its core sends it again. -/
def execCommitRecordAccept (rec : Nat) (good : Bool) (s : State) : Host.Outcome State Fault Refusal :=
  .next (if s.viral.isSome || !good then s else s.acceptRecord rec)

def execCommitRecordApply (rec slice : Nat) (s : State) : Host.Outcome State Fault Refusal :=
  .next (if s.viral.isSome then s else (s.applySlice rec slice).finishRecords)

/-- R294: the write-back of some lines of CXL memory is acknowledged: those that no other record has written whose
acknowledgement is still to come equal the CXL copy. -/
def State.cleanLines (s : State) (l : List Nat) : State :=
  let dirty (line : Nat) : Bool :=
    s.records.any (fun r => r.effective && !r.acked && r.cxlLines.contains line) || s.unacked.any fun e => e.2.2.contains line
  l.foldl (fun s line => if dirty line then s
    else { s with llc := KMap.modify s.llc line fun x => { x with state := .clean } }) s

/-- R290: the devices have acknowledged, and the ports accepted, the writes of a record, once. -/
def execDeviceWriteAcknowledge (rec : Nat) (s : State) : Host.Outcome State Fault Refusal :=
  .next (if s.viral.isSome then s else
    match s.records.find? (fun r => r.id = rec && r.effective && !r.acked), KMap.find? s.unacked rec with
    | some r, _ =>
        ((s.modRecord rec fun r => { r with sys := false, acked := true }).cleanLines r.cxlLines).finishRecords
    | none, some e => (({ s with unacked := KMap.del s.unacked rec } : State).cleanLines e.2).finishRecords
    | none, none => s)

/-- A record from outside every cluster, applied at once where no earlier record delays it. -/
def State.outsideCommit (s : State) (asid : Option Nat) (ws : List (Nat × Nat × List Byte)) (port : Option Nat := none)
    (atoms : List Atom := []) : State :=
  let (id, s) := s.outsideRecord asid ws port atoms
  match s.records.find? (·.id = id) with
  | none => s
  | some r => (r.left.foldl (fun s h => s.applySlice id h) s).finishRecords

/-- R287: the largest timestamp that a slice holds. -/
def State.heldMax (s : State) : Nat :=
  (s.held.map (·.stamp) ++ s.records.filterMap (fun r => if r.left.isEmpty then none else r.stamp.map (·.1))).foldl max 0

def execScClockReport (core : Nat) (s : State) : Host.Outcome State Fault Refusal :=
  if s.viral.isSome || !s.coreLive core || decide (Config.cores ≤ core) then .next s
  else
    let c := KMap.get s.scClock 0 core
    .next { s with
      scReport := KMap.set s.scReport 0 core c
      scClock := KMap.set s.scClock 0 core (max c s.heldMax) }

/-- R288: a held load is performed at its home slices; it completes as any load does. -/
def State.performHeld (s : State) (i : Nat) : State :=
  match s.held[i]? with
  | none => s
  | some h =>
      match s.cp? h.pool (((s.pool? h.pool).bind fun p => (p.ops.find? (·.id = h.op)).map (·.cp)).getD 0) with
      | none => { s with held := s.held.eraseIdx i }
      | some cp =>
          if cp.wait.isSome || !s.reported h.stamp then s
          else
            let s1 : State := { s with held := s.held.eraseIdx i }
            if !s1.firstStamp (h.stamp, h.core) (s.opSlices h.pool h.op) [] then s
            else match s.pool? h.pool with
              | none => s1
              | some p =>
                  match p.ops.find? (·.id = h.op) with
                  | none => s1
                  | some o =>
                      match s.redLanes p o with
                      | l :: _ => s.forceReds (o.coreFor p l) l.pa (if o.wide then 8 else 4)
                      | [] => match s.tileGone p o with
                        | some g => s1.parkAgain h.pool p o g
                        | none => s1.sampleOp h.pool h.op false

def execScAccessPerform (idx : Nat) (s : State) : Host.Outcome State Fault Refusal :=
  .next (if s.viral.isSome then s else s.performHeld idx)

end Sys2Proof.Machine
end

