-- ==== Sys2Proof/Machine/System.lean ====
section
/-! DEFINITION. END, YIELD, NOPRE, PRE, SYSC, TRAP and CHKE (06: R147, R159, R160, R162 to R164), and the trap at a
word that is no instruction (R104, R106). -/

namespace Sys2Proof.Machine

/-! ### END (R34, R147) -/

/-- The oldest outstanding operation of a CP, one that is not parked first. -/
def Ctx.outstanding (c : Ctx) : Option Op :=
  let mine (o : Op) : Bool := o.cp = c.cid && o.kind != .sysc
  match c.pool.ops.find? (fun o => mine o && !o.isParked) with
  | some o => some o
  | none => c.pool.ops.find? mine

/-- The tile of a pool word as it stands. -/
def Tile.empty : Tile := ⟨.empty, 0, [], [], [], false, none, false, 0⟩

def Pool.tile (p : Pool) (k : Nat) : Tile := KMap.get p.tiles Tile.empty k

/-- A tile changed by a command issued after the last checkpoint, or (`kept`) before it (R232). -/
def Pool.setTile (p : Pool) (kept : Bool) (k : Nat) (t : Tile) : Pool :=
  { p with
    tiles := KMap.set p.tiles Tile.empty k t
    undoTiles := if kept then KMap.modify p.undoTiles k fun _ => t else KMap.record p.undoTiles k (p.tile k) }

/-- R217, R230: the tiles a CP owns are cleared, and their corrections counted. -/
def Pool.releaseTiles (p : Pool) (c : Nat) : Pool :=
  let mine := p.tiles.filter fun e => e.2.owner == some c
  (mine.foldl (fun (p : Pool) e => p.setTile false e.1 Tile.empty) p).modCp c fun cp =>
    cp.addCorr (mine.foldl (fun n e => n + e.2.corrp) 0)

/-- R147: the other CPs of the pool have ended, or wait for the commit that ends them. -/
def Pool.lastToEnd (p : Pool) (c : Nat) : Bool :=
  p.cps.all fun e => e.1 = c || e.2.status == .ended || e.2.status == .idle ||
    (match e.2.wait with | some (_, .endCp) => true | _ => false)

/-- R147, R320, R330: what the last END of a pool adds: the status, the signal, the definition of RLINK. -/
def Ctx.lastEnd (c : Ctx) (s : State) : Carry × State :=
  match s.pool? c.pid with
  | none => ({}, s)
  | some p =>
      let p : Pool := if p.cps.any (fun e => e.2.poisoned) then { p with task := p.task.fail 0x02 } else p
      let signals := p.task.record.succb != 0 && !p.task.signalled
      let links := p.task.record.rlink != 0 && p.task.status = 0
      let s1 := s.setPool c.pid { p with task := { p.task with signalled := p.task.signalled || signals } }
      let e : Entry := { pool := c.pid, cp := c.cid, core := c.core, asid := c.asid
                         va := p.task.record.rlink.toNat, pa := 2 ^ 52, kind := .link
                         release := false, record := none }
      ({ signals := if signals then [(c.pid, false)] else [] },
       if links then { s1 with journal := s1.journal ++ [e] } else s1)

/-- The steps of END; `words` is 0 for a CP that CPSTOP ends (R327). -/
def Ctx.endSteps (c : Ctx) (words : Nat) (s0 : State) : Res :=
  match c.outstanding with
  | some o => .stay (s0.waitOp c.pid c.cid c.cp.pc o)
  | none =>
      if (List.range 4).any fun k => c.cp.counter k ≠ 0 then
        -- R183: a wait for a parked gather is a blocking point, with a hold open a violation (R46)
        if (c.pool.cmdsOf c.cid 1).any (·.park.isSome) then
          if c.cp.holding then .trap 0x04 0 0 0 else .stay (s0.standAt c.pid c.cid (.counter 1 0))
        else .stay (s0.standAt c.pid c.cid .stall)
      else match (if words = 0 then none else c.reportFault s0 fun _ => true) with
        | some r => r
        | none =>
            let s1 := (c.modPool s0 fun p => p.releaseTiles c.cid).modCp c.pid c.cid fun cp =>
              { cp with holdLeft := 0, nopre := none }
            let x := if c.pool.lastToEnd c.cid then c.lastEnd s1 else ({}, s1)
            -- R147: while the commit has to wait, the hold and the NOPRE interval have ended already
            c.commitPoint {} words (c.modCp s0 fun cp => { cp with holdLeft := 0, nopre := none }) x.2 none x.1 .endCp

def execEnd_ (p : Option Prefix) : State → Host.Outcome State Fault Refusal :=
  issue (.end_ p) {} fun c s => c.endSteps (Instr.end_ p).words s

/-- R327: a CP that CPSTOP has stopped takes the steps of END. -/
def State.stopStep (s : State) (pid cid : Nat) : State :=
  match s.ctxOf pid cid with
  | none => s
  | some c =>
      if c.cp.status != .stopping || c.cp.wait.isSome || s.viral.isSome then s
      else match c.endSteps 0 s with
        | .stay s' => s'
        | _ => s

/-! ### YIELD, NOPRE and PRE (R159, R160) -/

def execYield_ (p : Option Prefix) : State → Host.Outcome State Fault Refusal :=
  issue (.yield_ p) {} fun c s =>
    if c.cp.holding then .trap 0x04 0 0 0
    else .stay ((c.finish {} (Instr.yield_ p).words s).standAt c.pid c.cid (.yielded c.cp.pc))

def execNopre (p : Option Prefix) : State → Host.Outcome State Fault Refusal :=
  issue (.nopre p) {} fun c s =>
    if c.cp.nopre.isSome then .illegal
    else .done (c.modCp s fun cp => { cp with nopre := some s.now })

def execPre (p : Option Prefix) : State → Host.Outcome State Fault Refusal :=
  issue (.pre p) {} fun c s => .done (c.modCp s fun cp => { cp with nopre := none })

/-! ### SYSC (R162) -/

/-- The argument registers of a thread. -/
def Ctx.syscArgs (c : Ctx) (a narg t : Nat) : List Word :=
  (List.range narg).map fun i => c.pool.reg t (a + i)

/-- R162.  An open hold is found first, whatever the instruction would then do (R46), also in a recipe slice. -/
def execSysc (p : Option Prefix) (d a : Byte) (narg : BitVec 4) (service : BitVec 16) :
    State → Host.Outcome State Fault Refusal :=
  let h : Shape := {
    broadcast := true
    runs := fun _ => [run1 true d.toNat, ⟨a.toNat, narg.toNat, false⟩]
    perPass := clocksSize false }
  let words := (Instr.sysc p d a narg service).words
  issue (.sysc p d a narg service) h fun c s =>
    if c.cp.holding then .trap 0x04 0 0 0
    else if c.slice then .trap 0x0F 0 0 0
    else if c.tids.isEmpty then c.commitPoint h words s s none { marks := true } .go
    else
      let r := c.addOp s { c.newOp .sysc with
        flag := 15, dest := d.toNat, wide := true, aop := service.toNat
        lanes := c.tids.map fun t => ⟨t, 0, 0, 0, 0⟩
        args := c.tids.map (c.syscArgs a.toNat narg.toNat) }
      match (c.finish h words r.2).commitPool c.pid none { marks := true } (fun id s =>
          c.modCp s fun cp => { cp with stand := .sysc r.1 c.cp.pc, wait := some (id, .go) }) with
      | some s' => .stay s'
      | none => .stay (s.standAt c.pid c.cid .stall)

/-! ### TRAP and CHKE (R163, R164) -/

/-- R163: TRAP has taken effect when it stops: its CP goes on after it. -/
def execTrap (p : Option Prefix) (b : Byte) : State → Host.Outcome State Fault Refusal :=
  issue (.trap p b) {} fun c s =>
    .stay (c.modCp (s.takeTrap c.pid c.cid c.cp.pc 0x20 0 (b.zeroExtend 32) 0) fun cp =>
      cp.advance (Instr.trap p b).words)

def execChke (p : Option Prefix) (d : Byte) : State → Host.Outcome State Fault Refusal :=
  issue (.chke p d) { sregs := [d.toNat] } fun c s =>
    match c.outstanding with
    | some o => .stay (s.waitOp c.pid c.cid c.cp.pc o)
    | none =>
        if c.cp.poisoned then .trap 0x10 0 0 0
        else .done (c.modCp s fun cp => cp.setS d.toNat (cp.cki.zeroExtend 64))

/-! ### ILLEGAL_INSTRUCTION (R104 to R106) -/

/-- The first word from a PC on that cannot be fetched. -/
def State.fetchFault (s : State) (core asid placed : Nat) (pc : DWord) (n : Nat) : DWord :=
  match n with
  | 0 => 4 * pc
  | k + 1 =>
      match s.fetchWord core asid placed pc with
      | .fault a => a
      | _ => s.fetchFault core asid placed (pc + 1) k

/-- The trap of a CP whose PC stands at no instruction. -/
def State.noInstruction (s : State) (c : Ctx) (cl : Clause) (cause : Byte) (pc : DWord) : State :=
  if c.cp.holding && decide (4096 < s.now - c.cp.holdSince) then s.takeTrap c.pid c.cid c.cp.pc 0x05 0 0 0
  else if c.cp.nopre.any fun t => decide (65536 < s.now - t) then s.takeTrap c.pid c.cid c.cp.pc 0x06 0 0 0
  else match s.instrAt c.core c.asid c.pool.placed c.cp.pc cl.header cl.stop with
    | .trap k at_ =>
        if k ≠ cause ∨ at_ ≠ pc then s
        else
          let addr := if k = 0x08 then s.fetchFault c.core c.asid c.pool.placed c.cp.pc 8 else 0
          let t := s.takeTrap c.pid c.cid at_ k 0 0 addr
          if at_ = cl.header then c.modCp t fun cp => { cp with clause := none } else t
    | _ => s

def execIllegalInstruction (cause : Byte) (pc : DWord) (s : State) : Host.Outcome State Fault Refusal :=
  match s.ctxOf s.focus.1 s.focus.2 with
  | none => .next s
  | some c =>
      match c.cp.clause with
      | none => .next s
      | some cl => .next (if s.canIssue c.pid c.cid then s.noInstruction c cl cause pc else s)

end Sys2Proof.Machine
end

