-- ==== Sys2Proof/Machine/Services.lean ====
section
/-! DEFINITION. Peer links as the package sends on them (20 R350 to R352), PKGSTAT (16 R305), attestation reports
(20 R355), and the services of a SYSC with its completion (20 R340 to R343; 06 R162). -/

namespace Sys2Proof.Machine

/-! ### Peer links (R350 to R352) -/

/-- R350: a link as training leaves it: nothing sent, nothing received, no credits (log 10). -/
def Link.fresh : Link where
  queue := []
  next := 0
  store := []
  expect := 0
  acked := 4095
  credits := 0
  replays := 0
  fenced := false
  asid := none

def State.link (s : State) (port : Nat) : Link := KMap.get s.links Link.fresh port

def State.modLink (s : State) (port : Nat) (f : Link → Link) : State :=
  { s with links := KMap.put s.links port (f (s.link port)) }

def State.reply (s : State) (r : Reply) : State := { s with replies := s.replies ++ [r] }

/-- R350: what a port answers to a read or a request, bytes or (none) an error: to a peer in data flits of its link,
at most 224 bytes in each, and nothing on a fenced one (R352, log 10). -/
def State.answer (s : State) (port : Nat) (data : Option (List Byte)) : State :=
  if 8 ≤ port && decide (port < 16) then
    if (s.link (port - 8)).fenced then s
    else s.modLink (port - 8) fun l => { l with queue := l.queue ++ (match data with
      | none => [.response none]
      | some bs => (List.range (max 1 ((bs.length + 223) / 224))).map fun i =>
          .response (some ((bs.drop (224 * i)).take 224))) }
  else s.reply (match data with | some bs => .bytes port bs | none => .error port)

/-- The SYSC operations outstanding anywhere, with the pool of each. -/
def State.syscOps (s : State) : List (Pool × Op) :=
  (s.pools.map (·.2) ++ s.out.map (·.pool)).flatMap fun p =>
    (p.ops.filter (·.kind == .sysc)).map fun o => (p, o)

/-- R341: a PEERPUT or a PEERGET. -/
def peerService (service : Nat) : Bool := service = 0x30 || service = 0x31

/-- R352: a request of a peer of which no slice has applied anything. -/
def Record.ofPeer (r : Record) (port : Nat) : Bool :=
  r.port = some (8 + port) && !r.left.isEmpty && r.left = touched r.entries r.atoms

/-- R352: a peer link is fenced: what waits to be sent on it is dropped with the reads of it, and its outstanding
PEERPUTs and PEERGETs fail. -/
def State.closeLink (s : State) (port : Nat) : State :=
  let cut := s.syscOps.filter fun x => peerService x.2.aop && x.2.args.any fun a => (a.getD 0 0).toNat = port
  ({ s with
    peerCut := (s.peerCut ++ cut.map fun x => (x.2.id, port)).dedup
    portReads := s.portReads.filter (·.port != 8 + port) } : State).modLink port fun l =>
    { l with fenced := true, queue := [] }

/-- R352: and what it has received and no slice has applied. -/
def State.cutLink (s : State) (port : Nat) : State :=
  let t := s.closeLink port
  { t with records := t.records.filter fun r => !r.ofPeer port }

def State.fenceLink (s : State) (port : Nat) : State := if 8 ≤ port then s else s.cutLink port

/-- R350: bytes 247:0 of a flit. -/
def flitBody (f : PeerFlit) : List Byte :=
  toBytes (f.seq.toNat + 4096 * f.type.toNat) 2 ++ toBytes f.ackSeq.toNat 2 ++ toBytes f.credits.toNat 4 ++
    (List.range 240).map fun i => f.payload.getD i 0

/-- R350: the CRC of a flit is that of its bytes. -/
def flitCrcOk (f : PeerFlit) : Bool := f.crc = crc64 (flitBody f)

/-- R350: a data flit with the next SEQ; what it returns goes in flits of its own; how its payload lays out the
request is the link's own (log 10). -/
def Link.flit (l : Link) (payload : List Byte) : PeerFlit :=
  let f : PeerFlit := {
    seq := BitVec.ofNat 12 l.next, type := 1, ackSeq := BitVec.ofNat 12 (l.expect + 4095), credits := 0
    payload := payload, crc := 0 }
  { f with crc := crc64 (flitBody f) }

/-- R350: what a flit answers is listed beside it, for its payload is free. -/
def State.listResponse (s : State) (port : Nat) (m : PeerMsg) : State :=
  match m with
  | .request _ => s
  | .response (some bs) => s.reply (.bytes (8 + port) bs)
  | .response none => s.reply (.error (8 + port))

/-- R350: one request or response of a link's queue is sent, against a credit and while the 512 last flits hold
every one that is not acknowledged. -/
def State.sendFlit (s : State) (port : Nat) : State :=
  let l := s.link port
  match l.queue, (List.range 4).find? fun c => l.credits.extractLsb' (8 * c) 8 != 0 with
  | m :: rest, some c =>
      if l.fenced || 512 ≤ (l.next + 4095 - l.acked) % 4096 then s
      else
        let (bs, s) := s.freeBytes 240
        let f := l.flit bs
        ((s.modLink port fun l => { l with
          queue := rest
          next := (l.next + 1) % 4096
          store := (f :: l.store).take 512
          credits := l.credits - BitVec.ofNat 32 (2 ^ (8 * c)) }).reply (.flit port f)).listResponse port m
  | _, _ => s

/-! ### PKGSTAT and attestation (R305, R355) -/

/-- R305. -/
def State.pkgstat (s : State) : DWord :=
  let count (n : Nat) (live : Nat → Bool) : Nat := ((List.range n).filter fun i => !live i).length
  BitVec.ofNat 64
    ((if s.viral.isSome then 2 ^ 63 else 0) + (if s.replReq then 2 ^ 62 else 0) +
     2 ^ 48 * ((List.range 8).foldl (fun n d => n + (if s.fencedDies.contains d then 2 ^ d else 0)) 0) +
     2 ^ 41 * count Config.clusters s.clusterLive + 2 ^ 32 * count Config.cores s.coreLive +
     2 ^ 24 * (s.viral.getD 0).toNat + s.replays)

/-- The signed part of a report; `asid` is the requester, 0xFFFF for Unquel. -/
def State.reportBody (s : State) (asid : Nat) (nonce : List Byte) : List Byte :=
  toBytes 1 8 ++ toBytes Config.serial.toNat 8 ++ nonce ++ toBytes s.pkgstat.toNat 8 ++ toBytes asid 2 ++ toBytes 0 6 ++
  (List.range 8).flatMap (fun i => toBytes (KMap.get s.measured 0 i).toNat 48) ++
  toBytes Config.fusedVersion.toNat 4 ++ toBytes 0 4

def State.makeReport (s : State) (asid : Nat) (nonce : List Byte) : List Byte :=
  let b := s.reportBody asid nonce
  b ++ (List.range 64).map (Config.signEd25519 b) ++ (List.range 3309).map (Config.signMldsa b) ++ toBytes 0 11

/-! ### The arguments of a service (R341) -/

/-- R341: the number of arguments of a service. -/
def serviceArgs (service : Nat) : Option Nat :=
  match service with
  | 0x0001 => some 3
  | 0x0002 => some 1
  | 0x0003 | 0x0004 | 0x0030 | 0x0031 => some 6
  | 0x0010 => some 3
  | 0x0011 | 0x0012 => some 4
  | 0x0020 => some 0
  | 0x0040 => some 2
  | _ => none

/-- R341: a 64-bit argument, bits 31:0 first. -/
def arg64 (args : List Word) (i : Nat) : Nat := (args.getD i 0).toNat + 2 ^ 32 * (args.getD (i + 1) 0).toNat

/-- R341: the length of a service's transfer or block. -/
def serviceLength (service : Nat) (args : List Word) : Nat :=
  (match service with
   | 0x0003 | 0x0004 | 0x0011 | 0x0012 => args.getD 3 0
   | 0x0010 => args.getD 2 0
   | 0x0030 | 0x0031 => args.getD 5 0
   | _ => 0).toNat

/-- R341: the buffer or block of a service: address, length, and whether the service reads and writes it. -/
def serviceBuffer (service : Nat) (args : List Word) : Option (Nat × Nat × Bool × Bool) :=
  let n := serviceLength service args
  match service with
  | 0x0003 | 0x0012 | 0x0031 => some (arg64 args 1, n, false, true)
  | 0x0004 | 0x0011 | 0x0030 => some (arg64 args 1, n, true, false)
  | 0x0010 => some (arg64 args 0, n, true, false)
  | 0x0040 => some (arg64 args 0, 3840, true, true)
  | _ => none

/-- R340, R342: a range that Unquel can read or write in an ASID. -/
def State.accessible (s : State) (asid a n : Nat) (write : Bool) : Bool :=
  (lineChunks a n).all fun c => match s.outsideTranslate asid c.1 write with
    | .ok pa => s.isMemory pa
    | .error _ => false

/-- R341: a path from an address: none where a byte of it cannot be read, false where it is too long. -/
def State.pathOk (s : State) (asid a n : Nat) : Option Bool :=
  match n with
  | 0 => some false
  | k + 1 =>
      match s.outsideRead asid a 1 with
      | none => none
      | some bs => if bs = [0] then some true else s.pathOk asid (a + 1) k

/-- How many bytes of a path there are to read: to its end, to the first that cannot be read, or whose tile is not
held. -/
def State.pathLen (s : State) (asid a n : Nat) : Nat :=
  match n with
  | 0 => 0
  | k + 1 => 1 + (if (s.droppedAt asid a).isSome then 0
      else match s.outsideRead asid a 1 with
        | some [b] => if b = 0 then 0 else s.pathLen asid (a + 1) k
        | _ => 0)

/-- R341: the ranges that a service reads in the pool's ASID. -/
def State.serviceReads (s : State) (asid service : Nat) (args : List Word) : List (Nat × Nat) :=
  if serviceArgs service ≠ some args.length || decide (2 ^ 24 < serviceLength service args) then []
  else match service with
    | 0x0001 => [(arg64 args 0, s.pathLen asid (arg64 args 0) 4097)]
    | 0x0040 => [(arg64 args 0 + 0x10, 32)]
    | _ => match serviceBuffer service args with
        | some (a, n, true, _) => [(a, n)]
        | _ => []

/-- R341: what an open handle of a tenant stands for: 0 for a file, 1 for a connection. -/
def State.handleKind (s : State) (tenant h : Nat) : Option Nat :=
  if h < 4096 then KMap.find? s.handles (4096 * tenant + h) else none

/-! ### Results (R341, R342, R352) -/

/-- R342: a handle that is not open, or of the wrong kind; no handle left. -/
def State.handleErrors (s : State) (asid service : Nat) (args : List Word) : List DWord :=
  let tenant := (s.tenant asid).getD 0
  let kind := s.handleKind tenant (args.getD 0 0).toNat
  match service with
  | 0x0002 => if kind.isSome then [] else [-2]
  | 0x0003 | 0x0004 => if kind = some 0 then [] else [-2]
  | 0x0011 | 0x0012 => if kind = some 1 then [] else [-2]
  | 0x0001 | 0x0010 => if (List.range 4096).all fun h => (s.handleKind tenant h).isSome then [-7] else []
  | _ => []

/-- R342: a length over the limit; a buffer, block or path that Unquel cannot reach in the ASID; a path that is too
long counts as a limit (log 43). -/
def State.bufferErrors (s : State) (asid service : Nat) (args : List Word) : List DWord :=
  if 2 ^ 24 < serviceLength service args then [-7]
  else match serviceBuffer service args with
    | some (a, n, r, w) => if (!r || s.accessible asid a n false) && (!w || s.accessible asid a n true) then [] else [-3]
    | none =>
        if service ≠ 0x0001 then []
        else match s.pathOk asid (arg64 args 0) 4097 with
          | none => [-3]
          | some ok => if ok then [] else [-7]

/-- R342, R352: no such peer; a link that is fenced, or has been since the SYSC began. -/
def State.peerErrors (s : State) (op service : Nat) (args : List Word) : List DWord :=
  let port := (args.getD 0 0).toNat
  if !peerService service then []
  else if 8 ≤ port then [-5]
  else if (s.link port).fenced || s.peerCut.contains (op, port) then [-6] else []

/-- R342: the errors that hold of a service whatever Unquel finds. -/
def State.serviceErrors (s : State) (asid op service : Nat) (args : List Word) : List DWord :=
  s.handleErrors asid service args ++ s.bufferErrors asid service args ++ s.peerErrors op service args

/-- R341: the result of a service that succeeds; `r` and `data` are what Unquel answers. -/
def State.serviceValue (s : State) (asid service : Nat) (args : List Word) (r : DWord) (data : List Byte) : DWord :=
  let tenant := (s.tenant asid).getD 0
  let n := serviceLength service args
  match service with
  | 0x0001 | 0x0010 =>
      if r.toNat < 4096 ∧ (s.handleKind tenant r.toNat).isNone then r
      else BitVec.ofNat 64 (((List.range 4096).find? fun h => (s.handleKind tenant h).isNone).getD 0)
  | 0x0003 | 0x0012 | 0x0031 => BitVec.ofNat 64 (data.take n).length
  | 0x0004 | 0x0011 | 0x0030 => BitVec.ofNat 64 (min r.toNat n)
  | 0x0020 => BitVec.ofNat 64 (s.time * 1000 / Config.ticksPerMicro)
  | 0x0040 => 3840
  | _ => 0

/-- R341, R342: the result of a service; where several errors hold it is the one that Unquel names, or the first. -/
def State.serviceResult (s : State) (asid op service : Nat) (args : List Word) (r : DWord) (data : List Byte) : DWord :=
  match serviceArgs service with
  | none => -1
  | some n =>
      if args.length ≠ n then -9
      else if service = 1 && bits 31 3 (args.getD 2 0) ≠ 0 then -9
      else match s.serviceErrors asid op service args with
        | e :: es => if (e :: es).contains r then r else e
        | [] =>
            if r.toInt < 0 then (if [-8, -6, -5, -4].contains r.toInt then r else -6)
            else s.serviceValue asid service args r data

/-- R341, R343, R355: the bytes that a service with a result of 0 or more writes, and where. -/
def State.serviceWrites (s : State) (asid service : Nat) (args : List Word) (data : List Byte) : List (Nat × List Byte) :=
  match service with
  | 0x0003 | 0x0012 | 0x0031 => [(arg64 args 1, data.take (serviceLength service args))]
  | 0x0040 =>
      let nonce := (s.outsideRead asid (arg64 args 0 + 0x10) 32).getD []
      [(arg64 args 0, s.makeReport asid nonce)]
  | _ => []

/-- R341: the handles after a service. -/
def State.serviceHandles (s : State) (asid service : Nat) (args : List Word) (r : DWord) : State :=
  let slot (h : Nat) : Nat := 4096 * (s.tenant asid).getD 0 + h
  match service with
  | 0x0001 => { s with handles := KMap.put s.handles (slot r.toNat) 0 }
  | 0x0010 => { s with handles := KMap.put s.handles (slot r.toNat) 1 }
  | 0x0002 => { s with handles := KMap.del s.handles (slot (args.getD 0 0).toNat) }
  | _ => s

/-! ### Requests at a peer (R351) -/

/-- A range cut at blocks of 256 bytes, at most 224 bytes each. -/
def peerChunks (a n : Nat) : List (Nat × Nat) :=
  let rec go (fuel a n : Nat) : List (Nat × Nat) :=
    match fuel with
    | 0 => []
    | f + 1 =>
        if n = 0 then []
        else
          let k := min n (min 224 (256 - a % 256))
          (a, k) :: go f (a + k) (n - k)
  go n a n

/-- The requests that a PEERPUT or a PEERGET makes of its peer; Unquel reads the buffer as committed (R343). -/
def State.peerRequests (s : State) (asid op service : Nat) (args : List Word) : List PeerReq :=
  let n := serviceLength service args
  let local_ := arg64 args 1
  let remote := arg64 args 3
  if serviceArgs service ≠ some args.length || s.serviceErrors asid op service args ≠ [] then []
  else (peerChunks remote n).map fun c =>
    ⟨op, service = 0x30, c.1, c.2,
      if service = 0x30 then (s.outsideRead asid (local_ + (c.1 - remote)) c.2).getD [] else []⟩

/-- The peer requests of a SYSC that is committed go to the links, in ascending tid, once what they read is there
(R337). -/
def State.startPeer (s : State) : State :=
  match s.syscOps.find? fun x => peerService x.2.aop && !s.peerOps.contains x.2.id &&
      ((x.1.cp? x.2.cp).map fun c => c.wait.isNone).getD true with
  | none => s
  | some (p, o) =>
      match s.allReady p.task.asid (o.args.flatMap (s.serviceReads p.task.asid o.aop)) with
      | (false, s') => s'
      | (true, s) => o.args.foldl (fun s a =>
          let port := (a.getD 0 0).toNat
          match s.peerRequests p.task.asid o.id o.aop a with
          | [] => s
          | l => s.modLink port fun x => { x with queue := x.queue ++ l.map .request })
          { s with peerOps := s.peerOps ++ [o.id] }

/-- R351: every peer request of a SYSC has been sent. -/
def State.peerSent (s : State) (o : Op) : Bool :=
  !peerService o.aop || (s.peerOps.contains o.id && !s.links.any fun l => l.2.queue.any fun m => match m with
    | .request r => r.op = o.id
    | .response _ => false)

/-! ### The completion of a SYSC (R162, R343) -/

/-- R299: the results of a SYSC in an image of its pool. -/
def Pool.imageDone (p : Pool) (o : Op) (vals : List DWord) (i : Image) : Image :=
  { i with
    ops := i.ops.filter (·.id != o.id)
    regs := ((o.lanes.zip vals).foldl (fun (q : Pool) e => q.setElem true e.1.tid o.dest e.2) { p with regs := i.regs }).regs }

/-- R162, R299: the results in a pool: its registers, its checkpoint image, its operations. -/
def Pool.syscDone (p : Pool) (o : Op) (vals : List DWord) : Pool :=
  let p := (p.deliver true o vals).removeOp o.id
  { p with image := p.image.map (p.imageDone o vals) }

/-- R299: the same in the images that its records under way carry, which all were taken after the SYSC's own commit.
-/
def Record.syscDone (r : Record) (pid : Nat) (p : Pool) (o : Op) (vals : List DWord) : Record :=
  { r with images := r.images.map fun e => if e.1 = pid then (pid, p.imageDone o vals e.2) else e }

/-- The results of a SYSC wherever its pool is; every core of a placed pool acquires (R343), and the completion
point holds the broadcast slots (R172). -/
def State.syscResults (s : State) (pid : Nat) (o : Op) (vals : List DWord) : State :=
  let held := (s.pool? pid).or ((s.out.find? (·.id = pid)).map (·.pool))
  let s : State := { s with
    peerOps := s.peerOps.filter (· != o.id), peerCut := s.peerCut.filter (·.1 != o.id)
    records := match held with | some p => s.records.map fun r => r.syscDone pid p o vals | none => s.records }
  match s.pool? pid with
  | some p => ((s.modPool pid fun p => p.syscDone o vals).holdSlots (p.completionSlots o)).invalidate p.cluster
  | none => { s with out := s.out.map fun x => if x.id = pid then { x with pool := x.pool.syscDone o vals } else x }

/-- R340: bytes that Unquel writes on behalf of a pool, cut at lines and translated in the pool's ASID. -/
def State.unquelWrites (s : State) (asid : Nat) (ws : List (Nat × List Byte)) : List (Nat × Nat × List Byte) :=
  ws.flatMap fun w => (lineChunks w.1 w.2.length).filterMap fun k =>
    match s.outsideTranslate asid k.1 true with
    | .ok pa => some (k.1, pa, (w.2.drop (k.1 - w.1)).take k.2)
    | .error _ => none

/-- R343: the services of a SYSC in ascending tid; each writes before the next begins. -/
def State.serve (s : State) (asid op service : Nat) (l : List (List Word × DWord × List Byte)) : List DWord × State :=
  match l with
  | [] => ([], s)
  | (args, r, data) :: rest =>
      let v := s.serviceResult asid op service args r data
      let s1 := if v.toInt < 0 then s else
        let ws := s.unquelWrites asid (s.serviceWrites asid service args data)
        let s1 := (s.serviceHandles asid service args v).touchWrites asid ws
        if ws.isEmpty then s1 else s1.outsideCommit (some asid) ws
      let x := s1.serve asid op service rest
      (v :: x.1, x.2)

/-- Where the services of a SYSC write: virtual and physical address of each piece. -/
def State.serveTargets (s : State) (asid op service : Nat) (l : List (List Word × DWord × List Byte)) :
    List (Nat × Nat × List Byte) :=
  l.flatMap fun x =>
    if (s.serviceResult asid op service x.1 x.2.1 x.2.2).toInt < 0 then []
    else s.unquelWrites asid (s.serviceWrites asid service x.1 x.2.2)

/-- A SYSC completes: its services, once the tiles they read are there (R337) and the tiles and the slices they
write allow it, and its results. -/
def State.finishSysc (s : State) (pid : Nat) (p : Pool) (placed : Bool) (o : Op) (results : List DWord)
    (data : List (List Byte)) : State :=
  let committed := match p.cp? o.cp with | some cp => cp.wait.isNone | none => true
  let asid := p.task.asid
  if results.length ≠ o.lanes.length || !committed || !s.peerSent o || (placed && !p.noOtherHold o.cp) then s
  else match s.allReady asid (o.args.flatMap (s.serviceReads asid o.aop)) with
  | (false, s') => s'
  | (true, s) =>
    let jobs := (o.args.zip results).zipIdx.map fun x => (x.1.1, x.1.2, data.getD x.2 [])
    let ws := s.serveTargets asid o.id o.aop jobs
    match s.tileWrites (ws.map fun w => (asid, w.1)) with
    | (false, s') => s'
    | (true, s') =>
        if ws.all fun w => s'.sliceClear w.2.1 then
          let x := s'.serve asid o.id o.aop jobs
          x.2.syscResults pid o x.1
        else s

/-- R162, R343: Unquel is done with the services of a SYSC; `results` and `data` are what it answers for each
thread, in ascending tid. -/
def execSyscServiceDone (pool op : Nat) (results : List DWord) (data : List (List Byte)) (s : State) :
    Host.Outcome State Fault Refusal :=
  let go (p : Pool) (placed : Bool) : State :=
    match p.ops.find? fun o => o.id = op && o.kind == .sysc with
    | some o => s.finishSysc pool p placed o results data
    | none => s
  .next (if s.viral.isSome then s else
    match s.pool? pool with
    | some p => go p true
    | none => (match s.out.find? (·.id = pool) with
        | some x => if s.poolClear pool then go x.pool false else s
        | none => s))

end Sys2Proof.Machine
end

