-- ==== Sys2Proof/Machine/Place.lean ====
section
/-! DEFINITION. Where a pool fits (08 R170, R174; 11 R234, R246, R247, R249): what the pools of a partition use,
the reserve, and the search for a place. -/

namespace Sys2Proof.Machine

/-! ### Shapes (R316) -/

def shapeThreads (w : DWord) : Nat := bits 15 0 w
def shapeAllot (w : DWord) : Nat := 8 * bits 23 16 w
def shapeUnits (w : DWord) : Nat := bits 39 24 w
def shapeCps (w : DWord) : Nat := bits 43 40 w
def shapeGroup (w : DWord) : Nat := 16 * 2 ^ bits 45 44 w
def shapeDurable (w : DWord) : Bool := bits 47 46 w = 0
def shapeSlice (w : DWord) : Bool := w.getLsbD 48

/-- What a pool needs of the store: threads, allotment, scratchpad units, CPs; `regen` for the regeneration
class. -/
structure Need where
  threads : Nat
  allot : Nat
  units : Nat
  cps : Nat
  regen : Bool
  deriving DecidableEq, Repr

def Need.ofShape (w : DWord) (threads : Nat) : Need := ⟨threads, shapeAllot w, shapeUnits w, shapeCps w, false⟩

def Pool.need (p : Pool) : Need := ⟨p.threads, p.allot, p.spadSize / 4096, p.cpsMax, p.rslice⟩

def Need.parts (n : Need) : Nat := partsOf n.threads

/-- R174: thread slots, register units and CP contexts of part k. -/
def Need.words (n : Need) (k : Nat) : Nat := (min 1024 (n.threads - 1024 * k) + 31) / 32
def Need.slots (n : Need) (k : Nat) : Nat := 32 * n.words k
def Need.regUnits (n : Need) (k : Nat) : Nat := (n.words k * n.allot + 31) / 32
def Need.contexts (n : Need) (k : Nat) : Nat := ((List.range n.cps).filter fun i => i % n.parts = k).length

/-! ### What is used -/

/-- R173: the units of a partition outside the core reserve. -/
def unitsOf (partition : Nat) : Nat := if partition % 6 ≤ 1 then 90 else 91

/-- A sum over the parts of every pool on a partition. -/
def State.overParts (s : State) (partition : Nat) (f : Pool → Nat → Nat) : Nat :=
  (s.pools.map fun e => (e.2.parts.zipIdx.map fun x => if x.1 = partition then f e.2 x.2 else 0).sum).sum

def State.usedSlots (s : State) (q : Nat) : Nat := s.overParts q fun p k => p.need.slots k
def State.usedSpad (s : State) (q : Nat) : Nat :=
  (s.pools.map fun e => (e.2.spadUnits.map fun u => if u.1 = q then u.2 else 0).sum).sum
def State.usedUnits (s : State) (q : Nat) : Nat := s.overParts q (fun p k => p.need.regUnits k) + s.usedSpad q

/-- The contexts of a partition in use. -/
def State.usedContexts (s : State) (q : Nat) : List Nat :=
  s.pools.flatMap fun e => e.2.contexts.filterMap fun x => if x.1 = q then some x.2 else none

/-- R246, R247: the cores of a cluster that hold a reserve: one that has moved moves on when its core is fenced in
turn (log 31). -/
def State.reserveCores (s : State) (k : Nat) : List Nat :=
  if !s.clusterLive k then []
  else
    let live := [4 * k, 4 * k + 1, 4 * k + 2, 4 * k + 3].filter s.coreLive
    let keep := [4 * k, 4 * k + 2].filter live.contains
    keep ++ (live.filter fun c => !keep.contains c).take (2 - keep.length)

def State.isReserve (s : State) (q : Nat) : Bool :=
  q % 6 = 5 && (s.reserveCores (clusterOf (coreOf q))).contains (coreOf q)

/-- R247: a regeneration pool that fits one reserve partition. -/
def Need.fitsReserve (n : Need) : Bool :=
  n.regen && n.threads ≤ 1024 && n.cps = 1 && n.regUnits 0 ≤ 32 && n.units ≤ 8

/-- The reserve partition holds a regeneration pool. -/
def State.reserveTaken (s : State) (q : Nat) : Bool :=
  s.pools.any fun e => e.2.rslice && e.2.need.fitsReserve && e.2.parts = [q]

/-! ### Whether a placement fits -/

/-- The units of a core in use. -/
def State.coreUnits (s : State) (c : Nat) : Nat := ((List.range 6).map fun i => s.usedUnits (6 * c + i)).sum

/-- What a placement takes of a core: register and scratchpad units. -/
def placedUnits (at_ : Placement) (n : Need) (c : Nat) : Nat :=
  (at_.parts.zipIdx.map fun x => if coreOf x.1 = c then n.regUnits x.2 else 0).sum +
  (at_.spad.map fun u => if coreOf u.1 = c then u.2 else 0).sum

def placedCores (at_ : Placement) : List Nat := ((at_.parts ++ at_.spad.map (·.1)).map coreOf).dedup

/-- R174: the limits on a whole core: 64 units stay for the L1 beside the 32 of the core reserve; at most 48
pools. -/
def State.coreFits (s : State) (n : Need) (at_ : Placement) (c : Nat) : Bool :=
  s.coreLive c && decide (32 + s.coreUnits c + placedUnits at_ n c + 64 ≤ 576) &&
  decide ((s.resident c).length < 48)

/-- A part on a partition; the reserve takes no part of another class (R246). -/
def State.partFits (s : State) (n : Need) (k q : Nat) : Bool :=
  decide (q < Config.partitions) && !s.isReserve q &&
  decide (s.usedSlots q + n.slots k ≤ 1024) && decide (s.usedUnits q + n.regUnits k ≤ unitsOf q) &&
  decide ((s.usedContexts q).length + n.contexts k ≤ 8)

/-- The units of a partition that a pool outside the reserve may take. -/
def State.freeUnits (s : State) (n : Need) (at_ : List Nat) (q : Nat) : Nat :=
  let cap := unitsOf q - (if s.isReserve q then 40 else 0)
  let res := if s.isReserve q then (s.pools.map fun e =>
      if e.2.rslice && e.2.need.fitsReserve && e.2.parts = [q] then e.2.need.regUnits 0 + e.2.need.units else 0).sum
    else 0
  cap - (s.usedUnits q - res) - (at_.zipIdx.map fun x => if x.1 = q then n.regUnits x.2 else 0).sum

/-- R30, R234: the parts of a pool of up to six parts lie on one core; those of a cluster pool on two to four
cores of one cluster, in ascending core number. -/
def partsShape (l : List Nat) : Bool :=
  let cs := l.map coreOf
  let sorted := (cs.zip cs.tail).all fun e => e.1 ≤ e.2
  l.dedup.length = l.length &&
  (if l.length ≤ 6 then cs.dedup.length = 1
   else sorted && decide (2 ≤ cs.dedup.length) && (cs.map clusterOf).dedup.length = 1)

/-- A pool outside the reserve. -/
def State.fitsOpen (s : State) (n : Need) (at_ : Placement) : Bool :=
  at_.parts.length = n.parts && partsShape at_.parts &&
  (at_.parts.zipIdx.all fun x => s.partFits n x.2 x.1) &&
  (at_.spad.map (·.2)).sum = n.units && (at_.spad.map (·.1)).dedup.length = at_.spad.length &&
  (at_.spad.all fun u => coreOf u.1 = coreOf (at_.parts.headD 0) && decide (1 ≤ u.2) &&
    decide (u.2 ≤ s.freeUnits n at_.parts u.1)) &&
  (placedCores at_).all (s.coreFits n at_)

/-- R174, R247: a regeneration pool in the reserve: its slots, its units and context 7 of the partition are free,
which they may not be while pools stand where the reserve has moved to. -/
def State.fitsReserved (s : State) (n : Need) (at_ : Placement) : Bool :=
  match at_.parts with
  | [q] => s.isReserve q && !s.reserveTaken q && s.coreFits n at_ (coreOf q) &&
      decide (s.usedSlots q + n.slots 0 ≤ 1024) && decide (s.usedUnits q + n.regUnits 0 + n.units ≤ unitsOf q) &&
      !(s.usedContexts q).contains 7 &&
      at_.spad = (if n.units = 0 then [] else [(q, n.units)])
  | _ => false

def State.fits (s : State) (n : Need) (at_ : Placement) : Bool :=
  if n.fitsReserve then s.fitsReserved n at_ else s.fitsOpen n at_

/-! ### The search -/

/-- Units for the scratchpad from the partitions of a core, in order. -/
def State.takeUnits (s : State) (n : Need) (parts qs : List Nat) (want : Nat) : List (Nat × Nat) :=
  match qs with
  | [] => []
  | q :: r =>
      let k := min want (s.freeUnits n parts q)
      if k = 0 then s.takeUnits n parts r want else (q, k) :: s.takeUnits n parts r (want - k)

def State.withSpad (s : State) (n : Need) (parts : List Nat) : Placement :=
  let c := coreOf (parts.headD 0)
  ⟨parts, s.takeUnits n parts ((List.range 6).map (6 * c + ·)) n.units⟩

/-- Partitions for the parts from k on, out of `qs`; later parts of a cluster pool on the same core or on
later ones. -/
def State.assign (s : State) (n : Need) (left k : Nat) (qs chosen : List Nat) : Option Placement :=
  match left with
  | 0 =>
      let at_ := s.withSpad n chosen
      if s.fitsOpen n at_ then some at_ else none
  | m + 1 =>
      qs.findSome? fun q =>
        if s.partFits n k q then
          s.assign n m (k + 1) (qs.filter fun x => x != q && coreOf q ≤ coreOf x) (chosen ++ [q])
        else none

/-- R249: whether a cluster takes new pools. -/
def State.clusterOpen (s : State) (k : Nat) : Bool :=
  s.clusterLive k && !((KMap.find? s.tests k).any fun t => t.due.isSome || t.running)

/-- Some place for a pool on the clusters that `allow` names. -/
def State.findPlace (s : State) (n : Need) (allow : Nat → Bool) : Option Placement :=
  (List.range Config.clusters).findSome? fun k =>
    if !allow k then none
    else if n.fitsReserve then
      (s.reserveCores k).findSome? fun c =>
        let q := 6 * c + 5
        let at_ : Placement := ⟨[q], if n.units = 0 then [] else [(q, n.units)]⟩
        if s.fits n at_ then some at_ else none
    else if n.parts ≤ 6 then
      [4 * k, 4 * k + 1, 4 * k + 2, 4 * k + 3].findSome? fun c =>
        s.assign n n.parts 0 ((List.range 6).map (6 * c + ·)) []
    else s.assign n n.parts 0 ((List.range 24).map (24 * k + ·)) []

/-- The package with no pool in it and nothing fenced. -/
def State.emptied (s : State) : State :=
  { s with pools := [], fencedCores := [], fencedClusters := [], fencedDies := [], tests := [] }

/-- R317: some empty core or cluster holds the shape. -/
def State.fitsEmpty (s : State) (n : Need) : Bool := (s.emptied.findPlace n (· = 0)).isSome

/-- The cluster of a placement. -/
def placedCluster (at_ : Placement) : Nat := clusterOf (coreOf (at_.parts.headD 0))

/-! ### Taking a place -/

/-- R170: the contexts of the CPs in ascending index, the lowest free one of each partition; context 7 of a
reserve partition goes to the regeneration pool. -/
def State.giveContexts (s : State) (n : Need) (at_ : Placement) : List (Nat × Nat) :=
  let rec go (left i : Nat) (got : List (Nat × Nat)) : List (Nat × Nat) :=
    match left with
    | 0 => got
    | m + 1 =>
        let q := at_.parts.getD (i % at_.parts.length) 0
        let used := s.usedContexts q ++ got.filterMap fun x => if x.1 = q then some x.2 else none
        let c := if n.fitsReserve then 7 else ((List.range 8).find? fun x => !used.contains x).getD 0
        go m (i + 1) (got ++ [(q, c)])
  go n.cps 0 []

/-- R178, R180: the pools that would hold more than their share once another pool is on their cores. -/
def State.overShare (s : State) (at_ : Placement) : List Nat :=
  ((placedCores at_).flatMap fun c =>
    let share := shareOf ((s.resident c).length + 1)
    (s.resident c).filter fun q =>
      decide (share < s.journalHeld q c) || (s.pool? q).any fun p => decide (share < p.undoOn c)).dedup

/-- Those of them whose commit is not under way already. -/
def State.toForce (s : State) (at_ : Placement) (q : Nat) : Bool :=
  (placedCores at_).any fun c => (s.uncommitted c).contains q ||
    (s.pool? q).any fun p => decide (shareOf ((s.resident c).length + 1) < p.undoOn c)

/-- The commits a placement forces; it waits until they are done. -/
def State.makeRoom (s : State) (at_ : Placement) : Bool × State :=
  match s.overShare at_ with
  | [] => (true, s)
  | l =>
      let s' := (l.filter (s.toForce at_)).foldl State.forceCommit s
      ((s'.overShare at_).isEmpty, s')

/-- A pool put on its place: it acquires at .pkg (R319), with the checkpoint of R179, and executes what is committed
now (R107).  Its cores take over the clock that its start, or the place it has left, has observed (R287, log 50). -/
def State.putPool (s : State) (pid : Nat) (p : Pool) (at_ : Placement) : State :=
  let n := p.need
  let p : Pool := { p with
    parts := at_.parts, spadUnits := at_.spad, contexts := s.giveContexts n at_, deps := [], seen := []
    granted := 0, blockedSince := none, placed := s.overwritten.length }
  let t := (s.setPool pid p.checkpoint).invalidate (placedCluster at_)
  (placedCores at_).foldl (fun t k => t.raiseClock k p.task.clock) t

end Sys2Proof.Machine
end

