-- ==== Sys2Proof/Machine/Tasks.lean ====
section
/-! DEFINITION. The dispatcher (17 R310 to R319), pools that are placed and resumed (08 R187; 16 R303),
pre-emption (08 R184 to R186), toll intervals and quanta, and packed pools (02 R52; 17 R324). -/

namespace Sys2Proof.Machine

/-! ### Affinity (R318) -/

/-- The next live die from d on, in ascending order modulo 8. -/
def State.nextDie (s : State) (d : Nat) : Option Nat :=
  ((List.range 8).map fun i => (d + i) % 8).find? fun d => !s.fencedDies.contains d

/-- R318: the hash of SEL 1. -/
def affinityHash (key x y z : Nat) : Nat :=
  let h := (key + 0x9E3779B9 * x + 0x85EBCA6B * y + 0xC2B2AE35 * z) % 2 ^ 32
  h ^^^ (h >>> 16)

/-- The die a record names. -/
def TaskRec.die (r : TaskRec) : Option Nat :=
  let key := bits 63 32 r.aff
  match bits 1 0 r.aff with
  | 1 => some (affinityHash key (bits 15 0 r.coord) (bits 31 16 r.coord) (bits 47 32 r.coord) % 64 / 8)
  | 2 => some (key % 8)
  | _ => none

/-! ### Records (R315 to R317) -/

def Task.need (t : Task) : Need :=
  Need.ofShape t.record.shape (if t.packed then t.items.length else shapeThreads t.record.shape)

/-- R317: the status of a task whose record is bad or whose shape fits nowhere; a packed pool whose entry-table
address is no code address has a bad record (log 21). -/
def State.badTask (s : State) (t : Task) : Option Byte :=
  let r := t.record
  if shapeOk r.shape && !s.fitsEmpty t.need then some 0x06
  else if bits 63 49 r.coord ≠ 0 || bits 31 2 r.aff ≠ 0 || bits 1 0 r.aff = 3 || !shapeOk r.shape ||
      shapeSlice r.shape || bits 1 0 r.entry ≠ 0 || bits 3 0 r.succb ≠ 0 then some 0x05
  else none

/-! ### Heads (R310, R312) -/

/-- R287: the clock of the line at an address of an address space, which a task read there has observed. -/
def State.clockAt (s : State) (asid va : Nat) : Nat :=
  match s.outsideTranslate asid va false with
  | .ok pa => KMap.get s.lineClock 0 (lineOf pa)
  | .error _ => 0

/-- The head of a queue, and whether it is a ring record. -/
def State.front (s : State) (q : Queue) : Option (Task × Bool) :=
  match q.heads with
  | t :: _ => some (t, false)
  | [] =>
      if s.ringCount q = 0 then none
      else
        let read := (s.ringEnds q).2
        let at_ := q.header + 64 + 64 * (read % 2 ^ q.caplog)
        let bs := (s.outsideRead q.asid at_ 64).getD []
        some ({ Task.ofRecord (TaskRec.ofBytes bs) q.asid none (some read) with clock := s.clockAt q.asid at_ }, true)

/-- The task at the head of a mapped queue that may be dispatched: HOLDQ (R310), and a grant for class 0
(R311). -/
def State.ready (s : State) (qid : Nat) (q : Queue) : Option Task :=
  if q.slot.isNone || q.broken || (q.base = 0 && q.grant = 0) then none
  else match s.front q with
    | some (t, _) =>
        if t.record.coord.getLsbD 48 && !q.before.isEmpty then none else some { t with queue := some qid }
    | none => none

/-! ### Wake conditions (R187, R183) -/

/-- The saved condition of one CP is met. -/
def State.cpAwake (s : State) (p : Pool) (c : Cp) : Bool :=
  match c.stand with
  | .watch addr val _ _ _ =>
      (match s.outsideRead p.task.asid addr 8 with
      | some bs => decide (BitVec.ofNat 64 (ofBytes bs) ≠ val)
      | none => true)
  | .parkedWatch k | .parkedIssue k | .parkedFetch k => s.parkOver k
  | .gong o phase _ => decide (p.spadRead o 8 / 2 ^ 44 % 2 ≠ bit phase)
  | .counter cls limit => decide (c.counter cls ≤ limit) ||
      p.cmds.any fun k => k.kind.cls = cls && (match k.park with | some x => s.parkOver x | none => false)
  | .load o _ _ =>
      (match p.ops.find? (·.id = o) with
      | some x => (match x.park with | some k => s.parkOver k | none => true)
      | none => true)
  | .sysc o _ => !p.ops.any (·.id = o)
  | .yielded _ | .no | .stall => true

/-- R187: the condition of some CP that has not ended is met. -/
def State.poolAwake (s : State) (p : Pool) : Bool :=
  p.cps.any fun e => e.2.status == .running && s.cpAwake p e.2

def State.outAwake (s : State) (o : OutPool) : Bool :=
  match o.why with
  | .preempted => s.poolAwake o.pool
  | _ => true

/-- R312: since when the pools that wait have been seen to be ready. -/
def State.noteReady (s : State) : State :=
  { s with out := s.out.map fun o =>
      if o.since.isNone && s.outAwake o then { o with since := some s.time } else o }

/-! ### Candidates (R312) -/

/-- What the dispatcher may place. -/
inductive Cand where
  | regen (recipe : Nat)
  | head (queue : Nat)
  | resume (pool : Nat)
  deriving DecidableEq, Repr

/-- R247: the chain that began first, then the greater depth, then the earliest request (log 31). -/
def regenBefore (a b : Recipe) : Bool :=
  let key (r : Recipe) : List Int := [r.began, -r.depth, r.requested, r.chain]
  key a < key b

/-- The recipe that a pre-empted pool makes a tile of. -/
def State.sliceOf (s : State) (o : OutPool) : Option Recipe := o.pool.task.recipe.bind (KMap.find? s.recipes)

/-- The pools out of place that may be placed again. -/
def State.readyOuts (s : State) : List OutPool := s.out.filter fun o => o.since.isSome && s.poolClear o.id

/-- The regeneration pools that wait for a place, in the order of R247: of admitted regenerations, and pre-empted ones
whose wake condition is met. -/
def State.waitingRegens (s : State) : List Cand :=
  let new := ((s.recipes.map (·.2)).filter fun r => r.state = .regenerating && r.admitted && r.slice.isNone && !r.ended).map
    fun r => (r, Cand.regen r.id)
  let old := s.readyOuts.filterMap fun o => (s.sliceOf o).map fun r => (r, Cand.resume o.id)
  (sortBy (fun (a b : Recipe × Cand) => regenBefore a.1 b.1) (new ++ old)).map (·.2)

/-- The heads with their effective class and waiting time. -/
def State.readyHeads (s : State) : List (Nat × Nat × Nat) :=
  s.queues.filterMap fun e => match e.2.slot with
    | some x => if (s.ready e.1 e.2).isSome then some (e.1, (if e.2.base = 0 then 0 else x.eff), e.2.headSince) else none
    | none => none

def State.candidates (s : State) : List Cand :=
  let heads := s.readyHeads
  let byTime (l : List (Nat × Nat × Nat)) := sortBy (fun (a b : Nat × Nat × Nat) => decide (a.2.2 < b.2.2)) l
  let rest := sortBy (fun (a b : Nat × Nat × Nat) => decide (a.2.1 < b.2.1)) (byTime (heads.filter (·.2.1 ≠ 0)))
  let outs := sortBy (fun (a b : OutPool) => decide (a.since.getD 0 < b.since.getD 0))
    (s.readyOuts.filter fun o => (s.sliceOf o).isNone)
  s.waitingRegens ++
  (byTime (heads.filter (·.2.1 = 0))).map (fun h => .head h.1) ++
  outs.map (fun o => .resume o.id) ++ rest.map (fun h => .head h.1)

/-- R333: the die of a regeneration, over the home slice of its tile's first byte. -/
def State.regenDie (s : State) (r : Recipe) : Option Nat :=
  match s.walk r.asid r.tbase with
  | .ok l => s.nextDie (homeSlice (leafPa l.word l.bits r.tbase) / 8)
  | .error _ => none

/-- The class of a head. -/
def State.headClass (s : State) (q : Nat) : Nat :=
  match KMap.find? s.queues q with
  | some x => if x.base = 0 then 0 else (x.slot.map (·.eff)).getD x.base
  | none => 0

/-- What a candidate needs; none where it has nothing to place. -/
def State.candNeed (s : State) (c : Cand) : Option Need :=
  match c with
  | .regen r => (KMap.find? s.recipes r).map fun q =>
      { Need.ofShape q.shape (shapeThreads q.shape) with regen := true }
  | .head q => ((KMap.find? s.queues q).bind (s.ready q)).map Task.need
  | .resume p => (s.out.find? (·.id = p)).map (·.pool.need)

/-- R333, R334, R249: whether a regeneration pool, new or resumed, may be placed on a cluster: of its die, another one
the second time, and one without a test, or its reserve until the test runs. -/
def State.regenAllows (s : State) (q : Recipe) (n : Option Need) (k : Nat) : Bool :=
  s.clusterLive k && (s.regenDie q == some (k / 8) || (s.regenDie q).isNone) &&
  !(q.mismatches ≠ 0 && q.lastCluster == some k) &&
  (s.clusterOpen k || (n.any (·.fitsReserve) && !((KMap.find? s.tests k).any (·.running))))

/-- R318, R314, R249, R333: whether a candidate may be placed on a cluster; `blocked` names dies kept for a
head, with its class. -/
def State.candAllows (s : State) (blocked : List (Nat × Nat)) (c : Cand) (k : Nat) : Bool :=
  match c with
  | .regen r => (KMap.find? s.recipes r).any fun q => s.regenAllows q (s.candNeed c) k
  | .head q =>
      (match KMap.find? s.queues q with
      | some x =>
          let die := ((s.ready q x).bind fun t => t.record.die).bind s.nextDie
          s.clusterOpen k && !(blocked.any fun b => b.1 = k / 8 && b.2 ≤ s.headClass q) &&
          (die.isNone || die == some (k / 8) || decide (x.headSince + micros s.toll ≤ s.time))
      | none => false)
  | .resume p =>
      (match (s.out.find? (·.id = p)).bind s.sliceOf with
      | some q => s.regenAllows q (s.candNeed c) k
      | none => s.clusterOpen k)

def State.candPlace (s : State) (blocked : List (Nat × Nat)) (c : Cand) : Option Placement :=
  (s.candNeed c).bind fun n => s.findPlace n (s.candAllows blocked c)

/-- R314: the pools that could be pre-empted for a head. -/
def State.evictable (s : State) : List Nat :=
  s.pools.filterMap fun e => if e.2.preemptable && !e.2.rslice && !s.poolAwake e.2 then some e.1 else none

/-- R314: the die of a head that does not fit: what its affinity names, else one chosen at that moment. -/
def State.chooseDie (s : State) (q : Nat) (n : Need) : Option Nat :=
  let named := (((KMap.find? s.queues q).bind (s.ready q)).bind fun t => t.record.die).bind s.nextDie
  match named with
  | some d => some d
  | none =>
      match KMap.find? s.headDie (s.headKey q) with
      | some d => some d
      | none =>
          let live := (List.range 8).filter fun d => !s.fencedDies.contains d
          let without : State := { s with pools := s.pools.filter fun e => !s.evictable.contains e.1 }
          let free (d : Nat) : Nat := (((List.range Config.partitions).filter fun x => x / 192 = d && s.coreLive (coreOf x)).map fun x =>
            1024 - s.usedSlots x).sum
          match live.find? fun d => (without.findPlace n fun k => k / 8 = d && s.clusterOpen k).isSome with
          | some d => some d
          | none => live.foldl (fun best d => match best with
              | none => some d
              | some b => if free b < free d then some d else some b) none

/-- What the search for the first candidate that fits comes to: the candidate, the dies kept for earlier
heads, and the dies chosen. -/
structure First where
  cand : Option Cand
  blocked : List (Nat × Nat)
  chosen : List (Nat × Nat)

/-- R312, R314: the first candidate that fits the free resources. -/
def State.firstOf (s : State) (l : List Cand) (seen : List Nat) (acc : First) : First :=
  match l with
  | [] => acc
  | c :: r =>
      let bad := match c with
        | .head q => (((KMap.find? s.queues q).bind (s.ready q)).bind s.badTask).isSome
        | _ => false
      if bad || (s.candPlace acc.blocked c).isSome then { acc with cand := some c }
      else match c with
        | .head q =>
            let e := s.headClass q
            if seen.contains e then s.firstOf r seen acc
            else
              let die := (s.candNeed c).bind (s.chooseDie q)
              s.firstOf r (e :: seen) { acc with
                blocked := acc.blocked ++ (die.map (·, e)).toList
                chosen := acc.chosen ++ (die.map (q, ·)).toList }
        | _ => s.firstOf r seen acc

def State.first (s : State) : First := s.firstOf s.candidates [] ⟨none, [], []⟩

/-- The dies chosen for heads are kept (R314). -/
def State.keepDies (s : State) (f : First) : State :=
  { s with headDie := f.chosen.foldl (fun m e => KMap.put m (s.headKey e.1) e.2) s.headDie }

/-- R314: the choice of a die stands from the moment a head does not fit. -/
def State.noteDies (s : State) : State := if s.candidates.isEmpty then s else s.keepDies s.first

/-- R180: since when undo logs hold entries. -/
def State.noteUndo (s : State) : State :=
  { s with pools := s.pools.map fun e =>
      let p := e.2
      if p.undoSince.isNone && !(p.undoRegs.isEmpty && p.undoSpad.isEmpty && p.undoTiles.isEmpty) then
        (e.1, { p with undoSince := some s.now })
      else e }

/-- R314: since when the pools in place stand blocked. -/
def State.noteBlocked (s : State) : State :=
  { s with pools := s.pools.map fun e =>
      (e.1, { e.2 with blockedSince :=
        if e.2.preemptable && !s.poolAwake e.2 then some (e.2.blockedSince.getD s.time) else none }) }

/-! ### New pools (R28, R33, R174) -/

/-- The registers of the threads of a packed pool (R50). -/
def packedRegs (items : List (Word × Word × Word)) : KMap Word :=
  items.zipIdx.foldl (fun m e =>
    let k := 256 * e.2
    KMap.set (KMap.set (KMap.set m 0 k e.1.1) 0 (k + 1) e.1.2.1) 0 (k + 2) e.1.2.2) []

/-- The pool of a task at its start; its place is given by `putPool`.  Its arbiter starts as if CP 0 had been
granted last (log 53). -/
def Task.newPool (t : Task) (n : Need) : Pool where
  task := t
  threads := n.threads
  allot := n.allot
  spadSize := 4096 * n.units
  cpsMax := n.cps
  group := shapeGroup t.record.shape
  durable := shapeDurable t.record.shape && t.recipe.isNone
  rslice := t.recipe.isSome
  parts := []
  spadUnits := []
  contexts := []
  cps := [(0, Cp.start n.threads (t.record.entry >>> 2) (if t.packed then 0 else t.record.arg) (bits 1 0 t.record.entry))]
  started := 0
  regs := packedRegs t.items
  spad := []
  tiles := []
  ops := []
  cmds := []
  ckpt := ⟨[], [], [], false, 0⟩
  image := none
  undoRegs := []
  undoSpad := []
  undoTiles := []
  undoSince := none
  undoWait := []
  rollbacks := 0
  deps := []
  seen := []
  granted := 0
  blockedSince := none
  placed := 0

/-- R301: the placement of a packed pool marks its RESTART spawners. -/
def State.markSpawners (s : State) (l : List Nat) : State :=
  let mark (p : Pool) : Pool := if p.durable then p else { p with task := { p.task with nonReplay := true } }
  { s with
    pools := s.pools.map fun e => if l.contains e.1 then (e.1, mark e.2) else e
    out := s.out.map fun o => if l.contains o.id then { o with pool := mark o.pool } else o }

/-- A task leaves the head of its queue: READ advances, the slot has dispatched, the next head begins to
wait. -/
def State.takeHead (s : State) (q pid : Nat) (ring : Bool) : State :=
  match KMap.find? s.queues q with
  | none => s
  | some x =>
      let s1 := s.modQueue q fun x =>
        { x with
          heads := if ring then x.heads else x.heads.tail
          running := x.running ++ [pid]
          grant := if x.base = 0 then x.grant - 1 else x.grant
          slot := x.slot.map fun y => { y with eff := x.base, tollDispatched := true, quantumDispatched := true } }
      let s2 := if ring then
          (match s.headerPa x with
          | some pa => (s1.touchOutside x.asid x.header true).systemCommit x.asid (pa + 4) (toBytes ((s.ringEnds x).2 + 1) 4)
          | none => s1)
        else s1
      let s3 := s2.modQueue q fun y =>
        { y with ring := decide (s2.ringCount y ≠ 0), headSince := s.time, before := y.running }
      { s3.modQueue q (fun y =>
          { y with slot := y.slot.map fun z => if s3.queueFull y then z else { z with nonEmpty := false } }) with
        headDie := KMap.del s3.headDie (s.headKey q)
        dispatchAt := s.time + Config.ticksPerMicro / 64 }

/-- R312, R317: the head of a queue is dispatched, 64 million of them a second at most. -/
def State.dispatch (s : State) (q : Nat) (blocked : List (Nat × Nat)) (at_ : Placement) : State :=
  match KMap.find? s.queues q with
  | none => s
  | some x =>
      match s.ready q x, s.front x with
      | some t, some (_, ring) =>
          if s.time < s.dispatchAt || ring && (s.headerPa x).any (fun pa => !s.sliceClear pa) then s
          else
            let (pid, s) := s.takeId
            match s.badTask t with
            | some code => (match (if ring then s.headerWrite x else (true, s)) with
                | (false, s') => s'
                | (true, s') => (s'.takeHead q pid ring).taskOver { t with status := code } pid)
            | none =>
                if !s.fits t.need at_ || !s.candAllows blocked (.head q) (placedCluster at_) then s
                else match s.makeRoom at_ with
                  | (false, s') => s'
                  | (true, s') => match (if ring then s'.headerWrite x else (true, s')) with
                      | (false, s'') => s''
                      | (true, s'') =>
                          (((s''.takeHead q pid ring).markSpawners t.spawners).putPool pid (t.newPool t.need) at_)
      | _, _ => s

def execTaskDispatch (at_ : Placement) (s : State) : Host.Outcome State Fault Refusal :=
  if s.viral.isSome || s.phase != .running then .next s
  else
    let s1 := s.noteReady
    let f := s1.first
    let s2 := s1.keepDies f
    match f.cand with
    | some (.head q) => .next (s2.dispatch q f.blocked at_)
    | _ => .next s2

/-! ### RESUME (R187, R303) -/

/-- R305. -/
def State.countReplay (s : State) : State := { s with replays := min 0xFFFF (s.replays + 1) }

/-- A pool that is placed again re-enters its instructions; parked commands start from their beginning. -/
def Pool.reenter (p : Pool) : Pool :=
  { p with
    cps := p.cps.map fun e => (e.1, { e.2 with stand := match e.2.stand with
      | .load .. | .sysc .. => e.2.stand
      | _ => .no })
    cmds := p.cmds.map fun k => { k with plan := none, snap := [] }
    undoRegs := []
    undoSpad := []
    undoTiles := []
    undoSince := none }

/-- R299, R303: a DURABLE pool as its image has it. -/
def Pool.fromImage (p : Pool) (i : Image) : Pool :=
  { p with
    cps := i.cps
    regs := i.regs
    spad := i.spad
    tiles := i.tiles
    ops := i.ops
    cmds := i.cmds
    started := i.started
    task := { p.task with signalled := i.signalled } }

/-- R231, R233: a tile whose image has poisoned granules, those of `bad`: sixteen elements stand in each from the
third on, and read 0; of the first two, image bytes 0 to 127, the header fields and the scale codes are kept (log
54). -/
def Tile.spoiled (t : Tile) (bad : List Bool) : Tile :=
  if bad.contains true then
    { t with poison := true, elem := t.elem.filter fun e => !bad.getD (2 + e.1 / 16) false }
  else t

/-- R75: a stored residue triple has its reserved bits zero.  A CD beside CZ is read back as channel c = 0. -/
def residueForm (w : Word) : Bool := decide (w.toNat / 2 ^ 25 = 0)

/-- R233: a tile whose image counts as poisoned for what it holds: a COUNT above 256, a residue word that is none. -/
def Tile.bad (t : Tile) : Bool :=
  decide (256 < t.count) || (t.kind = .residue && !t.elem.all fun e => residueForm e.2)

/-- R231, R233: a tile as its image is read back: every element of one that counts as poisoned reads 0 (log 54). -/
def Tile.reread (t : Tile) (bad : List Bool) : Tile :=
  if t.owner.isNone then t
  else if t.bad then { t with poison := true, elem := [] }
  else t.spoiled bad

/-- R231: an owned tile whose image is read from memory may come back poisoned, where some granule of memory
is (log 11); what it holds may make it so (R233). -/
def State.readTiles (s : State) (l : KMap Tile) : KMap Tile × State :=
  match l with
  | [] => ([], s)
  | (k, t) :: r =>
      let (bad, s) := if s.poison.isEmpty || t.owner.isNone then ([], s) else s.freeBools 66
      let (r', s) := s.readTiles r
      ((k, t.reread bad) :: r', s)

/-- R232: the tiles of a pool in the order in which their images are saved: by the index of the owning CP, the pool
word, the accumulator. -/
def Pool.saveOrder (p : Pool) : List (Nat × Tile) :=
  sortBy (fun (a b : Nat × Tile) =>
    decide (a.2.owner.getD 8 < b.2.owner.getD 8 ∨ (a.2.owner.getD 8 = b.2.owner.getD 8 ∧ a.1 < b.1))) p.tiles

/-- R232: each image goes back to its accumulator of its pool word. -/
def placeTiles (l : List (Nat × Tile)) : KMap Tile := l.foldl (fun m e => KMap.put m e.1 e.2) []

/-- The pool as it is placed again; none where its image reads back poisoned (R303). -/
def State.restore (s : State) (o : OutPool) : Option Pool × State :=
  match o.why, o.pool.image with
  | .preempted, _ =>
      let (ts, s) := s.readTiles o.pool.tiles
      (some { o.pool.reenter with tiles := placeTiles ts }, s)
  | .lost, some i =>
      let (bad, s) := if s.poison.isEmpty then (false, s) else s.freeBool
      if bad then (none, s)
      else
        let (ts, s) := s.readTiles i.tiles
        (some { (o.pool.fromImage i).reenter with tiles := ts }, s)
  | _, _ => (some (o.pool.task.newPool o.pool.need), s)

/-- R185, R187: parked loads are reissued in issue order before any CP issues. -/
def State.reissueAll (s : State) (pid : Nat) : State :=
  match s.pool? pid with
  | none => s
  | some p => (p.ops.filter (·.isParked)).foldl (fun s o => s.reissueOp pid o.id) s

def State.resume (s : State) (o : OutPool) (at_ : Placement) : State :=
  match s.restore o with
  | (none, s') => ({ s' with out := s'.out.filter (·.id != o.id) } : State).taskOver (o.pool.task.fail 0x04) o.id
  | (some p, s') =>
      match s'.makeRoom at_ with
      | (false, s'') => s''
      | (true, s'') =>
          let s3 : State := { s'' with out := s''.out.filter (·.id != o.id) }
          let s4 := if o.why = .preempted then s3 else s3.countReplay
          (s4.putPool o.id p at_).reissueAll o.id

def execResume (pool : Nat) (at_ : Placement) (s : State) : Host.Outcome State Fault Refusal :=
  if s.viral.isSome || s.phase != .running then .next s
  else
    let s1 := s.noteReady
    let f := s1.first
    let s2 := s1.keepDies f
    match f.cand, s2.out.find? (·.id = pool) with
    | some (.resume q), some o =>
        if q = pool && s2.fits o.pool.need at_ && s2.candAllows f.blocked (.resume q) (placedCluster at_) then
          .next (s2.resume o at_)
        else .next s2
    | _, _ => .next s2

/-! ### PREEMPTION (R184 to R186) -/

/-- R186: the live mask of a blocking PC by the liveness table; none where every register is saved, also for a table
with a COUNT above 65,535 (log 53). -/
def State.liveAt (s : State) (asid : Nat) (entry pc : DWord) : Option (BitVec 256) :=
  let e := entry.toNat
  if e < 8 then none
  else match s.outsideRead asid (e - 8) 8 with
    | none => none
    | some d =>
        let dist := (BitVec.ofNat 64 (ofBytes d)).toInt
        let at_ := (e : Int) + dist
        if dist = 0 || at_ < 0 then none
        else match s.outsideRead asid at_.toNat 8 with
          | none => none
          | some h =>
              let count := ofBytes (h.take 4)
              if ofBytes (h.drop 4) ≠ 0 || 65535 < count then none
              else match s.outsideRead asid (at_.toNat + 8) (40 * count) with
                | none => none
                | some bs =>
                    let row (i : Nat) : List Byte := (bs.drop (40 * i)).take 40
                    let wdist (i : Nat) : Nat := ofBytes ((row i).take 4)
                    let ok := (List.range count).all fun i =>
                      ofBytes (((row i).drop 4).take 4) = 0 && (i = 0 || wdist (i - 1) < wdist i)
                    if !ok then none
                    else ((List.range count).find? fun i => entry >>> 2 + BitVec.ofNat 64 (wdist i) = pc).map
                      fun i => BitVec.ofNat 256 (ofBytes ((row i).drop 8))

/-- The PC that is saved for a CP (R183, R185): of a YIELD or a SYSC, which it is past, that of the instruction. -/
def Cp.savedPc (c : Cp) : DWord := match c.stand with | .yielded pc | .sysc _ pc => pc | _ => c.pc

/-- R185: the registers saved: the union over the CPs, all where one of them has no mask; at a SYSC the result pair
too. -/
def State.savedRegs (s : State) (p : Pool) (n : Nat) : Bool :=
  let run := p.cps.filter fun e => e.2.status == .running
  run.any (fun e => match s.liveAt p.task.asid p.task.record.entry e.2.savedPc with
    | some m => m.getLsbD n
    | none => true) ||
  p.ops.any fun o => o.kind == .sysc && (n = o.dest || n = o.dest + 1)

/-- R184: the pool's operations and commands are complete, but for what is parked. -/
def Pool.drained (p : Pool) : Bool :=
  p.ops.all (fun o => o.isParked || o.kind == .sysc) && p.cmds.all (·.park.isSome)

/-- R249 step 3: a pool is pre-empted, and the tests on its clusters for which every CP stands will run. -/
def State.clearTests (s : State) (p : Pool) : State :=
  { s with tests := s.tests.map fun e => (e.1,
      if e.2.due.isSome && e.2.ready && p.parts.any (fun q => clusterOf (coreOf q) = e.1) then { e.2 with cleared := true }
      else e.2) }

/-- R184 to R186, R232: a pool that stands at blocking points commits, and its context is saved. -/
def State.preempt (s : State) (pid : Nat) (p : Pool) : State :=
  match s.commitPool pid none {} fun _ s => s with
  | none => s
  | some s1 =>
      match s1.pool? pid with
      | none => s
      | some q =>
          let live := (List.range q.allot).filter (s.savedRegs p)
          let saved : Pool := { q with
            task := { q.task with clock := max q.task.clock (s.clockOf q.cores) }
            regs := q.regs.filter fun e => live.contains (e.1 % 256)
            ops := q.ops.map Op.saved
            tiles := q.saveOrder
            parts := [], spadUnits := [], contexts := [] }
          { s1.clearTests q with
            pools := KMap.del s1.pools pid
            out := s1.out ++ [⟨pid, saved, .preempted, none⟩] }

/-- R314: the class of a pool: the base class of the queue its task is credited to. -/
def State.poolClass (s : State) (p : Pool) : Nat := ((p.task.queue.bind (KMap.find? s.queues)).map (·.base)).getD 3

def Pool.onDie (p : Pool) (d : Nat) : Bool := p.parts.any fun q => q / 192 = d

/-- R314: the pool to be pre-empted on a die: of the highest E, and among those blocked longest. -/
def State.firstVictim (s : State) (pid : Nat) (p : Pool) (d : Nat) : Bool :=
  let key (q : Pool) : Nat × Nat := (s.poolClass q, q.blockedSince.getD s.time)
  p.onDie d && s.evictable.contains pid &&
  !s.pools.any fun e => e.2.onDie d && s.evictable.contains e.1 &&
    decide ((key p).1 < (key e.2).1 ∨ ((key p).1 = (key e.2).1 ∧ (key e.2).2 < (key p).2))

/-- R314: a pre-emption for a head that does not fit, on its die. -/
def State.evictForHead (s : State) (pid : Nat) (p : Pool) : Bool := s.first.chosen.any fun c => s.firstVictim pid p c.2

/-- The recipes of the regeneration pools that wait and do not fit. -/
def State.stuckRegens (s : State) : List Recipe :=
  (s.waitingRegens.filter fun c => (s.candPlace [] c).isNone).filterMap fun c => match c with
    | .regen r => KMap.find? s.recipes r
    | .resume p => (s.out.find? (·.id = p)).bind s.sliceOf
    | .head _ => none

/-- R314: a pre-emption for a regeneration pool that does not fit, on its die; no regeneration pool is taken. -/
def State.evictForRegen (s : State) (p : Pool) : Bool :=
  !p.rslice && s.stuckRegens.any fun r => match s.regenDie r with | some d => p.onDie d | none => true

/-- R184, R314, R249: a pool is pre-empted for a head, for a regeneration pool, or for the in-field test of a
cluster of whose CPs every one stands. -/
def State.mayPreempt (s : State) (pid : Nat) (p : Pool) : Bool :=
  p.preemptable && p.drained &&
  (s.testHolds pid || s.evictForHead pid p || s.evictForRegen p)

def execPreemption (pool : Nat) (s : State) : Host.Outcome State Fault Refusal :=
  if s.viral.isSome || s.phase != .running then .next s
  else
    let s1 := s.noteReady
    let s2 := s1.keepDies s1.first
    match s2.pool? pool with
    | some p => .next (if s2.mayPreempt pool p then s2.preempt pool p else s2)
    | none => .next s2

/-! ### Toll intervals and quanta (R310, R311, R313) -/

/-- R311: a slot at a toll boundary: it ages; none where its queue was empty for the whole interval. -/
def Slot.toll (x : Slot) (full : Bool) : Option Slot :=
  if x.empty && !full then none
  else
    let eff := if (x.eff = 2 || x.eff = 3) && x.nonEmpty && full && !x.tollDispatched then x.eff - 1 else x.eff
    some { x with eff := eff, tollDispatched := false, nonEmpty := full, empty := !full }

def execTollIntervalBoundary (s : State) : Host.Outcome State Fault Refusal :=
  if s.viral.isSome || s.phase != .running || s.time < s.tollAt + micros s.toll then .next s
  else
    let s1 : State := { s with
      tollAt := s.time
      queues := s.queues.map fun e => (e.1, { e.2 with slot := e.2.slot.bind fun x => x.toll (s.queueFull e.2) }) }
    .next (s1.mapWaiting s1.waiting)

/-- R313: the eligible slots, those held longest first. -/
def State.unmappable (s : State) : List Nat :=
  (sortBy (fun (a b : Nat × Nat) => decide (a.2 < b.2)) (s.queues.filterMap fun e => match e.2.slot with
    | some x => if e.2.base ≠ 0 && (x.quantumDispatched || decide (x.held ≤ s.quantumAt)) then some (e.1, x.held)
        else none
    | none => none)).map (·.1)

def execQuantumBoundary (s : State) : Host.Outcome State Fault Refusal :=
  if s.viral.isSome || s.phase != .running || s.time < s.quantumAt + micros (s.toll * s.quantum) then .next s
  else
    let off := if s.slotsUsed < 512 then [] else s.unmappable.take (min 64 s.waiting.length)
    let s1 : State := { s with
      quantumAt := s.time
      queues := s.queues.map fun e =>
        let slot := if off.contains e.1 then none else e.2.slot.map fun x => { x with quantumDispatched := false }
        (e.1, { e.2 with slot := slot })
      waiting := s.waiting ++ off.filter fun q => (KMap.find? s.queues q).any s.queueFull }
    .next (s1.mapWaiting s1.waiting)

/-! ### Packed pools (R52, R324) -/

/-- R324: an entry of an ASID's entry table: the entry address and the shape word. -/
def State.tableEntry (s : State) (asid i : Nat) : Option (DWord × DWord) :=
  match KMap.find? s.asids asid with
  | none => none
  | some b =>
      (s.outsideRead asid (b.table + 16 * i) 16).map fun bs =>
        (BitVec.ofNat 64 (ofBytes (bs.take 8)), BitVec.ofNat 64 (ofBytes (bs.drop 8)))

/-- R52: a pending pool becomes a head of its spawner's queue.  An entry of the table that cannot be read counts as
address 0 and shape 0, which breaks R316 (log 21). -/
def State.launchPending (s : State) (p : Pending) : State :=
  let e := (s.tableEntry p.asid p.entry).getD (0, 0)
  let r : TaskRec := ⟨e.1, 0, 0, 0, e.2, 0, 0⟩
  s.addHead { Task.ofRecord r p.asid p.queue none with
    items := p.items, packed := true, spawners := p.spawners, clock := s.clockOf [p.core] }

/-- The pending pools of a core whose first item came 2 µs ago. -/
def execPackingTimeout (core entry : Nat) (s : State) : Host.Outcome State Fault Refusal :=
  match s.packing.find? fun p => p.core = core && p.entry = entry && decide (p.since + micros 2 ≤ s.time) with
  | none => .next s
  | some p => .next (if s.viral.isSome then s else
      ({ s with packing := s.packing.erase p } : State).launchPending p)

end Sys2Proof.Machine
end

