-- ==== Sys2Proof/Machine/Fences.lean ====
section
/-! DEFINITION. Failures: rollback and fences (08 R188, R189; 11 R238, R245, R248; 16 R295, R302 to R304), the
viral state (R306), reset and boot (R307, R353, R354), power (R357) and PKGSTAT.REPLAYS (R305). -/

namespace Sys2Proof.Machine

/-! ### Lost pools (R303, R189) -/

/-- The records that are discarded with these pools, and the pools lost with them: a record that is not accepted
is discarded whole (R297), and so are those its cores formed after it. -/
def State.lostWith (s : State) (cores l : List Nat) : List Nat × List Nat :=
  let open_ := s.records.filter fun r => !r.accepted && r.cluster.isSome
  let first := (open_.filter fun r => r.cores.any cores.contains).map (·.id)
  let rec go (fuel : Nat) (pools recs : List Nat) : List Nat × List Nat :=
    match fuel with
    | 0 => (pools, recs)
    | f + 1 =>
        let gone := open_.filter fun r => recs.contains r.id || r.pools.any pools.contains ||
          open_.any fun q => recs.contains q.id && q.id < r.id && q.cores.any r.cores.contains
        go f (pools ++ gone.flatMap (·.pools)).dedup (gone.map (·.id))
  go (s.records.length + 1) l first

/-- R147: every CP has ended, or will with a record that is not among those discarded. -/
def Pool.willEnd (p : Pool) (gone : List Nat) : Bool :=
  p.cps.all fun e => e.2.status == .ended || e.2.status == .idle ||
    (match e.2.wait with
    | some (r, .endCp) => !gone.contains r
    | _ => false)

/-- The pool as it is when it is placed again from a checkpoint (R303): the last image of a record that stands. -/
def State.lastImage (s : State) (pid : Nat) (p : Pool) : Option Image :=
  match (s.records.filterMap fun r => (r.images.find? (·.1 = pid)).map (·.2)).getLast? with
  | some i => some i
  | none => p.image

/-- R303: what becomes of one lost pool, whose place is given up already and whose discarded records are gone. -/
def State.losePool (s : State) (pid : Nat) (p : Pool) (unsent : Bool) : State :=
  let task : Task := { p.task with
    signalled := p.task.signalled && !unsent, clock := max p.task.clock (s.clockOf p.cores) }
  let p : Pool := { p with task := task, parts := [], spadUnits := [], contexts := [], deps := [] }
  let wait (q : Pool) (why : WhyOut) : State := { s with out := s.out ++ [⟨pid, q, why, none⟩] }
  match p.task.recipe with
  | some r => { s with recipes := KMap.modify s.recipes r fun q => { q with slice := none, staging := [], lost := true } }
  | none =>
      if p.durable then
        match s.lastImage pid p with
        | some i => wait (p.fromImage i) .lost
        | none => wait p .restarted
      else if p.task.nonReplay || s.records.any (fun r => r.marks && r.pools.contains pid) then s.taskOver (p.task.fail 0x03) pid
      else wait p .restarted

/-- Pools that lose their place: dependent pools that stay go back (R181); the journal entries and, where a core
goes, the records that were not accepted are discarded.  A record that a live core has sent is accepted in any case
(R238). -/
def State.losePools (s : State) (cores l : List Nat) : State :=
  let x := if cores.isEmpty then (l, []) else s.lostWith cores l
  let find (pid : Nat) : Option Pool := match s.pool? pid with
    | some p => some p
    | none => (s.out.find? (·.id = pid)).map (·.pool)
  let lost := x.1.filterMap fun pid => (find pid).bind fun p => if p.willEnd x.2 then none else some (pid, p)
  let ids := lost.map (·.1)
  let unsent (pid : Nat) : Bool := s.records.any fun r => x.2.contains r.id && r.signals.any (·.1 = pid)
  let s1 := s.rollBackAll ((s.dependents ids).filter fun q => !ids.contains q)
  let s2 : State := { s1 with
    pools := (s1.pools.filter fun e => !ids.contains e.1).map fun e =>
      (e.1, { e.2 with deps := e.2.deps.filter fun d => !ids.contains d })
    out := s1.out.filter fun o => !ids.contains o.id
    held := s1.held.filter fun h => !ids.contains h.pool
    journal := s1.journal.filter fun e =>
      !(ids.contains e.pool && e.record.isNone) && !(e.record.any x.2.contains)
    records := s1.records.filter fun r => !x.2.contains r.id }
  lost.foldl (fun s e => s.losePool e.1 e.2 (unsent e.1)) s2

/-- The pools with a part on one of some cores. -/
def State.poolsAt (s : State) (cores : List Nat) : List Nat :=
  (s.pools.filter fun e => e.2.cores.any cores.contains).map (·.1)

/-- R189: a pool that has been rolled back three times since its last commit point. -/
def State.isWorn (s : State) (q : Nat) : Bool := (s.pool? q).any fun p => decide (3 ≤ p.rollbacks)

/-- The home cores of such pools. -/
def State.worn (s : State) (pools : List Nat) : List Nat :=
  ((pools.filter s.isWorn).filterMap fun q => (s.pool? q).map (·.homeCore)).dedup

/-- The pools that go back with others, apart from these. -/
def State.othersBack (s : State) (pools : List Nat) : List Nat := (s.dependents pools).filter fun q => !pools.contains q

/-- R189: cores that stop, with those that are fenced because a pool of theirs would go back once too often with the
pools lost. -/
def State.withWorn (s : State) (cores : List Nat) : List Nat :=
  let rec go (fuel : Nat) (l : List Nat) : List Nat :=
    match fuel with
    | 0 => l
    | f + 1 => go f (l ++ s.worn (s.othersBack (s.lostWith l (s.poolsAt l)).1)).dedup
  go s.pools.length cores

/-- R189, R302: cores that stop: their caches, watch entries and packing items go with them. -/
def State.stopCores (s : State) (cores : List Nat) : State :=
  let all := s.withWorn cores
  let more := all.filter fun c => !cores.contains c
  let s0 : State := { s with fencedCores := s.fencedCores ++ more, log := s.log ++ more.map .coreFenced }
  let s1 := s0.losePools all (s0.poolsAt all)
  { s1 with
    l1 := s1.l1.filter fun e => !all.contains (e.1 / 2 ^ 46)
    watch := (s1.watch.map fun e => (e.1, e.2.filter fun c => !all.contains c)).filter fun e => e.2 != []
    packing := s1.packing.filter fun p => !all.contains p.core }

/-- R302 step 2: clusters that leave the directory. -/
def State.dropClusters (s : State) (l : List Nat) : State :=
  let off : BitVec 64 := ~~~(BitVec.ofNat 64 (l.foldl (fun n k => n ||| 2 ^ k) 0))
  { s with
    cc := s.cc.filter fun e => !l.contains (e.1 / 2 ^ 46)
    tlb := s.tlb.filter fun e => !l.contains e.cluster
    dir := (s.dir.map fun e => (e.1, (⟨e.2.holders &&& off, e.2.written &&& off⟩ : Region))).filter
      fun e => e.2 != ⟨0, 0⟩
    dropAll := s.dropAll &&& off }

/-! ### Fences -/

def State.fenceCore (s : State) (c : Nat) : State :=
  if decide (Config.cores ≤ c) || !s.coreLive c then s
  else (({ s with fencedCores := s.fencedCores ++ [c] } : State).stopCores [c]).logEvent (.coreFenced c)

/-- R189: several cores at once. -/
def State.fenceCores (s : State) (l : List Nat) : State :=
  let l := l.filter fun c => decide (c < Config.cores) && s.coreLive c
  if l.isEmpty then s
  else l.foldl (fun t c => t.logEvent (.coreFenced c)) (({ s with fencedCores := s.fencedCores ++ l } : State).stopCores l)

/-- R302 to R304. -/
def State.fenceDie (s : State) (d : Nat) : State :=
  if decide (Config.dies ≤ d) || s.fencedDies.contains d then s
  else
    let s1 : State := { s with fencedDies := s.fencedDies ++ [d], replReq := true }
    (s1.stopCores ((List.range 32).map (32 * d + ·))).dropClusters ((List.range 8).map (8 * d + ·))

/-- R248; a die whose eight clusters are lost is fenced too (R302). -/
def State.fenceCluster (s : State) (k : Nat) : State :=
  if decide (Config.clusters ≤ k) || !s.clusterLive k then s
  else
    let cores := [4 * k, 4 * k + 1, 4 * k + 2, 4 * k + 3]
    let live := cores.filter s.coreLive
    let s1 : State := { s with
      fencedCores := s.fencedCores ++ live
      fencedClusters := s.fencedClusters ++ [k]
      log := s.log ++ live.map .coreFenced }
    let s2 := (s1.stopCores cores).dropClusters [k]
    if (List.range 8).all fun i => s2.fencedClusters.contains (k / 8 * 8 + i) then s2.fenceDie (k / 8) else s2

/-- R306: one step into the viral state: peers see fenced links (R352), what is accepted is kept, and the
application die takes its interrupt. -/
def State.enterViral (s : State) (cause : Byte) : State :=
  if s.viral.isSome || cause = 0 || decide (7 < cause.toNat) then s
  else
    let t := (List.range 8).foldl State.closeLink s
    { t with viral := some cause, replies := t.replies ++ [.machineCheck cause] }

/-- R188, R189: a rollback; where an interval among those that go back has been rolled back three times already, its
core is fenced first. -/
def State.rollBackOrFence (s : State) (pid : Nat) : State :=
  let t := s.fenceCores (s.worn (s.rollVictims pid))
  if (t.pool? pid).map (·.rollbacks) = (s.pool? pid).map (·.rollbacks) then t.rollBack pid else t

/-- R181, R189: pools are about to be lost; a core is fenced first where a pool of it would go back once too often
with them. -/
def State.fenceBehind (s : State) (pools : List Nat) : State := s.fenceCores (s.worn (s.othersBack pools))

/-- An event of a package that is not viral. -/
def unlessViral (s : State) (f : State → State) : Host.Outcome State Fault Refusal :=
  .next (if s.viral.isSome then s else f s)

def execRollback (pool : Nat) (s : State) : Host.Outcome State Fault Refusal :=
  unlessViral s fun s => s.rollBackOrFence pool

def execCoreFence (core : Nat) (s : State) : Host.Outcome State Fault Refusal :=
  unlessViral s fun s => s.fenceCore core

def execClusterFence (cluster : Nat) (s : State) : Host.Outcome State Fault Refusal :=
  unlessViral s fun s => s.fenceCluster cluster

def execDieFence (die : Nat) (s : State) : Host.Outcome State Fault Refusal :=
  unlessViral s fun s => s.fenceDie die

/-- R238: the cluster pools of the cluster are lost and the sequencer is reset; the third reset within 24 hours
fences the cluster. -/
def State.resetSequencer (s : State) (k : Nat) : State :=
  if decide (Config.clusters ≤ k) || !s.clusterLive k then s
  else
    let pools := (s.pools.filter fun e => decide (6 < e.2.parts.length) && e.2.cluster = k).map (·.1)
    let t := s.fenceBehind pools
    let s1 := (t.losePools [] (pools.filter fun q => (t.pool? q).isSome)).logEvent (.sequencerReset k)
    let recent := (s1.seqResets ++ [(k, s1.time)]).filter fun x =>
      decide (s1.time - x.2 < micros (24 * 3600 * 1000000))
    let s2 : State := { s1 with seqResets := recent }
    if 3 ≤ (recent.filter (·.1 = k)).length then s2.fenceCluster k else s2

def execSequencerError (cluster : Nat) (s : State) : Host.Outcome State Fault Refusal :=
  unlessViral s fun s => s.resetSequencer cluster

/-- R245: the line, or every line, of the cluster cache goes. -/
def execClusterCacheError (cluster : Nat) (line : Option Nat) (s : State) : Host.Outcome State Fault Refusal :=
  unlessViral s fun s =>
    ({ s with cc := s.cc.filter fun e =>
        !(e.1 / 2 ^ 46 = cluster && (match line with | some l => e.1 % 2 ^ 46 = l | none => true)) } : State).logEvent
      (.cacheError cluster)

/-! ### LLC errors (R295, R334) -/

def State.poisonLine (s : State) (line : Nat) : State :=
  ({ s with poison := KMap.put s.poison line () } : State).logEvent (.poisoned line)

/-- R294: the state of a line that is neither Recipe nor Poisoned. -/
def State.lineState (s : State) (line : Nat) : Option LineState :=
  if (s.residentTile line).isSome || s.poisonedLine line then none else (KMap.find? s.llc line).map (·.state)

/-- R295: an error in a line that is in the state named; a Clean line is fetched again.  A base die reports one on a
read of HBM. -/
def State.llcError (s : State) (line : Nat) (kind : LlcFault) : State :=
  match kind with
  | .cleanLine => if s.lineState line = some .clean then s.logEvent (.corrected line) else s
  | .tagState => s.enterViral 0x03
  | .baseDieRead => if 64 * line < Config.hbmEnd then (s.touchLlc none line false).poisonLine line else s
  | .dirtyLine => if s.lineState line = some .dirty then s.poisonLine line else s
  | .recipeLine => match s.residentTile line with
      | some r => (s.dropTile r).logEvent (.recipeError r.id)
      | none => s

def execLlcError (line : Nat) (kind : LlcFault) (s : State) : Host.Outcome State Fault Refusal :=
  unlessViral s fun s => s.llcError line kind

/-! ### Viral state, reset and boot -/

def execViralEntry (cause : Byte) (s : State) : Host.Outcome State Fault Refusal := .next (s.enterViral cause)

/-- R307: what HBM holds after a reset is undefined; CXL memory keeps what it holds. -/
def State.scramble (s : State) (old : List Host.Cell) : State :=
  { s with
    mem := (Config.hbmAfterReset s.fresh).foldl (fun m c => if c.1 < Config.hbmEnd then Memory.write m c.1 c.2 else m)
      (old.filter fun c => decide (Config.cxlStart ≤ c.1))
    fresh := s.fresh + 1 }

/-- R307: the package after a reset; a warm one keeps the error logs and REPLREQ (R304).  Under which keys lines of
CXL memory were written is forgotten: what they keep reads so under any key (log 27). -/
def execPackageReset (cold : Bool) (s : State) : Host.Outcome State Fault Refusal :=
  let s0 : State := { State.reset with
    log := if cold then [] else s.log
    replReq := if cold then false else s.replReq
    keyGen := s.keyGen
    agenda := s.agenda
    fresh := s.fresh
    nextId := s.nextId }
  .next (s0.scramble s.mem)

/-- R353, R354: the images in their order; each is measured before it runs. -/
def State.bootStages (s : State) (n i : Nat) (l : List BootImage) : State :=
  match n, l with
  | 0, _ => { s with phase := .running }
  | _ + 1, [] => { s with phase := .recovery }
  | m + 1, x :: r =>
      if x.ed25519Ok && x.mldsaOk && decide (Config.fusedVersion.toNat ≤ x.version.toNat) then
        ({ s with measured := KMap.set s.measured 0 i (Config.extend (KMap.get s.measured 0 i) x.hash) } :
          State).bootStages m (i + 1) r
      else { s with phase := .recovery }

def execBoot (stages : List BootImage) (s : State) : Host.Outcome State Fault Refusal :=
  .next (if s.viral.isSome || s.phase != .off then s else s.bootStages 4 0 stages)

/-! ### Power (R357) -/

/-- R357: the power is measured every 100 µs; one step of 25 MHz. -/
def execPowerSample (watts : Nat) (s : State) : Host.Outcome State Fault Refusal :=
  unlessViral s fun s =>
    if s.time < s.sampleAt + micros 100 then s else
    { s with
      sampleAt := s.time
      clockMHz := if s.powerLimit < watts then max 600 (s.clockMHz - 25) else min 1500 (s.clockMHz + 25) }

def execThermalTrip (die : Option Nat) (s : State) : Host.Outcome State Fault Refusal :=
  unlessViral s fun s => match die with
    | some d => s.fenceDie d
    | none => s.enterViral 0x06

def execReplaysClear (s : State) : Host.Outcome State Fault Refusal :=
  unlessViral s fun s => { s with replays := 0 }

end Sys2Proof.Machine
end

