-- ==== Sys2Proof/Machine/Matrix.lean ====
section
/-! DEFINITION. The matrix unit (10: R215 to R233): MMA, MMAQ, MMAS, MDRN and MZERO, their execution with its
checksums, and the drain (03: R75 to R81). -/

namespace Sys2Proof.Machine

/-! ### Shapes (R218) -/

def MatrixCmd.aCode (m : MatrixCmd) : Nat := bits 3 0 m.fmt
def MatrixCmd.bCode (m : MatrixCmd) : Nat := bits 7 4 m.fmt
def MatrixCmd.scale (m : MatrixCmd) : Nat := bits 9 8 m.fmt
def MatrixCmd.sparse (m : MatrixCmd) : Bool := bits 11 10 m.fmt = 1
def MatrixCmd.aTy (m : MatrixCmd) : Ty := Ty.ofCode m.aCode
def MatrixCmd.bTy (m : MatrixCmd) : Ty := Ty.ofCode m.bCode

/-- Q8 or Q4. -/
def isQ (code : Nat) : Bool := code = 1 || code = 15

/-- The residue path. -/
def MatrixCmd.residue (m : MatrixCmd) : Bool := isQ m.aCode && isQ m.bCode

def MatrixCmd.path (m : MatrixCmd) : TileKind := if m.residue then .residue else .fp

/-- K: the k-positions a command covers. -/
def MatrixCmd.k (m : MatrixCmd) : Nat :=
  let dense := if m.residue then (if m.aCode = 15 && m.bCode = 15 then 128 else 64) else 256 / m.aTy.width
  (if m.sparse then 2 * dense else dense) / (if bits 14 12 m.fmt = 1 then 2 else 1)

/-- The elements of A that a row holds. -/
def MatrixCmd.slots (m : MatrixCmd) : Nat := if m.sparse then m.k / 2 else m.k

def MatrixCmd.ra (m : MatrixCmd) : Nat := m.slots * m.aTy.width / 32
def MatrixCmd.rb (m : MatrixCmd) : Nat := m.k * m.bTy.width / 32

/-- The registers of the A and B runs with their scale registers (R219). -/
def MatrixCmd.runs (m : MatrixCmd) : List Run :=
  let x := if m.scale = 0 then 0 else 1
  match m.op with
  | .mdrn => [⟨m.d, 32, false⟩]
  | .mzero => []
  | _ => [⟨m.a, m.ra + x, false⟩, ⟨m.b, m.rb + x, false⟩]

/-! ### What a command captured -/

def MatrixCmd.reg (m : MatrixCmd) (t n : Nat) : Word := KMap.get m.regs 0 (256 * t + n)

/-- R219, R59: element k of a run from register r of thread t. -/
def MatrixCmd.elem (m : MatrixCmd) (t r width k : Nat) : Nat :=
  let l := 32 / width
  (m.reg t (r + k / l)).toNat / 2 ^ (width * (k % l)) % 2 ^ width

/-- R227: where the metadata of row i of pool word w begins. -/
def MatrixCmd.metaAt (m : MatrixCmd) (w i : Nat) : Nat := m.x0.toNat + w * m.x2.toNat + i * bits 15 0 m.x1

def MatrixCmd.nibble (m : MatrixCmd) (w i g : Nat) : Nat :=
  (KMap.get m.spad 0 (m.metaAt w i + g / 2)).toNat / 16 ^ (g % 2) % 16

/-- R227: the position in B of each slot of row i of A. -/
def MatrixCmd.positions (m : MatrixCmd) (w i : Nat) : List Nat :=
  if m.sparse then (List.range m.slots).map fun s =>
    let n := m.nibble w i (s / 2)
    4 * (s / 2) + (if s % 2 = 0 then n % 4 else n / 4)
  else List.range m.k

/-- R219: a scale code of lane i: in a register, in the scratchpad, or 0x7F. -/
def MatrixCmd.scaleCode (m : MatrixCmd) (w i r : Nat) : Byte :=
  match m.scale with
  | 0 => 0x7F
  | 1 => (m.reg (32 * w + i) r).extractLsb' 0 8
  | _ => KMap.get m.spad 0 (m.reg (32 * w + i) r).toNat

def MatrixCmd.rowScales (m : MatrixCmd) (w : Nat) : KMap Byte :=
  KMap.setAll [] 0 ((List.range 32).map fun i => (i, m.scaleCode w i (m.a + m.ra)))

def MatrixCmd.colScales (m : MatrixCmd) (w : Nat) : KMap Byte :=
  KMap.setAll [] 0 ((List.range 32).map fun i => (i, m.scaleCode w i (m.b + m.rb)))

/-! ### Residue triples (R75 to R77) -/

/-- The word of a triple, channel c in diminished-one form. -/
def tripleWord (x : Nat × Nat × Nat) : Word :=
  BitVec.ofNat 32 ((if x.2.2 = 0 then 2 ^ 24 else 2 ^ 16 * (x.2.2 - 1)) + 2 ^ 8 * x.2.1 + x.1)

def wordTriple (w : Word) : Nat × Nat × Nat :=
  (bits 7 0 w, bits 15 8 w, if w.getLsbD 24 then 0 else bits 23 16 w + 1)

/-- R76: the triple of an integer. -/
def tripleOf (i : Int) : Nat × Nat × Nat := ((i % 255).toNat, (i % 256).toNat, (i % 257).toNat)

/-- R76: the sum, channel by channel. -/
def tripleAdd (x y : Nat × Nat × Nat) : Nat × Nat × Nat :=
  let a := x.1 + y.1
  let c :=
    if x.2.2 = 0 then y.2.2
    else if y.2.2 = 0 then x.2.2
    else
      let s := (x.2.2 - 1) + (y.2.2 - 1)
      let d := s % 256 + (1 - s / 256)
      if d = 256 then 0 else d + 1
  (if 256 ≤ a then a - 256 + 1 else a, (x.2.1 + y.2.1) % 256, c)

/-- R77: the signed integer of a triple. -/
def tripleInt (x : Nat × Nat × Nat) : Int :=
  let v := (x.1 * 8421376 + x.2.1 * 16711425 + x.2.2 * 8421120) % 16776960
  if 8388480 ≤ v then (v : Int) - 16776960 else v

/-! ### One step (R226, R229, R230) -/

/-- R80, R81: the exact sum of the accumulator and the products, rounded once; a NaN among them gives the
canonical NaN with IV. -/
def sumAcc (l : List FVal) : Nat × Flags :=
  if l.any FVal.isNan then (Fmt.fp32.nanCode, Flags.IV)
  else
    let s := FVal.sum .rne l
    let r := roundAcc s.1
    (r.1, s.2 ||| r.2)

/-- R229: the exponent of the image of an operand. -/
def imageExp (code : Nat) : Nat :=
  match Ty.ofCode code with
  | .flt .bf16 => 133
  | .flt .fp16 => 24
  | .flt .e5m2 => 16
  | .flt .e4m3 => 9
  | .flt .e2m1 => 1
  | _ => 0

/-- What product faults add to the image of the products of an element. -/
def faultAt (fs : List ProductFault) (i j : Nat) : Int :=
  ((fs.filter fun f => f.row = i && f.col = j).map (·.delta)).foldl (· + ·) 0

/-- R230: a checksum disagrees. -/
def disagrees (i : Int) : Bool := i % 255 ≠ 0 || i % 256 ≠ 0 || i % 257 ≠ 0

/-- R230: the step stands (none), one element is located, or the error is uncorrectable. -/
inductive Located where
  | stands
  | at_ (row col : Nat)
  | lost
  deriving DecidableEq, Repr

def locate (fs : List ProductFault) : Located :=
  let sum (l : List ProductFault) : Int := (l.map (·.delta)).foldl (· + ·) 0
  let rows := (List.range 32).filter fun i => disagrees (sum (fs.filter (·.row = i)))
  let cols := (List.range 32).filter fun j => disagrees (sum (fs.filter (·.col = j)))
  match rows, cols with
  | [], [] => .stands
  | [i], [j] => .at_ i j
  | _, _ => .lost

/-- The operands of a step: a row of A and the columns of B, as values. -/
def MatrixCmd.aRow (m : MatrixCmd) (w i : Nat) : List FVal :=
  (List.range m.slots).map fun s => m.aTy.value (m.elem (32 * w + i) m.a m.aTy.width s)

def MatrixCmd.bCol (m : MatrixCmd) (w j : Nat) : List FVal :=
  (List.range m.k).map fun k => m.bTy.value (m.elem (32 * w + j) m.b m.bTy.width k)

/-- The products of an element, the operands of B picked by position. -/
def products (a b : List FVal) (pos : List Nat) : List FVal :=
  (a.zip pos).map fun x => (FVal.mul x.1 (b.getD x.2 (.fin false 0 0))).1

/-- An integer product as an integer. -/
def FVal.int : FVal → Int
  | .fin n m _ => signedMan n m
  | _ => 0

/-- The new value of an element and the flags. -/
def MatrixCmd.element (m : MatrixCmd) (old : Word) (ps : List FVal) (fault : Int) : Word × Flags :=
  if m.residue then
    let x := ps.foldl (fun acc p => tripleAdd acc (tripleOf p.int)) (wordTriple old)
    (tripleWord (if fault = 0 then x else tripleAdd x (tripleOf fault)), 0)
  else
    let wrong : List FVal :=
      if fault = 0 then []
      else [.fin (decide (fault < 0)) fault.natAbs (-((imageExp m.aCode + imageExp m.bCode : Nat) : Int))]
    let r := sumAcc (Fmt.decode .fp32 old.toNat :: ps ++ wrong)
    (BitVec.ofNat 32 r.1, r.2)

/-- R225: the zero of a path. -/
def MatrixCmd.zero (m : MatrixCmd) : Word := if m.residue then 0x01000000 else 0

/-- R226: one command on one word; none where the error is uncorrectable. -/
def MatrixCmd.step (m : MatrixCmd) (w : Nat) (t : Tile) (faults : List ProductFault) : Option (Tile × Flags) :=
  let fs := faults.filter fun f => f.word = w && f.row < 32 && f.col < 32
  match locate fs with
  | .lost => none
  | at_ =>
      let bs := (List.range 32).map (m.bCol w)
      let els := (List.range 32).flatMap fun i =>
        let a := m.aRow w i
        let pos := m.positions w i
        bs.zipIdx.map fun b =>
          let j := b.2
          let fault := if at_ = .at_ i j then 0 else faultAt fs i j
          let old := if t.kind = .empty then m.zero else KMap.get t.elem 0 (32 * i + j)
          (32 * i + j, m.element old (products a b.1 pos) fault)
      some ({ t with
          kind := m.path
          count := t.count + (if m.residue then m.k else 0)
          elem := els.filterMap fun e => if e.2.1 = 0 then none else some (e.1, e.2.1)
          rsc := if t.capt then t.rsc else m.rowScales w
          csc := if t.capt then t.csc else m.colScales w
          capt := true
          corrp := t.corrp + (match at_ with | .at_ _ _ => 1 | _ => 0) },
        els.foldl (fun f e => f ||| e.2.2) 0)

/-- R227: some nibble is out of order. -/
def MatrixCmd.metaFlag (m : MatrixCmd) : Bool :=
  m.op == .mmas && m.words.any fun w => (List.range 32).any fun i => (List.range (m.k / 4)).any fun g =>
    decide (m.nibble w i g / 4 ≤ m.nibble w i g % 4)

/-! ### Tiles as commands leave them -/

/-- A command's effect on what issue checks of a tile. -/
def MatrixCmd.project (m : MatrixCmd) (cp w : Nat) (t : Tile) : Tile :=
  match m.op with
  | .mzero => { Tile.empty with owner := some cp }
  | .mdrn => Tile.empty
  | _ => { t with
      kind := m.path
      count := t.count + (if m.residue then m.k else 0)
      rsc := if t.capt then t.rsc else m.rowScales w
      csc := if t.capt then t.csc else m.colScales w
      capt := true }

def MatrixCmd.hits (m : MatrixCmd) (k : Nat) : Bool := m.acc = k % 2 && m.words.contains (k / 2)

/-- The tile as the outstanding commands of the pool will leave it. -/
def Pool.tileAhead (p : Pool) (k : Nat) : Tile :=
  p.cmds.foldl (fun t c => match c.kind with
    | .matrix m => if m.hits k then m.project c.cp (k / 2) t else t
    | _ => t) (p.tile k)

/-! ### Issue (R216, R217, R222 to R224) -/

/-- R216: the pool words that are whole in the set. -/
def Ctx.wholeWords (c : Ctx) : List Nat :=
  (List.range (c.pool.threads / 32)).filter fun w => bits 31 0 (c.set.extractLsb' (32 * w) 32) = 0xFFFFFFFF

def wordTids (l : List Nat) : List Nat := l.flatMap fun w => (List.range 32).map (32 * w + ·)

/-- R224 step 2: the words that fail a check of the tile state, the first such check deciding. -/
def Ctx.tileFault (c : Ctx) (m : MatrixCmd) : Option (Word × List Nat) :=
  let tile (w : Nat) : Tile := c.pool.tileAhead (2 * w + m.acc)
  let multiply := m.op == .mma || m.op == .mmaq || m.op == .mmas
  let f8 := (match m.op with
    | .mma => isQ m.aCode || isQ m.bCode || m.sparse
    | .mmaq => !isQ m.aCode || !isQ m.bCode || m.sparse
    | .mmas => !m.sparse
    | _ => false)
  let f7 := m.words.filter fun w => (tile w).owner.any (· != c.cid)
  let f6 := if m.op == .mzero then [] else m.words.filter fun w => (tile w).owner.isNone
  let f5 := if multiply then m.words.filter fun w => (tile w).kind != .empty && (tile w).kind != m.path else []
  if f8 && m.words != [] then some (8, m.words)
  else if f7 ≠ [] then some (7, f7)
  else if f6 ≠ [] then some (6, f6)
  else if f5 ≠ [] then some (5, f5)
  else none

/-- R224 step 3: the scale offsets of the lanes, as (tid, offset). -/
def Ctx.scaleOffsets (c : Ctx) (m : MatrixCmd) : List (Nat × Nat) :=
  if m.scale = 2 then (wordTids m.words).flatMap fun t =>
    [(t, (c.pool.reg t (m.a + m.ra)).toNat), (t, (c.pool.reg t (m.b + m.rb)).toNat)]
  else []

/-- The metadata ranges, as offset and count. -/
def MatrixCmd.metaRanges (m : MatrixCmd) : List (Nat × Nat) :=
  if m.op == .mmas then m.words.flatMap fun w => (List.range 32).map fun i => (m.metaAt w i, m.k / 8) else []

/-- The registers and scratchpad bytes of a multiply, read at issue. -/
def Ctx.capture (c : Ctx) (s : State) (m : MatrixCmd) : MatrixCmd :=
  let p := (s.pool? c.pid).getD c.pool
  let ns := (List.range 256).filter fun n => m.runs.any (·.has n)
  { m with
    regs := (wordTids m.words).flatMap fun t => ns.filterMap fun n =>
      if p.reg t n = 0 then none else some (256 * t + n, p.reg t n)
    spad := ((c.scaleOffsets m).map (fun (e : Nat × Nat) => (e.2, 1)) ++ m.metaRanges).foldl
      (fun (acc : KMap Byte) (r : Nat × Nat) =>
        (List.range r.2).foldl (fun acc i => KMap.set acc 0 (r.1 + i) (p.spadByte (r.1 + i))) acc) [] }

/-- R224 steps 4 and 5.  Step 4 states no TMASK where several words differ; it names every word that does (log 53). -/
def Ctx.scaleFault (c : Ctx) (m : MatrixCmd) : Option Res :=
  let tile (w : Nat) : Tile := c.pool.tileAhead (2 * w + m.acc)
  let f4 := m.words.filter fun w => (tile w).capt && ((tile w).rsc != m.rowScales w || (tile w).csc != m.colScales w)
  if f4 ≠ [] then some (.trap 0x01 (Mask.ofTids (wordTids f4)) 4 0)
  else if m.residue && m.words.any fun w => decide (256 < (tile w).count + m.k) then some (.trap 0x13 0 0 0)
  else none

/-- R180, R232: the undo log keeps what a command will change: its tiles, and the C registers of an MDRN. -/
def Pool.keepTiles (p : Pool) (m : MatrixCmd) : Pool :=
  let q : Pool := m.words.foldl (fun (p : Pool) w =>
    let k := 2 * w + m.acc
    { p with undoTiles := KMap.record p.undoTiles k (p.tile k) }) p
  if m.op == .mdrn then
    (wordTids m.words).foldl (fun (p : Pool) t => (List.range 32).foldl (fun (p : Pool) j =>
      { p with undoRegs := KMap.record p.undoRegs (256 * t + m.d + j) (p.reg t (m.d + j)) }) p) q
  else q

/-- R224: the checks of a matrix command, and its issue. -/
def Ctx.matrixIssue (c : Ctx) (s : State) (m0 : MatrixCmd) (badRecord : Bool) : Res :=
  c.counted s 3 fun _ =>
    let m : MatrixCmd := { m0 with words := c.wholeWords }
    let partial_ := c.tids.filter fun t => !m.words.contains (t / 32)
    let multiply := m.op == .mma || m.op == .mmaq || m.op == .mmas
    if partial_ ≠ [] then .trap 0x12 (Mask.ofTids partial_) 0 0
    else match c.tileFault m with
      | some f => .trap 0x01 (Mask.ofTids (wordTids f.2)) f.1 0
      | none =>
          let go (s : State) (m : MatrixCmd) : Res :=
            .done (c.addCmd (c.modPool s fun q => q.keepTiles m) 3 (.matrix m) [])
          if !multiply then go s m
          else
            let out := (c.scaleOffsets m).filter fun e => decide (c.pool.spadSize < e.2 + 1)
            let metaBad := m.op == .mmas && (badRecord || decide (bits 15 0 m.x1 < m.k / 8) ||
              m.metaRanges.any fun r => decide (c.pool.spadSize < r.1 + r.2))
            if out ≠ [] then
              .trap 0x0B (Mask.ofTids (out.map (·.1))) 0 (BitVec.ofNat 64 (out.headD (0, 0)).2)
            else if metaBad then .trap 0x14 0 0 0
            else
              let s1 := s.touchAll c.pid ((c.scaleOffsets m).map (·.2)) 1
              let s2 := s1.touchAll c.pid (m.metaRanges.map (·.1)) (m.k / 8)
              let m := c.capture s2 m
              match c.scaleFault m with
              | some r => r
              | none => go s2 m

/-- A matrix command as its instruction gives it. -/
def Ctx.matrixCmd (c : Ctx) (op : MatrixOp) (acc d a b : Nat) (x0 x1 x2 : Word) : MatrixCmd :=
  ⟨op, acc, [], c.fmt, d, a, b, x0, x1, x2, [], []⟩

/-- R222: the clocks of a multiply per word. -/
def MatrixCmd.clocks (m : MatrixCmd) : Nat := (m.ra + m.rb + (if m.scale = 0 then 0 else 2) + 15) / 16

/-- R200, R222: a multiply that reads the scratchpad at its issue: metadata, or scales that stand there. -/
def MatrixCmd.readsSpad (m : MatrixCmd) : Bool := m.op == .mmas || ((m.op == .mma || m.op == .mmaq) && m.scale == 2)

def execMma (p : Option Prefix) (d a b : Byte) : State → Host.Outcome State Fault Refusal :=
  let m (c : Ctx) := c.matrixCmd .mma d.toNat 0 a.toNat b.toNat 0 0 0
  issue (.mma p d a b) { broadcast := true, runs := fun c => (m c).runs, perPass := fun c => (m c).clocks
                         memoryIf := fun c => (m c).readsSpad }
    fun c s => c.matrixIssue s (m c) false

def execMmaq (p : Option Prefix) (d a b : Byte) : State → Host.Outcome State Fault Refusal :=
  let m (c : Ctx) := c.matrixCmd .mmaq d.toNat 0 a.toNat b.toNat 0 0 0
  issue (.mmaq p d a b) { broadcast := true, runs := fun c => (m c).runs, perPass := fun c => (m c).clocks
                          memoryIf := fun c => (m c).readsSpad }
    fun c s => c.matrixIssue s (m c) false

def execMmas (p : Option Prefix) (d a : Byte) (acc marks : BitVec 4) (r : TensorRecord) :
    State → Host.Outcome State Fault Refusal :=
  let m (c : Ctx) := c.matrixCmd .mmas acc.toNat 0 d.toNat a.toNat (c.recordWord marks 0 r.r0)
    (c.recordWord marks 1 r.r1) (c.recordWord marks 2 r.r2)
  issue (.mmas p d a acc marks r)
    { broadcast := true, runs := fun c => (m c).runs, sregs := recordRegs marks r
      perPass := fun c => (m c).clocks, memoryIf := fun c => (m c).readsSpad } fun c s =>
    c.matrixIssue s (m c) (c.badSubst marks 1 r.r1 0xFFFF0000 || c.badSubst marks 3 r.r3 0xFFFFFFFF)

def execMdrn (p : Option Prefix) (d a : Byte) : State → Host.Outcome State Fault Refusal :=
  let m (c : Ctx) := c.matrixCmd .mdrn a.toNat d.toNat 0 0 0 0 0
  issue (.mdrn p d a) { broadcast := true, runs := fun c => (m c).runs, memoryIf := fun c => (m c).readsSpad } fun c s =>
    c.matrixIssue s (m c) false

def execMzero (p : Option Prefix) (d : Byte) : State → Host.Outcome State Fault Refusal :=
  issue (.mzero p d) {} fun c s => c.matrixIssue s (c.matrixCmd .mzero d.toNat 0 0 0 0 0 0) false

/-! ### Execution (R221, R225, R226, R230) -/

/-- R221: a command is the first of its CP's, and of those on its tiles. -/
def Pool.matrixFirst (p : Pool) (cmd : Cmd) (m : MatrixCmd) : Bool :=
  !((p.cmds.takeWhile (·.id != cmd.id)).any fun k => match k.kind with
    | .matrix n => k.cp = cmd.cp || (n.acc = m.acc && n.words.any m.words.contains)
    | _ => false)

/-- The matrix command of a pool with a number. -/
def Pool.matrix? (p : Pool) (id : Nat) : Option (Cmd × MatrixCmd) :=
  (p.cmds.find? (·.id = id)).bind fun c => match c.kind with
    | .matrix m => some (c, m)
    | _ => none

/-- The words of a multiply, one after the other; none where a word has an uncorrectable error. -/
def MatrixCmd.run (m : MatrixCmd) (faults : List ProductFault) (l : List Nat) (p : Pool) (f : Flags) :
    Option (Pool × Flags) :=
  match l with
  | [] => some (p, f)
  | w :: r =>
      match m.step w (p.tile (2 * w + m.acc)) faults with
      | none => none
      | some x => m.run faults r (p.setTile false (2 * w + m.acc) x.1) (f ||| x.2)

/-- The end of a matrix command: its flags, then its counter (R221). -/
def Pool.endMatrix (p : Pool) (cmd : Cmd) (f : Flags) : Pool :=
  (p.removeCmd cmd.id).modCp cmd.cp fun cp => (cp.raise f).setCounter 3 (cp.counter 3 - 1)

def State.matrixExecute (s : State) (pid id : Nat) (faults : List ProductFault) : State :=
  match s.pool? pid with
  | none => s
  | some p =>
      match p.matrix? id with
      | none => s
      | some (cmd, m) =>
          if m.op = .mdrn || !p.matrixFirst cmd m then s
          else if m.op = .mzero then
            s.setPool pid ((m.words.foldl (fun (p : Pool) w =>
              p.setTile false (2 * w + m.acc)
                { Tile.empty with owner := some cmd.cp, corrp := (p.tile (2 * w + m.acc)).corrp }) p).endMatrix cmd 0)
          else match m.run faults m.words p (flagIf m.metaFlag Flags.META) with
            | some x => s.setPool pid (x.1.endMatrix cmd x.2)
            | none => s.rollBackOrFence pid

def execMatrixCommandExecute (pool cmd : Nat) (faults : List ProductFault) (s : State) :
    Host.Outcome State Fault Refusal :=
  unlessViral s fun s => s.matrixExecute pool cmd faults

/-! ### The drain (R79, R228, R231) -/

/-- R79: an element scaled and added to C. -/
def drainElem (x : FVal) (er ec : Byte) (c : Word) : Word × Flags :=
  match scaleExp er.toNat, scaleExp ec.toNat with
  | some a, some b =>
      let t := FVal.add .rne (x.scale (a + b)) (Fmt.decode .fp32 c.toNat)
      let r := roundAcc t.1
      (BitVec.ofNat 32 r.1, t.2 ||| r.2)
  | _, _ => (BitVec.ofNat 32 Fmt.fp32.nanCode, Flags.NANSCALE)

/-- The value of an element of a tile. -/
def Tile.value (t : Tile) (i j : Nat) : FVal :=
  let w := KMap.get t.elem 0 (32 * i + j)
  match t.kind with
  | .residue => .ofInt (tripleInt (wordTriple w))
  | .fp => Fmt.decode .fp32 w.toNat
  | .empty => .fin false 0 0

/-- Row i of one word drained into the C registers of its lane. -/
def Pool.drainRow (p : Pool) (m : MatrixCmd) (w i : Nat) (t : Tile) : Pool × Flags :=
  (List.range 32).foldl (fun (acc : Pool × Flags) j =>
    let tid := 32 * w + i
    let sc (l : KMap Byte) (n : Nat) : Byte := if t.capt then KMap.get l 0 n else 0x7F
    let r := if t.poison then (BitVec.ofNat 32 Fmt.fp32.nanCode, 0)
      else drainElem (t.value i j) (sc t.rsc i) (sc t.csc j) (acc.1.reg tid (m.d + j))
    (acc.1.setReg tid (m.d + j) r.1, acc.2 ||| r.2)) (p, 0)

/-- One word drained: its lanes, its corrections, its poison; the tile is left empty and unowned. -/
def Pool.drainWord (p : Pool) (m : MatrixCmd) (cp w : Nat) : Pool × Flags :=
  let t := p.tile (2 * w + m.acc)
  let r := (List.range 32).foldl (fun (acc : Pool × Flags) i =>
    let x := acc.1.drainRow m w i t
    (x.1, acc.2 ||| x.2)) (p, 0)
  let left : Tile := if t.poison then { t with owner := none, corrp := 0 } else Tile.empty
  ((r.1.setTile false (2 * w + m.acc) left).modCp cp fun c =>
    let c := c.addCorr t.corrp
    if t.poison then c.setPoison else c, r.2)

def State.drain (s : State) (pid id : Nat) : State :=
  match s.pool? pid with
  | none => s
  | some p =>
      match p.matrix? id with
      | none => s
      | some (cmd, m) =>
          if m.op ≠ .mdrn || !p.matrixFirst cmd m || !p.noOtherHold cmd.cp then s
          else
            let r := m.words.foldl (fun (acc : Pool × Flags) w =>
              let x := acc.1.drainWord m cmd.cp w
              (x.1, acc.2 ||| x.2)) (p, 0)
            -- R172: two clocks of the broadcast slot for each word
            (s.setPool pid (r.1.endMatrix cmd r.2)).holdSlots
              (p.broadcastSlots (setClocks (Mask.ofTids (wordTids m.words)) 2))

def execMdrnCompletion (pool cmd : Nat) (s : State) : Host.Outcome State Fault Refusal :=
  unlessViral s fun s => s.drain pool cmd

end Sys2Proof.Machine
end

