-- ==== Sys2Proof/Machine/Regen.lean ====
section
/-! DEFINITION. Regenerations (17 R332 to R334; 19 R337, R338), the in-field test (11 R249), and what traps, timeouts
and fault records lead to (02 R47, R58; 06 R160; 12 R255). -/

namespace Sys2Proof.Machine

/-! ### Admission (R332, R333) -/

/-- Bytes of the regeneration reserve of the LLC. -/
def reserveBytes : Nat := 64 * 2 ^ 20

/-- What the reserve holds: held tiles, and the staging of admitted regenerations. -/
def State.reserveUsed (s : State) : Nat :=
  (s.recipes.map fun e =>
    if (e.2.state == .resident && e.2.isHeld) || (e.2.state == .regenerating && e.2.admitted) then e.2.tsize else 0).sum

/-- The source tiles of a recipe. -/
def State.sourceTiles (s : State) (r : Recipe) : List Recipe := r.tiles.filterMap fun t => KMap.find? s.recipes t

/-- The chain that has waited longest. -/
def State.oldestChain (s : State) (r : Recipe) : Bool :=
  !s.recipes.any fun e => e.2.state == .regenerating && decide (e.2.chain < r.chain)

/-- R332: room for the tile and its newly held sources; 58 MiB stay free for the oldest chain. -/
def State.reserveFits (s : State) (r : Recipe) : Bool :=
  let new := ((s.sourceTiles r).filter fun q => q.state == .resident && !q.isHeld).map (·.tsize)
  let need := s.reserveUsed + r.tsize + new.sum
  decide (need ≤ reserveBytes) && (s.oldestChain r || decide (need + 58 * 2 ^ 20 ≤ reserveBytes))

def State.holdSources (s : State) (r : Recipe) : State :=
  (s.sourceTiles r).foldl (fun s q =>
    if q.state == .resident then
      { s with recipes := KMap.modify s.recipes q.id fun x => { x with holders := (x.holders ++ [r.id]).dedup } }
    else s) s

/-- R333: the shape at ENTRY − 16, where it may be used. -/
def State.sliceShape (s : State) (r : Recipe) : Option DWord :=
  match s.kernelShape r.asid r.entry.toNat with
  | some w => if shapeOk w && shapeSlice w then some w else none
  | none => none

/-- R332: the first tile that is not held anywhere in the walk of a recipe: its sources first, depth-first in SBASE
order. -/
def State.firstDown (s : State) (r : Nat) (fuel : Nat) : Option Nat :=
  match fuel with
  | 0 => none
  | f + 1 =>
      match KMap.find? s.recipes r with
      | none => none
      | some q =>
          if q.state ≠ .dropped ∧ q.state ≠ .regenerating then none
          else match q.tiles.findSome? fun t => s.firstDown t f with
            | some x => some x
            | none => some r

/-- R332: the tile is the next in the walk of a recipe that was read. -/
def State.inTurn (s : State) (r : Recipe) : Bool :=
  s.recipes.any fun e => e.2.state == .regenerating && e.2.root = e.1 &&
    s.firstDown e.1 (s.recipes.length + 1) == some r.id

/-- R332, R333: a regeneration is admitted once every source tile it has is Resident or Anchored (log 31). -/
def State.admitRegen (s : State) (r : Recipe) : State :=
  if r.state ≠ .regenerating || r.admitted then s
  else
    let down := (s.sourceTiles r).filter fun q => q.state == .dropped || q.state == .regenerating
    if down ≠ [] then down.foldl (fun s q => s.requestFrom r.root q.id r.chain r.began (s.recipes.length + 1)) s
    else if !((s.sourceTiles r).all fun q => q.state == .resident || q.state == .anchored) then s
    else if !s.inTurn r || !s.reserveFits r then s
    else match s.sliceShape r with
      | none => s.failRecipe r 5
      | some w =>
          let s1 := s.holdSources r
          { s1 with recipes := KMap.modify s1.recipes r.id fun x => { x with admitted := true, shape := w } }

def execRegenerationAdmit (recipe : Nat) (s : State) : Host.Outcome State Fault Refusal :=
  unlessViral s fun s => match KMap.find? s.recipes recipe with
    | some r => s.admitRegen r
    | none => s

/-! ### Slice pools (R333) -/

def Recipe.sliceTask (r : Recipe) : Task :=
  { Task.ofRecord ⟨r.entry, r.args, 0, 0, r.shape, 0, 0⟩ r.asid none none with recipe := some r.id }

/-- R246: a slice takes its place; one whose entry is no code address traps before it issues (R106). -/
def State.placeSlice (s : State) (r : Recipe) (at_ : Placement) : State :=
  let n : Need := { Need.ofShape r.shape (shapeThreads r.shape) with regen := true }
  match s.makeRoom at_ with
  | (false, s') => s'
  | (true, s') =>
      let (pid, s1) := s'.takeId
      let s2 := if r.lost then s1.countReplay else s1
      let s3 : State := { s2 with recipes := KMap.modify s2.recipes r.id fun x => { x with slice := some pid, lost := false } }
      s3.putPool pid (r.sliceTask.newPool n) at_

def execSlicePoolPlace (recipe : Nat) (at_ : Placement) (s : State) : Host.Outcome State Fault Refusal :=
  if s.viral.isSome || s.phase != .running then .next s
  else
    let s1 := s.noteReady
    let f := s1.first
    let s2 := s1.keepDies f
    match f.cand, KMap.find? s2.recipes recipe with
    | some (.regen q), some r =>
        let fits := (s2.candNeed (.regen q)).any fun n => s2.fits n at_
        if q = recipe && fits && s2.candAllows f.blocked (.regen q) (placedCluster at_) then
          .next (s2.placeSlice r at_)
        else .next s2
    | _, _ => .next s2

/-- R181, R189: a pool goes; the pools that read its uncommitted stores go back, and the core of one that would go
back once too often is fenced. -/
def State.removePool (s : State) (pid : Nat) : State :=
  let back := s.othersBack [pid]
  let s1 := s.rollBackAll (back.filter fun q => !s.isWorn q)
  ({ s1 with
    pools := (KMap.del s1.pools pid).map fun e => (e.1, { e.2 with deps := e.2.deps.filter (· != pid) })
    held := s1.held.filter (·.pool != pid)
    journal := s1.journal.filter fun e => e.pool != pid || e.record.isSome } : State).fenceCores (s.worn back)

/-- R333: a slice that trapped fails its recipe; nothing of it is committed. -/
def State.failSlice (s : State) (pid : Nat) (r : Nat) : State :=
  let s1 := s.removePool pid
  let s2 : State := { s1 with
    records := s1.records.filter fun x => !x.pools.contains pid
    journal := s1.journal.filter fun e => e.pool != pid }
  match KMap.find? s2.recipes r with
  | some q => s2.failRecipe q 5
  | none => s2

def execSliceTrap (pool : Nat) (s : State) : Host.Outcome State Fault Refusal :=
  unlessViral s fun s => match s.pool? pool with
    | some p =>
        (match p.task.recipe with
        | some r => if p.cps.any fun e => e.2.status == .trapped then s.failSlice pool r else s
        | none => s)
    | none => s

/-! ### The check of a made tile (R334, R337) -/

def Recipe.stagedBytes (r : Recipe) : List Byte := (List.range r.tsize).map fun i => KMap.get r.staging 0 i

/-- The tile's bytes stand in memory, unpoisoned, under the tenant's key; no written-since mark is set (R339).  Its
lines stand in the ways of the reserve (R332). -/
def State.storeTile (s : State) (r : Recipe) : State :=
  (s.tileLines r).zipIdx.foldl (fun s e =>
    { s.putLlc e.1 [0, 1, 2, 3] .clean with
      mem := Memory.writeBytes s.mem (64 * e.1) ((List.range 64).map fun i => KMap.get r.staging 0 (64 * e.2 + i))
      poison := KMap.del s.poison e.1
      keyOf := KMap.put s.keyOf e.1 (s.keyFor r.asid) }) s

/-- A requester that waits for the tile, or a regeneration that needs it. -/
def State.awaited (s : State) (r : Nat) : Bool :=
  let here (k : Option Park) : Bool := k == some (.tile r)
  let pool (p : Pool) : Bool :=
    p.ops.any (fun o => here o.park) || p.cmds.any (fun k => here k.park) ||
    p.cps.any fun e => match e.2.stand with
      | .parkedWatch k | .parkedIssue k | .parkedFetch k => k == .tile r
      | _ => false
  s.pools.any (fun e => pool e.2) || s.out.any (fun o => pool o.pool) ||
  s.recipes.any fun e => e.2.state == .regenerating && !e.2.admitted && e.2.tiles.contains r

/-- R334: the tile is made, and held for those that wait for it (R332); a recipe of depth 8 is Anchored with its
first value (R330), which releases its pins with a shootdown, and its lines are Dirty ones (R329). -/
def State.tileMade (s : State) (r : Recipe) (digest : DWord) : State :=
  let anchor := decide (8 ≤ r.depth)
  let s0 := (s.storeTile r).releaseHolds r.id
  let s1 := if anchor then (s0.dropPins r.tenant (s.pinnedRanges r)).dirtyLines r.tenant (s.tileLines r) else s0
  s1.setRecipe { r with
    state := if anchor then .anchored else .resident
    digest := digest
    gen := r.gen + 1
    holdUntil := if s.awaited r.id then some (s.time + micros 10000) else none
    sources := if anchor then [] else r.sources
    tiles := if anchor then [] else r.tiles
    admitted := false, slice := none, ended := false, staging := [], mismatches := 0 }

def State.checkTile (s : State) (r : Recipe) : State :=
  if !r.ended || r.state ≠ .regenerating then s
  else
    let crc := crc64 r.stagedBytes
    if r.gen = 0 || crc = r.digest then s.tileMade r crc
    else
      let q : Recipe := { r with silent := r.silent + 1, mismatches := r.mismatches + 1, ended := false, staging := [] }
      let s1 := ({ s with recipes := KMap.put s.recipes r.id q } : State).logEvent (.silentError r.id)
      if 2 ≤ q.mismatches then s1.failRecipe q 6 else s1

def execSlicePoolEnd (recipe : Nat) (s : State) : Host.Outcome State Fault Refusal :=
  unlessViral s fun s => match KMap.find? s.recipes recipe with
    | some r => s.checkTile r
    | none => s

/-- R332: the hold ends with the last requester, and after 10 ms at the latest. -/
def execRegenHoldExpiry (recipe : Nat) (s : State) : Host.Outcome State Fault Refusal :=
  unlessViral s fun s => match KMap.find? s.recipes recipe with
    | some r =>
        (match r.holdUntil with
        | some t =>
            if t ≤ s.time || !s.awaited recipe then
              { s with recipes := KMap.modify s.recipes recipe fun x => { x with holdUntil := none } }
            else s
        | none => s)
    | none => s

/-- R329: the eviction of a Recipe line drops the tile, once it is held no more (R332). -/
def execRecipeLineEviction (recipe : Nat) (s : State) : Host.Outcome State Fault Refusal :=
  unlessViral s fun s =>
    let t : State := { s with evicted := s.evicted.filter (· != recipe) }
    match KMap.find? s.recipes recipe with
    | some r => if r.state != .resident then t else if r.isHeld then s else t.dropTile r
    | none => t

/-! ### The in-field test (R249) -/

/-- The test of a cluster; the first falls due a period after reset, with the period as it is set until then (log
32). -/
def State.test (s : State) (k : Nat) : FieldTest :=
  KMap.get s.tests ⟨micros (s.period * 1000000), none, false, false, false, 0, false⟩ k

def State.setTest (s : State) (k : Nat) (t : FieldTest) : State := { s with tests := KMap.put s.tests k t }

/-- The pools with a part on a cluster. -/
def State.poolsOn (s : State) (k : Nat) : List (Nat × Pool) :=
  s.pools.filter fun e => e.2.parts.any fun q => clusterOf (coreOf q) = k

def execInFieldTestDue (cluster : Nat) (s : State) : Host.Outcome State Fault Refusal :=
  unlessViral s fun s =>
    let t := s.test cluster
    if s.phase = .running && decide (cluster < Config.clusters) && s.clusterLive cluster && t.due.isNone &&
        !t.running && decide (t.nextDue ≤ s.time) then
      s.setTest cluster { t with due := some s.time, ready := false, cleared := false }
    else s

/-- The CPs that keep a test from running: core and context number. -/
def State.testBlockers (s : State) (k : Nat) : List (Nat × Nat) :=
  (s.poolsOn k).flatMap fun e => (e.2.cps.filter fun c =>
    c.2.status != .ended && c.2.status != .idle &&
    (c.2.nopre.isSome || c.2.holding || !c.2.stand.blocks || c.2.wait.isSome || c.2.status != .running)).map fun c =>
      (e.2.cpCore c.1, (e.2.contexts.getD c.1 (0, 0)).2)

/-- The pools have been pre-empted, once every CP stood at a blocking point, and the test runs. -/
def execInFieldTestRun (cluster : Nat) (s : State) : Host.Outcome State Fault Refusal :=
  unlessViral s fun s =>
    let t := s.test cluster
    if t.due.isSome && s.clusterLive cluster && (s.poolsOn cluster).isEmpty then
      s.setTest cluster { t with due := none, ready := false, cleared := false, running := true, began := s.time }
    else s

/-- 250 ms after a test fell due some CP has not stood: the test is skipped, unless a pool has been pre-empted for
it. -/
def State.skipTest (s : State) (k : Nat) : State :=
  let t := s.test k
  match t.due, s.testBlockers k with
  | some d, b :: bs =>
      if !t.ready && !t.cleared && d + micros 250000 ≤ s.time then
        (s.setTest k { t with due := none, overdue := true, nextDue := s.time + micros 600000000 }).logEvent
          (.testSkipped k (b :: bs))
      else s
  | _, _ => s

def execInFieldTestSkip (cluster : Nat) (s : State) : Host.Outcome State Fault Refusal :=
  unlessViral s fun s => s.skipTest cluster

/-- The end of a test: the next one falls due a period later, as the period is set now (log 32). -/
def State.endTest (s : State) (k : Nat) (failedCore : Option Nat) (sharedFailed : Bool) : State :=
  let t := s.test k
  if !t.running then s
  else
    let bad := failedCore.filter fun c => clusterOf c = k
    let s1 := s.setTest k { t with
      running := false
      overdue := t.overdue && (bad.isSome || sharedFailed)
      nextDue := s.time + micros (s.period * 1000000) }
    let s2 := match bad with | some c => s1.fenceCore c | none => s1
    if sharedFailed then s2.fenceCluster k else s2

def execInFieldTestEnd (cluster : Nat) (failedCore : Option Nat) (sharedFailed : Bool) (s : State) :
    Host.Outcome State Fault Refusal :=
  unlessViral s fun s => s.endTest cluster failedCore sharedFailed

/-- R249 as time passes: every CP of the cluster stands, or stands no more, as after a rollback; 250 ms are over; a
test ends after 20 ms at the latest; one for which a pool has been pre-empted is skipped no more (log 32). -/
def State.noteTest (s : State) (k : Nat) : State :=
  let t := s.test k
  if t.running then (if t.began + micros 20000 ≤ s.time then s.endTest k none false else s)
  else if t.due.isNone then s
  else
    let ready := (s.testBlockers k).isEmpty
    let s1 := s.setTest k { t with ready := ready }
    if ready then s1 else s1.skipTest k

def State.noteTests (s : State) : State := s.tests.foldl (fun s e => s.noteTest e.1) s

/-! ### Timeouts, fault records, and the trap handler -/

/-- R47: a hold that has been open too long. -/
def execHoldTimeout (pool cp : Nat) (s : State) : Host.Outcome State Fault Refusal :=
  unlessViral s fun s => match s.cp? pool cp with
    | some c =>
        if c.status == .running && c.holding && decide (4096 < s.now - c.holdSince) then
          s.takeTrap pool cp c.pc 0x05 0 0 0
        else s
    | none => s

/-- R160: the trap comes at the blocking instruction in which the CP waits.  A parked load at which it stands is
abandoned, and issues again on resume; one that a later instruction waits for stays.  A SYSC and a YIELD have been
executed: the CP goes on waiting in them when it is resumed (log 18). -/
def State.nopreTrap (s : State) (pool cp : Nat) (c : Cp) : State :=
  match c.stand with
  | .sysc .. | .yielded _ =>
      (s.takeTrap pool cp c.savedPc 0x06 0 0 0).modCp pool cp fun x => { x with pc := c.pc, stand := c.stand }
  | .load o pc cl =>
      if pc = c.pc then s.takeTrap pool cp pc 0x06 0 0 0
      else ((s.modPool pool fun p => p.removeOp o).takeTrap pool cp pc 0x06 0 0 0).modCp pool cp fun x => { x with clause := cl }
  | _ => s.takeTrap pool cp c.pc 0x06 0 0 0

def execNopreBudget (pool cp : Nat) (s : State) : Host.Outcome State Fault Refusal :=
  unlessViral s fun s => match s.cp? pool cp with
    | some c =>
        if c.status == .running && c.nopre.any (fun t => decide (65536 < s.now - t)) then
          s.nopreTrap pool cp c
        else s
    | none => s

/-- R255: system software completes a fault record; what waits on the page wakes. -/
def execFaultRecordComplete (asid page : Nat) (s : State) : Host.Outcome State Fault Refusal :=
  unlessViral s fun s => { s with faults := s.faults.filter fun f => f != (asid, page) }

/-- R58: the handler resumes a CP; never one of a slice (R333). -/
def execTrapHandlerResume (pool cp : Nat) (s : State) : Host.Outcome State Fault Refusal :=
  unlessViral s fun s => match s.pool? pool, s.cp? pool cp with
    | some p, some c => if c.status == .trapped && !p.rslice then s.resumeTrap pool cp else s
    | _, _ => s

/-- R58: the handler terminates a pool: its task completes with status 0x01 (R321). -/
def execPoolTerminate (pool : Nat) (s : State) : Host.Outcome State Fault Refusal :=
  unlessViral s fun s => match s.pool? pool with
    | some p =>
        if !p.rslice && p.cps.any (fun e => e.2.status == .trapped) then
          (s.removePool pool).taskOver (p.task.fail 0x01) pool
        else s
    | none => s

end Sys2Proof.Machine
end

