-- ==== Sys2Proof/Machine/Manage.lean ====
section
/-! DEFINITION. The management commands (20 R346; 17 R308, R311, R313; 12 R253; 16 R294; 20 R348, R349, R352, R355 to
R357) and their completion.  A command with a bad operand has no effect. -/

namespace Sys2Proof.Machine

/-! ### Completion (R346) -/

/-- R253: an access that may still reach memory by the translation it has: a load, whatever it has read (it may read
again, R280), a store, an atomic that no slice has applied. -/
def Op.underWay (o : Op) : Bool :=
  match o.kind with
  | .load | .sload | .store | .red => !o.isParked
  | .vatom => o.got.isNone
  | _ => false

/-- R346: what the completion of a command waits for has not come. -/
def State.cmdWaits (s : State) (w : CmdWait) : Bool :=
  match w with
  | .none => false
  | .shootdown asid va len before => s.pools.any fun e => e.2.task.asid = asid && e.2.ops.any fun o =>
      decide (o.id < before) && o.underWay && o.lanes.any fun l => rangesOverlap l.addr (if o.wide then 8 else 4) va len
  | .unbind q => (KMap.find? s.queues q).isSome

/-- R346: commands complete in the order written. -/
def State.settleFrom (s : State) (l : List Command) : State :=
  match l with
  | [] => { s with commands := [] }
  | c :: r => if s.cmdWaits c.wait then { s with commands := c :: r } else (s.reply (.status c.code c.status)).settleFrom r

def State.settleCommands (s : State) : State := s.settleFrom s.commands

/-- A command that Unquel gives to a package that runs and is not viral: its effect and what its completion waits
for; none for a bad operand, which gives a nonzero status (log 33). -/
def command (code : Nat) (s : State) (f : State → Option (State × CmdWait)) : Host.Outcome State Fault Refusal :=
  .next (if s.viral.isSome || s.phase != .running then s
    else match f s with
      | none => ({ s with commands := s.commands ++ [⟨code, 1, .none⟩] } : State).settleCommands
      | some (t, w) => ({ t with commands := t.commands ++ [⟨code, 0, w⟩] } : State).settleCommands)

/-- A command that is complete with its effect. -/
def commandAt (code : Nat) (s : State) (ok : Bool) (f : State → State) : Host.Outcome State Fault Refusal :=
  command code s fun s => if ok then some (f s, .none) else none

/-! ### Address spaces (0x01 to 0x03) -/

def execAsidBind (asid l4 entryTable entryCount keySlot : Nat) (s : State) : Host.Outcome State Fault Refusal :=
  commandAt 0x01 s (decide (asid < 65536) && l4 % 4096 = 0 && decide (l4 < 2 ^ 52) && decide (entryTable < 2 ^ 56) &&
      decide (entryCount ≤ 65536) && decide (keySlot < 256) && (KMap.find? s.asids asid).isNone)
    fun s => { s with asids := KMap.put s.asids asid ⟨l4, entryTable, entryCount, keySlot⟩ }

/-- R346 0x02: something of an address space remains. -/
def State.asidBusy (s : State) (asid : Nat) : Bool :=
  s.pools.any (fun e => e.2.task.asid = asid) || s.out.any (fun o => o.pool.task.asid = asid) ||
  s.queues.any (fun e => e.2.asid = asid) || s.devices.any (fun d => d.2.2 = asid) ||
  s.links.any (fun e => e.2.asid == some asid) || s.packing.any (fun p => p.asid = asid) ||
  s.signals.any (fun g => g.task.asid = asid) || s.completions.any (fun c => c.task.asid = asid)

def execAsidUnbind (asid : Nat) (s : State) : Host.Outcome State Fault Refusal :=
  commandAt 0x02 s (decide (asid < 65536) && !s.asidBusy asid) fun s => { s with
    asids := KMap.del s.asids asid
    tlb := s.tlb.filter fun e => e.asid != asid }

/-- R253: every translation cache drops the range, which is not empty and lies in the address space; the accesses
that an old entry has translated are waited for. -/
def execShootdown (asid va len : Nat) (s : State) : Host.Outcome State Fault Refusal :=
  command 0x03 s fun s => if len = 0 || decide (2 ^ 56 < va + len) || decide (65536 ≤ asid) then none else some
    ({ s with tlb := s.tlb.filter fun e => !(e.asid = asid && rangesOverlap e.base (2 ^ e.bits) va len) },
     .shootdown asid va len s.nextId)

/-! ### Queues (0x04 to 0x06) -/

/-- The queue bound at a header. -/
def State.queueAt (s : State) (asid header : Nat) : Option (Nat × Queue) :=
  List.find? (fun (e : Nat × Queue) => e.2.asid = asid && e.2.header = header) s.queues

def Queue.fresh (asid header caplog cls now : Nat) (running : List Nat) : Queue where
  asid := asid
  header := header
  caplog := caplog
  base := cls
  slot := none
  broken := false
  heads := []
  ring := false
  headSince := now
  filled := now
  running := running
  before := []
  grant := 0
  unbinding := false

/-- R308: the header's counters become 0; a broken queue may be bound again (R310), and what waits ahead of its ring
is dropped (log 33).  CAPLOG and CLASS are the operands of the command (R346); bytes 16 and 17 of the header are
neither read nor written (log 33). -/
def State.bindQueue (s : State) (asid header caplog cls : Nat) : Option State :=
  let old := s.queueAt asid header
  if old.any (fun e => !e.2.broken) || (old.isNone && decide (65536 ≤ s.queues.length)) then none
  else match s.outsideTranslate asid header true with
    | .error _ => none
    | .ok pa =>
        if !s.isMemory pa then none
        else
          let (id, s1) := match old with | some e => (e.1, s) | none => s.takeId
          let running := match old with | some e => e.2.running | none => []
          some (({ s1 with
            queues := KMap.put s1.queues id (Queue.fresh asid header caplog cls s.time running)
            headDie := KMap.del (KMap.del s1.headDie (2 * id)) (2 * id + 1) } : State).touchOutside asid header true |>.systemCommit asid pa (toBytes 0 16))

/-- R308: the operands of a binding. -/
def State.bindOk (s : State) (header asid : Nat) (caplog cls : Byte) : Bool :=
  header % 64 = 0 && decide (1 ≤ caplog.toNat) && decide (caplog.toNat ≤ 20) && decide (cls.toNat ≤ 3) &&
    (KMap.find? s.asids asid).isSome

/-- The counters are written once no earlier record is still to be applied at their slice and no tile keeps them
from it (R335). -/
def execQueueBind (header asid : Nat) (caplog cls : Byte) (s : State) : Host.Outcome State Fault Refusal :=
  let binds := s.viral.isNone && s.phase == .running && s.bindOk header asid caplog cls &&
    (s.bindQueue asid header caplog.toNat cls.toNat).isSome
  if (match s.outsideTranslate asid header true with | .ok pa => !s.sliceClear pa | .error _ => false) then .next s
  else match (if binds then s.tileWrite asid header else (true, s)) with
    | (false, s') => .next s'
    | (true, s') => command 0x04 s' fun s =>
        if s.bindOk header asid caplog cls then (s.bindQueue asid header caplog.toNat cls.toNat).map (·, .none) else none

/-- R346 0x05: nothing more is dispatched; the queue goes once its dispatched tasks have completed. -/
def execQueueUnbind (queue : Nat) (s : State) : Host.Outcome State Fault Refusal :=
  command 0x05 s fun s =>
    if (KMap.find? s.queues queue).isNone then none
    else
      let s1 : State := { s with waiting := s.waiting.filter (· != queue) }
      some ((s1.modQueue queue fun q => { q with unbinding := true, broken := true, slot := none, heads := [] }).dropUnbound
        queue, .unbind queue)

def execClass0Grant (queue count : Nat) (s : State) : Host.Outcome State Fault Refusal :=
  commandAt 0x06 s ((KMap.find? s.queues queue).any fun q => q.base = 0) fun s =>
    s.modQueue queue fun q => { q with grant := q.grant + count }

/-! ### Shares, limits and keys (0x07 to 0x09) -/

/-- R294: the way masks of a tenant, one for each slice. -/
def execWayMask (asid : Nat) (slice : Option Nat) (ways : BitVec 16) (s : State) : Host.Outcome State Fault Refusal :=
  commandAt 0x07 s ((KMap.find? s.asids asid).isSome && (match slice with | some h => decide (h < 64) | none => true)) fun s =>
    let t := (s.tenant asid).getD 0
    let l := match slice with | some h => [h] | none => List.range 64
    { s with ways := l.foldl (fun m h => KMap.put m (64 * t + h) ways) s.ways }

def execRecipeLimit (asid count : Nat) (s : State) : Host.Outcome State Fault Refusal :=
  commandAt 0x08 s (KMap.find? s.asids asid).isSome fun s =>
    { s with recipeLimit := KMap.put s.recipeLimit ((s.tenant asid).getD 0) count }

/-- R356: bytes written under the old key read back unspecified. -/
def execKeyLoad (slot : Nat) (s : State) : Host.Outcome State Fault Refusal :=
  commandAt 0x09 s (decide (slot < 256)) fun s =>
    { s with keyGen := KMap.put s.keyGen slot (KMap.get s.keyGen 0 slot + 1) }

/-! ### Devices, timing and windows (0x0A, 0x0B, 0x0E) -/

/-- R349, R351, R347: ports 0 to 3 are the root ports, 4 the endpoint port, with one ASID whatever the Requester ID,
8 + n peer port n (log 10). -/
def execDeviceBind (port rid asid : Nat) (s : State) : Host.Outcome State Fault Refusal :=
  commandAt 0x0A s ((KMap.find? s.asids asid).isSome && decide (rid < 65536) &&
      (decide (port ≤ 4) || (decide (8 ≤ port) && decide (port < 16)))) fun s =>
    if 8 ≤ port then s.modLink (port - 8) fun l => { l with asid := some asid }
    else { s with devices := (s.devices.filter fun d => !(d.1 = port && (port = 4 || d.2.1 = rid))) ++ [(port, rid, asid)] }

/-- R311, R313, R249: the limits on what is set. -/
def timingOk (toll quantum period : Option Nat) : Bool :=
  (match toll with | some t => 100 ≤ t && t ≤ 100000 | none => true) &&
  (match quantum with | some q => 1 ≤ q && q ≤ 255 | none => true) &&
  (match period with | some p => 3600 ≤ p && p ≤ 2592000 | none => true)

def execTiming (toll quantum period : Option Nat) (s : State) : Host.Outcome State Fault Refusal :=
  commandAt 0x0B s (timingOk toll quantum period) fun s =>
    { s with toll := toll.getD s.toll, quantum := quantum.getD s.quantum, period := period.getD s.period }

def execCxlWindow (port base size : Nat) (s : State) : Host.Outcome State Fault Refusal :=
  commandAt 0x0E s (decide (port < 4) && size ≠ 0 && decide (Config.cxlStart ≤ base) &&
      decide (base + size ≤ Config.cxlEnd) && !(s.windows.any fun w => w.1 != port && rangesOverlap w.2.1 w.2.2 base size)) fun s =>
    { s with windows := KMap.put s.windows port (base, size) }

/-! ### Fences, the viral command, power and attestation (0x0C, 0x0D, 0x0F, 0x10) -/

/-- R346 0x0C, R352. -/
def State.fenceTarget (s : State) (target : FenceTarget) : Option State :=
  match target with
  | .die n => if n < 8 then some (s.fenceDie n) else none
  | .cluster n => if n < 64 then some (s.fenceCluster n) else none
  | .core n => if n < 256 then some (s.fenceCore n) else none
  | .peer n => if n < 8 then some (s.fenceLink n) else none
  | .peerRelease n => if n < 8 then some (s.modLink n fun l => { Link.fresh with asid := l.asid }) else none

def execFenceCommand (target : FenceTarget) (s : State) : Host.Outcome State Fault Refusal :=
  command 0x0C s fun s => (s.fenceTarget target).map (·, .none)

def execViralCommand (s : State) : Host.Outcome State Fault Refusal := commandAt 0x0D s true fun s => s.enterViral 0x07

def execPowerLimit (watts : Nat) (s : State) : Host.Outcome State Fault Refusal :=
  commandAt 0x0F s (1500 ≤ watts && watts ≤ 3200) fun s => { s with powerLimit := watts }

def execAttest (nonce : List Byte) (s : State) : Host.Outcome State Fault Refusal :=
  commandAt 0x10 s (nonce.length = 32) fun s => { s with report := s.makeReport 0xFFFF nonce }

end Sys2Proof.Machine
end

