-- ==== Sys2Proof/Machine/Devices.lean ====
section
/-! DEFINITION. Devices, peers and the application die as they reach package memory (16 R290, R300; 17 R335; 20 R340,
R344, R345, R347, R349 to R352). -/

namespace Sys2Proof.Machine

/-! ### Translated accesses from outside -/

/-- A range cut at lines, each piece with its physical address; none where a check fails or memory does not
exist. -/
def State.outsidePieces (s : State) (asid va n : Nat) (write : Bool) : Option (List (Nat × Nat × Nat)) :=
  (lineChunks va n).mapM fun c =>
    match s.outsideTranslate asid c.1 write with
    | .ok pa => if s.isMemory pa then some (c.1, pa, c.2) else none
    | .error _ => none

/-- The committed bytes at a physical address as they read under a key (R356). -/
def State.physRead (s : State) (key : Option (Nat × Nat)) (pa n : Nat) : List Byte :=
  (List.range n).map fun i => s.byteUnder key (pa + i)

/-- A read by a device, a peer or Unquel. -/
def State.outsideBytes (s : State) (asid va n : Nat) : Option (List Byte) :=
  (s.outsidePieces asid va n false).map fun l => l.flatMap fun e => s.physRead (some (s.keyFor asid)) e.2.1 e.2.2

/-- The answer to a read; the walker has set A (R252). -/
def State.outsideAnswer (s : State) (port asid va n : Nat) : Option State :=
  (s.outsideBytes asid va n).map fun bs => (s.touchRange asid va n false).answer port (some bs)

/-- R349: a refused request has no effect, is answered with an error and logged. -/
def State.refuse (s : State) (port rid : Nat) : State := (s.answer port none).logEvent (.deviceRefused port rid)

/-- A read is answered: with bytes, or with an error, which is logged but for the application die (port 16). -/
def State.answerRead (s : State) (x : PortRead) : State :=
  match x.asid with
  | none => s.reply (.bytes x.port (s.physRead none x.va x.len))
  | some a => (s.outsideAnswer x.port a x.va x.len).getD
      (if x.port = 16 then s.reply (.error 16) else s.refuse x.port x.rid)

/-- A read that passes its checks and meets a tile that is dropped, or a held line, is held by its port until that
is over (R300, R337, R349). -/
def State.portRead (s : State) (x : PortRead) : State :=
  let fails := x.asid.any fun a => (s.outsideBytes a x.va x.len).isNone
  match (if fails then (true, s) else s.outsideReady x.asid x.va x.len) with
  | (true, s') => s'.answerRead x
  | (false, s') => { s' with portReads := s'.portReads ++ [x] }

/-- The reads that their ports hold are tried again; a viral package ends them with errors (R306). -/
def State.serveReads (s : State) : State :=
  if s.viral.isSome then
    s.portReads.foldl (fun s x => s.reply (.error x.port)) { s with portReads := [] }
  else s.portReads.foldl State.portRead { s with portReads := [] }

/-- A write by a device, a peer or Unquel: one record from outside every cluster (R276, R290), after the earlier
ones of its port (R349, R351). -/
def State.outsideWrite (s : State) (port asid va : Nat) (bs : List Byte) : Option State :=
  (s.outsidePieces asid va bs.length true).map fun l =>
    (s.touchRange asid va bs.length true).outsideCommit (some asid)
      (l.map fun e => (e.1, e.2.1, (bs.drop (e.1 - va)).take e.2.2)) (some port)

/-! ### Devices (R347, R349, R300) -/

/-- The ASID bound to a Requester ID of a port; the endpoint port has one for BAR2 (R347). -/
def State.deviceAsid (s : State) (port rid : Nat) : Option Nat :=
  (s.devices.find? fun d => d.1 = port && (port = 4 || d.2.1 = rid)).map (·.2.2)

/-- R347: what the BARs of the endpoint port hold: 4 stands for BAR2, 5 for BAR0 (log 10). -/
def barSize (port : Nat) : Nat := if port = 4 then 2 ^ 36 else 2 ^ 24

/-- R344, R347: BAR0 maps the host mailbox, whose bytes are the port's own. -/
def State.mailbox (s : State) (rid : Nat) (write : Bool) (va len : Nat) (bytes : List Byte) : State :=
  if barSize 5 < va + (if write then bytes.length else len) then s.refuse 5 rid
  else if write then s.reply (.write (0x100050000000 + va) bytes)
  else
    let (bs, s') := s.freeBytes len
    s'.reply (.bytes 5 bs)

def State.deviceDma (s : State) (port rid : Nat) (write : Bool) (va len : Nat) (bytes : List Byte) : State :=
  match s.deviceAsid port rid with
  | none => s.refuse port rid
  | some a =>
      if port = 4 && decide (barSize 4 < va + (if write then bytes.length else len)) then s.refuse port rid
      else if write then (s.outsideWrite port a va bytes).getD (s.refuse port rid)
      else s.portRead ⟨port, rid, some a, va, len⟩

/-- R306: in the viral state a request receives an error completion.  Ports above 5 take no request of this kind.
R353: in recovery mode the endpoint port alone is trained; nothing is bound to it. -/
def execDeviceDmaRequest (port rid : Nat) (write : Bool) (va len : Nat) (bytes : List Byte) (s : State) :
    Host.Outcome State Fault Refusal :=
  .next (if s.viral.isSome then s.reply (.error port)
    else match s.phase with
      | .off => s
      | .running =>
          if port = 5 then s.mailbox rid write va len bytes
          else if port < 5 then s.deviceDma port rid write va len bytes else s
      | .recovery =>
          if port = 5 then s.mailbox rid write va len bytes else if port = 4 then s.refuse port rid else s)

/-- The operation code of R100 and the element type of an AtomicOp. -/
def deviceAtomicCode : DeviceAtomic → Nat
  | .fetchAdd => 0
  | .swap => 6
  | .cas => 7

/-- R300: the AtomicOp of a device as its record carries it. -/
def deviceAtom (asid code : Nat) (wide : Bool) (va pa : Nat) (y x : DWord) : Atom :=
  let z := if wide then 64 else 32
  { pool := 0, op := 0, asid := asid, va := va, pa := pa, aop := code, ty := if wide then 8 else 7, rm := 0, sat := false
    y := BitVec.ofNat 64 (y.toNat % 2 ^ z), x := BitVec.ofNat 64 (x.toNat % 2 ^ z), result := none }

/-- R251, R300, R349: an AtomicOp, which W allows, is a record of its own, applied after the earlier records of its
slice and of its port; it is answered once it is complete. -/
def State.deviceAtomic (s : State) (port rid code : Nat) (wide : Bool) (va : Nat) (y x : DWord) : State :=
  let z := if wide then 8 else 4
  match s.deviceAsid port rid with
  | none => s.refuse port rid
  | some a =>
      match s.outsideTranslate a va true with
      | .ok pa =>
          if va % z ≠ 0 || !s.isMemory pa then s.refuse port rid
          else (s.touchOutside a va true).outsideCommit (some a) [] (some port) [deviceAtom a code wide va pa y x]
      | .error _ => s.refuse port rid

def execPcieAtomicop (port rid : Nat) (op : DeviceAtomic) (wide : Bool) (va : Nat) (y x : DWord) (s : State) :
    Host.Outcome State Fault Refusal :=
  .next (if s.viral.isSome then s.reply (.error port)
    else if s.phase = .running && decide (port < 4) then s.deviceAtomic port rid (deviceAtomicCode op) wide va y x else s)

/-! ### Peer links (R350 to R352) -/

/-- R350: credits returned for the four virtual channels. -/
def addCredits (a b : Word) : Word :=
  BitVec.ofNat 32 (ofBytes ((List.range 4).map fun i => a.extractLsb' (8 * i) 8 + b.extractLsb' (8 * i) 8))

/-- R350: the flits sent since one of the kept ones, the oldest first, are sent again. -/
def State.replay (s : State) (port : Nat) (l : Link) (ack : Nat) : State :=
  let n := (l.next + 4095 - ack) % 4096
  (l.store.take n).reverse.foldl (fun s f => s.reply (.flit port f)) (s.reply (.replay port ((ack + 1) % 4096)))

/-- R350: the credit of a data flit goes back to the peer; the virtual channel that it took is the peer's (log 10). -/
def State.returnCredit (s : State) (port : Nat) : State :=
  let (w, s) := s.freeWord
  s.reply (.credit port (BitVec.ofNat 32 (2 ^ (8 * (w.toNat % 4)))))

/-- R350: an ACKSEQ advances: it names one of the data flits sent that are not acknowledged yet. -/
def Link.advances (l : Link) (ack : Nat) : Bool :=
  let n := (ack + 4096 - l.acked) % 4096
  decide (0 < n ∧ n ≤ (l.next + 4095 - l.acked) % 4096)

/-- What an ACKSEQ says of what is sent: one that is no advance, as of a flit that was sent again, says nothing. -/
def Link.acknowledge (l : Link) (ack : Nat) : Link :=
  if l.advances ack then { l with acked := ack, replays := 0 } else l

/-- A flit in good order, with the credits it returns; a nak asks for a replay, and where eight replays in a row
have been without an advance of ACKSEQ the link is fenced. -/
def State.takeFlit (s : State) (port : Nat) (l : Link) (f : PeerFlit) : State :=
  let ack := f.ackSeq.toNat
  let l1 : Link := { l.acknowledge ack with credits := addCredits l.credits f.credits }
  match f.type.toNat with
  | 1 => ((s.modLink port fun _ => { l1 with expect := (l.expect + 1) % 4096 }).reply (.ack port f.seq.toNat)).returnCredit port
  | 3 =>
      if 8 ≤ l1.replays then (s.modLink port fun _ => l1).fenceLink port
      else (s.modLink port fun _ => { l1 with replays := l1.replays + 1 }).replay port l ack
  | 5 => s.fenceLink port
  | _ => s.modLink port fun _ => l1

def State.peerFlit (s : State) (port : Nat) (f : PeerFlit) : State :=
  let l := s.link port
  if l.fenced then s
  else if !flitCrcOk f || decide (6 ≤ f.type.toNat) || (f.type = 1 && f.seq.toNat ≠ l.expect) then s.reply (.nak port l.expect)
  else s.takeFlit port l f

def execPeerFlitReceive (port : Nat) (flit : PeerFlit) (s : State) : Host.Outcome State Fault Refusal :=
  unlessViral s fun s => if s.phase = .running && decide (port < 8) then s.peerFlit port flit else s

/-- R351: a write lies in one block of 256 bytes and has at most 224. -/
def peerWriteOk (va len : Nat) : Bool := len ≤ 224 && va % 256 + len ≤ 256

/-- R351, R352: a fenced link drops its requests; the requests of one link come in SEQ order. -/
def State.peerAccess (s : State) (port : Nat) (write : Bool) (va len : Nat) (bytes : List Byte) : State :=
  let l := s.link port
  if l.fenced then s
  else match l.asid with
    | none => s.refuse (8 + port) port
    | some a =>
        if write then
          if peerWriteOk va bytes.length then (s.outsideWrite (8 + port) a va bytes).getD (s.refuse (8 + port) port)
          else s.refuse (8 + port) port
        else s.portRead ⟨8 + port, port, some a, va, len⟩

def execPeerRequest (port : Nat) (write : Bool) (va len : Nat) (bytes : List Byte) (s : State) :
    Host.Outcome State Fault Refusal :=
  unlessViral s fun s => if s.phase = .running && decide (port < 8) then s.peerAccess port write va len bytes else s

def execPeerLinkFence (port : Nat) (s : State) : Host.Outcome State Fault Refusal :=
  unlessViral s fun s => s.fenceLink port

/-! ### The application die (R340, R344, R345) -/

/-- R345: the management block, which decodes in supervisor mode only. -/
def managementBlock (pa : Nat) : Bool := 0x100000000000 ≤ pa && pa < 0x100010000000

/-- R305, R306, R345: the application die reads the management block: PKGSTAT and the error logs; where they stand
in it no rule gives (log 33). -/
def State.readManagement (s : State) : State := s.reply (.management s.pkgstat s.log)

/-- The bytes of an access by physical address lie in one kind of space. -/
def accessIn (f : Nat → Bool) (write : Bool) (pa len : Nat) (bytes : List Byte) : Bool :=
  (List.range (if write then bytes.length else len)).all fun i => f (pa + i)

/-- An access by physical address, to what decodes: package memory; the ports, whose bytes are their own; the
management block. -/
def State.adPhysical (s : State) (supervisor write : Bool) (pa len : Nat) (bytes : List Byte) : State :=
  let all (f : Nat → Bool) : Bool := accessIn f write pa len bytes
  if all s.isMemory then
    if write then s.outsideCommit none [(pa, pa, bytes)] (some 16) else s.portRead ⟨16, 0, none, pa, len⟩
  else if all portSpace then
    if write then s.reply (.write pa bytes)
    else
      let (bs, s') := s.freeBytes len
      s'.reply (.bytes 16 bs)
  else if supervisor && all managementBlock then (if write then s else s.readManagement)
  else s.reply (.error 16)

def State.adVirtual (s : State) (asid : Nat) (write : Bool) (va len : Nat) (bytes : List Byte) : State :=
  if write then (s.outsideWrite 16 asid va bytes).getD (s.reply (.error 16))
  else s.portRead ⟨16, 0, some asid, va, len⟩

/-- R306: in the viral state the application die still reads the management block, whatever phase the package was in,
and its writes are discarded. -/
def execApplicationDieAccess (space : AdSpace) (write : Bool) (addr len : Nat) (bytes : List Byte) (s : State) :
    Host.Outcome State Fault Refusal :=
  .next (match space with
    | .virtual a => if s.viral.isSome || s.phase != .running then s else s.adVirtual a write addr len bytes
    | .physical supervisor =>
        if s.viral.isSome then
          if supervisor && !write && accessIn managementBlock write addr len bytes then s.readManagement else s
        else if s.phase != .running then s
        else s.adPhysical supervisor write addr len bytes)

end Sys2Proof.Machine
end

