-- ==== Sys2Proof/Machine/Respond.lean ====
section
/-! DEFINITION. Searches, the responder stack, masks, one responder, reductions, SCAN, MATCH and holds:
opcodes 0x30 to 0x47 (06: R148 to R157). -/

namespace Sys2Proof.Machine

/-- R135: one clock per pass, two under a 64-bit type. -/
def clocks12 (c : Ctx) : Nat := if c.wide then 2 else 1

/-! ### Searches (R148, R149) -/

/-- R101, R148: whether an element matches, with the flags it raises. -/
def searchElem (cond : Nat) (t : Ty) (x k k2 : Nat) (sb : DWord) : Bool × Flags :=
  let w := t.width
  match cond with
  | 8 =>
      let lo := compare 3 t k x
      let hi := compare 3 t x k2
      (lo.1 && hi.1, lo.2 ||| hi.2)
  | 9 => (x.testBit (sb.toNat % w), 0)
  | 10 => ((x &&& k2) == (k &&& k2), 0)
  | _ => compare cond t x k

/-- The search of a parent set: the matching threads and the flags. -/
def Ctx.search (c : Ctx) (parent : Mask) (cond a b : Nat) : Mask × Flags :=
  let w := c.ty.width
  let k := (c.cp.sreg b).toNat % 2 ^ w
  let k2 := (c.cp.sreg (b + 1)).toNat % 2 ^ w
  let rs := (Mask.tids parent c.pool.threads).map fun t =>
    (t, searchElem cond c.ty (c.elem0 w t a) k k2 (c.cp.sreg b))
  (Mask.ofTids ((rs.filter fun r => r.2.1).map (·.1)), rs.foldl (fun f r => f ||| r.2.2) 0)

/-- The scalar registers a search reads (R101). -/
def searchRegs (d b : Byte) : List Nat :=
  if d = 8 ∨ d = 10 then [b.toNat, b.toNat + 1] else [b.toNat]

def searchShape (d a b : Byte) : Shape where
  broadcast := true
  runs := fun c => [run1 c.wide a.toNat]
  sregs := searchRegs d b
  perPass := clocks12

/-- The level a search pushes, with its flags raised (R36, R85). -/
def Ctx.pushSearch (c : Ctx) (s : State) (parent : Mask) (d a b : Byte) : Res :=
  let r := c.search parent d.toNat a.toNat b.toNat
  c.push (c.modCp s fun cp => cp.raise r.2) r.1

def execSrch (p : Option Prefix) (d a b : Byte) : State → Host.Outcome State Fault Refusal :=
  issue (.srch p d a b) (searchShape d a b) fun c s => c.pushSearch s c.set d a b

def execSrca (p : Option Prefix) (d a b : Byte) : State → Host.Outcome State Fault Refusal :=
  issue (.srca p d a b) { searchShape d a b with sweep := Ctx.all } fun c s => c.pushSearch s c.all d a b

/-! ### The stack and the masks (R38, R150, R151) -/

/-- The top set replaced; level 0 cannot be (R37). -/
def Ctx.replaceTop (c : Ctx) (s : State) (f : Mask → Mask → Mask) : Res :=
  match c.cp.stack with
  | t :: u :: _ => .done (c.modCp s fun cp => cp.setTop { t with mask := f t.mask u.mask })
  | _ => .illegal

/-- R38: the parent minus the top set. -/
def execSrcx (p : Option Prefix) : State → Host.Outcome State Fault Refusal :=
  issue (.srcx p) {} fun c s => c.replaceTop s fun t u => u &&& ~~~t

def execPopr (p : Option Prefix) : State → Host.Outcome State Fault Refusal :=
  issue (.popr p) {} fun c s =>
    if c.cp.levelIndex = 0 then .trap 0x03 0 0 0
    else .done (c.modCp s fun cp => { cp with stack := cp.stack.tail })

def execPushm (p : Option Prefix) (m : BitVec 3) : State → Host.Outcome State Fault Refusal :=
  issue (.pushm p m) { mregs := [m.toNat] } fun c s => c.push s (c.cp.mreg m.toNat)

def execSavm (p : Option Prefix) (m : BitVec 3) : State → Host.Outcome State Fault Refusal :=
  issue (.savm p m) { mregs := [m.toNat] } fun c s =>
    .done (c.modCp s fun cp => cp.setM m.toNat c.cp.topLevel.mask)

/-- R151. -/
def maskOp (op : Nat) (all a b : Mask) : Mask :=
  match op with
  | 0 => a &&& b
  | 1 => a ||| b
  | 2 => a ^^^ b
  | 3 => a &&& ~~~b
  | 4 => all &&& ~~~a
  | 5 => 0
  | 6 => all
  | _ => Mask.lowest a

/-- R151.  For the stall of R266 each of the three fields names its mask register, also one that must be zero (log
18). -/
def execMaskop (p : Option Prefix) (md ma mb op : BitVec 3) : State → Host.Outcome State Fault Refusal :=
  issue (.maskop p md ma mb op) { mregs := [md.toNat, ma.toNat, mb.toNat] } fun c s =>
    .done (c.modCp s fun cp =>
      cp.setM md.toNat (maskOp op.toNat c.all (c.cp.mreg ma.toNat) (c.cp.mreg mb.toNat)))

def execFrst (p : Option Prefix) : State → Host.Outcome State Fault Refusal :=
  issue (.frst p) {} fun c s => c.replaceTop s fun t _ => Mask.lowest t

def execDropf (p : Option Prefix) : State → Host.Outcome State Fault Refusal :=
  issue (.dropf p) {} fun c s => c.replaceTop s fun t _ => t &&& ~~~Mask.lowest t

def execRcount (p : Option Prefix) (d : Byte) : State → Host.Outcome State Fault Refusal :=
  issue (.rcount p d) { sregs := [d.toNat] } fun c s =>
    .done (c.modCp s fun cp =>
      cp.setS d.toNat (BitVec.ofNat 64 (Mask.count c.cp.topLevel.mask c.pool.threads)))

/-! ### One responder (R152) -/

def execRget (p : Option Prefix) (d a : Byte) : State → Host.Outcome State Fault Refusal :=
  issue (.rget p d a)
    { broadcast := true, runs := fun c => [run1 c.wide a.toNat], sregs := [d.toNat], perPass := clocks12 }
    fun c s =>
      let x : DWord := match c.tids.head? with
        | some t => c.pool.getElem c.wide t a.toNat
        | none => 0
      .done (c.modCp s fun cp => cp.setS d.toNat x)

def execRput (p : Option Prefix) (d b : Byte) : State → Host.Outcome State Fault Refusal :=
  issue (.rput p d b)
    { broadcast := true, runs := fun c => [run1 c.wide d.toNat], sregs := [b.toNat], perPass := clocks12 }
    fun c s =>
      let t0 : Mask := Mask.lowest c.set
      let others : Mask := if c.zeroForm then c.all &&& ~~~t0 else 0
      .done (c.modPool s fun pool =>
        (pool.zeroElems c.wide d.toNat others).setElems c.wide d.toNat
          ((Mask.tids t0 pool.threads).map fun t => (t, c.s b)))

/-! ### Reductions (R82, R153, R154) -/

/-- comb of R82: an absent operand leaves the other. -/
def combOpt (f : Nat → Nat → Nat × Flags) (a b : Option Nat × Flags) : Option Nat × Flags :=
  match a.1, b.1 with
  | none, _ => (b.1, a.2 ||| b.2)
  | _, none => (a.1, a.2 ||| b.2)
  | some x, some y => let r := f x y; (some r.1, a.2 ||| b.2 ||| r.2)

/-- One level of the tree. -/
def treeLevel (f : Nat → Nat → Nat × Flags) : List (Option Nat × Flags) → List (Option Nat × Flags)
  | x :: y :: r => combOpt f x y :: treeLevel f r
  | l => l

/-- R82: the total of the responders' elements. -/
def Ctx.reduce (c : Ctx) (elem : Nat → Nat) (f : Nat → Nat → Nat × Flags) : Option Nat × Flags :=
  let word (w : Nat) : Option Nat × Flags :=
    let l := (List.range 32).map fun i =>
      if Mask.has c.set (32 * w + i) then (some (elem (32 * w + i)), (0 : Flags)) else (none, 0)
    (((treeLevel f (treeLevel f (treeLevel f (treeLevel f (treeLevel f l)))))).headD (none, 0))
  let part (k : Nat) : Option Nat × Flags :=
    (List.range 32).foldl (fun acc j =>
      if 32 * (32 * k + j) < c.pool.threads then combOpt f acc (word (32 * k + j)) else acc) (none, 0)
  (List.range (partsOf c.pool.threads)).foldl (fun acc k => combOpt f acc (part k)) (none, 0)

/-- R153: the form of a reduction's result in s_d. -/
def resultForm (t : Ty) (x : Nat) : DWord :=
  match t with
  | .int w s => BitVec.ofInt 64 (intOf w s x)
  | .flt _ => BitVec.ofNat 64 x

def reduceShape (d a : Byte) : Shape where
  broadcast := true
  runs := fun c => [run1 c.wide a.toNat]
  sregs := [d.toNat]
  perPass := clocks12

/-- R65: a NaN that a reduction produces is the canonical one, also where it is the only element. -/
def Ty.canonical (t : Ty) (x : Nat) : Nat :=
  match t with
  | .int _ _ => x
  | .flt f => if (f.decode x).isNan then f.nanCode else x

/-- RSUM, RMIN and RMAX. -/
def execReduce (i : Instr) (d a : Byte) (f : Ctx → Nat → Nat → Nat × Flags) (empty : Ty → Nat) :
    State → Host.Outcome State Fault Refusal :=
  issue i (reduceShape d a) fun c s =>
    if !classNumeric c.tyCode then .illegal
    else
      let r := c.reduce (fun t => c.elem0 c.ty.width t a.toNat) (f c)
      .done (c.modCp s fun cp =>
        (cp.setS d.toNat (resultForm c.ty (c.ty.canonical (r.1.getD (empty c.ty))))).raise r.2)

def execRsum (p : Option Prefix) (d a : Byte) : State → Host.Outcome State Fault Refusal :=
  execReduce (.rsum p d a) d a (fun c => arith .add c.ty c.rm c.sat) fun _ => 0

/-- The greatest and the least element of a type: its maximum or +∞, its minimum or −∞ (R153, R155). -/
def topOf : Ty → Nat
  | .int w s => intBits w (intMax w s)
  | .flt f => f.infCode

def bottomOf : Ty → Nat
  | .int w s => intBits w (intMin w s)
  | .flt f => f.signed true f.infCode

def execRmin (p : Option Prefix) (d a : Byte) : State → Host.Outcome State Fault Refusal :=
  execReduce (.rmin p d a) d a (fun c => minMax false c.ty) topOf

def execRmax (p : Option Prefix) (d a : Byte) : State → Host.Outcome State Fault Refusal :=
  execReduce (.rmax p d a) d a (fun c => minMax true c.ty) bottomOf

/-- RAND and ROR: whole registers or pairs. -/
def execBitReduce (i : Instr) (d a : Byte) (f : Nat → Nat → Nat) (empty : Nat → Nat) :
    State → Host.Outcome State Fault Refusal :=
  issue i (reduceShape d a) fun c s =>
    let r := c.reduce (fun t => c.elem0 c.bitWidth t a.toNat) fun x y => (f x y, 0)
    .done (c.modCp s fun cp => cp.setS d.toNat (BitVec.ofNat 64 (r.1.getD (empty c.bitWidth))))

def execRand (p : Option Prefix) (d a : Byte) : State → Host.Outcome State Fault Refusal :=
  execBitReduce (.rand p d a) d a (fun x y => x &&& y) fun w => 2 ^ w - 1

def execRor (p : Option Prefix) (d a : Byte) : State → Host.Outcome State Fault Refusal :=
  execBitReduce (.ror p d a) d a (fun x y => x ||| y) fun _ => 0

/-- R154: the valid responders in ascending tid with their elements, and the flags. -/
def execArgmx (p : Option Prefix) (d a : Byte) : State → Host.Outcome State Fault Refusal :=
  issue (.argmx p d a) (reduceShape d a) fun c s =>
    if !classNumeric c.tyCode then .illegal
    else
      let all := c.tids.map fun t => (t, c.ty.value (c.elem0 c.ty.width t a.toNat))
      let valid := all.filter fun e => !e.2.isNan
      let best := valid.foldl (fun (b : Option (Nat × FVal)) e =>
        match b with
        | none => some e
        | some x => if x.2.lt e.2 then some e else some x) none
      let lo := match best with | some e => e.1 | none => 0xFFFFFFFF
      .done (c.modCp s fun cp =>
        (cp.setS d.toNat (BitVec.ofNat 64 (lo + 2 ^ 32 * valid.length))).raise
          (flagIf (all.any fun e => e.2.isSignalling) Flags.IV))

/-! ### SCAN and MATCH (R155, R156) -/

/-- The comb of SCAN and its identity. -/
def scanOp (c : Ctx) (op : Nat) : (Nat → Nat → Nat × Flags) × Nat :=
  match op with
  | 0 => (arith .add c.ty c.rm c.sat, 0)
  | 1 => (minMax false c.ty, topOf c.ty)
  | 2 => (minMax true c.ty, bottomOf c.ty)
  | _ => (fun x y => (x ||| y, 0), 0)

/-- The running results of R155 over elements in ascending tid. -/
def scanList (f : Nat → Nat → Nat × Flags) (excl : Bool) (acc : Nat) :
    List (Nat × Nat) → List (Nat × DWord) × Flags
  | [] => ([], 0)
  | (t, x) :: r =>
      let n := f acc x
      let rest := scanList f excl n.1 r
      ((t, BitVec.ofNat 64 (if excl then acc else n.1)) :: rest.1, n.2 ||| rest.2)

def execScan (p : Option Prefix) (d a : Byte) (excl : BitVec 1) (op : BitVec 2) :
    State → Host.Outcome State Fault Refusal :=
  issue (.scan p d a excl op)
    { broadcast := true, runs := fun c => [run1 c.wide d.toNat, run1 c.wide a.toNat], perPass := clocks12 }
    fun c s =>
      if op != 3 && !classNumeric c.tyCode then .illegal
      else
        let w := if op = 3 then c.bitWidth else c.ty.width
        let f := scanOp c op.toNat
        let r := scanList f.1 (excl = 1) f.2 (c.tids.map fun t => (t, c.elem0 w t a.toNat))
        c.write s c.wide d.toNat r.1 r.2

/-- R156: the mask of responders in t's group whose register equals t's. -/
def Ctx.matchMask (c : Ctx) (a t : Nat) : Nat :=
  let g := t / c.pool.group * c.pool.group
  (List.range c.pool.group).foldl (fun acc j =>
    if g + j < c.pool.threads && Mask.has c.set (g + j) &&
       c.pool.getElem c.wide (g + j) a == c.pool.getElem c.wide t a
    then acc + 2 ^ j else acc) 0

/-- R156: under a group width of 16 or 32 v_d is one register of either parity, whatever T is (log 51). -/
def execMatch (p : Option Prefix) (d a : Byte) : State → Host.Outcome State Fault Refusal :=
  issue (.match_ p d a)
    { broadcast := true
      runs := fun c => [run1 (c.pool.group = 64) d.toNat, run1 c.wide a.toNat]
      perPass := clocks12 }
    fun c s =>
      c.write s (c.pool.group = 64) d.toNat
        (c.tids.map fun t => (t, BitVec.ofNat 64 (c.matchMask a.toNat t))) 0

/-! ### Holds (R45, R46, R157) -/

def execHold (p : Option Prefix) (b : Byte) : State → Host.Outcome State Fault Refusal :=
  issue (.hold p b) {} fun c s =>
    if c.cp.holding then .illegal
    else .done (c.modCp s fun cp => { cp with holdLeft := b.toNat, holdSince := s.now, begun := false })

def execRelh (p : Option Prefix) : State → Host.Outcome State Fault Refusal :=
  issue (.relh p) {} fun c s => .done (c.modCp s fun cp => { cp with holdLeft := 0 })

end Sys2Proof.Machine
end

