-- ==== Sys2Proof/Machine/Work.lean ====
section
/-! DEFINITION. The work and recipe instructions, opcodes 0xD0 to 0xD8 (17: R322 to R327, R330, R331; 02: R50 to
R52). -/

namespace Sys2Proof.Machine

/-! ### Records read at issue (R323, R330) -/

/-- A failed check of an instruction that counts as a load and as a store: a recoverably absent page traps, a
dropped tile parks. -/
def Ctx.failAt (c : Ctx) (s : State) (va : DWord) (f : Fail) : Res :=
  match f with
  | .misaligned => .trap 0x09 0 0 va
  | .scope => .trap 0x0F 0 0 va
  | .x (.tile r) =>
      if c.cp.holding then .trap 0x04 0 0 0
      else
        let k := s.parkFor c.asid va.toNat (.tile r)
        .stay (k.2.standAt c.pid c.cid (.parkedIssue k.1))
  | .x .recoverable => .trap 0x0D 0 1 va
  | .x g => .trap (g.cause false).1 0 (g.cause false).2 va

/-- R254 for a load of z bytes at one address and a store of z bytes at another: the first check that one of
them fails decides. -/
def Ctx.checkPair (c : Ctx) (s : State) (from_ to_ : DWord) (z : Nat)
    (k : Nat → Nat → State → Res) : Res :=
  let a := c.checkOne s from_.toNat z .load
  let b := c.checkOne a.2 to_.toNat z .store
  match a.1, b.1 with
  | .ok pa, .ok pb => k pa pb b.2
  | .error f, .ok _ => c.failAt b.2 from_ f
  | .ok _, .error g => c.failAt b.2 to_ g
  | .error f, .error g => if g.order < f.order then c.failAt b.2 to_ g else c.failAt b.2 from_ f

/-- R339: the tile of a line that is dropped and of which no cached copy serves the core. -/
def Ctx.lineGone (c : Ctx) (s : State) (va pa : Nat) : Option Nat :=
  if (s.cachedCopy c.core (s.keyFor c.asid) (lineOf pa)).isSome then none else s.droppedAt c.asid va

/-- `n` lines read at issue, from the core's journal or from committed bytes; an earlier store of the CP that is
under way, a pending reduction, or a line that its slice holds is waited for; a line that stands nowhere parks. -/
def Ctx.readRecord (c : Ctx) (s : State) (va pa n : Nat) (acc : List Byte) (poison : Bool)
    (k : List Byte → Bool → State → Res) : Res :=
  match n with
  | 0 => k acc poison s
  | m + 1 =>
      match c.pool.ownWrite c.cid none pa 64, c.lineGone s va pa with
      | some o, _ => .stay (s.waitOp c.pid c.cid c.cp.pc o)
      | none, some r => c.failAt s (BitVec.ofNat 64 va) (.x (.tile r))
      | none, none =>
          if s.lineHeld (lineOf pa) then .stay (s.standAt c.pid c.cid .stall)
          else if !(s.pendingReds c.core pa 64).isEmpty then
            .stay ((s.forceReds c.core pa 64).standAt c.pid c.cid .stall)
          else
            let (r, s') := s.readFor c.pid c.core c.asid pa 64 false
            c.readRecord (s'.readAgain c.pid c.cid pa 64) (va + 64) (pa + 64) m (acc ++ r.bytes) (poison || r.poison) k

/-- An entry placed in the journal; the CP goes on once it is there. -/
def Ctx.placeEntry (c : Ctx) (s0 s : State) (va pa : Nat) (kind : EntryKind) (poison : Bool) : Res :=
  let e : Entry := { pool := c.pid, cp := c.cid, core := c.core, asid := c.asid, va := va, pa := pa
                     kind := kind, release := false, record := none }
  match s.enterJournal c.pid [e] with
  | .commitFirst ps => .stay (s0.forceFor c.pid c.cid ps)
  | .entered s' => .done (c.modCp s' fun cp => if poison then cp.setPoison else cp)

/-! ### LAUNCH (R323) -/

def execLaunch (p : Option Prefix) (d a : Byte) : State → Host.Outcome State Fault Refusal :=
  issue (.launch p d a) { memory := true, sregs := [d.toNat, a.toNat] } fun c s0 =>
    if c.slice then .trap 0x0F 0 0 0
    else if (c.s d).toNat % 64 ≠ 0 then .trap 0x09 0 0 (c.s d)
    else if (c.s a).toNat % 64 ≠ 0 then .trap 0x09 0 0 (c.s a)
    else c.checkPair s0 (c.s a) (c.s d) 64 fun pa ph s =>
      c.readRecord s (c.s a).toNat pa 1 [] false fun bs poison s' =>
        c.placeEntry s0 s' (c.s d).toNat ph (.launch bs) poison

/-! ### SPAWN (R50 to R52, R324) -/

/-- The child item of a thread: its first word and its arguments. -/
def Ctx.item (c : Ctx) (a t : Nat) : Word × Word × Word × Word :=
  (c.pool.reg t a, c.pool.reg t (a + 1), c.pool.reg t (a + 2), c.pool.reg t (a + 3))

/-- R51: a reserved flag, or an entry beyond the entry table. -/
def State.badItem (s : State) (asid : Nat) (w : Word) : Bool :=
  bits 31 17 w ≠ 0 || !((KMap.find? s.asids asid).any fun b => decide (bits 15 0 w < b.count))

/-- The items in a core's packing unit. -/
def State.packed (s : State) (core : Nat) : Nat :=
  ((s.packing.filter (·.core = core)).map fun p => p.items.length).sum

/-- R52: one item joins the pending pool of its entry, which is launched at 1,024 items or by the launch-now
flag.  The core that packs it has observed what its spawner has (R287). -/
def State.joinItem (s : State) (core asid pid : Nat) (queue : Option Nat) (it : Word × Word × Word × Word) :
    State :=
  let s := s.shareClock pid [core]
  let entry := bits 15 0 it.1
  let mine (p : Pending) : Bool := p.core = core && p.asid = asid && p.entry = entry
  let old := (s.packing.find? mine).getD ⟨core, asid, entry, queue, [], [], s.time⟩
  let p : Pending := { old with items := old.items ++ [it.2], spawners := (old.spawners ++ [pid]).dedup }
  let others := s.packing.filter fun q => !mine q
  if p.items.length = 1024 || it.1.getLsbD 16 then ({ s with packing := others } : State).launchPending p
  else { s with packing := others ++ [p] }

def execSpawn (p : Option Prefix) (a : Byte) : State → Host.Outcome State Fault Refusal :=
  issue (.spawn p a)
    { broadcast := true, runs := fun _ => [⟨a.toNat, 4, false⟩], perPass := fun _ => 2 } fun c s =>
    if c.slice then .trap 0x0F 0 0 0
    else
      let bad := c.tids.filter fun t => s.badItem c.asid (c.pool.reg t a.toNat)
      if bad ≠ [] then .trap 0x11 (Mask.ofTids bad) 0 0
      else if 4096 < s.packed c.core + c.tids.length then .stay (s.standAt c.pid c.cid .stall)
      else .done ((c.tids.map (c.item a.toNat)).foldl
        (fun s it => s.joinItem c.core c.asid c.pid c.pool.task.queue it) s)

/-! ### SUCC (R320, R325) -/

def execSucc (p : Option Prefix) : State → Host.Outcome State Fault Refusal :=
  issue (.succ p) {} fun c s =>
    if c.slice then .trap 0x0F 0 0 0
    else
      let sends := c.pool.task.record.succb != 0 && !c.pool.task.signalled
      let s1 := c.modPool s fun q => { q with task := { q.task with signalled := q.task.signalled || sends } }
      c.commitPoint {} (Instr.succ p).words s s1 none
        { signals := if sends then [(c.pid, true)] else [], marks := true } .go

/-! ### CPSTART and CPSTOP (R326, R327) -/

/-- R272: a scratchpad access, SLD or SST of the starter that has not taken effect; a scratchpad load has read at
its issue, and R165 lets its completion come later. -/
def Ctx.beforeStart (c : Ctx) : Option Op :=
  let mine (o : Op) : Bool := o.cp = c.cid && (match o.kind with
    | .sload | .sknown | .spad => true
    | .store => o.scalar
    | _ => false)
  match c.pool.ops.find? (fun o => mine o && !o.isParked) with
  | some o => some o
  | none => c.pool.ops.find? mine

/-- R272: the SSTs of the starter that a CP on another core of its cluster does not see yet: those that stand in the
journal of the starter's core until a commit is complete (log 38). -/
def Ctx.unseenStores (c : Ctx) (s : State) (i : Nat) : List Entry :=
  if c.pool.cpCore i = c.core then []
  else s.journal.filter fun e => e.pool = c.pid && e.cp = c.cid && e.scalar

/-- R326; an address that is no code address traps in the new CP, before it issues anything (R106). -/
def execCpstart (p : Option Prefix) (d a : Byte) : State → Host.Outcome State Fault Refusal :=
  issue (.cpstart p d a) { sregs := [d.toNat, a.toNat] } fun c s =>
    if c.slice then .trap 0x0F 0 0 0
    else if c.cid ≠ 0 then .illegal
    else
      let i := c.pool.started + 1
      if c.pool.cpsMax ≤ i then .trap 0x01 0 0x30 0
      else match c.beforeStart with
      | some o => .stay (s.waitOp c.pid c.cid c.cp.pc o)
      | none => match c.unseenStores s i with
      | e :: r => .stay (s.forceFor c.pid c.cid (if (e :: r).any (·.record.isNone) then [c.pid] else []))
      | [] =>
        let cp := Cp.start c.pool.threads (c.s d >>> 2) (c.s a) (bits 1 0 (c.s d))
        .done (c.modPool s fun q => { q with cps := KMap.put q.cps i cp, started := i })

/-- R327: a CP is ended from outside: its waits are abandoned, its hold and NOPRE interval end, a trap record of
it is withdrawn; it then takes the steps of END. -/
def Pool.stopCp (p : Pool) (i : Nat) : Pool :=
  let gone (o : Op) : Bool := o.cp = i && (o.isParked || o.kind == .sysc)
  let q : Pool := { p with ops := p.ops.filter fun o => !gone o }
  q.modCp i fun cp =>
    if cp.status == .running || cp.status == .trapped then
      { cp with status := .stopping, stand := .no, holdLeft := 0, nopre := none, trap := none }
    else cp

def execCpstop (p : Option Prefix) (a : Byte) : State → Host.Outcome State Fault Refusal :=
  issue (.cpstop p a) { sregs := [a.toNat] } fun c s =>
    let i := (c.s a).toNat
    if c.slice then .trap 0x0F 0 0 0
    else if 8 ≤ i || i = c.cid then .illegal
    else match c.pool.cp? i with
      | some t =>
          if t.status == .running || t.status == .trapped then .done (c.modPool s (·.stopCp i)) else .done s
      | none => .done s

/-! ### RCDEF (R330) -/

def execRcdef (p : Option Prefix) (d : Byte) (marks : BitVec 4) (r : TensorRecord) :
    State → Host.Outcome State Fault Refusal :=
  issue (.rcdef p d marks r) { memory := true, sregs := d.toNat :: recordRegs marks r } fun c s0 =>
    if c.slice then .trap 0x0F 0 0 0
    else if (c.s d).toNat % 128 ≠ 0 then .trap 0x09 0 0 (c.s d)
    else c.checkPair s0 (c.s d) (c.s d) 128 fun pa _ s =>
      c.readRecord s (c.s d).toNat pa 2 [] false fun bs poison s' =>
        let sizes := [c.recordWord marks 0 r.r0, c.recordWord marks 1 r.r1, c.recordWord marks 2 r.r2,
          c.recordWord marks 3 r.r3]
        c.placeEntry s0 s' (c.s d).toNat pa (.define bs sizes) poison

/-! ### RCRET, RCDROP and RCQRY (R331) -/

/-- The recipe an instruction names, for the tenant of its pool. -/
def Ctx.recipe (c : Ctx) (s : State) (a : Byte) : Option Recipe := s.recipeNamed (s.tenant c.asid) (c.s a).toNat

/-- A recipe instruction: it writes its answer to s_d. -/
def execRecipe (i : Instr) (d a : Byte) (f : Ctx → State → Option Recipe → Option (DWord × State)) :
    State → Host.Outcome State Fault Refusal :=
  issue i { sregs := [d.toNat, a.toNat] } fun c s =>
    if c.slice then .trap 0x0F 0 0 0
    else if bits 63 56 (c.s a) ≠ 0 then .trap 0x0A 0 0 (c.s a)
    else match f c s (c.recipe s a) with
      | some r => .done (c.modCp r.2 fun cp => cp.setS d.toNat r.1)
      | none => .stay (s.standAt c.pid c.cid .stall)

def execRcret (p : Option Prefix) (d a : Byte) : State → Host.Outcome State Fault Refusal :=
  execRecipe (.rcret p d a) d a fun _ s r =>
    match r with
    | none => some (1, s)
    | some r =>
        if r.state = .regenerating then none
        else if s.isSource r then some (2, s)
        else some (0, s.retire r)

def execRcdrop (p : Option Prefix) (d a : Byte) : State → Host.Outcome State Fault Refusal :=
  execRecipe (.rcdrop p d a) d a fun _ s r =>
    match r with
    | none => some (1, s)
    | some r =>
        match r.state with
        | .anchored => some (3, s)
        | .dropped | .failed => some (5, s)
        | .regenerating => some (6, s)
        | .resident => if r.isHeld then some (4, s) else some (0, s.dropTile r)

/-- R331: the state word; 0 where no live recipe has the tile base. -/
def State.recipeWord (s : State) (r : Recipe) : Nat :=
  r.state.code + 2 ^ 4 * r.err + 2 ^ 8 * (r.depth % 16) + (if r.isHeld then 2 ^ 12 else 0) +
  (if s.isSource r then 2 ^ 13 else 0) + 2 ^ 16 * (r.gen % 2 ^ 32) + 2 ^ 48 * min r.silent 0xFFFF

def execRcqry (p : Option Prefix) (d a : Byte) : State → Host.Outcome State Fault Refusal :=
  execRecipe (.rcqry p d a) d a fun _ s r =>
    match r with
    | none => some (0, s)
    | some r => some (BitVec.ofNat 64 (s.recipeWord r), s)

end Sys2Proof.Machine
end

