-- ==== Sys2Proof/Machine/Dispatch.lean ====
section
/-! DEFINITION. One arm per instruction: its meaning. -/

namespace Sys2Proof.Machine

/-- What an instruction, or a step of the device, does. -/
def exec (i : Instr) (s : State) : Host.Outcome State Fault Refusal :=
  match i with
  | .nop p => Sys2Proof.Machine.execNop p s
  | .end_ p => Sys2Proof.Machine.execEnd_ p s
  | .br p o => Sys2Proof.Machine.execBr p o s
  | .brc p d o => Sys2Proof.Machine.execBrc p d o s
  | .brz p o => Sys2Proof.Machine.execBrz p o s
  | .brnz p o => Sys2Proof.Machine.execBrnz p o s
  | .loop p d o => Sys2Proof.Machine.execLoop p d o s
  | .call p d o => Sys2Proof.Machine.execCall p d o s
  | .ret p a => Sys2Proof.Machine.execRet p a s
  | .bri p a lit => Sys2Proof.Machine.execBri p a lit s
  | .sadd p d a b => Sys2Proof.Machine.execSadd p d a b s
  | .ssub p d a b => Sys2Proof.Machine.execSsub p d a b s
  | .smul p d a b => Sys2Proof.Machine.execSmul p d a b s
  | .smulh p d a b => Sys2Proof.Machine.execSmulh p d a b s
  | .sand p d a b => Sys2Proof.Machine.execSand p d a b s
  | .sor p d a b => Sys2Proof.Machine.execSor p d a b s
  | .sxor p d a b => Sys2Proof.Machine.execSxor p d a b s
  | .sshl p d a b => Sys2Proof.Machine.execSshl p d a b s
  | .sshr p d a b => Sys2Proof.Machine.execSshr p d a b s
  | .ssar p d a b => Sys2Proof.Machine.execSsar p d a b s
  | .smin p d a b => Sys2Proof.Machine.execSmin p d a b s
  | .smax p d a b => Sys2Proof.Machine.execSmax p d a b s
  | .scmp p d a b => Sys2Proof.Machine.execScmp p d a b s
  | .ssel p d a b => Sys2Proof.Machine.execSsel p d a b s
  | .smov p d a => Sys2Proof.Machine.execSmov p d a s
  | .sli p d lo hi => Sys2Proof.Machine.execSli p d lo hi s
  | .spopc p d a => Sys2Proof.Machine.execSpopc p d a s
  | .sclz p d a => Sys2Proof.Machine.execSclz p d a s
  | .sfns p d a b => Sys2Proof.Machine.execSfns p d a b s
  | .sbrev p d a => Sys2Proof.Machine.execSbrev p d a s
  | .sld p d a sp => Sys2Proof.Machine.execSld p d a sp s
  | .sst p d a sp => Sys2Proof.Machine.execSst p d a sp s
  | .getst p d a => Sys2Proof.Machine.execGetst p d a s
  | .clrst p a => Sys2Proof.Machine.execClrst p a s
  | .setm p a => Sys2Proof.Machine.execSetm p a s
  | .setmLiteral p lit => Sys2Proof.Machine.execSetmLiteral p lit s
  | .setf p a => Sys2Proof.Machine.execSetf p a s
  | .setfLiteral p lit => Sys2Proof.Machine.execSetfLiteral p lit s
  | .getm p d => Sys2Proof.Machine.execGetm p d s
  | .getf p d => Sys2Proof.Machine.execGetf p d s
  | .srch p d a b => Sys2Proof.Machine.execSrch p d a b s
  | .srca p d a b => Sys2Proof.Machine.execSrca p d a b s
  | .srcx p => Sys2Proof.Machine.execSrcx p s
  | .popr p => Sys2Proof.Machine.execPopr p s
  | .pushm p m => Sys2Proof.Machine.execPushm p m s
  | .savm p m => Sys2Proof.Machine.execSavm p m s
  | .maskop p md ma mb op => Sys2Proof.Machine.execMaskop p md ma mb op s
  | .frst p => Sys2Proof.Machine.execFrst p s
  | .dropf p => Sys2Proof.Machine.execDropf p s
  | .rcount p d => Sys2Proof.Machine.execRcount p d s
  | .rget p d a => Sys2Proof.Machine.execRget p d a s
  | .rput p d b => Sys2Proof.Machine.execRput p d b s
  | .hold p b => Sys2Proof.Machine.execHold p b s
  | .relh p => Sys2Proof.Machine.execRelh p s
  | .rsum p d a => Sys2Proof.Machine.execRsum p d a s
  | .rmin p d a => Sys2Proof.Machine.execRmin p d a s
  | .rmax p d a => Sys2Proof.Machine.execRmax p d a s
  | .argmx p d a => Sys2Proof.Machine.execArgmx p d a s
  | .rand p d a => Sys2Proof.Machine.execRand p d a s
  | .ror p d a => Sys2Proof.Machine.execRor p d a s
  | .scan p d a excl op => Sys2Proof.Machine.execScan p d a excl op s
  | .match_ p d a => Sys2Proof.Machine.execMatch p d a s
  | .waitc p d b => Sys2Proof.Machine.execWaitc p d b s
  | .watch p ord scope a b => Sys2Proof.Machine.execWatch p ord scope a b s
  | .yield_ p => Sys2Proof.Machine.execYield_ p s
  | .nopre p => Sys2Proof.Machine.execNopre p s
  | .pre p => Sys2Proof.Machine.execPre p s
  | .ginit p a b => Sys2Proof.Machine.execGinit p a b s
  | .garr p d a => Sys2Proof.Machine.execGarr p d a s
  | .gexp p a b => Sys2Proof.Machine.execGexp p a b s
  | .gwait p a b => Sys2Proof.Machine.execGwait p a b s
  | .fence p ord scope => Sys2Proof.Machine.execFence p ord scope s
  | .vadd p d a b => Sys2Proof.Machine.execVadd p d a b s
  | .vsub p d a b => Sys2Proof.Machine.execVsub p d a b s
  | .vmul p d a b => Sys2Proof.Machine.execVmul p d a b s
  | .vmulh p d a b => Sys2Proof.Machine.execVmulh p d a b s
  | .vfma p d a b => Sys2Proof.Machine.execVfma p d a b s
  | .vmin p d a b => Sys2Proof.Machine.execVmin p d a b s
  | .vmax p d a b => Sys2Proof.Machine.execVmax p d a b s
  | .vabs p d a => Sys2Proof.Machine.execVabs p d a s
  | .vneg p d a => Sys2Proof.Machine.execVneg p d a s
  | .vclamp p d a b => Sys2Proof.Machine.execVclamp p d a b s
  | .vdot4 p d a b => Sys2Proof.Machine.execVdot4 p d a b s
  | .vscal p d a b => Sys2Proof.Machine.execVscal p d a b s
  | .vand p d a b => Sys2Proof.Machine.execVand p d a b s
  | .vor p d a b => Sys2Proof.Machine.execVor p d a b s
  | .vxor p d a b => Sys2Proof.Machine.execVxor p d a b s
  | .vandn p d a b => Sys2Proof.Machine.execVandn p d a b s
  | .vnot p d a => Sys2Proof.Machine.execVnot p d a s
  | .vshl p d a b => Sys2Proof.Machine.execVshl p d a b s
  | .vshr p d a b => Sys2Proof.Machine.execVshr p d a b s
  | .vsar p d a b => Sys2Proof.Machine.execVsar p d a b s
  | .vrot p d a b => Sys2Proof.Machine.execVrot p d a b s
  | .vpopc p d a => Sys2Proof.Machine.execVpopc p d a s
  | .vclz p d a => Sys2Proof.Machine.execVclz p d a s
  | .vctz p d a => Sys2Proof.Machine.execVctz p d a s
  | .vfns p d a b => Sys2Proof.Machine.execVfns p d a b s
  | .vbrev p d a => Sys2Proof.Machine.execVbrev p d a s
  | .vbfx p d a b => Sys2Proof.Machine.execVbfx p d a b s
  | .vbfi p d a b => Sys2Proof.Machine.execVbfi p d a b s
  | .vcmp p d a b cond => Sys2Proof.Machine.execVcmp p d a b cond s
  | .vsel p d a b => Sys2Proof.Machine.execVsel p d a b s
  | .vmov p d b => Sys2Proof.Machine.execVmov p d b s
  | .vmovScalar p d b => Sys2Proof.Machine.execVmovScalar p d b s
  | .vmovi p d lit => Sys2Proof.Machine.execVmovi p d lit s
  | .tid p d => Sys2Proof.Machine.execTid p d s
  | .vcvt p d a e8 src => Sys2Proof.Machine.execVcvt p d a e8 src s
  | .vpack p d a b => Sys2Proof.Machine.execVpack p d a b s
  | .vunpk p d a b => Sys2Proof.Machine.execVunpk p d a b s
  | .vrcp p d a => Sys2Proof.Machine.execVrcp p d a s
  | .vrsq p d a => Sys2Proof.Machine.execVrsq p d a s
  | .vsqt p d a => Sys2Proof.Machine.execVsqt p d a s
  | .vex2 p d a => Sys2Proof.Machine.execVex2 p d a s
  | .vlg2 p d a => Sys2Proof.Machine.execVlg2 p d a s
  | .vsin p d a => Sys2Proof.Machine.execVsin p d a s
  | .vcos p d a => Sys2Proof.Machine.execVcos p d a s
  | .vld p d a b w => Sys2Proof.Machine.execVld p d a b w s
  | .vst p d a b w => Sys2Proof.Machine.execVst p d a b w s
  | .vlds p d a size sx disp => Sys2Proof.Machine.execVlds p d a size sx disp s
  | .vsts p d a size disp => Sys2Proof.Machine.execVsts p d a size disp s
  | .vldw p d a size win => Sys2Proof.Machine.execVldw p d a size win s
  | .vstw p d a size win => Sys2Proof.Machine.execVstw p d a size win s
  | .vatomSpad p d a b w => Sys2Proof.Machine.execVatomSpad p d a b w s
  | .vatomGlobal p d a b w => Sys2Proof.Machine.execVatomGlobal p d a b w s
  | .vredSpad p d a b w => Sys2Proof.Machine.execVredSpad p d a b w s
  | .vredGlobal p d a b w => Sys2Proof.Machine.execVredGlobal p d a b w s
  | .pref p d a b w => Sys2Proof.Machine.execPref p d a b w s
  | .flush p scope => Sys2Proof.Machine.execFlush p scope s
  | .inv p d a scope => Sys2Proof.Machine.execInv p d a scope s
  | .vperm p d a b => Sys2Proof.Machine.execVperm p d a b s
  | .vshfl p d a delta kind => Sys2Proof.Machine.execVshfl p d a delta kind s
  | .vbcst p d a b => Sys2Proof.Machine.execVbcst p d a b s
  | .cpy p d a variant marks r => Sys2Proof.Machine.execCpy p d a variant marks r s
  | .gthr p m a b => Sys2Proof.Machine.execGthr p m a b s
  | .gdesc p d a => Sys2Proof.Machine.execGdesc p d a s
  | .mrg p d a variant marks r => Sys2Proof.Machine.execMrg p d a variant marks r s
  | .mma p d a b => Sys2Proof.Machine.execMma p d a b s
  | .mmaq p d a b => Sys2Proof.Machine.execMmaq p d a b s
  | .mmas p d a acc marks r => Sys2Proof.Machine.execMmas p d a acc marks r s
  | .mdrn p d a => Sys2Proof.Machine.execMdrn p d a s
  | .mzero p d => Sys2Proof.Machine.execMzero p d s
  | .launch p d a => Sys2Proof.Machine.execLaunch p d a s
  | .spawn p a => Sys2Proof.Machine.execSpawn p a s
  | .succ p => Sys2Proof.Machine.execSucc p s
  | .cpstart p d a => Sys2Proof.Machine.execCpstart p d a s
  | .cpstop p a => Sys2Proof.Machine.execCpstop p a s
  | .rcdef p d marks r => Sys2Proof.Machine.execRcdef p d marks r s
  | .rcret p d a => Sys2Proof.Machine.execRcret p d a s
  | .rcdrop p d a => Sys2Proof.Machine.execRcdrop p d a s
  | .rcqry p d a => Sys2Proof.Machine.execRcqry p d a s
  | .sysc p d a narg service => Sys2Proof.Machine.execSysc p d a narg service s
  | .trap p b => Sys2Proof.Machine.execTrap p b s
  | .chke p d => Sys2Proof.Machine.execChke p d s
  | .resultOpCompletion pool op sampleOnly => Sys2Proof.Machine.execResultOpCompletion pool op sampleOnly s
  | .performedOpCompletion pool op => Sys2Proof.Machine.execPerformedOpCompletion pool op s
  | .syscServiceDone pool op results data => Sys2Proof.Machine.execSyscServiceDone pool op results data s
  | .copyCompletion pool cmd => Sys2Proof.Machine.execCopyCompletion pool cmd s
  | .gatherCompletion pool cmd => Sys2Proof.Machine.execGatherCompletion pool cmd s
  | .mergeCompletion pool cmd => Sys2Proof.Machine.execMergeCompletion pool cmd s
  | .matrixCommandExecute pool cmd faults => Sys2Proof.Machine.execMatrixCommandExecute pool cmd faults s
  | .mdrnCompletion pool cmd => Sys2Proof.Machine.execMdrnCompletion pool cmd s
  | .gongWake pool cp => Sys2Proof.Machine.execGongWake pool cp s
  | .watchReread pool cp => Sys2Proof.Machine.execWatchReread pool cp s
  | .holdTimeout pool cp => Sys2Proof.Machine.execHoldTimeout pool cp s
  | .nopreBudget pool cp => Sys2Proof.Machine.execNopreBudget pool cp s
  | .packingTimeout core entry => Sys2Proof.Machine.execPackingTimeout core entry s
  | .faultRecordComplete asid page => Sys2Proof.Machine.execFaultRecordComplete asid page s
  | .parkedLoadReissue pool op => Sys2Proof.Machine.execParkedLoadReissue pool op s
  | .preemption pool => Sys2Proof.Machine.execPreemption pool s
  | .resume pool at_ => Sys2Proof.Machine.execResume pool at_ s
  | .taskDispatch at_ => Sys2Proof.Machine.execTaskDispatch at_ s
  | .tollIntervalBoundary => Sys2Proof.Machine.execTollIntervalBoundary s
  | .quantumBoundary => Sys2Proof.Machine.execQuantumBoundary s
  | .commitRecordAccept rec good => Sys2Proof.Machine.execCommitRecordAccept rec good s
  | .commitRecordApply rec slice => Sys2Proof.Machine.execCommitRecordApply rec slice s
  | .successorSignal idx => Sys2Proof.Machine.execSuccessorSignal idx s
  | .taskCompletion idx => Sys2Proof.Machine.execTaskCompletion idx s
  | .rollback pool => Sys2Proof.Machine.execRollback pool s
  | .coreFence core => Sys2Proof.Machine.execCoreFence core s
  | .sequencerError cluster => Sys2Proof.Machine.execSequencerError cluster s
  | .clusterFence cluster => Sys2Proof.Machine.execClusterFence cluster s
  | .clusterCacheError cluster line => Sys2Proof.Machine.execClusterCacheError cluster line s
  | .llcError line kind => Sys2Proof.Machine.execLlcError line kind s
  | .dieFence die => Sys2Proof.Machine.execDieFence die s
  | .viralEntry cause => Sys2Proof.Machine.execViralEntry cause s
  | .packageReset cold => Sys2Proof.Machine.execPackageReset cold s
  | .boot stages => Sys2Proof.Machine.execBoot stages s
  | .regenerationAdmit recipe => Sys2Proof.Machine.execRegenerationAdmit recipe s
  | .slicePoolPlace recipe at_ => Sys2Proof.Machine.execSlicePoolPlace recipe at_ s
  | .slicePoolEnd recipe => Sys2Proof.Machine.execSlicePoolEnd recipe s
  | .sliceTrap pool => Sys2Proof.Machine.execSliceTrap pool s
  | .regenHoldExpiry recipe => Sys2Proof.Machine.execRegenHoldExpiry recipe s
  | .recipeLineEviction recipe => Sys2Proof.Machine.execRecipeLineEviction recipe s
  | .inFieldTestDue cluster => Sys2Proof.Machine.execInFieldTestDue cluster s
  | .inFieldTestRun cluster => Sys2Proof.Machine.execInFieldTestRun cluster s
  | .inFieldTestSkip cluster => Sys2Proof.Machine.execInFieldTestSkip cluster s
  | .scClockReport core => Sys2Proof.Machine.execScClockReport core s
  | .scAccessPerform idx => Sys2Proof.Machine.execScAccessPerform idx s
  | .powerSample watts => Sys2Proof.Machine.execPowerSample watts s
  | .thermalTrip die => Sys2Proof.Machine.execThermalTrip die s
  | .deviceDmaRequest port rid write va len bytes => Sys2Proof.Machine.execDeviceDmaRequest port rid write va len bytes s
  | .pcieAtomicop port rid op wide va y x => Sys2Proof.Machine.execPcieAtomicop port rid op wide va y x s
  | .peerFlitReceive port flit => Sys2Proof.Machine.execPeerFlitReceive port flit s
  | .peerRequest port write va len bytes => Sys2Proof.Machine.execPeerRequest port write va len bytes s
  | .peerLinkFence port => Sys2Proof.Machine.execPeerLinkFence port s
  | .trapHandlerResume pool cp => Sys2Proof.Machine.execTrapHandlerResume pool cp s
  | .poolTerminate pool => Sys2Proof.Machine.execPoolTerminate pool s
  | .asidBind asid l4 entryTable entryCount keySlot => Sys2Proof.Machine.execAsidBind asid l4 entryTable entryCount keySlot s
  | .asidUnbind asid => Sys2Proof.Machine.execAsidUnbind asid s
  | .shootdown asid va len => Sys2Proof.Machine.execShootdown asid va len s
  | .queueBind header asid caplog cls => Sys2Proof.Machine.execQueueBind header asid caplog cls s
  | .queueUnbind queue => Sys2Proof.Machine.execQueueUnbind queue s
  | .class0Grant queue count => Sys2Proof.Machine.execClass0Grant queue count s
  | .wayMask asid slice ways => Sys2Proof.Machine.execWayMask asid slice ways s
  | .recipeLimit asid count => Sys2Proof.Machine.execRecipeLimit asid count s
  | .keyLoad slot => Sys2Proof.Machine.execKeyLoad slot s
  | .deviceBind port rid asid => Sys2Proof.Machine.execDeviceBind port rid asid s
  | .timing toll quantum period => Sys2Proof.Machine.execTiming toll quantum period s
  | .fenceCommand target => Sys2Proof.Machine.execFenceCommand target s
  | .viralCommand => Sys2Proof.Machine.execViralCommand s
  | .cxlWindow port base size => Sys2Proof.Machine.execCxlWindow port base size s
  | .powerLimit watts => Sys2Proof.Machine.execPowerLimit watts s
  | .attest nonce => Sys2Proof.Machine.execAttest nonce s
  | .illegalInstruction cause pc => Sys2Proof.Machine.execIllegalInstruction cause pc s
  | .inFieldTestEnd cluster failedCore sharedFailed => Sys2Proof.Machine.execInFieldTestEnd cluster failedCore sharedFailed s
  | .deviceWriteAcknowledge rec => Sys2Proof.Machine.execDeviceWriteAcknowledge rec s
  | .replaysClear => Sys2Proof.Machine.execReplaysClear s
  | .applicationDieAccess space write addr len bytes => Sys2Proof.Machine.execApplicationDieAccess space write addr len bytes s

end Sys2Proof.Machine
end

