-- ==== Sys2Proof/Machine/Shapes.lean ====
section
/-! DEFINITION. How each instruction issues, in one table: the slot it takes, the registers it names, whether it
waits for an acquire.  The statements speak of an instruction's shape through `shapeOf`. -/

namespace Sys2Proof.Machine

/-- The shape of a scalar instruction over scalar registers. -/
def scalarShape (regs : List Byte) : Shape := { sregs := regs.map (·.toNat) }

/-- R112: the clocks of an element-wise instruction over n operands. -/
def laneShape (d : Byte) (srcs : List Nat) (n : Nat) (fourth : Bool := false) : Shape :=
  threadShape (d.toNat :: srcs) (clocksWide n) fourth

/-- The shape of a bitwise instruction, a shift or a move. -/
def bitShape (d : Byte) (srcs : List Nat) (fourth : Bool := false) : Shape :=
  threadShape (d.toNat :: srcs) (fun _ => 1) fourth

/-- R195, R197: a scratchpad or window access of 8 bytes (`wide`) or less. -/
def spadShape (wide : Bool) (d a : Byte) : Shape where
  broadcast := true
  memory := true
  runs := fun _ => [run1 wide d.toNat, run32 a.toNat]
  perPass := clocksSize wide

/-- R201 to R203. -/
def permuteShape (d a : Byte) (runs : Ctx → List Run) (sregs : List Nat) : Shape where
  broadcast := true
  perPass := clocksSize false
  sregs := sregs
  runs := fun c => [run1 c.wide d.toNat, run1 c.wide a.toNat] ++ runs c

/-- R216, R220: a matrix command; `m` is the command as the context gives it. -/
def matrixShape (m : Ctx → MatrixCmd) (sregs : List Nat) (perPass : Ctx → Nat) : Shape where
  broadcast := true
  runs := fun c => (m c).runs
  sregs := sregs
  perPass := perPass
  memoryIf := fun c => (m c).readsSpad

/-- The matrix command that MMA, MMAQ, MMAS, MDRN or MZERO stands for. -/
def matrixOf (i : Instr) (c : Ctx) : MatrixCmd :=
  match i with
  | .mma _ d a b => c.matrixCmd .mma d.toNat 0 a.toNat b.toNat 0 0 0
  | .mmaq _ d a b => c.matrixCmd .mmaq d.toNat 0 a.toNat b.toNat 0 0 0
  | .mmas _ d a acc marks r => c.matrixCmd .mmas acc.toNat 0 d.toNat a.toNat (c.recordWord marks 0 r.r0)
      (c.recordWord marks 1 r.r1) (c.recordWord marks 2 r.r2)
  | .mdrn _ d a => c.matrixCmd .mdrn a.toNat d.toNat 0 0 0 0 0
  | .mzero _ d => c.matrixCmd .mzero d.toNat 0 0 0 0 0 0
  | _ => c.matrixCmd .mma 0 0 0 0 0 0 0

/-- How an instruction issues; an event issues in no slot. -/
def shapeOf : Instr → Shape
  | .brc _ d _ | .loop _ d _ | .call _ d _ => scalarShape [d]
  | .ret _ a | .bri _ a _ => scalarShape [a]
  | .sadd _ d a b | .ssub _ d a b | .smul _ d a b | .smulh _ d a b | .sand _ d a b | .sor _ d a b
  | .sxor _ d a b | .sshl _ d a b | .sshr _ d a b | .ssar _ d a b | .smin _ d a b | .smax _ d a b
  | .scmp _ d a b | .ssel _ d a b | .sfns _ d a b => scalarShape [d, a, b]
  | .smov _ d a | .spopc _ d a | .sclz _ d a | .sbrev _ d a => scalarShape [d, a]
  | .sli _ d _ _ | .getst _ d _ | .getm _ d | .getf _ d | .rcount _ d | .chke _ d => scalarShape [d]
  | .setm _ a | .setf _ a => scalarShape [a]
  | .sld _ d a _ | .sst _ d a _ => scalarAccess d a
  | .srch _ d a b => searchShape d a b
  | .srca _ d a b => { searchShape d a b with sweep := Ctx.all }
  | .pushm _ m | .savm _ m => { mregs := [m.toNat] }
  | .maskop _ md ma mb _ => { mregs := [md.toNat, ma.toNat, mb.toNat] }
  | .rget _ d a =>
      { broadcast := true, runs := fun c => [run1 c.wide a.toNat], sregs := [d.toNat], perPass := clocks12 }
  | .rput _ d b =>
      { broadcast := true, runs := fun c => [run1 c.wide d.toNat], sregs := [b.toNat], perPass := clocks12 }
  | .rsum _ d a | .rmin _ d a | .rmax _ d a | .argmx _ d a | .rand _ d a | .ror _ d a => reduceShape d a
  | .scan _ d a _ _ =>
      { broadcast := true, runs := fun c => [run1 c.wide d.toNat, run1 c.wide a.toNat], perPass := clocks12 }
  | .match_ _ d a =>
      { broadcast := true
        runs := fun c => [run1 (c.pool.group = 64) d.toNat, run1 c.wide a.toNat]
        perPass := clocks12 }
  | .watch _ _ _ a b | .ginit _ a b | .gexp _ a b | .gwait _ a b => { memory := true, sregs := [a.toNat, b.toNat] }
  | .garr _ d a | .inv _ d a _ | .launch _ d a => { memory := true, sregs := [d.toNat, a.toNat] }
  | .vadd _ d a b | .vsub _ d a b | .vmin _ d a b | .vmax _ d a b | .vcmp _ d a b _ =>
      laneShape d [a.toNat, b.toNat] 2
  | .vmul _ d a b | .vmulh _ d a b => laneShape d [a.toNat, b.toNat] 4
  | .vfma _ d a b => laneShape d [a.toNat, b.toNat] 4 true
  | .vclamp _ d a b => laneShape d [a.toNat, b.toNat] 2 true
  | .vabs _ d a | .vneg _ d a => laneShape d [a.toNat] 2
  | .vdot4 _ d a b | .vbfx _ d a b | .vbfi _ d a b | .vsel _ d a b => bitShape d [a.toNat, b.toNat] true
  | .vscal _ d a b | .vand _ d a b | .vor _ d a b | .vxor _ d a b | .vandn _ d a b | .vshl _ d a b
  | .vshr _ d a b | .vsar _ d a b | .vrot _ d a b | .vfns _ d a b | .vpack _ d a b =>
      bitShape d [a.toNat, b.toNat]
  | .vnot _ d a | .vpopc _ d a | .vclz _ d a | .vctz _ d a | .vbrev _ d a => bitShape d [a.toNat]
  | .vunpk _ d a b => { bitShape d [a.toNat] with legal := fun c => c.unpackIndex b }
  | .vmov _ d b => bitShape d [b.toNat]
  | .vmovScalar _ d b => { bitShape d [] with sregs := [b.toNat] }
  | .vmovi _ d _ | .tid _ d => bitShape d []
  | .vcvt _ d a e8 src =>
      { broadcast := true
        runs := fun c => [run1 (!decide (e8 = 1) && c.wide) d.toNat, run1 ((Ty.ofCode src.toNat).width = 64) a.toNat]
        perPass := fun c => if (Ty.ofCode src.toNat).width = 64 || (!decide (e8 = 1) && c.wide) then 2 else 1 }
  | .vrcp _ d a | .vrsq _ d a | .vsqt _ d a | .vex2 _ d a | .vlg2 _ d a | .vsin _ d a | .vcos _ d a =>
      threadShape [d.toNat, a.toNat] fun _ => 4
  | .vld _ d a b _ | .vst _ d a b _ | .vredGlobal _ d a b _ => globalShape a b fun c => [run1 c.wide d.toNat]
  | .vatomGlobal _ d a b w =>
      globalShape a b fun c => [run1 c.wide d.toNat] ++ if w.op = 7 then [run1 c.wide c.x] else []
  | .pref _ _ a b _ => globalShape a b fun _ => []
  | .vlds _ d a size _ _ | .vsts _ d a size _ => spadShape (sizeBytes size = 8) d a
  | .vldw _ d a size _ | .vstw _ d a size _ => spadShape (size = 1) d a
  | .vatomSpad _ d a b w =>
      { broadcast := true, memory := true, perPass := clocksSize false
        runs := fun c => [run1 c.wide d.toNat, run32 a.toNat, run1 c.wide b.toNat] ++
          if w.op = 7 then [run1 c.wide c.x] else [] }
  | .vredSpad _ d a _ _ =>
      { broadcast := true, memory := true, perPass := clocksSize false
        runs := fun c => [run1 c.wide d.toNat, run32 a.toNat] }
  | .vperm _ d a b => permuteShape d a (fun c => [run1 c.wide b.toNat]) []
  | .vshfl _ d a _ _ => permuteShape d a (fun _ => []) []
  | .vbcst _ d a b => permuteShape d a (fun _ => []) [b.toNat]
  | .cpy _ d a _ marks r | .mrg _ d a _ marks r =>
      { memory := true, sregs := [d.toNat, a.toNat] ++ recordRegs marks r }
  | .gthr _ m a _ => gthrShape m a
  | .gdesc _ _ a => { sregs := [a.toNat, a.toNat + 1, a.toNat + 2, a.toNat + 3] }
  | .mma p d a b => matrixShape (matrixOf (.mma p d a b)) [] fun c => (matrixOf (.mma p d a b) c).clocks
  | .mmaq p d a b => matrixShape (matrixOf (.mmaq p d a b)) [] fun c => (matrixOf (.mmaq p d a b) c).clocks
  | .mmas p d a acc marks r => matrixShape (matrixOf (.mmas p d a acc marks r)) (recordRegs marks r)
      fun c => (matrixOf (.mmas p d a acc marks r) c).clocks
  | .mdrn p d a => matrixShape (matrixOf (.mdrn p d a)) [] fun _ => 1
  | .spawn _ a => { broadcast := true, runs := fun _ => [⟨a.toNat, 4, false⟩], perPass := fun _ => 2 }
  | .cpstart _ d a | .rcret _ d a | .rcdrop _ d a | .rcqry _ d a => scalarShape [d, a]
  | .cpstop _ a => scalarShape [a]
  | .rcdef _ d marks r => { memory := true, sregs := d.toNat :: recordRegs marks r }
  | .sysc _ d a narg _ =>
      { broadcast := true
        runs := fun _ => [run1 true d.toNat, ⟨a.toNat, narg.toNat, false⟩]
        perPass := clocksSize false }
  | _ => {}

/-- R102, R182: the counter that an engine command raises. -/
def engineClass : Instr → Option Nat
  | .cpy .. => some 0
  | .gthr .. => some 1
  | .mrg .. => some 2
  | .mma .. | .mmaq .. | .mmas .. | .mdrn .. | .mzero .. => some 3
  | _ => none

end Sys2Proof.Machine
end

