-- ==== Sys2Proof/Machine/Schedule.lean ====
section
/-! DEFINITION. What moves next (log 1): the issue slots and their arbiters (R48, R169 to R171), the issue of a CP,
the moves of the agenda, and, where the agenda is empty, the model's own order: due events and CPs in turn (R55).
Step.lean only calls this file. -/

namespace Sys2Proof.Machine

/-! ### The issue of a CP -/

/-- R104 to R106: a CP issues what stands at its PC: between clauses a header, inside one an instruction, or
the trap of a word that is none. -/
def State.issueAt (s : State) (p c : Nat) : Host.Outcome State Fault Refusal :=
  match s.ctxOf p c with
  | none => .next s
  | some x =>
      match x.cp.clause with
      | none => .next (s.beginClause p c)
      | some cl =>
          match s.instrAt x.core x.asid x.pool.placed x.cp.pc cl.header cl.stop with
          | .instr i s' => exec i s'
          | .trap cause pc => exec (.illegalInstruction cause pc) s
          | .park k s' =>
              .next (s'.standAt p c (.parkedFetch k))

/-- Every CP of the pools in place. -/
def State.cpNames (s : State) : List (Nat × Nat) :=
  s.pools.flatMap fun e => e.2.cps.map fun c => (e.1, c.1)

/-! ### Slots and their arbiters (R48, R169 to R171, R237) -/

/-- R170: what keeps an instruction from being a ready candidate: the traps and stalls that its checks come to take
no slot. -/
def Ctx.ready (x : Ctx) (i : Instr) : Bool :=
  let h := shapeOf i
  let runs := h.runs x
  i.wellFormed && h.legal x && runs.all (·.ok x.pool.allot) && (x.interlock runs h.sregs).isNone &&
    !x.engineInterlock runs (h.mregs ++ x.pfxMask) && (if h.memory || h.memoryIf x then x.acquiring else none).isNone &&
    (match engineClass i with | some cls => decide (x.cp.counter cls < 63) | none => true)

/-- R170: the slot for which the next instruction of a CP is a ready candidate; `true` is the broadcast slot. -/
def State.wants (s : State) (p c : Nat) : Option Bool :=
  match s.ctxOf p c with
  | none => none
  | some x =>
      if !s.canIssue p c || decide (s.now < x.cp.next) then none
      else match x.cp.clause with
        | none => none
        | some cl =>
            match s.instrAt x.core x.asid x.pool.placed x.cp.pc cl.header cl.stop with
            | .instr i _ => if ({ x with pfx := i.pfx } : Ctx).ready i then some (shapeOf i).broadcast else none
            | _ => none

/-- R48: the CP of a pool that the order arbiter grants the next point: the one whose hold it has granted, else the
one whose broadcast waits for its slot with the point granted (R170), else the first in rotating order after the CP
granted last. -/
def State.arbiterPick (s : State) (pid : Nat) (p : Pool) : Option Nat :=
  let l := (p.cps.filter fun e => s.wants pid e.1 = some true).map (·.1)
  match List.find? (fun e => e.2.inUnit) p.cps with
  | some u => l.find? (· = u.1)
  | none =>
      match l.find? fun c => (p.cp? c).any fun x => x.ready.isSome with
      | some c => some c
      | none => (l.filter (p.granted < ·) ++ l.filter (· ≤ p.granted)).head?

/-- A ready candidate: its CP, its priority (the least first), since when it is ready, what a grant to it counts as,
the grants to others that it has seen, each broadcast by itself, and those that holds among them have still to come
(R171), the broadcasts that it has before it itself, its context number, its slots. -/
structure Candidate where
  pool : Nat
  cp : Nat
  rank : Nat
  since : Nat
  unit : Nat × Nat × Nat
  passed : List (Nat × Nat × Nat)
  owed : Nat
  left : Nat
  context : Nat
  slots : List Nat
  deriving DecidableEq, Repr

/-- R171: the broadcasts that are still to come of the hold that a grant belongs to. -/
def State.unitLeft (s : State) (u : Nat × Nat × Nat) : Nat :=
  match s.cp? u.1 u.2.1 with
  | some c => if c.holding && c.holdSince = u.2.2 then c.holdLeft else 0
  | none => 0

/-- R237: the clocks that a broadcast of a cluster pool stands ready before it is a candidate. -/
def Pool.grantDelay (p : Pool) (broadcast : Bool) : Nat := if broadcast && 6 < p.parts.length then 6 else 0

/-- The slots for which an instruction of a CP is a candidate. -/
def Pool.slotsFor (p : Pool) (cid : Nat) (broadcast : Bool) : List Nat :=
  if broadcast then p.parts.map (2 * ·) else [2 * p.cpPartition cid + 1]

/-- R170, R237: the candidate that a CP is for a slot; in the broadcast slot one with an open hold comes first. -/
def State.candidate (s : State) (pid : Nat) (p : Pool) (cid : Nat) (broadcast : Bool) : Option Candidate :=
  match p.cp? cid with
  | none => none
  | some c =>
      let since := c.ready.getD s.now + p.grantDelay broadcast
      let hold := broadcast && c.holding
      if s.now < since then none
      else some {
        pool := pid
        cp := cid
        rank := if hold then 2 else 3
        since := since
        unit := (pid, cid, if hold then c.holdSince else s.now)
        passed := c.passed
        owed := c.passed.length + (c.passed.dedup.map s.unitLeft).sum
        left := if hold then c.holdLeft else 1
        context := (p.contexts.getD cid (0, 0)).2
        slots := p.slotsFor cid broadcast }

/-- R170: the higher priority, then the longest ready, then the lower context number. -/
def Candidate.before (a b : Candidate) : Bool :=
  let key (x : Candidate) : List Nat := [x.rank, x.since, x.context, x.pool, x.cp]
  decide (key a < key b)

/-- R171: the grants to other contexts that a candidate has seen, a whole hold as one; a completion point goes to
none. -/
def Candidate.units (a : Candidate) : Nat := (a.passed.dedup.filter (·.2.1 ≠ 8)).length

/-- R171: the candidates without a hold that would be granted a slot later than after seven grants to others, or later
than after 112 broadcasts, were one more hold begun before them. -/
def urgent (l : List Candidate) (slot : Nat) : List Candidate :=
  let w := l.filter fun a => a.rank = 3 && a.slots.contains slot
  w.filter fun a =>
    let n := (w.filter (·.before a)).length
    decide (7 ≤ a.units + n ∨ 112 < a.owed + n + 16)

/-- Every ready candidate of the package, before R171. -/
def State.candidatesNow (s : State) : List Candidate :=
  s.pools.flatMap fun e =>
    (e.2.cps.filterMap fun c => if s.wants e.1 c.1 = some false then s.candidate e.1 e.2 c.1 false else none) ++
    ((s.arbiterPick e.1 e.2).bind fun c => s.candidate e.1 e.2 c true).toList

/-- R171: a candidate at slots where some are urgent: those without a hold go before every hold but one that each of
the urgent ones has counted already (log 3). -/
def Candidate.bounded (l : List Candidate) (a : Candidate) : Candidate :=
  match a.slots.flatMap (urgent l) with
  | [] => a
  | u => { a with rank := if a.rank = 3 then 1 else if u.all (·.passed.contains a.unit) then 0 else a.rank }

/-- R170, R171: every ready candidate of the package. -/
def State.issuers (s : State) : List Candidate := s.candidatesNow.map (Candidate.bounded s.candidatesNow)

/-- R170: a CP is granted its slots: they are free, and no candidate for one of them comes before it. -/
def State.granted (s : State) (p c : Nat) : Bool :=
  match s.issuers.find? fun a => a.pool = p && a.cp = c with
  | none => false
  | some a =>
      (a.slots.all fun k => decide (KMap.get s.slots 0 k ≤ s.now)) &&
      !(s.issuers.any fun b => b.before a && b.slots.any a.slots.contains)

/-- A CP whose turn may come at this clock: one that is granted its slot, or one that can issue and wants none, a
clause header, a trap or a stall standing at its PC. -/
def State.mayTurn (s : State) (p c : Nat) : Bool :=
  s.canIssue p c && (match s.cp? p c with | some x => decide (x.next ≤ s.now) | none => false) &&
    (match s.wants p c with
    | none => true
    | some _ => s.granted p c)

/-- R171: the grants that hold some slots. -/
def State.unitsAt (s : State) (slots : List Nat) : List (Nat × Nat × Nat) :=
  (slots.filter fun k => decide (s.now < KMap.get s.slots 0 k)).filterMap (KMap.find? s.slotUnits)

/-- R170, R171: the clock in which a candidate has waited: it is ready since the clock it became so; a grant that
holds its slot when it becomes a candidate is the first that it sees. -/
def State.noteWait (s : State) (p : Pool) (cid : Nat) (c : Cp) (broadcast : Bool) : Cp :=
  let since := c.ready.getD s.now
  let seen := (s.unitsAt (p.slotsFor cid broadcast)).dedup.filter (!c.passed.contains ·)
  { c with
    ready := some since
    passed := if s.now = since + p.grantDelay broadcast then c.passed ++ seen else c.passed }

/-- R170: the candidates that have waited this clock; a broadcast is one once its pool's arbiter has granted it the
next point. -/
def State.noteReadyCps (s : State) : State :=
  { s with pools := s.pools.map fun e => (e.1, { e.2 with cps := e.2.cps.map fun c =>
      let waits := match s.wants e.1 c.1 with
        | none => none
        | some false => some false
        | some true => if s.arbiterPick e.1 e.2 = some c.1 then some true else none
      (c.1, match waits with
        | some b => s.noteWait e.2 c.1 c.2 b
        | none => { c.2 with ready := none, passed := [] }) }) }

/-- R171: a grant of some slots, made in the step from `s` to `t`: the other candidates for them have seen it. -/
def State.countGrant (s t : State) (unit : Nat × Nat × Nat) (slots : List Nat) : State :=
  (s.candidatesNow.filter fun b => (b.pool, b.cp) ≠ (unit.1, unit.2.1) && b.slots.any slots.contains).foldl
    (fun t b => t.modCp b.pool b.cp fun x => { x with passed := x.passed ++ [unit] })
    { t with slotUnits := slots.foldl (fun m k => KMap.put m k unit) t.slotUnits }

/-- R171: in the step to `t` a CP was granted its slots, where they are held for longer. -/
def State.passOver (s t : State) (p c : Nat) : State :=
  match s.candidatesNow.find? fun a => a.pool = p && a.cp = c with
  | none => t
  | some a => if t.slots = s.slots then t else s.countGrant t a.unit a.slots

/-! ### Completion points (R172) -/

/-- R172: the slots that a step from `s` to `t` holds for longer: an event does so only where it is a completion
point. -/
def State.heldLonger (s t : State) : List Nat :=
  if t.slots = s.slots then [] else (t.slots.filter fun e => decide (KMap.get s.slots 0 e.1 < e.2)).map (·.1)

/-- R171, R172: a completion point waits for its slots to be free, and for every candidate that one more grant would
keep beyond 112 of them, each of at most 128 clocks (log 3). -/
def State.slotsWait (s t : State) : Bool :=
  (s.heldLonger t).any fun k =>
    let w := s.candidatesNow.filter (·.slots.contains k)
    decide (s.now < KMap.get s.slots 0 k) ||
      w.any fun a => decide (112 ≤ a.owed + ((w.filter (· != a)).map (·.left)).sum)

/-- R171, R172: a completion point is a grant too, to no context. -/
def State.countPoint (s t : State) : State :=
  match s.heldLonger t with
  | [] => t
  | k :: r => s.countGrant t (k, 8, s.now) (k :: r)

/-- One arithmetic clock passes; what the device itself notes as time passes is noted (R180, R249, R312, R314,
R346), and the reads that ports hold are tried again. -/
def State.tick (s : State) : State :=
  let s := ({ s.noteReadyCps with now := s.now + 1, time := s.time + s.clockTicks } :
    State).noteReady.noteBlocked.noteTests.noteUndo.settleCommands
  (if s.phase = .running && s.viral.isNone then s.noteDies else s).serveReads

/-- R48, R55: the next CP in turn, in rotating order after the one that issued last. -/
def State.nextCp (s : State) : Option (Nat × Nat) :=
  let l := s.cpNames
  let after (x : Nat × Nat) : Bool := s.focus.1 < x.1 || (s.focus.1 = x.1 && s.focus.2 < x.2)
  (l.filter after ++ l.filter fun x => !after x).find? fun x => s.mayTurn x.1 x.2

/-! ### Due events -/

/-- The events of the pools: their operations, commands and waits. -/
def State.poolEvents (s : State) : List Instr :=
  s.pools.flatMap fun e =>
    (e.2.ops.flatMap fun o => match o.kind with
      | .sysc => []
      | k => if o.isParked then [Instr.parkedLoadReissue e.1 o.id]
          else if k.isResult then [Instr.resultOpCompletion e.1 o.id false]
          else [Instr.performedOpCompletion e.1 o.id]) ++
    (e.2.cmds.map fun k => match k.kind with
      | .copy _ => Instr.copyCompletion e.1 k.id
      | .gather _ => Instr.gatherCompletion e.1 k.id
      | .merge _ => Instr.mergeCompletion e.1 k.id
      | .matrix m => if m.op = .mdrn then Instr.mdrnCompletion e.1 k.id else Instr.matrixCommandExecute e.1 k.id []) ++
    (e.2.cps.flatMap fun c => [Instr.holdTimeout e.1 c.1, Instr.nopreBudget e.1 c.1]) ++
    (if e.2.rslice then [Instr.sliceTrap e.1] else [])

/-- The events of the commit engine, with the SC clocks that a held access waits for (R287). -/
def State.commitEvents (s : State) : List Instr :=
  (s.records.flatMap fun r =>
    if !r.accepted then [Instr.commitRecordAccept r.id true]
    else (r.left.map fun h => Instr.commitRecordApply r.id h) ++
      (if r.sys then [Instr.deviceWriteAcknowledge r.id] else [])) ++
  (s.unacked.map fun e => Instr.deviceWriteAcknowledge e.1) ++
  ((List.range s.held.length).map fun i => Instr.scAccessPerform i) ++
  (let m := (s.held.map (·.stamp) ++ s.records.filterMap fun r => r.stamp.map (·.1)).foldl max 0
   if m = 0 then [] else
     ((List.range Config.cores).filter fun c => s.coreLive c && decide (KMap.get s.scReport 0 c < m)).map
       fun c => Instr.scClockReport c)

/-- The pre-emptions that may make room for what does not fit (R314), and the event by which the dispatcher places the
first candidate that fits. -/
def State.placeEvents (s : State) : List Instr :=
  let s := s.noteReady
  if s.candidates.isEmpty then []
  else
    let f := s.first
    (if f.chosen.isEmpty && s.stuckRegens.isEmpty then []
     else (s.pools.filter fun e => e.2.preemptable).map fun e => Instr.preemption e.1) ++
    match f.cand with
    | none => []
    | some c =>
        let at_ := (s.candPlace f.blocked c).getD ⟨[], []⟩
        match c with
        | .regen r => [Instr.slicePoolPlace r at_]
        | .head _ => [Instr.taskDispatch at_]
        | .resume p => [Instr.resume p at_]

/-- The events of queues, tasks, packing units and recipes. -/
def State.workEvents (s : State) : List Instr :=
  ((List.range s.signals.length).map fun i => Instr.successorSignal i) ++
  ((List.range s.completions.length).map fun i => Instr.taskCompletion i) ++
  (s.packing.map fun p => Instr.packingTimeout p.core p.entry) ++
  [Instr.tollIntervalBoundary, Instr.quantumBoundary] ++
  (s.recipes.flatMap fun e =>
    [Instr.regenerationAdmit e.1, Instr.slicePoolEnd e.1, Instr.regenHoldExpiry e.1]) ++
  (s.evicted.map fun r => Instr.recipeLineEviction r) ++
  s.placeEvents

/-- The events of the in-field test (R249), which passes unless the agenda says otherwise. -/
def State.testEvents (s : State) : List Instr :=
  (List.range Config.clusters).flatMap fun k =>
    match KMap.find? s.tests k with
    | none => if decide ((s.test k).nextDue ≤ s.time) then [Instr.inFieldTestDue k] else []
    | some t =>
        if t.running then [Instr.inFieldTestEnd k none false]
        else if t.due.isSome then
          (s.poolsOn k).map (fun e => Instr.preemption e.1) ++ [Instr.inFieldTestRun k, Instr.inFieldTestSkip k]
        else if decide (t.nextDue ≤ s.time) then [Instr.inFieldTestDue k] else []

/-- An action of the device's own schedule: an event; the next step of a CP that CPSTOP ends (R327); the peer
requests of a SYSC, and the flits that carry them (R350, R351). -/
inductive Due where
  | event (i : Instr)
  | stop (pool cp : Nat)
  | peer
  | send (port : Nat)

def State.dueList (s : State) : List Due :=
  (if s.syscOps.any fun x => peerService x.2.aop then [Due.peer] else []) ++
  ((s.links.filter fun l => !l.2.queue.isEmpty).map fun l => Due.send l.1) ++
  ((s.cpNames.filter fun x => (s.cp? x.1 x.2).any fun c => c.status == .stopping).map fun x => Due.stop x.1 x.2) ++
  (s.poolEvents ++ s.commitEvents ++ s.workEvents ++ s.testEvents).map Due.event

/-- R172: an event takes place, or, as a completion point that waits, not yet. -/
def State.doEvent (s : State) (i : Instr) : Host.Outcome State Fault Refusal :=
  match exec i s with
  | .next t => .next (if s.slotsWait t then s else s.countPoint t)
  | x => x

def State.doDue (s : State) (d : Due) : Host.Outcome State Fault Refusal :=
  match d with
  | .event i => s.doEvent i
  | .stop p c => .next (s.stopStep p c)
  | .peer => .next s.startPeer
  | .send port => .next (s.sendFlit port)

/-- The first of a list of actions that changes something. -/
def State.firstDue (s : State) (l : List Due) : Option (Host.Outcome State Fault Refusal) :=
  match l with
  | [] => none
  | d :: r =>
      match s.doDue d with
      | .next t => if t = s then s.firstDue r else some (.next t)
      | x => some x

/-- The list of due actions, begun at another place at every clock, so that none is passed over for ever. -/
def State.rotated (s : State) (l : List Due) : List Due :=
  l.drop (s.now % max 1 l.length) ++ l.take (s.now % max 1 l.length)

/-! ### The next move -/

/-- A due action is taken; a clock passes first where no CP's turn may come at this one. -/
def State.eventStep (s : State) : Host.Outcome State Fault Refusal :=
  let s : State := { s with eventTurn := false }
  let s := if s.nextCp.isNone then s.tick else s
  match s.firstDue (s.rotated s.dueList) with
  | some r => r
  | none => .next s

/-- A CP has had its turn at a clock: the next comes at a later one.  So a clause header, a stall and a trap cost it
one clock, for which R169 gives no time (log 3). -/
def State.turned (s : State) (p c : Nat) : State :=
  s.modCp p c fun x => { x with next := max x.next (s.now + 1), ready := none, passed := [] }

/-- The CP whose turn it is issues; after it, events have their turn. -/
def State.issueTurn (s : State) (p c : Nat) : Host.Outcome State Fault Refusal :=
  if s.mayTurn p c then
    match ({ s with focus := (p, c), eventTurn := true } : State).issueAt p c with
    | .next t => .next ((s.passOver t p c).turned p c)
    | x => x
  else .next s

/-- The model's own order. -/
def State.autoStep (s : State) : Host.Outcome State Fault Refusal :=
  if s.eventTurn then s.eventStep
  else match s.nextCp with
    | some (p, c) => s.issueTurn p c
    | none => s.eventStep

/-- A step of the device that is no CP's: an instruction, or a word that is none, comes only by its CP's turn. -/
def isDeviceStep : Instr → Bool
  | .illegalInstruction _ _ => false
  | i => i.opcode.isNone

/-- The CP whose turn may come issues, else a clock passes (R171), which leaves this much of the agenda. -/
def State.letPass (s : State) (agenda : List Move) : Host.Outcome State Fault Refusal :=
  match s.nextCp with
  | some (p, c) => s.issueTurn p c
  | none => .next { s.tick with agenda := agenda }

/-- An event that the agenda names, once its slots may be held (R172). -/
def State.agendaEvent (s : State) (i : Instr) (r : List Move) : Host.Outcome State Fault Refusal :=
  match exec i { s with agenda := r } with
  | .next t => if s.slotsWait t then s.letPass s.agenda else .next (s.countPoint t)
  | x => x

/-- The next move: that of the agenda, or the model's own. -/
def State.move (s : State) : Host.Outcome State Fault Refusal :=
  match s.agenda with
  | .event i :: r => if isDeviceStep i then s.agendaEvent i r else .next { s with agenda := r }
  | .issue p c :: r => ({ s with agenda := r } : State).issueTurn p c
  | .pass n :: r => s.letPass (if n ≤ 1 then r else .pass (n - 1) :: r)
  | .corrected core :: r =>
      .next (if core < Config.cores && s.coreLive core then ({ s with agenda := r } : State).logEvent (.coreCorrected core)
        else { s with agenda := r })
  | .lineCorrected line :: r =>
      .next (if s.isMemory (64 * line) then ({ s with agenda := r } : State).logEvent (.corrected line)
        else { s with agenda := r })
  | .send :: r => .next ((List.range 8).foldl State.sendFlit ({ s with agenda := r } : State).startPeer)
  | [] => s.autoStep

/-! ### A program in place -/

/-- A pool of one thread and one CP, in a clause of six words that begins at word address `pc`. -/
def Pool.single (pc : DWord) (words : Nat) : Pool :=
  let t : Task := Task.ofRecord ⟨pc <<< 2, 0, 0, 0, 0, 0, 0⟩ 0 none none
  let p : Pool := t.newPool ⟨1, 256, 4, 1, false⟩
  let cp : Cp := { Cp.start 1 pc 0 with clause := some ⟨pc - 1, pc + BitVec.ofNat 64 words, 15, 15⟩ }
  ({ p with cps := [(0, cp)], parts := [0], spadUnits := [(0, 4)], contexts := [(0, 0)] } : Pool).checkpoint

/-- Where `placeWords` puts code, and the tables that map the first GiB onto itself. -/
def codeAddr : Nat := 0x10004
def tableAddr : Nat := 0x2000

/-- A pool of one CP about to issue the instruction that `ws` begin with, its code mapped and in memory. -/
def State.placeWords (s : State) (ws : List Word) : State :=
  let cells (m : List Host.Cell) (a : Nat) (bs : List Byte) := Memory.writeBytes m a bs
  let header : Word := BitVec.ofNat 32 (0x3C * 2 ^ 26 + 15 * 2 ^ 10 + 15 * 2 ^ 6 + ws.length)
  let mem := cells s.mem (codeAddr - 4) ((header :: ws).flatMap Word.bytes)
  let mem := cells mem tableAddr (toBytes (tableAddr + 0x1000 + 1) 8)
  let mem := cells mem (tableAddr + 0x1000) (toBytes (tableAddr + 0x2000 + 1) 8)
  let mem := cells mem (tableAddr + 0x2000) (toBytes 0x19F 8)
  { s with
    mem := mem
    asids := KMap.put s.asids 0 ⟨tableAddr, 0, 0, 0⟩
    pools := KMap.put s.pools 0 { Pool.single (BitVec.ofNat 64 (codeAddr / 4)) ws.length with
      placed := s.overwritten.length }
    agenda := []
    focus := (0, 0)
    eventTurn := false
    phase := .running
    viral := none }

end Sys2Proof.Machine
end

