-- ==== Sys2Proof/Machine/Step.lean ====
section
/-! DEFINITION. One step of the package, and the state in which it is about to run a given instruction. -/

namespace Sys2Proof.Machine

/-- One step: the next move (log 1). -/
def step (s : State) : Host.Outcome State Fault Refusal := s.move

/-- A state whose next step fetches and runs the instruction of `nbits` bits `w`, numbered as the opcode table
numbers them (log 12). -/
def State.withFetchWord (s : State) (nbits w : Nat) : State := s.placeWords (tableWords (w % 2 ^ nbits))

end Sys2Proof.Machine
end

