-- ==== Sys2Proof/Claims.lean ====
section
/-! DEFINITION. The terms in which the statements speak: when an instruction issues with its own effect, what
moving past it does to a control program, and what it leaves as it was. -/

namespace Sys2Proof.Machine

/-! ### When an instruction issues -/

/-- An instruction of the focused CP issues with its own effect: the CP runs inside a clause, no open hold or NOPRE
interval is over its limit (R47, R160), the words are legal (R105 step 5), every run of thread registers lies
in the allotment (R26), no interlock (R18, R223, R266), no other CP's granted hold (R45, R48) and no pending acquire
(R200, R259) keeps it back. -/
structure Issues (i : Instr) (c : Ctx) (s : State) : Prop where
  focus : s.focus = (c.pid, c.cid)
  pool : s.pool? c.pid = some c.pool
  cp : c.pool.cp? c.cid = some c.cp
  pfx : c.pfx = i.pfx
  can : s.canIssue c.pid c.cid = true
  clause : c.cp.clause.isSome = true
  hold : c.cp.holding = true → s.now - c.cp.holdSince ≤ 4096
  nopre : ∀ t, c.cp.nopre = some t → s.now - t ≤ 65536
  legal : WellFormed i
  lawful : (shapeOf i).legal c = true
  runs : ((shapeOf i).runs c).all (·.ok c.pool.allot) = true
  free : c.interlock ((shapeOf i).runs c) (shapeOf i).sregs = none
  engines : c.engineInterlock ((shapeOf i).runs c) ((shapeOf i).mregs ++ c.pfxMask) = false
  alone : (shapeOf i).broadcast = true → c.heldByOther = false
  acquired : (shapeOf i).memory = true ∨ (shapeOf i).memoryIf c = true → c.acquiring = none

/-- The bytes that the other pools hold in the undo log of a core. -/
def State.undoOthers (s : State) (pid core : Nat) : Nat :=
  ((s.pools.filter fun e => e.1 != pid && decide (0 < e.2.undoOn core)).map fun e => e.2.undoOn core).sum

/-- R180: n more bytes beyond those of p keep within the pool's share of the undo log of each of its cores, or are no
more than it holds there already; or the pool holds nothing in them yet, and they have room for them beside the other
pools. -/
def RoomAt (c : Ctx) (s : State) (p : Pool) (n : Nat) : Prop :=
  (∀ k ∈ p.cores, p.undoOn k + n ≤ s.share k ∨ p.undoOn k + n ≤ c.pool.undoOn k) ∨
  (c.pool.undoHeld = 0 ∧ ∀ k ∈ p.cores, p.undoOn k + n + s.undoOthers c.pid k ≤ Config.journalBytes)

/-- R180: they have room for n more bytes than the pool holds as the instruction issues. -/
def UndoRoom (c : Ctx) (s : State) (n : Nat) : Prop := RoomAt c s c.pool n

/-! ### Past an instruction -/

/-- R17, R87: where a CP stands after an instruction of n words: out of its clause at the clause's end. -/
def clauseAt (cl : Option Clause) (pc : DWord) : Option Clause := cl.filter fun x => x.stop != pc

/-- The CP x stands past the instruction i (R87). -/
structure PastPc (i : Instr) (c : Ctx) (x : Cp) : Prop where
  pc : x.pc = c.cp.pc + BitVec.ofNat 64 i.words
  clause : x.clause = clauseAt c.cp.clause x.pc
  stand : x.stand = .no

/-- The CP x stands past the instruction i, with one broadcast fewer to hold (R45), its hold then granted (R48), and
its next instruction no earlier than the clocks of its slots (R169). -/
structure Past (i : Instr) (c : Ctx) (now : Nat) (x : Cp) : Prop extends PastPc i c x where
  hold : x.holdLeft = if (shapeOf i).broadcast && c.cp.holding then c.cp.holdLeft - 1 else c.cp.holdLeft
  begun : x.begun = (c.cp.begun || (shapeOf i).broadcast && c.cp.holding)
  next : x.next = now + c.slotClocks (shapeOf i)

/-- The CP x with the place of y in its program, the hold count of y and its time. -/
def Cp.backTo (x y : Cp) : Cp :=
  { x with pc := y.pc, clause := y.clause, stand := y.stand, holdLeft := y.holdLeft, begun := y.begun, next := y.next }

/-! ### Frames -/

/-- Every byte of memory reads as before. -/
def SameMemory (s t : State) : Prop := ∀ a, Memory.read t.mem a = Memory.read s.mem a

/-- Every other pool is as before. -/
def OtherPools (p : Nat) (s t : State) : Prop := ∀ q, q ≠ p → t.pool? q = s.pool? q

/-- Outside pool p nothing but the times of the issue slots (R169) differs: memory, caches, journals, records, queues,
recipes and all the rest are as before. -/
def OnlyPool (p : Nat) (s t : State) : Prop :=
  { t with pools := s.pools, slots := s.slots } = s ∧ OtherPools p s t ∧ SameMemory s t

/-- The instruction has taken effect: outside pool `c.pid` all is as in s, but for the instruction's slots, which are
held for its clocks (R40, R112, R135, R169, R172); the pool is q, the arbiter's last grant, which is this CP for a
broadcast (R48), and this CP apart; and the CP is y, moved past the instruction. -/
def Effect (i : Instr) (c : Ctx) (s t : State) (q : Pool) (y : Cp) : Prop :=
  OnlyPool c.pid s t ∧ t.slots = (s.takeSlots (c.slotTimes (shapeOf i))).slots ∧ ∃ p x, t.pool? c.pid = some p ∧
    { p with cps := q.cps, granted := q.granted } = q ∧
    p.granted = (if (shapeOf i).broadcast then c.cid else q.granted) ∧ (∀ j, j ≠ c.cid → p.cp? j = q.cp? j) ∧
    p.cp? c.cid = some x ∧ Past i c s.now x ∧ x.backTo y = y

/-- The CP has moved to `target`, between clauses, and is otherwise y; nothing else differs from s. -/
def Jumped (c : Ctx) (s t : State) (target : DWord) (y : Cp) : Prop :=
  OnlyPool c.pid s t ∧ ∃ p, t.pool? c.pid = some p ∧
    { p with cps := c.pool.cps } = c.pool ∧ (∀ j, j ≠ c.cid → p.cp? j = c.pool.cp? j) ∧
    p.cp? c.cid = some { y with pc := target, clause := none, stand := .no }

/-- R56: the instruction traps with this cause, precisely: its CP is stopped at its pc with a trap record, and
nothing else has changed. -/
def Traps (i : Instr) (c : Ctx) (s : State) (cause : Byte) (tmask : Mask) (detail : Word) (addr : DWord) : Prop :=
  exec i s = .next (s.takeTrap c.pid c.cid c.cp.pc cause tmask detail addr)

/-! ### Scalar results -/

/-- The number of 1 bits, the number of 0 bits above the highest 1, the index of the n-th 1 bit from below
(all ones where there is none), the bits in reverse order. -/
def ones (x : DWord) : List Nat := (List.range 64).filter fun i => x.getLsbD i
def leadingZeros (x : DWord) : Nat := 64 - ((List.range 64).filter fun i => decide (2 ^ i ≤ x.toNat)).length
def nthOne (x : DWord) (n : Nat) : DWord := (((ones x)[n]?).map (BitVec.ofNat 64)).getD (BitVec.allOnes 64)
def reversed (x : DWord) : DWord := BitVec.ofFnLE fun i : Fin 64 => x.getLsbD (63 - i)

/-- R138: the condition codes 0 to 7 that hold between x and k, one bit each. -/
def conditions (x k : DWord) : DWord :=
  BitVec.ofFnLE fun i : Fin 64 =>
    [x == k, x != k, x.slt k, x.sle k, k.slt x, k.sle x, x.ult k, k.ule x].getD i false

/-- R137, R138, R143, R150: the register that a scalar instruction writes and its new value. -/
def scalarResult (i : Instr) (c : Ctx) : Option (Byte × DWord) :=
  match i with
  | .sadd _ d a b => some (d, c.s a + c.s b)
  | .ssub _ d a b => some (d, c.s a - c.s b)
  | .smul _ d a b => some (d, c.s a * c.s b)
  | .smulh _ d a b => some (d, BitVec.ofInt 64 ((c.s a).toInt * (c.s b).toInt / 2 ^ 64))
  | .sand _ d a b => some (d, c.s a &&& c.s b)
  | .sor _ d a b => some (d, c.s a ||| c.s b)
  | .sxor _ d a b => some (d, c.s a ^^^ c.s b)
  | .sshl _ d a b => some (d, c.s a <<< (c.s b &&& 63))
  | .sshr _ d a b => some (d, c.s a >>> (c.s b &&& 63))
  | .ssar _ d a b => some (d, BitVec.ofInt 64 ((c.s a).toInt / 2 ^ ((c.s b).toNat % 64)))
  | .smin _ d a b => some (d, BitVec.ofInt 64 (min (c.s a).toInt (c.s b).toInt))
  | .smax _ d a b => some (d, BitVec.ofInt 64 (max (c.s a).toInt (c.s b).toInt))
  | .scmp _ d a b => some (d, conditions (c.s a) (c.s b))
  | .ssel _ d a b => some (d, if c.s d = 0 then c.s b else c.s a)
  | .smov _ d a => some (d, c.s a)
  | .sli _ d lo hi => some (d, BitVec.ofNat 64 (lo.toNat + 2 ^ 32 * hi.toNat))
  | .spopc _ d a => some (d, BitVec.ofNat 64 (ones (c.s a)).length)
  | .sclz _ d a => some (d, BitVec.ofNat 64 (leadingZeros (c.s a)))
  | .sfns _ d a b => some (d, nthOne (c.s a) (c.s b).toNat)
  | .sbrev _ d a => some (d, reversed (c.s a))
  | .getm _ d => some (d, BitVec.ofNat 64 c.cp.topLevel.mode.toNat)
  | .getf _ d => some (d, BitVec.ofNat 64 c.cp.topLevel.fmt.toNat)
  | .rcount _ d => some (d, BitVec.ofNat 64 (Mask.tids c.cp.topLevel.mask c.pool.threads).length)
  | _ => none

/-! ### Thread results -/

/-- What a thread instruction delivers: elements of 64 bits or registers of 32, the register v_d, the value of each
responder in ascending tid, the flags it raises. -/
structure ThreadResult where
  wide : Bool
  d : Byte
  vals : List (Nat × DWord)
  flags : Flags

/-- The flags of a list of results together. -/
def allFlags (l : List (α × Flags)) : Flags := l.foldl (fun f r => f ||| r.2) 0

/-- R109, R111: `f` on the elements with one index of the registers `srcs` of each responder, elements of w bits. -/
def Ctx.laneResult (c : Ctx) (d : Byte) (w : Nat) (srcs : List Nat) (f : List Nat → Nat × Flags) : ThreadResult :=
  let one (t : Nat) : DWord × Flags :=
    let rs := (List.range (if w = 64 then 1 else 32 / w)).map fun i => f (srcs.map fun n => (c.elems w t n).getD i 0)
    (packElems w (rs.map (·.1)), allFlags rs)
  ⟨decide (w = 64), d, c.tids.map fun t => (t, (one t).1), allFlags (c.tids.map one)⟩

/-- Elements of the type in force, where it is of the instruction's class (R110). -/
def Ctx.typed (c : Ctx) (cls : Nat → Bool) (d : Byte) (srcs : List Nat) (f : List Nat → Nat × Flags) :
    Option ThreadResult :=
  if cls c.tyCode then some (c.laneResult d c.ty.width srcs f) else none

/-- Whole registers, or pairs under a 64-bit type (R109). -/
def Ctx.whole (c : Ctx) (d : Byte) (srcs : List Nat) (f : List Nat → Nat) : Option ThreadResult :=
  some (c.laneResult d c.bitWidth srcs fun l => (f l, 0))

/-- R134: an FP32 function of one operand. -/
def Ctx.special (c : Ctx) (d a : Byte) (f : RMode → Bool → FVal → Nat × Flags) : Option ThreadResult :=
  c.typed (· = 11) d [a.toNat] fun l => f c.rm c.sat (Fmt.decode .fp32 (l.getD 0 0))

/-- One value for each responder. -/
def Ctx.each (c : Ctx) (wide : Bool) (d : Byte) (f : Nat → DWord × Flags) : ThreadResult :=
  ⟨wide, d, c.tids.map fun t => (t, (f t).1), allFlags (c.tids.map f)⟩

/-- R121: VSCAL scales the elements of v_a by the E8M0 code in bits 7:0 of v_b. -/
def Ctx.scaled (c : Ctx) (d a b : Byte) (f : Fmt) : ThreadResult :=
  c.each false d fun t =>
    let l := (c.elems f.width t a.toNat).map fun x => scaleElem f c.rm c.sat x ((c.pool.reg t b.toNat).toNat % 256)
    (packElems f.width (l.map (·.1)), allFlags l)

/-- R131: VCVT converts as many elements as the wider of the two formats has in a register. -/
def Ctx.converted (c : Ctx) (d a : Byte) (e8 : Bool) (src : Ty) : ThreadResult :=
  let wd := if e8 then 8 else c.ty.width
  let n := if max src.width wd = 64 then 1 else 32 / max src.width wd
  c.each (decide (wd = 64)) d fun t =>
    let l := ((c.elems src.width t a.toNat).take n).map fun x =>
      if e8 then toE8M0 (src.value x) else convertElem src c.ty c.rm c.sat x
    (packElems wd (l.map (·.1)), allFlags l)

/-- R132: VPACK converts one element of each operand into elements 0 and 1, and moves the older elements up by two. -/
def Ctx.packed2 (c : Ctx) (d a b : Byte) : ThreadResult :=
  let w := c.ty.width
  c.each false d fun t =>
    let x := convertElem (packSource c.ty) c.ty c.rm c.sat (c.pool.reg t a.toNat).toNat
    let y := convertElem (packSource c.ty) c.ty c.rm c.sat (c.pool.reg t b.toNat).toNat
    (packElems w (x.1 :: y.1 :: (c.elems w t d.toNat).take (32 / w - 2)), x.2 ||| y.2)

/-- R133: VUNPK converts element n to 32 bits. -/
def Ctx.unpacked (c : Ctx) (d a : Byte) (n : Nat) : ThreadResult :=
  c.each false d fun t =>
    let x := (c.elems c.ty.width t a.toNat).getD n 0
    let r : Nat × Flags := match c.ty with
      | .int w sg => (intBits 32 (intOf w sg x), 0)
      | .flt f => Fmt.convert .fp32 .rne false (f.decode x)
    (BitVec.ofNat 64 r.1, r.2)

/-- R120: VDOT4 adds four products of 8-bit elements to the element of the fourth operand. -/
def Ctx.dot4 (c : Ctx) (d a b : Byte) : Option ThreadResult :=
  let go (f : Nat → Nat → Nat → Nat × Flags) : Option ThreadResult :=
    some (c.laneResult d 32 [a.toNat, b.toNat, c.x] fun l => f (l.getD 0 0) (l.getD 1 0) (l.getD 2 0))
  match c.tyCode with
  | 3 => go (dotInt true c.sat)
  | 7 => go (dotInt false c.sat)
  | 11 =>
      (match dotFmt (bits 3 0 c.fmt), dotFmt (bits 7 4 c.fmt) with
      | some fa, some fb => go (dotFloat fa fb c.rm c.sat)
      | _, _ => none)
  | _ => none

/-- R116 to R134, R155, R156: what an instruction writes to v_d of its responders; none where its type is not of its
class, and none for an instruction of another kind. -/
def threadResult (i : Instr) (c : Ctx) : Option ThreadResult :=
  match i with
  | .vadd _ d a b => c.typed classNumeric d [a.toNat, b.toNat] fun l => arith .add c.ty c.rm c.sat (l.getD 0 0) (l.getD 1 0)
  | .vsub _ d a b => c.typed classNumeric d [a.toNat, b.toNat] fun l => arith .sub c.ty c.rm c.sat (l.getD 0 0) (l.getD 1 0)
  | .vmul _ d a b => c.typed classNumeric d [a.toNat, b.toNat] fun l => arith .mul c.ty c.rm c.sat (l.getD 0 0) (l.getD 1 0)
  | .vmulh _ d a b => c.typed classInteger d [a.toNat, b.toNat] fun l =>
      match c.ty with
      | .int w sg => (mulHigh w sg (l.getD 0 0) (l.getD 1 0), 0)
      | .flt _ => (0, 0)
  | .vfma _ d a b => c.typed classNumeric d [a.toNat, b.toNat, c.x] fun l =>
      fma c.ty c.rm c.sat (l.getD 0 0) (l.getD 1 0) (l.getD 2 0)
  | .vmin _ d a b => c.typed classNumeric d [a.toNat, b.toNat] fun l => minMax false c.ty (l.getD 0 0) (l.getD 1 0)
  | .vmax _ d a b => c.typed classNumeric d [a.toNat, b.toNat] fun l => minMax true c.ty (l.getD 0 0) (l.getD 1 0)
  | .vabs _ d a => c.typed classNumeric d [a.toNat] fun l => absElem c.ty c.sat (l.getD 0 0)
  | .vneg _ d a => c.typed classNumeric d [a.toNat] fun l => negElem c.ty c.sat (l.getD 0 0)
  | .vclamp _ d a b => c.typed classNumeric d [a.toNat, b.toNat, c.x] fun l =>
      clampElem c.ty (l.getD 0 0) (l.getD 1 0) (l.getD 2 0)
  | .vdot4 _ d a b => c.dot4 d a b
  | .vscal _ d a b => match c.tyCode with
      | 9 => some (c.scaled d a b .fp16)
      | 10 => some (c.scaled d a b .bf16)
      | 11 => some (c.scaled d a b .fp32)
      | _ => none
  | .vand _ d a b => c.whole d [a.toNat, b.toNat] fun l => l.getD 0 0 &&& l.getD 1 0
  | .vor _ d a b => c.whole d [a.toNat, b.toNat] fun l => l.getD 0 0 ||| l.getD 1 0
  | .vxor _ d a b => c.whole d [a.toNat, b.toNat] fun l => l.getD 0 0 ^^^ l.getD 1 0
  | .vandn _ d a b => c.whole d [a.toNat, b.toNat] fun l => l.getD 0 0 &&& notBits c.bitWidth (l.getD 1 0)
  | .vnot _ d a => c.whole d [a.toNat] fun l => notBits c.bitWidth (l.getD 0 0)
  | .vshl _ d a b => c.typed anyType d [a.toNat, b.toNat] fun l => (shiftElem .shl c.ty.width (l.getD 0 0) (l.getD 1 0), 0)
  | .vshr _ d a b => c.typed anyType d [a.toNat, b.toNat] fun l => (shiftElem .shr c.ty.width (l.getD 0 0) (l.getD 1 0), 0)
  | .vsar _ d a b => c.typed anyType d [a.toNat, b.toNat] fun l => (shiftElem .sar c.ty.width (l.getD 0 0) (l.getD 1 0), 0)
  | .vrot _ d a b => c.typed anyType d [a.toNat, b.toNat] fun l => (shiftElem .rot c.ty.width (l.getD 0 0) (l.getD 1 0), 0)
  | .vpopc _ d a => c.whole d [a.toNat] fun l => popcount c.bitWidth (l.getD 0 0)
  | .vclz _ d a => c.whole d [a.toNat] fun l => clz c.bitWidth (l.getD 0 0)
  | .vctz _ d a => c.whole d [a.toNat] fun l => ctz c.bitWidth (l.getD 0 0)
  | .vfns _ d a b => c.whole d [a.toNat, b.toNat] fun l => fns c.bitWidth (l.getD 0 0) (l.getD 1 0 % 2 ^ 32)
  | .vbrev _ d a => c.whole d [a.toNat] fun l => brev c.bitWidth (l.getD 0 0)
  | .vbfx _ d a b => c.whole d [a.toNat, b.toNat, c.x] fun l =>
      bfx c.bitWidth (c.tyCode = 3 || c.tyCode = 4) (l.getD 0 0) (l.getD 1 0 % 256) (l.getD 2 0 % 256)
  | .vbfi _ d a b => c.whole d [a.toNat, b.toNat, c.x, d.toNat] fun l =>
      bfi c.bitWidth (l.getD 3 0) (l.getD 0 0) (l.getD 1 0 % 256) (l.getD 2 0 % 256)
  | .vcmp _ d a b cond => c.typed anyType d [a.toNat, b.toNat] fun l =>
      let r := compare cond.toNat c.ty (l.getD 0 0) (l.getD 1 0)
      (if r.1 then 2 ^ c.ty.width - 1 else 0, r.2)
  | .vsel _ d a b => c.whole d [a.toNat, b.toNat, c.x] fun l =>
      (l.getD 0 0 &&& l.getD 2 0) ||| (l.getD 1 0 &&& notBits c.bitWidth (l.getD 2 0))
  | .vmov _ d b => c.whole d [b.toNat] fun l => l.getD 0 0
  | .vmovScalar _ d b => some (c.each c.wide d fun _ => (c.s b, 0))
  | .vmovi _ d lit => some (c.each c.wide d fun _ => (if c.tyCode = 4 then lit.signExtend 64 else lit.zeroExtend 64, 0))
  | .tid _ d => some (c.each c.wide d fun t => (BitVec.ofNat 64 t, 0))
  | .vcvt _ d a e8 src => some (c.converted d a (e8 = 1) (Ty.ofCode src.toNat))
  | .vpack _ d a b => if classNarrow c.tyCode then some (c.packed2 d a b) else none
  | .vunpk _ d a b =>
      if classNarrow c.tyCode ∧ b.toNat < 32 / c.ty.width then some (c.unpacked d a b.toNat) else none
  | .vrcp _ d a => c.special d a vrcpF
  | .vrsq _ d a => c.special d a vrsqF
  | .vsqt _ d a => c.special d a vsqtF
  | .vex2 _ d a => c.special d a vex2F
  | .vlg2 _ d a => c.special d a vlg2F
  | .vsin _ d a => c.special d a vsinF
  | .vcos _ d a => c.special d a vcosF
  | .scan _ d a excl op =>
      if op = 3 ∨ classNumeric c.tyCode then
        let f := scanOp c op.toNat
        let r := scanList f.1 (excl = 1) f.2 (c.tids.map fun t =>
          (t, c.elem0 (if op = 3 then c.bitWidth else c.ty.width) t a.toNat))
        some ⟨c.wide, d, r.1, r.2⟩
      else none
  | .match_ _ d a =>
      some (c.each (decide (c.pool.group = 64)) d fun t => (BitVec.ofNat 64 (c.matchMask a.toNat t), 0))
  | _ => none

/-- A value as a register of 32 bits or a pair reads it back. -/
def lowPart (wide : Bool) (x : DWord) : DWord := if wide then x else (x.extractLsb' 0 32).zeroExtend 64

/-- The registers that a write of v_d or the pair v_d, v_d+1 touches. -/
def written (wide : Bool) (d n : Nat) : Prop := n = d ∨ (wide = true ∧ n = d + 1)

/-! ### Status, MODE and FMT -/

/-- R141: what the selectors 0 to 11 of GETST read. -/
def statusValues (c : Ctx) (s : State) : List DWord :=
  [.ofNat 64 c.pool.threads, .ofNat 64 c.cid, .ofNat 64 ((c.pool.threads + 1023) / 1024),
   .ofNat 64 (c.pool.cpPartition c.cid), .ofNat 64 (c.pool.cpPartition c.cid / 6), c.cp.fstat.zeroExtend 64,
   c.cp.cki.zeroExtend 64, .ofNat 64 (c.cp.stack.length - 1), .ofNat 64 c.cp.holdLeft, .ofNat 64 c.pool.group,
   .ofNat 64 s.now + Config.clockSkew (c.pool.cpPartition c.cid),
   .ofNat 64 (c.cp.cpy + 256 * c.cp.gth + 65536 * c.cp.mrg + 16777216 * c.cp.mtx)]

/-- R96: a type code in bits 3:0, a rounding code 1 to 4 in bits 6:4, SAT in bit 7. -/
def ModeLegal (n : Nat) : Prop := n < 256 ∧ n % 16 ≠ 0 ∧ n / 16 % 8 ∈ [1, 2, 3, 4]

/-- R97, R98: the formats of FA and FB and their pairs, SPARSE and SCALE, and the reserved bits. -/
def FmtLegal (n : Nat) : Prop :=
  let a := n % 16
  let b := n / 16 % 16
  n < 2 ^ 15 ∧ n / 256 % 4 ≤ 2 ∧ n / 1024 % 4 ≤ 1 ∧ n / 4096 ≤ 1 ∧
  a ∈ [1, 9, 10, 12, 13, 14, 15] ∧ b ∈ [1, 9, 10, 12, 13, 14, 15] ∧
  (a = b ∨ (a ∈ [12, 13] ∧ b ∈ [12, 13]) ∨ (a ∈ [1, 15] ∧ b ∈ [1, 15])) ∧
  (n / 1024 % 4 = 1 → a ∉ [14, 15] ∧ b ∉ [14, 15])

/-- R96 to R98, R143: the value that SETM or SETF writes to its top level; `mode` says which of the two. -/
def formatValue (i : Instr) (c : Ctx) : Option (Bool × Nat) :=
  match i with
  | .setm _ a => some (true, (c.s a).toNat)
  | .setmLiteral _ lit => some (true, lit.toNat)
  | .setf _ a => some (false, (c.s a).toNat)
  | .setfLiteral _ lit => some (false, lit.toNat)
  | _ => none

/-! ### Control flow -/

/-- R22, R87: the word address of the instruction word, which a prefix stands before. -/
def Ctx.wordAt (c : Ctx) : DWord := match c.pfx with | some _ => c.cp.pc + 1 | none => c.cp.pc

/-- R22, R144, R145: whether a branch is taken, where to, and the CP as it then is, its place apart; none for an
instruction that does not branch, and for a RET to no word address. -/
def branchOf (i : Instr) (c : Ctx) : Option (Bool × DWord × Cp) :=
  let tgt (o : BitVec 16) : DWord := c.wordAt + BitVec.ofInt 64 o.toInt
  match i with
  | .br _ o => some (true, tgt o, c.cp)
  | .brc _ d o => some (c.s d != 0, tgt o, c.cp)
  | .brz _ o => some (c.cp.topLevel.mask == 0, tgt o, c.cp)
  | .brnz _ o => some (c.cp.topLevel.mask != 0, tgt o, c.cp)
  | .loop _ d o => some (c.s d != 1, tgt o, c.cp.setS d.toNat (c.s d - 1))
  | .call _ d o => some (true, tgt o, c.cp.setS d.toNat (4 * (c.wordAt + 1)))
  | .ret _ a => if (c.s a).toNat < 2 ^ 56 ∧ (c.s a).toNat % 4 = 0 then some (true, c.s a >>> 2, c.cp) else none
  | _ => none

/-! ### Sets of threads -/

/-- The parent set of a search, its condition, register and key register (R148). -/
def searchOf (i : Instr) (c : Ctx) : Option (Mask × Byte × Byte × Byte) :=
  match i with
  | .srch _ d a b => some (c.set, d, a, b)
  | .srca _ d a b => some (c.all, d, a, b)
  | _ => none

/-- R101, R148: whether thread t of the parent set matches, and the flags of its comparison. -/
def Ctx.found (c : Ctx) (d a b : Byte) (t : Nat) : Bool × Flags :=
  searchElem d.toNat c.ty (c.elem0 c.ty.width t a.toNat) ((c.s b).toNat % 2 ^ c.ty.width)
    ((c.cp.sreg (b.toNat + 1)).toNat % 2 ^ c.ty.width) (c.s b)

/-- t is the lowest thread of a set. -/
def Lowest (m : Mask) (t : Nat) : Prop := m.getLsbD t = true ∧ ∀ u, u < t → m.getLsbD u = false

/-- R151: bit t of what MASKOP writes, from bit t of m_a and of m_b; code 7 keeps the lowest thread. -/
def maskBit (op : Nat) (exists_ a b : Bool) : Bool :=
  match op with
  | 0 => a && b
  | 1 => a || b
  | 2 => a != b
  | 3 => a && !b
  | 4 => exists_ && !a
  | 5 => false
  | _ => exists_

/-! ### Reductions -/

/-- R65, R82, R153, R154: what a reduction writes to s_d, a NaN as the canonical one, and the flags it raises; none
where the type is not of its class, and none for another instruction. -/
def reduceResult (i : Instr) (c : Ctx) : Option (Byte × DWord × Flags) :=
  let numeric (d a : Byte) (f : Nat → Nat → Nat × Flags) (empty : Nat) : Option (Byte × DWord × Flags) :=
    if classNumeric c.tyCode then
      let r := c.reduce (fun t => c.elem0 c.ty.width t a.toNat) f
      let x := r.1.getD empty
      some (d, (match c.ty with
        | .int w s => BitVec.ofInt 64 (intOf w s x)
        | .flt g => BitVec.ofNat 64 (if (g.decode x).isNan then g.nanCode else x)), r.2)
    else none
  match i with
  | .rsum _ d a => numeric d a (arith .add c.ty c.rm c.sat) 0
  | .rmin _ d a => numeric d a (minMax false c.ty) (match c.ty with
      | .int w s => if s then 2 ^ (w - 1) - 1 else 2 ^ w - 1
      | .flt f => f.infCode)
  | .rmax _ d a => numeric d a (minMax true c.ty) (match c.ty with
      | .int w s => if s then 2 ^ (w - 1) else 0
      | .flt f => f.signed true f.infCode)
  | .rand _ d a => some (d, BitVec.ofFnLE fun b : Fin 64 =>
      decide (b.val < c.bitWidth) && c.tids.all fun t => (c.elem0 c.bitWidth t a.toNat).testBit b, 0)
  | .ror _ d a => some (d, BitVec.ofFnLE fun b : Fin 64 =>
      c.tids.any fun t => (c.elem0 c.bitWidth t a.toNat).testBit b, 0)
  | .argmx _ d a =>
      if classNumeric c.tyCode then
        let x (t : Nat) : FVal := c.ty.value (c.elem0 c.ty.width t a.toNat)
        let valid := c.tids.filter fun t => !(x t).isNan
        let best := valid.find? fun t => valid.all fun u => !(x t).lt (x u)
        some (d, BitVec.ofNat 64 ((best.getD 0xFFFFFFFF) + 2 ^ 32 * valid.length),
          if c.tids.any fun t => (x t).isSignalling then Flags.IV else 0)
      else none
  | _ => none

/-- The atomics, on the scratchpad and on global memory. -/
def isAtomic (i : Instr) : Bool :=
  match i with
  | .vatomSpad .. | .vredSpad .. | .vatomGlobal .. | .vredGlobal .. => true
  | _ => false

/-- R110: the class of types of an instruction of a class smaller than all types. -/
def typeClass (i : Instr) : Option (List Nat) :=
  match i with
  | .vadd .. | .vsub .. | .vmul .. | .vfma .. | .vmin .. | .vmax .. | .vabs .. | .vneg .. | .vclamp ..
  | .rsum .. | .rmin .. | .rmax .. | .argmx .. => some [1, 2, 3, 4, 5, 6, 7, 8, 15, 9, 10, 11]
  | .scan _ _ _ _ op => if op = 3 then none else some [1, 2, 3, 4, 5, 6, 7, 8, 15, 9, 10, 11]
  | .vmulh .. => some [1, 2, 3, 4, 5, 6, 7, 8, 15]
  | .vdot4 .. => some [3, 7, 11]
  | .vscal .. => some [9, 10, 11]
  | .vrcp .. | .vrsq .. | .vsqt .. | .vex2 .. | .vlg2 .. | .vsin .. | .vcos .. => some [11]
  | .vpack .. | .vunpk .. => some [1, 2, 5, 6, 9, 10, 12, 13, 14, 15]
  | .vatomSpad .. | .vredSpad .. | .vatomGlobal .. | .vredGlobal .. => some [3, 4, 7, 8, 11]
  | _ => none

/-! ### The scratchpad and the windows -/

/-- R195: the bytes of a size code. -/
def bytesOf (size : BitVec 2) : Nat := [4, 8, 1, 2].getD size.toNat 0

/-- R140, R194 to R200: the offsets a scratchpad access reads or writes with the threads they belong to, their size,
and whether a trap names threads; none for an access of another kind, and for an atomic that is illegal (R199) or
not allowed to a recipe slice (R333). -/
def spadAccess (i : Instr) (c : Ctx) : Option (List (Nat × Int) × Nat × Bool) :=
  let at_ (a : Byte) (disp : Int) : List (Nat × Int) :=
    c.tids.map fun t => (t, ((c.pool.reg t a.toNat).toNat : Int) + disp)
  let z := if c.wide then 8 else 4
  match i with
  | .vlds _ _ a size _ disp | .vsts _ _ a size disp => some (at_ a (disp.toNat * bytesOf size), bytesOf size, true)
  | .vatomSpad _ _ a _ w | .vredSpad _ _ a _ w =>
      if c.tyCode ∈ [3, 4, 7, 8, 11] ∧ c.pool.rslice = false then some (at_ a w.disp.toInt, z, true) else none
  | .sld _ _ a sp | .sst _ _ a sp => if sp = 1 then some ([(0, ((c.s a).toNat : Int))], 8, false) else none
  | _ => none

/-- R194: every offset is aligned and its bytes lie in the pool's scratchpad. -/
def Fits (c : Ctx) (l : List (Nat × Int)) (z : Nat) : Prop :=
  ∀ e ∈ l, e.2 % z = 0 ∧ 0 ≤ e.2 ∧ e.2 + z ≤ c.pool.spadSize

/-- R207: the state once the bytes of an access have been met; each byte that an outstanding command writes there may
be written already. -/
def State.met (s : State) (c : Ctx) (l : List (Nat × Int)) (z : Nat) : State :=
  s.touchAll c.pid (l.map (·.2.toNat)) z

/-- R176: the thread and register a window offset of thread t names. -/
def windowAt (peer : Bool) (t off : Nat) : Nat × Nat := if peer then (off / 1024, off % 1024 / 4) else (t, off / 4)

/-- The place of register n of thread t in a pool. -/
def regKey (x : Nat × Nat) : Nat := 256 * x.1 + x.2

/-- R176, R197: a window access's register of offsets, width and window. -/
def windowOf : Instr → Option (Byte × Bool × Bool)
  | .vldw _ _ a size win | .vstw _ _ a size win => some (a, size = 1, win = 1)
  | _ => none

/-- R176: every offset is aligned and names a register below the allotment of a thread of the pool. -/
def WindowFits (c : Ctx) (a : Byte) (wide peer : Bool) : Prop :=
  ∀ t ∈ c.tids, let o := (c.pool.reg t a.toNat).toNat
    o % (if wide then 8 else 4) = 0 ∧ (windowAt peer t o).2 < c.pool.allot ∧ (windowAt peer t o).1 < c.pool.threads

/-- R202: the source lane of a shuffle, in a group of g lanes. -/
def shuffled (kind delta g lane : Nat) : Option Nat :=
  match kind with
  | 0 => if delta ≤ lane then some (lane - delta) else none
  | 1 => if lane + delta < g then some (lane + delta) else none
  | 2 => if lane ^^^ delta < g then some (lane ^^^ delta) else none
  | _ => if delta < g then some delta else none

/-- R195, R197, R201 to R203: what a result operation whose results are known at issue delivers, read from the pool q:
64-bit elements or not, the register, a value for each responder. -/
def knownValues (i : Instr) (c : Ctx) (q : Pool) : Option (Bool × Byte × List (Nat × DWord)) :=
  let g := c.pool.group
  let elem (t : Nat) (n : Byte) : DWord := c.pool.getElem c.wide t n.toNat
  match i with
  | .vlds _ d a size sx disp => some (size = 1, d, c.tids.map fun t =>
      let z := bytesOf size
      let n := q.spadRead ((c.pool.reg t a.toNat).toNat + disp.toNat * z) z
      (t, if sx = 1 ∧ 2 ^ (8 * z - 1) ≤ n then BitVec.ofNat 64 (n + 2 ^ 32 - 2 ^ (8 * z)) else BitVec.ofNat 64 n))
  | .vldw _ d a size win => some (size = 1, d, c.tids.map fun t =>
      let x := windowAt (win = 1) t (c.pool.reg t a.toNat).toNat
      (t, c.pool.getElem (size = 1) x.1 x.2))
  | .vperm _ d a b => some (c.wide, d, c.tids.map fun t =>
      let u := t / g * g + (c.pool.reg t b.toNat).toNat % g
      (t, if u < c.pool.threads then elem u a else 0))
  | .vshfl _ d a delta kind => if delta.toNat < g then some (c.wide, d, c.tids.map fun t =>
      (t, match shuffled kind.toNat delta.toNat g (t % g) with
        | some j => if t / g * g + j < c.pool.threads then elem (t / g * g + j) a else elem t a
        | none => elem t a)) else none
  | .vbcst _ d a b => if (c.s b).toNat % 2 ^ 32 < c.pool.threads then some (c.wide, d, c.tids.map fun t =>
      (t, elem ((c.s b).toNat % 2 ^ 32) a)) else none
  | _ => none

/-- R16, R44: the operation that delivers such results when it completes, bound to its clause's flag. -/
def Ctx.knownResult (c : Ctx) (id : Nat) (wide : Bool) (d : Byte) (vals : List (Nat × DWord)) (fl : Flags)
    (ord : Nat) : Op :=
  { c.newOp .known with
    id := id, dest := d.toNat, wide := wide, zero := c.zeroSet, flags := fl, ord := ord
    lanes := vals.map fun v => ⟨v.1, 0, 0, 0, 0⟩, got := some (vals.map (·.2)) }

/-- The byte that stores, in order, leave at an offset; none where they store nothing. -/
def lastByte (l : List (Nat × List Byte)) (a : Nat) : Option Byte :=
  l.foldl (fun r e => if e.1 ≤ a ∧ a < e.1 + e.2.length then some (e.2.getD (a - e.1) 0) else r) none

/-- R140, R195: what a store to the scratchpad writes: offsets and bytes, in ascending tid. -/
def spadBytes (i : Instr) (c : Ctx) : Option (List (Nat × List Byte)) :=
  match i with
  | .vsts _ d a size disp => some (c.tids.map fun t =>
      ((c.pool.reg t a.toNat).toNat + disp.toNat * bytesOf size,
        toBytes (c.pool.getElem (size = 1) t d.toNat).toNat (bytesOf size)))
  | .sst _ d a sp => if sp = 1 then some [((c.s a).toNat, toBytes (c.s d).toNat 8)] else none
  | _ => none

/-! ### Commit points -/

/-- R179, R181: every pool that must commit with or before a pool is settled; `except` is the operation that is itself
the commit point; a load that waits for the commit itself is not waited for (log 13). -/
def State.canCommit (s : State) (pool : Nat) (except : Option Nat) : Bool :=
  (s.commitGroups pool).flatten.all fun q =>
    ((s.pool? q).map fun p => p.settled ((if q = pool then except.toList else []) ++
      (p.ops.filter (s.awaitsReds q p)).map (·.id))).getD true

/-- R275: the CP waits for the record with this number. -/
def waitFor (c : Ctx) (a : After) (id : Nat) (s : State) : State := c.modCp s fun cp => { cp with wait := some (id, a) }

/-- The instruction is a commit point: it has taken effect, its CP is past it, and the records of its pool and of the
pools that this one depends on are formed; the CP waits for the last of them. -/
def Commits (i : Instr) (c : Ctx) (s s1 : State) (q : Pool) (y : Cp) (except : Option Nat) (carry : Carry) (a : After) :
    Prop :=
  ∃ u t, exec i s = .next t ∧ Effect i c s1 u q y ∧ u.commitPool c.pid except carry (waitFor c a) = some t

/-- The instruction cannot commit yet: its CP stands at it, and nothing else differs. -/
def Stalls (i : Instr) (c : Ctx) (s : State) : Prop := exec i s = .next (s.standAt c.pid c.cid .stall)

/-! ### Global memory -/

/-- R257: the effective address of each responder, in ascending tid. -/
def addressesOf (c : Ctx) (a b : Byte) (w : Access) : List (Nat × Int) :=
  c.tids.map fun t => (t, ((c.cp.sreg (a.toNat % 128)).toNat : Int) +
    (if 128 ≤ a.toNat then ((c.pool.reg t b.toNat).toNat : Int) else 0) + w.disp.toInt)

/-- R139, R140, R257: the accesses of an instruction to global memory, their size, their kind and whether a trap names
threads; none for another instruction, for an atomic of a type that is illegal (R199) or in a recipe slice (R333). -/
def globalAccess (i : Instr) (c : Ctx) : Option (List (Nat × Int) × Nat × XKind × Bool) :=
  let z := if c.wide then 8 else 4
  match i with
  | .sld _ _ a sp => if sp = 0 then some ([(0, ((c.s a).toNat : Int))], 8, .load, false) else none
  | .sst _ _ a sp => if sp = 0 then some ([(0, ((c.s a).toNat : Int))], 8, .store, false) else none
  | .vld _ _ a b w => some (addressesOf c a b w, z, .load, true)
  | .vst _ _ a b w => some (addressesOf c a b w, z, .store, true)
  | .vredGlobal _ _ a b w | .vatomGlobal _ _ a b w =>
      if c.tyCode ∈ [3, 4, 7, 8, 11] ∧ c.pool.rslice = false then some (addressesOf c a b w, z, .store, true) else none
  | _ => none

/-- R98, R99: an instruction's ordering and scope codes. -/
def orderOf : Instr → Nat × Nat
  | .vld _ _ _ _ w | .vst _ _ _ _ w | .vredGlobal _ _ _ _ w | .vatomGlobal _ _ _ _ w => (w.ord.toNat, w.scope.toNat)
  | .fence _ ord scope => (ord.toNat, scope.toNat)
  | _ => (0, 0)

/-- R259, R279: a release, an `.sc` access: it comes after every earlier load, store and atomic of its CP. -/
def comesAfter (i : Instr) : Bool :=
  match i with
  | .vld .. => (orderOf i).1 = 3
  | .fence .. => true
  | _ => (orderOf i).1 = 2 || (orderOf i).1 = 3

/-- R16, R258, R260, R261: the operation that a global access becomes, with its captured operands and the physical
addresses its checks gave. -/
def globalOp (i : Instr) (c : Ctx) (l : List (Nat × Int)) (pas : List Nat) (id : Nat) (stamp : Option Nat) : Option Op :=
  let lane (y x : Nat → DWord) : List Lane := (l.zip pas).map fun e => ⟨e.1.1, e.1.2.toNat, e.2, y e.1.1, x e.1.1⟩
  let elem (n t : Nat) : DWord := c.pool.getElem c.wide t n
  let z (_ : Nat) : DWord := 0
  match i with
  | .sld _ d a _ => some { c.newOp .sload with
      id := id, dest := d.toNat, wide := true, lanes := [⟨0, (c.s a).toNat, pas.headD 0, 0, 0⟩] }
  | .sst _ d a _ => some { c.newOp .store with
      id := id, wide := true, scalar := true, lanes := [⟨0, (c.s a).toNat, pas.headD 0, c.s d, 0⟩] }
  | .vld _ d _ _ w => some { c.newOp .load with
      id := id, dest := d.toNat, wide := c.wide, zero := c.zeroSet, ord := w.ord.toNat, scope := w.scope.toNat
      stamp := stamp, lanes := lane z z }
  | .vst _ d _ _ w => some { c.newOp .store with
      id := id, wide := c.wide, ord := w.ord.toNat, scope := w.scope.toNat, stamp := stamp, lanes := lane (elem d.toNat) z }
  | .vredGlobal _ d _ _ w => some { c.newOp .red with
      id := id, wide := c.wide, ord := w.ord.toNat, scope := w.scope.toNat, stamp := stamp, aop := w.op.toNat
      lanes := lane (elem d.toNat) z }
  | .vatomGlobal _ d _ _ w => some { c.newOp .vatom with
      id := id, dest := d.toNat, wide := c.wide, zero := c.zeroSet, ord := w.ord.toNat, scope := w.scope.toNat
      stamp := stamp, aop := w.op.toNat, lanes := lane (elem d.toNat) (elem c.x)
      got := if (l.zip pas).isEmpty then some [] else none }
  | _ => none

/-- R287: an `.sc` access takes a timestamp above the clocks of its pool's cores, and its core takes it over (log
50). -/
def stamped (c : Ctx) (ord : Nat) (s : State) : Option Nat × State :=
  let n := (max (KMap.get s.scClock 0 c.core) ((c.pool.cores.map (KMap.get s.scClock 0)).foldl max 0) + 1) % 2 ^ 64
  if ord = 3 then (some n, { s with scClock := KMap.set s.scClock 0 c.core n }) else (none, s)

/-! ### Gongs -/

/-- R211: a gong word of these fields. -/
def gongWord (exp phase pend arr : Nat) : Nat := exp * 2 ^ 45 + phase * 2 ^ 44 + pend * 2 ^ 16 + arr

/-- R211, R213: the fields of a word that is a gong: an expected count of at least 1 and no more arrivals than it. -/
structure GongIs (w exp phase pend arr : Nat) : Prop where
  word : w = gongWord exp phase pend arr
  exp1 : 1 ≤ exp
  exp2 : exp ≤ 65535
  phase : phase ≤ 1
  pend : pend < 2 ^ 28
  arr : arr ≤ exp

/-- R212: the gong an instruction acts on: its offset is below 2^32, aligned and in the scratchpad; the state and the
pool once its bytes have been met; and its word. -/
structure GongAt (c : Ctx) (s : State) (a : Byte) (s1 : State) (q : Pool) (o w : Nat) : Prop where
  off : o = (c.s a).toNat
  small : o < 2 ^ 32
  fits : Fits c [(0, (o : Int))] 8
  met : s1 = s.met c [(0, (o : Int))] 8
  pool : s1.pool? c.pid = some q
  cp : q.cp? c.cid = some c.cp
  word : w = q.spadRead o 8

/-- R212: the register that holds a gong instruction's offset. -/
def gongReg : Instr → Option Byte
  | .ginit _ a _ | .garr _ _ a | .gexp _ a _ | .gwait _ a _ => some a
  | _ => none

/-! ### Waits -/

/-- No load, store or atomic of the CP is outstanding (R200, R259). -/
def NoneEarlier (c : Ctx) : Prop := c.earlier = none

/-- R209, R270: no fault of an engine class is recorded against the CP. -/
def NoFault (c : Ctx) (cls : Nat) : Prop := ∀ f ∈ c.cp.faults, f.cls ≠ cls

/-- R210: the number of outstanding commands of a class. -/
def Cp.outstandingOf (cp : Cp) (cls : Nat) : Nat := [cp.cpy, cp.gth, cp.mrg, cp.mtx].getD (min cls 3) 0

/-! ### Engine commands -/

/-- R21: word k of a tensor record: written as a number, or bits 31:0 of the scalar register it names. -/
def wordOf (c : Ctx) (marks : BitVec 4) (k : Nat) (w : Word) : Nat :=
  if marks.getLsbD k then (c.cp.sreg (w.toNat % 256)).toNat % 2 ^ 32 else w.toNat

/-- R205: the copy that a CPY's registers and record describe. -/
def copyOf (c : Ctx) (d a : Byte) (variant marks : BitVec 4) (r : TensorRecord) : CopyCmd where
  variant := variant.toNat
  spad := (c.s d).toNat
  addr := (c.s a).toNat
  rowBytes := wordOf c marks 0 r.r0
  rows := wordOf c marks 1 r.r1 % 65536
  gpitch := wordOf c marks 2 r.r2
  gong := if 2 ^ 31 ≤ wordOf c marks 3 r.r3 then some (8 * (wordOf c marks 3 r.r3 % 2 ^ 18)) else none

/-- R205, R206 step 2: the limits on a copy's record and on its scratchpad ranges. -/
def CopyFits (c : Ctx) (k : CopyCmd) (w1 w3 : Nat) : Prop :=
  w1 < 65536 ∧ w3 % 2 ^ 31 < 2 ^ 18 ∧ 1 ≤ k.rowBytes ∧ k.rowBytes ≤ 1572864 ∧ 1 ≤ k.rows ∧
  (if w3 < 2 ^ 31 then w3 = 0 else 8 * (w3 % 2 ^ 18) + 8 ≤ c.pool.spadSize) ∧
  k.spad + k.rowBytes * k.rows ≤ c.pool.spadSize ∧
  (k.variant = 2 → k.addr + k.rowBytes * k.rows ≤ c.pool.spadSize)

/-- R206 step 3: no global byte address of the copy reaches 2^56. -/
def CopyReaches (k : CopyCmd) : Prop := k.variant = 2 ∨ ∀ r, r < k.rows → k.addr + r * k.gpitch + k.rowBytes ≤ 2 ^ 56

/-- R182, R204: a command as it joins the outstanding ones. -/
def Ctx.command (c : Ctx) (id : Nat) (kind : CmdKind) (snap : List (Option Byte)) : Cmd :=
  { id := id, cp := c.cid, kind := kind, rm := c.rmCode, sat := c.sat, park := none, snap := snap, plan := none }

/-- R264: the descriptor in s_a to s_a+3. -/
def handleOf (c : Ctx) (a : Byte) : Handle :=
  ⟨c.cp.sreg a.toNat, c.cp.sreg (a.toNat + 1), c.cp.sreg (a.toNat + 2), c.cp.sreg (a.toNat + 3)⟩

/-- R264: its limits. -/
def HandleFits (h : Handle) : Prop :=
  let sfmt := h.q2.toNat % 16
  let dfmt := h.q2.toNat / 16 % 16
  let nel := h.q2.toNat / 256 % 256
  let sw := (Ty.ofCode sfmt).width
  let dw := (Ty.ofCode dfmt).width
  let size := if sw = 4 then 1 else sw / 8
  h.q0.toNat < 2 ^ 56 ∧ h.q0.toNat % size = 0 ∧ h.q1.toNat / 2 ^ 32 % size = 0 ∧ h.q1.toNat % 2 ^ 32 ≠ 0 ∧
  h.q2.toNat < 2 ^ 16 ∧ 1 ≤ nel ∧ nel ≤ 64 ∧ sfmt ≠ 0 ∧ dfmt ≠ 0 ∧ ((sw = 4 ∨ dw = 4) → nel % 2 = 0) ∧
  h.q3.toNat / 2 ^ 32 % 4 = 0 ∧ nel * dw / 8 ≤ h.q3.toNat / 2 ^ 32 ∧ h.q3.toNat % 2 ^ 32 % 4 = 0

/-- R265: the rows of a gather, as thread and index, in rank order. -/
def gatherRowsOf (c : Ctx) (a : Byte) : List (Nat × Nat) := c.tids.map fun t => (t, (c.pool.reg t a.toNat).toNat)

/-- R267: the merge that an MRG's registers and record describe. -/
def mergeOf (c : Ctx) (d a : Byte) (variant marks : BitVec 4) (r : TensorRecord) : MergeCmd where
  block := (c.s d).toNat
  first := (c.s a).toNat % 2 ^ 32
  rows := wordOf c marks 0 r.r0 % 65536
  set := variant = 1
  keepz := decide (wordOf c marks 1 r.r1 / 64 % 2 = 1)
  comb := wordOf c marks 1 r.r1 / 16 % 4
  vt := wordOf c marks 1 r.r1 % 16
  olimit := wordOf c marks 2 r.r2
  ostart := wordOf c marks 3 r.r3

/-- R267: its limits. -/
def MergeFits (c : Ctx) (a : Byte) (k : MergeCmd) (w0 w1 : Nat) : Prop :=
  w0 < 65536 ∧ w1 < 128 ∧ 1 ≤ k.rows ∧ k.olimit ≤ 0x7FFFFFFF ∧ k.ostart ≤ k.olimit ∧ (c.s a).toNat < 2 ^ 32 ∧
  k.first + k.rows ≤ 2 ^ 32 - 1 ∧
  (if k.set then w1 = 0 else k.vt ∈ [3, 4, 7, 8, 11] ∧ ¬(k.comb = 3 ∧ k.vt = 11))

/-- R216: the matrix command of an instruction in its context: its set as pool words, all of them whole. -/
def setOf (i : Instr) (c : Ctx) : MatrixCmd := { matrixOf i c with words := c.wholeWords }

/-- The five instructions that give the matrix unit a command. -/
def isMatrix : Instr → Bool
  | .mma .. | .mmaq .. | .mmas .. | .mdrn .. | .mzero .. => true
  | _ => false

/-- R217: the tile of pool word w that a command acts on, as the outstanding commands will leave it. -/
def tileOf (c : Ctx) (m : MatrixCmd) (w : Nat) : Tile := c.pool.tileAhead (2 * w + m.acc)

/-! ### Work and recipes -/

/-- R178, R323, R330: an entry of the CP as it enters the journal. -/
def Ctx.entry (c : Ctx) (va pa : Nat) (kind : EntryKind) : Entry :=
  { pool := c.pid, cp := c.cid, core := c.core, asid := c.asid, va := va, pa := pa, kind := kind, release := false
    record := none }

/-- R280, R323: the CP's core reads 64 bytes with nothing of the CP or of a reduction in the way; its outstanding
loads read what they have of these bytes again. -/
structure ReadsLine (c : Ctx) (s : State) (va pa : Nat) (r : ReadResult) (t : State) : Prop where
  own : c.pool.ownWrite c.cid none pa 64 = none
  made : s.droppedAt c.asid va = none
  free : s.lineHeld (pa / 64) = false
  reds : s.pendingReds c.core pa 64 = []
  read : ∃ u, s.readFor c.pid c.core c.asid pa 64 false = (r, u) ∧ t = u.readAgain c.pid c.cid pa 64

/-- R190: a poisoned byte among those read marks the CP. -/
def poisonedBy (poison : Bool) (y : Cp) : Cp := if poison then { y with cki := y.cki ||| 0x80000000 } else y

/-- R33: a CP as it starts. -/
structure Fresh (x : Cp) (threads : Nat) (pc s0 : DWord) : Prop where
  status : x.status = .running
  pc : x.pc = pc
  clause : x.clause = none
  s0 : x.sreg 0 = s0
  s : ∀ n, n ≠ 0 → x.sreg n = 0
  m0 : ∀ u, u < 16384 → (x.mreg 0).getLsbD u = decide (u < threads)
  m : ∀ n, n ≠ 0 → x.mreg n = 0
  stack : ∃ a, x.stack = [⟨a, 0x13, 0xAA⟩] ∧ ∀ u, u < 16384 → a.getLsbD u = decide (u < threads)
  counters : x.cpy = 0 ∧ x.gth = 0 ∧ x.mrg = 0 ∧ x.mtx = 0
  flags : x.fstat = 0 ∧ x.cki = 0 ∧ x.tmask = 0
  hold : x.holdLeft = 0 ∧ x.begun = false ∧ x.nopre = none
  waits : x.wait = none ∧ x.stand = .no ∧ x.faults = [] ∧ x.fencedRel = false
  handles : x.handles = []
  trap : x.trap = none

/-- R51: the item of a thread has no reserved flag and names an entry of the entry table. -/
def itemLegal (c : Ctx) (s : State) (a : Byte) (t : Nat) : Bool :=
  let w := (c.pool.reg t a.toNat).toNat
  decide (w < 2 ^ 17) && (KMap.find? s.asids c.asid).any fun b => decide (w % 65536 < b.count)

/-- R331: what RCRET, RCDROP and RCQRY answer for a recipe, or where the tenant has none at the address, and the state
they leave; none while RCRET waits. -/
def recipeAnswer (i : Instr) (s : State) (r : Option Recipe) : Option (DWord × State) :=
  match i, r with
  | .rcret .., none => some (1, s)
  | .rcret .., some r =>
      if r.state = .regenerating then none else if s.isSource r then some (2, s) else some (0, s.retire r)
  | .rcdrop .., none => some (1, s)
  | .rcdrop .., some r => match r.state with
      | .anchored => some (3, s)
      | .dropped | .failed => some (5, s)
      | .regenerating => some (6, s)
      | .resident => if r.isHeld then some (4, s) else some (0, s.dropTile r)
  | .rcqry .., none => some (0, s)
  | .rcqry .., some r =>
      let state := match r.state with
        | .resident => 1 | .dropped => 2 | .regenerating => 3 | .anchored => 4 | .failed => 5
      some (BitVec.ofNat 64 (state + 16 * r.err + 256 * (r.depth % 16) + (if r.isHeld then 4096 else 0) +
        (if s.isSource r then 8192 else 0) + 65536 * (r.gen % 2 ^ 32) + 2 ^ 48 * min r.silent 65535), s)
  | _, _ => none

/-- R331: the register a recipe instruction writes, and the one that holds the tile base. -/
def recipeRegs : Instr → Option (Byte × Byte)
  | .rcret _ d a | .rcdrop _ d a | .rcqry _ d a => some (d, a)
  | _ => none

/-- R331: the live recipe of a tenant with this tile base. -/
def recipeOf (s : State) (asid tbase : Nat) : Option Recipe :=
  (s.recipes.map (·.2)).find? fun r => some r.tenant == (KMap.find? s.asids asid).map (·.key) && r.tbase = tbase

/-! ### Events -/

/-- The rows of the opcode table that are events of the package, not instructions. -/
def isEvent (i : Instr) : Bool :=
  match i with
  | .resultOpCompletion .. | .performedOpCompletion .. | .syscServiceDone .. | .copyCompletion .. | .gatherCompletion ..
  | .mergeCompletion .. | .matrixCommandExecute .. | .mdrnCompletion .. | .gongWake .. | .watchReread ..
  | .holdTimeout .. | .nopreBudget .. | .packingTimeout .. | .faultRecordComplete .. | .parkedLoadReissue ..
  | .preemption .. | .resume .. | .taskDispatch .. | .tollIntervalBoundary .. | .quantumBoundary ..
  | .commitRecordAccept .. | .commitRecordApply .. | .successorSignal .. | .taskCompletion .. | .rollback ..
  | .coreFence .. | .sequencerError .. | .clusterFence .. | .clusterCacheError .. | .llcError .. | .dieFence ..
  | .viralEntry .. | .packageReset .. | .boot .. | .regenerationAdmit .. | .slicePoolPlace .. | .slicePoolEnd ..
  | .sliceTrap .. | .regenHoldExpiry .. | .recipeLineEviction .. | .inFieldTestDue .. | .inFieldTestRun ..
  | .inFieldTestSkip .. | .scClockReport .. | .scAccessPerform .. | .powerSample .. | .thermalTrip ..
  | .deviceDmaRequest .. | .pcieAtomicop .. | .peerFlitReceive .. | .peerRequest .. | .peerLinkFence ..
  | .trapHandlerResume .. | .poolTerminate .. | .asidBind .. | .asidUnbind .. | .shootdown .. | .queueBind ..
  | .queueUnbind .. | .class0Grant .. | .wayMask .. | .recipeLimit .. | .keyLoad .. | .deviceBind .. | .timing ..
  | .fenceCommand .. | .viralCommand .. | .cxlWindow .. | .powerLimit .. | .attest .. | .illegalInstruction ..
  | .inFieldTestEnd .. | .deviceWriteAcknowledge .. | .replaysClear .. | .applicationDieAccess .. => true
  | _ => false

/-- A CP that may issue an instruction, before the instruction is looked at. -/
structure AtIssue (c : Ctx) (s : State) : Prop where
  focus : s.focus = (c.pid, c.cid)
  pool : s.pool? c.pid = some c.pool
  cp : c.pool.cp? c.cid = some c.cp
  can : s.canIssue c.pid c.cid = true
  clause : c.cp.clause.isSome = true

/-- An open hold and a NOPRE interval of the CP are within their limits (R47, R160). -/
def InLimits (c : Ctx) (s : State) : Prop :=
  (c.cp.holdLeft ≠ 0 → s.now - c.cp.holdSince ≤ 4096) ∧ ∀ t, c.cp.nopre = some t → s.now - t ≤ 65536

/-- The CP is now y; nothing else differs, the times of the issue slots apart. -/
def CpBecomes (s t : State) (pid cid : Nat) (y : Cp) : Prop :=
  OnlyPool pid s t ∧ ∃ p q, s.pool? pid = some p ∧ t.pool? pid = some q ∧ { q with cps := p.cps } = p ∧
    (∀ j, j ≠ cid → q.cp? j = p.cp? j) ∧ q.cp? cid = some y

/-- The CP past an instruction of n words (R87). -/
def Cp.beyond (x : Cp) (n : Nat) : Cp :=
  { x with pc := x.pc + BitVec.ofNat 64 n, clause := clauseAt x.clause (x.pc + BitVec.ofNat 64 n), stand := .no }

/-- R56, R191: the CP x of a pool of n threads as a trap at pc stops it. -/
def trapped (x : Cp) (n cid : Nat) (pc : DWord) (cause : Byte) (tmask : Mask) (detail : Word) (addr : DWord) : Cp :=
  let tids := Mask.tids tmask n
  { x with
    status := .trapped, pc := pc, tmask := tmask, holdLeft := 0, stand := .no
    nopre := if cause = 0x06 then none else x.nopre
    trap := some ⟨pc, cause, cid, detail, addr, tids.length, (tids.head?.map (BitVec.ofNat 32)).getD 0xFFFFFFFF⟩ }

/-- Registers that an operation delivers: `lanes` pairs threads with values, the threads of `zero` receive 0. -/
structure Delivered (wide : Bool) (d : Nat) (lanes : List (Nat × DWord)) (zero : List Nat) (p q : Pool) : Prop where
  lane : ∀ e ∈ lanes, q.getElem wide e.1 d = lowPart wide e.2
  zeros : ∀ u ∈ zero, (∀ e ∈ lanes, e.1 ≠ u) → q.getElem wide u d = 0
  other : ∀ u n, n < 256 → ¬(written wide d n ∧ (u ∈ zero ∨ ∃ e ∈ lanes, e.1 = u)) → q.reg u n = p.reg u n

/-- R280: an operation x once the load or atomic o of its CP has completed: what x has read of o's bytes it reads
again. -/
def rereads (o x : Op) : Op :=
  if x.cp = o.cp && (x.kind == .load || x.kind == .sload) && (o.kind == .load || o.kind == .sload || o.kind == .vatom) then
    { x with lanes := x.lanes.map fun l =>
        if o.lanes.any fun k => rangesOverlap l.pa (if x.wide then 8 else 4) k.pa (if o.wide then 8 else 4) then
          { l with x := 0 } else l }
  else x

/-- R83, R190: the CP that an operation's flags and poison reach. -/
def marked (f : BitVec 16) (poison : Bool) (y : Cp) : Cp := poisonedBy poison { y with fstat := y.fstat ||| f }

/-- R208 to R210: the CP of a command of a class as its completion leaves it. -/
def commandDone (cls : Nat) (pl : Plan) (y : Cp) : Cp :=
  let z := marked pl.flags pl.poison y
  { z with
    faults := z.faults ++ (pl.fault.map fun f => (⟨cls, BitVec.ofNat 32 f.1, BitVec.ofNat 64 f.2⟩ : EngineFault)).toList
    cpy := if cls = 0 then z.cpy - 1 else z.cpy
    gth := if cls = 1 then z.gth - 1 else z.gth
    mrg := if cls = 2 then z.mrg - 1 else z.mrg
    mtx := if cls = 3 then z.mtx - 1 else z.mtx }

/-- R205: the successive byte addresses of the global side of a copy. -/
def copyAddresses (k : CopyCmd) : List Nat :=
  (List.range k.rows).flatMap fun r => (List.range k.rowBytes).map fun x => k.addr + r * k.gpitch + x

/-- R269: the value of element n of a list, as the merge unit reads it; a set has none. -/
def valueOf (k : MergeCmd) (c : Ctx) (base n : Nat) (m : Merging) : Except MStop (Nat × Merging) :=
  if k.set then .ok (0, m) else m.read c (base + k.valBytes * n) k.valBytes

/-- The class of a command (R102). -/
def classOf : CmdKind → Nat
  | .copy _ => 0 | .gather _ => 1 | .merge _ => 2 | .matrix _ => 3

/-- R180, R208: a command may complete: it is the first of its class of its CP, what it parked for has come, and no
forced commit is under way that its effects would have to wait for. -/
structure Completable (s : State) (c : Ctx) (cmd : Cmd) (cls : Nat) : Prop where
  up : s.viral = none
  ctx : s.ctxOf c.pid cmd.cp = some c
  here : c.pool.cmds.find? (fun k => k.id = cmd.id) = some cmd
  kind : classOf cmd.kind = cls
  first : ∀ k ∈ (c.pool.cmds.filter fun k => k.cp = cmd.cp && classOf k.kind = cls).head?, k.id = cmd.id
  awake : ∀ k, cmd.park = some k → s.parkOver k = true
  free : s.undoForced c.pid = false

/-- R208, R209: the command is done as its plan says: its scratchpad bytes, its CP, and no other CP. -/
structure CommandDone (s t : State) (c : Ctx) (cmd : Cmd) (cls : Nat) (pl : Plan) (y : Cp) : Prop where
  only : OnlyPool c.pid s t
  pool : ∃ p q, s.pool? c.pid = some p ∧ t.pool? c.pid = some q ∧
    q.cmds = p.cmds.filter (fun k => k.id != cmd.id) ∧ q.regs = p.regs ∧ q.tiles = p.tiles ∧ q.ops = p.ops ∧
    ((pl.bytes.map (·.1)).Nodup → ∀ a, q.spadByte a = (KMap.find? pl.bytes a).getD (p.spadByte a)) ∧
    (∀ j, j ≠ cmd.cp → q.cp? j = p.cp? j) ∧ q.cp? cmd.cp = some (commandDone cls pl y)

/-! ### Events of the carillon -/

/-- The package runs and is not viral. -/
def Running (s : State) : Prop := s.viral = none ∧ s.phase = .running

/-- R320, R321: a task that is over: its signal, where its record names a block and it has not signalled, and its
completion. -/
def Over (s t : State) (task : Task) (pid : Nat) : Prop :=
  t.signals = s.signals ++ (if task.record.succb = 0 ∨ task.signalled = true then []
    else [⟨{ task with signalled := true }, pid, task.status, none⟩]) ∧
  t.completions = s.completions ++ [⟨{ task with signalled := true }, pid⟩]

/-- R317, R321: the task with the first condition that made it fail. -/
def failed (t : Task) (code : Byte) : Task := { t with status := if t.status = 0 then code else t.status }

/-- The record with a number. -/
def State.recordOf (s : State) (id : Nat) : Option Record := s.records.find? fun r => r.id = id

/-- R352: the requests of a peer that are not applied are dropped: reads that its port holds, and records of which no
slice has applied anything. -/
def PeerDropped (s t : State) (n : Nat) : Prop :=
  t.portReads = s.portReads.filter (fun x => x.port ≠ 8 + n) ∧
  t.records = s.records.filter fun r =>
    ¬(r.port = some (8 + n) ∧ r.left ≠ [] ∧ r.left = touched r.entries r.atoms)

/-- R350: the data flits that answer a peer's read. -/
def responses (data : List Byte) : List PeerMsg :=
  (List.range (max 1 ((data.length + 223) / 224))).map fun i => .response (some ((data.drop (224 * i)).take 224))

/-- R306, R352: the package becomes viral: it records the cause, interrupts the application die and fences every
peer link, whose unsent messages and held reads are dropped; records that it has received stand; nothing else
changes but the note of the services whose requests these were. -/
structure BecomesViral (s t : State) (cause : Byte) : Prop where
  viral : t.viral = some cause
  links : ∀ n, n < 8 → KMap.get t.links Link.fresh n = { KMap.get s.links Link.fresh n with fenced := true, queue := [] }
  reads : t.portReads = s.portReads.filter fun x => x.port < 8 ∨ 16 ≤ x.port
  interrupt : t.replies = s.replies ++ [.machineCheck cause]
  rest : { t with
    viral := s.viral, links := s.links, peerCut := s.peerCut, portReads := s.portReads, replies := s.replies } = s

/-- R252: what walks leave of memory: every byte as before, but for the A and the D bit of entries, bit 7 of the
first byte and bit 0 of the second, which they may set. -/
def SameButWalked (s t : State) : Prop :=
  ∀ a, ∃ x ∈ ([0, 0x80, 0x01, 0x81] : List Byte), Memory.read t.mem a = Memory.read s.mem a ||| x

/-- The same after one walk: outside the entry at which it ends every byte is as before. -/
def SameButEntry (asid va : Nat) (s t : State) : Prop :=
  SameButWalked s t ∧ ∀ a, (∀ l, s.walk asid va = .ok l → a < l.at_ ∨ l.at_ + 8 ≤ a) →
    Memory.read t.mem a = Memory.read s.mem a

/-- R346: what a management command leaves where its effect is t: it stands behind the earlier ones, and the first
of them that wait for nothing complete, in their order. -/
def Commanded (code status : Nat) (w : CmdWait) (t u : State) : Prop :=
  ∃ l r, t.commands ++ [⟨code, status, w⟩] = l ++ r ∧ (∀ c ∈ l, t.cmdWaits c.wait = false) ∧
    (∀ c ∈ r.head?, t.cmdWaits c.wait = true) ∧
    u = { t with commands := r, replies := t.replies ++ l.map fun c => .status c.code c.status }

/-! ### Every state -/

/-- Memory in its canonical form, and what the manual limits within its limits: the compute clock (R357), the power
limit (R357), the toll interval, the quantum and the test period (R311, R313, R249), PKGSTAT.REPLAYS (R305). -/
structure Inv (s : State) : Prop where
  mem : Memory.wf s.mem = true
  clock : 600 ≤ s.clockMHz ∧ s.clockMHz ≤ 1500
  power : 1500 ≤ s.powerLimit ∧ s.powerLimit ≤ 3200
  toll : 100 ≤ s.toll ∧ s.toll ≤ 100000
  quantum : 1 ≤ s.quantum ∧ s.quantum ≤ 255
  period : 3600 ≤ s.period ∧ s.period ≤ 2592000
  replays : s.replays ≤ 65535

/-- The words at successive word addresses of an address space, fetched one after the other, for a pool placed after
so many of the writes listed (R107). -/
def AllFetched (s : State) (core asid placed : Nat) (pc : DWord) (ws : List Word) (t : State) : Prop :=
  match ws with
  | [] => t = s
  | w :: r => ∃ u, s.fetchWord core asid placed pc = .word w u ∧ AllFetched u core asid placed (pc + 1) r t

end Sys2Proof.Machine
end

