-- ==== Sys2Proof/Certificates/Slice0/Obligations.lean ====
section
/-! DEFINITION. The statements about the model that the provers settle. The terms they speak in stand in
`Sys2Proof.Claims`: `Issues`, `Effect`, `Traps`, `Stalls`, `Commits` and the tables of results. -/

section

open Sys2Proof Sys2Proof.Machine

/-! ### Reset, every step, and decoding -/

/-- R249, R303, R307, R311, R313, R353, R357: at reset the package is off: it has no pool, queue, recipe, binding or
record, nothing is fenced and it is not viral; the toll interval is 1,000 µs, the quantum 8 toll intervals, the test
period 86,400 s. The power limit is 3,200 W (R357). That every byte of memory reads 0 is the model's choice (log 4),
and so is the clock of 1,500 MHz (log 9). The reset state satisfies the invariant. -/
def Obligations.ResetState : Prop :=
  let s := State.reset
  s.phase = .off ∧ s.viral = none ∧ s.replReq = false ∧ s.replays = 0 ∧ s.pools = [] ∧ s.out = [] ∧ s.journal = [] ∧
  s.records = [] ∧ s.asids = [] ∧ s.queues = [] ∧ s.recipes = [] ∧ s.windows = [] ∧ s.devices = [] ∧
  s.fencedCores = [] ∧ s.fencedClusters = [] ∧ s.fencedDies = [] ∧ s.toll = 1000 ∧ s.quantum = 8 ∧ s.period = 86400 ∧
  s.clockMHz = 1500 ∧ s.powerLimit = 3200 ∧ (∀ a, Memory.read s.mem a = 0) ∧ Inv s

/-- R249, R291, R305, R311, R313, R357: every step keeps memory in its canonical form and the clock, the power limit,
the toll interval, the quantum, the test period and the count of replays within their limits. -/
def Obligations.StepKeepsInvariant : Prop := ∀ s t : State, Inv s → step s = .next t → Inv t

/-- R56, R306: no instruction and no event stops the machine: each answers a next state, and so does every step. (That a
command or event that does not apply leaves the state as it is, is the model's choice, log 1.) -/
def Obligations.EveryStepAnswers : Prop := (∀ (i : Instr) (s : State), ∃ t, exec i s = .next t) ∧ ∀ s : State, ∃ t, step s = .next t

/-- R7, R280, R281, R289, R291: a byte written is the byte read, and no other changes; memories that read alike are
equal; words are little-endian; the youngest store in a core's journal is the one its core reads, but for that of a
recipe slice and that of a record which has taken effect; what a committed write replaces is kept for the fetches of
R107 (log 49). -/
def Obligations.MemoryReadsAndWrites : Prop :=
  (∀ (m : List Host.Cell) (a k : Nat) (b : Byte), Memory.read (Memory.write m a b) k = if k = a then b else Memory.read m k) ∧
  (∀ (m : List Host.Cell) (a : Nat) (b : Byte), Memory.wf m = true → Memory.wf (Memory.write m a b) = true) ∧
  (∀ m n : List Host.Cell, Memory.wf m = true → Memory.wf n = true → (∀ a, Memory.read m a = Memory.read n a) → m = n) ∧
  (∀ n len : Nat, ofBytes (toBytes n len) = n % 256 ^ len) ∧
  (∀ (s : State) (e : Entry) (bs : List Byte) (core a : Nat), e.kind = .store bs →
    ({ s with journal := s.journal ++ [e] } : State).journalByte core a =
      if e.core = core ∧ e.slice = false ∧ (∀ r ∈ s.records, e.record = some r.id → ¬(r.accepted = true ∧ r.left = [])) ∧
        e.pa ≤ a ∧ a < e.pa + bs.length then some (bs.getD (a - e.pa) 0, e) else s.journalByte core a) ∧
  (∀ (s : State) (by_ : Option Nat) (key : Option (Nat × Nat)) (clock pa : Nat) (bs : List Byte),
    (s.commitLine by_ key clock pa bs).overwritten = s.overwritten ++
      (if s.standing pa bs.length = bs then [] else [⟨pa, s.standing pa bs.length, KMap.find? s.keyOf (pa / 64)⟩]))

/-- R86 to R91, R103: a well-formed instruction encodes to at most six words, which decode to it and to nothing more;
and words that decode to an instruction are its encoding: no bit of an encoding is dropped. -/
def Obligations.DecodeAndEncodeAgree : Prop :=
  (∀ (i : Instr) (ws rest : List Word), WellFormed i → encode i = some ws →
    decode (ws ++ rest) = .ok (i, rest) ∧ ws.length = i.words ∧ ws.length ≤ 6) ∧
  (∀ (i : Instr) (ws rest : List Word), decode ws = .ok (i, rest) → ∃ l, encode i = some l ∧ ws = l ++ rest) ∧
  (∀ i : Instr, (encode i).isNone = isEvent i)

/-- R15, R19, R21, R86 to R91, R98 to R103: words written out from the encoding tables decode to their instructions, and
words that the manual reserves to none. -/
def Obligations.WordsDecode : Prop :=
  decode [0x01000000] = .ok (.nop none, []) ∧
  decode [0x0300FFFE] = .ok (.br none 0xFFFE, []) ∧
  decode [0x10030201] = .ok (.sadd none 3 2 1, []) ∧
  decode [0x1F070000, 0x89ABCDEF, 0x01234567, 0x01000000] = .ok (.sli none 7 0x89ABCDEF 0x01234567, [0x01000000]) ∧
  decode [0xF4D58280, 0x64030102] = .ok (.vfma (some ⟨1, 1, 2, 11, 5⟩) 3 1 2, []) ∧
  decode [0xB6048907, 0xFFF0010D] = .ok (.vatomSpad none 4 0x89 7 ⟨0xFFF0, 0, 1, 5⟩, []) ∧
  decode [0xC0010213, 64, 2, 0x100, 0x80000004] = .ok (.cpy none 1 2 1 3 ⟨64, 2, 0x100, 0x80000004⟩, []) ∧
  decode [0xE0400200, 0x00030001] = .ok (.sysc none 0x40 2 3 1, []) ∧
  decode [0x01000001] = .error .reservedBits ∧ decode [0x0B000000] = .error .unassigned ∧
  decode [0xF0000001] = .error .headerWord ∧ decode [0xF4000001, 0x60010203] = .error .prefixBits ∧
  decode [0xF4000000, 0xF4000000] = .error .prefixPosition ∧ decode [0xB0010203, 0x100] = .error .reservedBits ∧
  decode [0x1F070000, 1] = .error .truncated

/-- R22, R87, R104, R106, R107, R169, R170: a step of a CP whose words at its pc, within its clause, decode to an
instruction is that instruction's exec, once the words have been fetched; a step of a CP between clauses begins one;
after either the CP's next turn comes at a later clock (a header, a stall and a trap cost it one: log 3), and R171's
count of the grants that others have seen goes on. A CP takes its turn no earlier than its last instruction has left
its slot, and one that wants a slot only where its slots are free and no ready candidate for one of them comes
before it. A step that the agenda names is its event, its issue or its clock (log 1); an instruction comes by no
event. An event that holds a broadcast slot, a completion point (R172), waits while the slot is held, and while a
candidate for it would be kept beyond 112 broadcasts (R171, log 3). A ready broadcast without a hold that has seen
seven grants goes before every hold that is none of them. A word of code that no cache holds is the four bytes at
its address, as committed; one that has been written since its pool was placed may be what stood there before (R107,
log 49). -/
def Obligations.StepRunsDecoded : Prop :=
  (∀ (s t : State) (p c : Nat) (x : Ctx) (cl : Clause) (ws : List Word) (i : Instr),
    let u : State := { s with focus := (p, c), eventTurn := true }
    s.agenda = [] → s.eventTurn = false → s.nextCp = some (p, c) → u.ctxOf p c = some x → x.cp.clause = some cl →
    AllFetched u x.core x.asid x.pool.placed x.cp.pc ws t → decode ws = .ok (i, []) → ws.length ≤ (cl.stop - x.cp.pc).toNat →
    ∃ v, exec i t = .next v ∧ step s = .next ((s.passOver v p c).turned p c)) ∧
  (∀ (s : State) (p c : Nat) (x : Ctx), s.agenda = [] → s.eventTurn = false → s.nextCp = some (p, c) →
    s.ctxOf p c = some x → x.cp.clause = none →
    step s = .next ((({ s with focus := (p, c), eventTurn := true } : State).beginClause p c).turned p c)) ∧
  (∀ (s : State) (i : Instr) (r : List Move), s.agenda = .event i :: r →
    (isEvent i = true → (∀ k pc, i ≠ .illegalInstruction k pc) → ∀ t, exec i { s with agenda := r } = .next t →
      (t.slots = s.slots → step s = .next t) ∧
      (s.slotsWait t = true → step s = s.letPass s.agenda) ∧
      (s.slotsWait t = false → step s = .next (s.countPoint t))) ∧
    (isEvent i = false ∨ (∃ k pc, i = .illegalInstruction k pc) → step s = .next { s with agenda := r })) ∧
  (∀ (s : State) (p c : Nat) (r : List Move), s.agenda = .issue p c :: r →
    if ({ s with agenda := r } : State).mayTurn p c = true then
      ∃ v, ({ s with agenda := r, focus := (p, c), eventTurn := true } : State).issueAt p c = .next v ∧
        step s = .next ((({ s with agenda := r } : State).passOver v p c).turned p c)
    else step s = .next { s with agenda := r }) ∧
  (∀ (s : State) (n : Nat) (r : List Move), s.agenda = .pass n :: r → s.nextCp = none →
    step s = .next { s.tick with agenda := if n ≤ 1 then r else .pass (n - 1) :: r }) ∧
  (∀ s : State, s.tick.now = s.now + 1 ∧ s.tick.time = s.time + s.clockTicks) ∧
  (∀ (s : State) (p c : Nat) (x : Cp), s.mayTurn p c = true → s.cp? p c = some x →
    x.next ≤ s.now ∧ (s.wants p c ≠ none → ∃ a ∈ s.issuers, a.pool = p ∧ a.cp = c ∧
      (∀ k ∈ a.slots, KMap.get s.slots 0 k ≤ s.now) ∧
      ∀ z ∈ s.issuers, z.before a = true → ∀ k ∈ z.slots, k ∉ a.slots)) ∧
  (∀ (s t : State) (k : Nat), t.slots ≠ s.slots → k ∈ t.slots.map (·.1) →
    (∀ e ∈ t.slots, e.1 = k → KMap.get s.slots 0 k < e.2) →
    s.now < KMap.get s.slots 0 k ∨ (∃ a ∈ s.candidatesNow, k ∈ a.slots ∧ 112 ≤ a.owed) → s.slotsWait t = true) ∧
  (∀ (s : State) (a b : Candidate) (k : Nat), a ∈ s.candidatesNow → b ∈ s.candidatesNow → a.rank = 3 → b.rank = 2 →
    k ∈ a.slots → k ∈ b.slots → 7 ≤ a.units →
    (b.unit ∉ a.passed → (a.bounded s.candidatesNow).before (b.bounded s.candidatesNow) = true)) ∧
  (∀ (s s1 : State) (core asid placed pa : Nat) (pc : DWord),
    s.translate (core / 4) asid (4 * pc.toNat) .fetch = (.ok pa, s1) → portSpace pa = false →
    s1.droppedAt asid (4 * pc.toNat) = none → pa % 4 = 0 → s1.cachedCopy core (s1.keyFor asid) (pa / 64) = none →
    s1.lineHeld (pa / 64) = false →
    s1.keyMatches (some (s1.keyFor asid)) (pa / 64) = true →
    let now : Word := if s1.poisonedLine (pa / 64) = true then 0 else BitVec.ofNat 32 (ofBytes (Memory.readBytes s1.mem pa 4))
    ∃ w t, s.fetchWord core asid placed pc = .word w t ∧
      ((∀ o ∈ s1.overwritten.drop placed, o.pa + o.old.length ≤ pa ∨ pa + 4 ≤ o.pa) → w = now) ∧
      (w = now ∨ ∃ v ∈ s1.wordsSince placed (s1.keyFor asid) pa, w = BitVec.ofNat 32 (ofBytes v)))

/-- R15 to R17, R105, R106: a CP that was started at no word address traps before it fetches anything. Between clauses a
CP begins the clause whose header stands at its pc: it goes past the header, the clause ends LEN words on, and its
flags are FA and FB. An operation of the CP that the wait mask names, or that is bound to no flag, is waited for
first; where all such are parked, the CP stands blocked, or traps inside an open hold. A word that is no header, LEN
0 and a flag of 12 to 14 trap, before any wait (log 52); a header that cannot be fetched traps, and one that is
parked is waited for. -/
def Obligations.ClausesBegin : Prop :=
  ∀ (s : State) (pid cid : Nat) (p : Pool) (x : Cp), s.canIssue pid cid = true → s.pool? pid = some p →
    p.cp? cid = some x → x.clause = none →
    (x.skew ≠ 0 → s.beginClause pid cid =
      s.takeTrap pid cid x.pc 0x01 0 0 (4 * x.pc + BitVec.ofNat 64 x.skew)) ∧
    (x.skew = 0 →
    (∀ a, s.fetchWord (p.cpCore cid) p.task.asid p.placed x.pc = .fault a →
      s.beginClause pid cid = s.takeTrap pid cid x.pc 0x08 0 0 a) ∧
    (∀ k s1, s.fetchWord (p.cpCore cid) p.task.asid p.placed x.pc = .park k s1 →
      s.beginClause pid cid = s1.standAt pid cid (.parkedFetch k)) ∧
    (∀ (w : Word) (s1 : State), s.fetchWord (p.cpCore cid) p.task.asid p.placed x.pc = .word w s1 →
      let len := w.toNat % 64
      let fa := w.toNat / 2 ^ 10 % 16
      let fb := w.toNat / 2 ^ 6 % 16
      let good : Prop := w.toNat / 2 ^ 26 = 0x3C ∧ len ≠ 0 ∧ (fa ≤ 11 ∨ fa = 15) ∧ (fb ≤ 11 ∨ fb = 15)
      let waits (o : Op) : Prop := o.cp = cid ∧ o.kind ≠ .sysc ∧
        (o.flag = 15 ∨ (o.flag < 12 ∧ w.toNat / 2 ^ (14 + o.flag) % 2 = 1))
      (¬good → s.beginClause pid cid = s.takeTrap pid cid x.pc 0x01 0 0 0) ∧
      (good → (∀ o ∈ p.ops, ¬waits o) → CpBecomes s1 (s.beginClause pid cid) pid cid { x with
        clause := some ⟨x.pc, x.pc + 1 + BitVec.ofNat 64 len, fa, fb⟩, pc := x.pc + 1, stand := .no }) ∧
      (good → (∃ o ∈ p.ops, waits o ∧ o.park = none) → s.beginClause pid cid = s1.standAt pid cid .stall) ∧
      (good → (∃ o ∈ p.ops, waits o) → (∀ o ∈ p.ops, waits o → o.park ≠ none) → ∃ o ∈ p.ops, waits o ∧
        s.beginClause pid cid = if x.holdLeft ≠ 0 then s1.takeTrap pid cid x.pc 0x04 0 0 0
          else s1.standAt pid cid (.load o.id x.pc none))))


/-- R105: before an instruction issues, in this order: a hold open too long and a NOPRE interval over its budget trap
(R47, R160), an illegal instruction, among them a VUNPK of an element the register has not (R133), and a register
beyond the allotment trap as illegal (R26, R106), and an operation that will write or has still to read one of its
registers (R18), a command that will write one (R223, R266), another CP's granted hold (R45) or, for an access to
memory, a pending acquire (R200, R259) keeps it back. A wait for parked gathers alone is a blocking point (R183), in
an open hold a violation (R46).

R104 to R106: ILLEGAL_INSTRUCTION traps a CP inside a clause at whose pc no instruction stands, with the cause and
pc of what stands there: 0x01 at the header or the word, out of its clause at a header; 0x08 with the first address
that cannot be fetched, at the instruction's own pc (log 52). It changes nothing for any other cause or pc. The
model's choices: the order of 0x05, 0x06 and 0x01 where several of them meet, and that under an open hold a wait for
a parked load is the violation 0x04 before R110 makes the instruction illegal (log 53); reserved bits in decoding
(log 37). -/
def Obligations.IssueChecksAndIllegalInstructions : Prop :=
  (∀ (i : Instr) (c : Ctx) (s : State), AtIssue c s → c.pfx = i.pfx → isEvent i = false →
     let runs := (shapeOf i).runs c
     (c.cp.holdLeft ≠ 0 → 4096 < s.now - c.cp.holdSince → Traps i c s 0x05 0 0 0) ∧
     ((c.cp.holdLeft ≠ 0 → s.now - c.cp.holdSince ≤ 4096) → (∃ t, c.cp.nopre = some t ∧ 65536 < s.now - t) →
       Traps i c s 0x06 0 0 0) ∧
     (InLimits c s →
       (¬WellFormed i ∨ (shapeOf i).legal c = false ∨ runs.all (·.ok c.pool.allot) = false → Traps i c s 0x01 0 0 0) ∧
       (WellFormed i → (shapeOf i).legal c = true → runs.all (·.ok c.pool.allot) = true →
         (∀ o, c.interlock runs (shapeOf i).sregs = some o → exec i s = .next (s.waitOp c.pid c.cid c.cp.pc o)) ∧
         (c.interlock runs (shapeOf i).sregs = none →
           let mregs := (shapeOf i).mregs ++ c.pfxMask
           let engines : Prop := c.engineInterlock runs mregs = true
           let parked : Prop := ∀ k ∈ c.pool.cmds, c.engineBlocks runs mregs k = true →
             k.park ≠ none ∧ ∃ g, k.kind = .gather g
           let held : Prop := (shapeOf i).broadcast = true ∧ c.heldByOther = true
           (engines → ¬parked → Stalls i c s) ∧
           (engines → parked → c.cp.holdLeft ≠ 0 → Traps i c s 0x04 0 0 0) ∧
           (engines → parked → c.cp.holdLeft = 0 →
             exec i s = .next (s.standAt c.pid c.cid (.counter 1 (c.gathersAfter mregs)))) ∧
           (¬engines → held → Stalls i c s) ∧
           (¬engines → ¬held → (shapeOf i).memory = true ∨ (shapeOf i).memoryIf c = true → ∀ o, c.acquiring = some o →
             exec i s = .next (s.waitOp c.pid c.cid c.cp.pc o)))))) ∧
  ((∀ (s : State) (core asid placed n k : Nat) (pc a : DWord), k < n →
     (∀ j b, j < k → s.fetchWord core asid placed (pc + BitVec.ofNat 64 j) ≠ .fault b) →
     s.fetchWord core asid placed (pc + BitVec.ofNat 64 k) = .fault a → s.fetchFault core asid placed pc n = a) ∧
   (∀ (c : Ctx) (s : State) (cl : Clause) (cause k : Byte) (pc at_ : DWord), AtIssue c s → InLimits c s → c.pfx = none →
     c.cp.clause = some cl → s.instrAt c.core c.asid c.pool.placed c.cp.pc cl.header cl.stop = .trap k at_ →
     (k = cause → at_ = pc → ∃ t, exec (.illegalInstruction cause pc) s = .next t ∧ CpBecomes s t c.pid c.cid
       (let y := trapped c.cp c.pool.threads c.cid pc cause 0 0
         (if cause = 0x08 then s.fetchFault c.core c.asid c.pool.placed c.cp.pc 8 else 0)
        if pc = cl.header then { y with clause := none } else y)) ∧
     (k ≠ cause ∨ at_ ≠ pc → exec (.illegalInstruction cause pc) s = .next s)))

/-! ### Scalar instructions and control flow -/

/-- R137, R138, R143, R150: SADD to SBREV, SMOV, SLI, GETM, GETF and RCOUNT write s_d as the table `scalarResult` gives
it, and change nothing else. -/
def Obligations.ScalarResults : Prop :=
  ∀ (i : Instr) (c : Ctx) (s : State) (d : Byte) (v : DWord), Issues i c s → UndoRoom c s 0 →
    scalarResult i c = some (d, v) →
    ∃ t y, exec i s = .next t ∧ Effect i c s t c.pool y ∧
      y.sreg d.toNat = v ∧ (∀ n, n ≠ d.toNat → y.sreg n = c.cp.sreg n) ∧ { y with s := c.cp.s } = c.cp

/-- R141, R333: GETST reads the selector's value, a recipe slice's partition, core and clock excepted; CLRST clears
FSTAT or CKI.

R96 to R98, R143: SETM and SETF write MODE or FMT of the top level of the stack where the value is legal, and are
illegal instructions where it is not. -/
def Obligations.StatusModeAndFormat : Prop :=
  ((∀ (p : Option Prefix) (d a : Byte) (c : Ctx) (s : State) (v : DWord), Issues (.getst p d a) c s → UndoRoom c s 0 →
     (c.pool.rslice = true → a ≠ 3 ∧ a ≠ 4 ∧ a ≠ 10) → (statusValues c s)[a.toNat]? = some v →
     ∃ t, exec (.getst p d a) s = .next t ∧ Effect (.getst p d a) c s t c.pool (c.cp.setS d.toNat v)) ∧
   (∀ (p : Option Prefix) (d a : Byte) (c : Ctx) (s : State), Issues (.getst p d a) c s → c.pool.rslice = true →
     a = 3 ∨ a = 4 ∨ a = 10 → Traps (.getst p d a) c s 0x0F 0 0 0) ∧
   (∀ (p : Option Prefix) (a : Byte) (c : Ctx) (s : State), Issues (.clrst p a) c s → UndoRoom c s 0 →
     ∃ t y, exec (.clrst p a) s = .next t ∧ Effect (.clrst p a) c s t c.pool y ∧
       y.fstat = (if a = 5 then 0 else c.cp.fstat) ∧ y.cki = (if a = 6 then 0 else c.cp.cki) ∧
       { y with fstat := c.cp.fstat, cki := c.cp.cki } = c.cp)) ∧
  (∀ (i : Instr) (c : Ctx) (s : State) (mode : Bool) (n : Nat) (l : Level) (r : List Level), Issues i c s →
     UndoRoom c s 0 → formatValue i c = some (mode, n) → c.cp.stack = l :: r →
     ((if mode then ModeLegal n else FmtLegal n) → ∃ t, exec i s = .next t ∧
       Effect i c s t c.pool { c.cp with stack :=
         (if mode then { l with mode := BitVec.ofNat 32 n } else { l with fmt := BitVec.ofNat 32 n }) :: r }) ∧
     (¬(if mode then ModeLegal n else FmtLegal n) → Traps i c s 0x01 0 0 0))

/-- R164: CHKE waits while an operation of its CP is outstanding, SYSC and engine commands apart. Then it traps on
CKI.POISON, or writes CKI, zero-extended, to s_d; nothing else changes. -/
def Obligations.ConsumeCheck : Prop :=
  ∀ (p : Option Prefix) (d : Byte) (c : Ctx) (s : State), Issues (.chke p d) c s → UndoRoom c s 0 →
    let mine (o : Op) : Prop := o ∈ c.pool.ops ∧ o.cp = c.cid ∧ o.kind ≠ .sysc
    ((∃ o, mine o ∧ o.park = none) → Stalls (.chke p d) c s) ∧
    ((∃ o, mine o) → (∀ o, mine o → o.park ≠ none) →
      ∃ o, mine o ∧ exec (.chke p d) s = .next (s.waitOp c.pid c.cid c.cp.pc o)) ∧
    ((∀ o, ¬mine o) → c.cp.cki.getLsbD 31 = true → Traps (.chke p d) c s 0x10 0 0 0) ∧
    ((∀ o, ¬mine o) → c.cp.cki.getLsbD 31 = false → ∃ t, exec (.chke p d) s = .next t ∧
      Effect (.chke p d) c s t c.pool (c.cp.setS d.toNat (c.cp.cki.zeroExtend 64)))


/-- R17, R22, R144, R145: BR, BRC, BRZ, BRNZ, LOOP, CALL and RET go on after themselves, or at their target, where a
clause header must stand; one that cannot be fetched is found when the CP gets there, and while its fetch is parked
the branch waits, with nothing of it done (log 18). CALL's s_d is the word after the CALL, also under a prefix of
zeros, where R144 with R87 would give the word after the prefix: the model's choice (log 52). RET traps on an
address of more than 56 bits, and on one that is no word address.

R23: BRI reads the number of targets at its table, traps where s_a is not below it, and goes to the target that the
table's word s_a gives as a distance from the table. (That the table is read as code is log 8; the cause of a target
that is no clause header is log 52.) -/
def Obligations.Branches : Prop :=
  ((∀ (i : Instr) (c : Ctx) (s : State) (target : DWord) (y : Cp), Issues i c s →
     (branchOf i c = some (false, target, y) → UndoRoom c s 0 → ∃ t, exec i s = .next t ∧ Effect i c s t c.pool y) ∧
     (branchOf i c = some (true, target, y) →
       match s.fetchWord c.core c.asid c.pool.placed target with
       | .word w s2 =>
           if w.toNat / 2 ^ 26 = 0x3C then ∃ t, exec i s = .next t ∧ Jumped c s2 t target y
           else Traps i c s 0x01 0 0 0
       | .park k s2 => exec i s = .next (s2.standAt c.pid c.cid (.parkedFetch k))
       | .fault _ => ∃ t, exec i s = .next t ∧ Jumped c s t target y)) ∧
   (∀ (p : Option Prefix) (a : Byte) (c : Ctx) (s : State), Issues (.ret p a) c s →
     (2 ^ 56 ≤ (c.s a).toNat → Traps (.ret p a) c s 0x0A 0 0 (c.s a)) ∧
     ((c.s a).toNat < 2 ^ 56 → (c.s a).toNat % 4 ≠ 0 → Traps (.ret p a) c s 0x01 0 0 0))) ∧
  (∀ (p : Option Prefix) (a : Byte) (lit n : Word) (c : Ctx) (s s1 : State) (table : DWord), Issues (.bri p a lit) c s →
     table = c.wordAt + lit.signExtend 64 → s.fetchWord c.core c.asid c.pool.placed table = .word n s1 →
     (n.toNat ≤ (c.s a).toNat → Traps (.bri p a lit) c s 0x07 0 0 0) ∧
     ((c.s a).toNat < n.toNat → ∀ (dist : Word) (s2 : State),
       s1.fetchWord c.core c.asid c.pool.placed (table + 1 + c.s a) = .word dist s2 →
       match s2.fetchWord c.core c.asid c.pool.placed (table + dist.signExtend 64) with
       | .word w s3 =>
           if w.toNat / 2 ^ 26 = 0x3C then ∃ t, exec (.bri p a lit) s = .next t ∧
             Jumped c s3 t (table + dist.signExtend 64) c.cp
           else Traps (.bri p a lit) c s 0x01 0 0 0
       | .park k s3 => exec (.bri p a lit) s = .next (s3.standAt c.pid c.cid (.parkedFetch k))
       | .fault _ => ∃ t, exec (.bri p a lit) s = .next t ∧ Jumped c s2 t (table + dist.signExtend 64) c.cp))

/-- R45, R147, R157, R160: NOP does nothing; HOLD opens a hold of b broadcasts, or is illegal while one is open; RELH
ends it; NOPRE opens an interval without pre-emption, or is illegal inside one; PRE closes it. -/
def Obligations.HoldsAndIntervals : Prop :=
  (∀ (p : Option Prefix) (c : Ctx) (s : State), Issues (.nop p) c s → UndoRoom c s 0 →
    ∃ t, exec (.nop p) s = .next t ∧ Effect (.nop p) c s t c.pool c.cp) ∧
  (∀ (p : Option Prefix) (c : Ctx) (s : State), Issues (.pre p) c s → UndoRoom c s 0 →
    ∃ t, exec (.pre p) s = .next t ∧ Effect (.pre p) c s t c.pool { c.cp with nopre := none }) ∧
  (∀ (p : Option Prefix) (c : Ctx) (s : State), Issues (.nopre p) c s → UndoRoom c s 0 →
    (c.cp.nopre.isSome = true → Traps (.nopre p) c s 0x01 0 0 0) ∧
    (c.cp.nopre = none → ∃ t, exec (.nopre p) s = .next t ∧
      Effect (.nopre p) c s t c.pool { c.cp with nopre := some s.now })) ∧
  (∀ (p : Option Prefix) (b : Byte) (c : Ctx) (s : State), Issues (.hold p b) c s → UndoRoom c s 0 →
    (c.cp.holdLeft ≠ 0 → Traps (.hold p b) c s 0x01 0 0 0) ∧
    (c.cp.holdLeft = 0 → ∃ t q x, exec (.hold p b) s = .next t ∧ OnlyPool c.pid s t ∧ t.pool? c.pid = some q ∧
      { q with cps := c.pool.cps } = c.pool ∧ (∀ j, j ≠ c.cid → q.cp? j = c.pool.cp? j) ∧ q.cp? c.cid = some x ∧
      PastPc (.hold p b) c x ∧ { x with pc := c.cp.pc, clause := c.cp.clause, stand := c.cp.stand, next := c.cp.next } =
        { c.cp with holdLeft := b.toNat, holdSince := s.now, begun := false })) ∧
  (∀ (p : Option Prefix) (c : Ctx) (s : State), Issues (.relh p) c s → UndoRoom c s 0 →
    ∃ t q x, exec (.relh p) s = .next t ∧ OnlyPool c.pid s t ∧ t.pool? c.pid = some q ∧
      { q with cps := c.pool.cps } = c.pool ∧ (∀ j, j ≠ c.cid → q.cp? j = c.pool.cp? j) ∧ q.cp? c.cid = some x ∧
      PastPc (.relh p) c x ∧ { x with pc := c.cp.pc, clause := c.cp.clause, stand := c.cp.stand, next := c.cp.next } =
        { c.cp with holdLeft := 0 })

/-! ### Responders, reductions and thread instructions -/

/-- R37, R38: a push over level 15 is a responder-stack overflow, POPR at level 0 an underflow; SRCX, FRST and DROPF
replace the top set and are illegal at level 0. SRCX leaves the parent's threads that the top has not. -/
def Obligations.ResponderStack : Prop :=
  (∀ (i : Instr) (c : Ctx) (s : State), Issues i c s → c.cp.stack.length = 16 →
    (searchOf i c).isSome = true ∨ (∃ p m, i = .pushm p m) → Traps i c s 0x02 0 0 0) ∧
  (∀ (p : Option Prefix) (c : Ctx) (s : State), Issues (.popr p) c s → c.cp.stack.length = 1 →
    Traps (.popr p) c s 0x03 0 0 0) ∧
  (∀ (i : Instr) (p : Option Prefix) (c : Ctx) (s : State), i ∈ [.srcx p, .frst p, .dropf p] → Issues i c s →
    c.cp.stack.length = 1 → Traps i c s 0x01 0 0 0) ∧
  (∀ (i : Instr) (p : Option Prefix) (c : Ctx) (s : State) (k j : Level) (r : List Level),
    i ∈ [.srcx p, .frst p, .dropf p] → Issues i c s → UndoRoom c s 0 → c.cp.stack = k :: j :: r →
    ∃ t m, exec i s = .next t ∧ Effect i c s t c.pool { c.cp with stack := { k with mask := m } :: j :: r } ∧
      (i = .srcx p → ∀ u, u < 16384 → m.getLsbD u = (j.mask.getLsbD u && !k.mask.getLsbD u)))

/-- R36, R101, R148 to R150: SRCH and SRCA push the set of the threads of their parent that match, PUSHM a mask
register, with MODE and FMT of the level below; flags are raised by the compared elements.

R36, R150, R151: POPR discards the top level; FRST keeps the lowest thread of the top set and DROPF the others; SAVM
and MASKOP write a mask register. -/
def Obligations.PushesAndMasks : Prop :=
  ((∀ (i : Instr) (c : Ctx) (s : State) (parent : Mask) (d a b : Byte), Issues i c s → UndoRoom c s 0 →
     searchOf i c = some (parent, d, a, b) → c.cp.stack.length ≤ 15 →
     ∃ t y m, exec i s = .next t ∧ Effect i c s t c.pool y ∧
       y.stack = ⟨m, c.cp.topLevel.mode, c.cp.topLevel.fmt⟩ :: c.cp.stack ∧
       (∀ u, m.getLsbD u = true ↔ u ∈ Mask.tids parent c.pool.threads ∧ (c.found d a b u).1 = true) ∧
       y.fstat = c.cp.fstat ||| allFlags ((Mask.tids parent c.pool.threads).map (c.found d a b)) ∧
       { y with stack := c.cp.stack, fstat := c.cp.fstat } = c.cp) ∧
   (∀ (p : Option Prefix) (m : BitVec 3) (c : Ctx) (s : State), Issues (.pushm p m) c s → UndoRoom c s 0 →
     c.cp.stack.length ≤ 15 → ∃ t, exec (.pushm p m) s = .next t ∧
       Effect (.pushm p m) c s t c.pool { c.cp with
         stack := ⟨c.cp.mreg m.toNat, c.cp.topLevel.mode, c.cp.topLevel.fmt⟩ :: c.cp.stack })) ∧
  ((∀ (p : Option Prefix) (c : Ctx) (s : State) (k j : Level) (r : List Level), UndoRoom c s 0 →
     c.cp.stack = k :: j :: r →
     (Issues (.popr p) c s → ∃ t, exec (.popr p) s = .next t ∧
       Effect (.popr p) c s t c.pool { c.cp with stack := j :: r }) ∧
     (Issues (.frst p) c s → ∃ t m, exec (.frst p) s = .next t ∧
       Effect (.frst p) c s t c.pool { c.cp with stack := { k with mask := m } :: j :: r } ∧
       ∀ u, m.getLsbD u = true ↔ Lowest k.mask u) ∧
     (Issues (.dropf p) c s → ∃ t m, exec (.dropf p) s = .next t ∧
       Effect (.dropf p) c s t c.pool { c.cp with stack := { k with mask := m } :: j :: r } ∧
       ∀ u, m.getLsbD u = true ↔ k.mask.getLsbD u = true ∧ ¬Lowest k.mask u)) ∧
   (∀ (p : Option Prefix) (m : BitVec 3) (c : Ctx) (s : State), Issues (.savm p m) c s → UndoRoom c s 0 →
     ∃ t, exec (.savm p m) s = .next t ∧
       Effect (.savm p m) c s t c.pool (c.cp.setM m.toNat c.cp.topLevel.mask)) ∧
   (∀ (p : Option Prefix) (md ma mb op : BitVec 3) (c : Ctx) (s : State), Issues (.maskop p md ma mb op) c s →
     UndoRoom c s 0 → ∃ t y, exec (.maskop p md ma mb op) s = .next t ∧ Effect (.maskop p md ma mb op) c s t c.pool y ∧
       (∀ n, n ≠ md.toNat → y.mreg n = c.cp.mreg n) ∧ { y with m := c.cp.m } = c.cp ∧
       (op ≠ 7 → ∀ u, u < 16384 → (y.mreg md.toNat).getLsbD u = maskBit op.toNat (decide (u < c.pool.threads))
         ((c.cp.mreg ma.toNat).getLsbD u) ((c.cp.mreg mb.toNat).getLsbD u)) ∧
       (op = 7 → ∀ u, (y.mreg md.toNat).getLsbD u = true ↔ Lowest (c.cp.mreg ma.toNat) u)))

/-- R152: RGET reads the lowest responder's element, 0 where there is none; RPUT writes it, and under the zero form
writes 0 to every other thread of the pool. -/
def Obligations.OneResponder : Prop :=
  (∀ (p : Option Prefix) (d a : Byte) (c : Ctx) (s : State), Issues (.rget p d a) c s → UndoRoom c s 0 →
    ∃ t, exec (.rget p d a) s = .next t ∧ Effect (.rget p d a) c s t c.pool (c.cp.setS d.toNat
      (match c.tids with | u :: _ => c.pool.getElem c.wide u a.toNat | [] => 0))) ∧
  (∀ (p : Option Prefix) (d b : Byte) (c : Ctx) (s : State), Issues (.rput p d b) c s →
    UndoRoom c s (8 * (1 + c.pool.threads)) →
    ∃ t q, exec (.rput p d b) s = .next t ∧ Effect (.rput p d b) c s t q c.cp ∧
      (∀ u, c.tids.head? = some u → q.getElem c.wide u d.toNat = lowPart c.wide (c.s b)) ∧
      (∀ u ∈ Mask.tids c.all c.pool.threads, c.zeroForm = true → c.tids.head? ≠ some u →
        q.getElem c.wide u d.toNat = 0) ∧
      (∀ u n, n < 256 → ¬((c.tids.head? = some u ∨ (c.zeroForm = true ∧ u ∈ Mask.tids c.all c.pool.threads)) ∧
        written c.wide d.toNat n) → q.reg u n = c.pool.reg u n) ∧
      { q with regs := c.pool.regs, undoRegs := c.pool.undoRegs } = c.pool)

/-- R65, R82, R153, R154: RSUM, RMIN, RMAX, ARGMX, RAND and ROR write s_d and raise the flags of their elements. The
model's reading of two rules together: a reduction of a single NaN gives the canonical NaN (log 40, DEDUCED). -/
def Obligations.Reductions : Prop :=
  ∀ (i : Instr) (c : Ctx) (s : State) (d : Byte) (v : DWord) (f : Flags), Issues i c s → UndoRoom c s 0 →
    reduceResult i c = some (d, v, f) →
    ∃ t, exec i s = .next t ∧ Effect i c s t c.pool { c.cp.setS d.toNat v with fstat := c.cp.fstat ||| f }

/-- R122, R127, R129: VAND, VOR, VXOR, VANDN and VNOT write their bitwise results, VSEL the selection that its fourth
operand makes bit by bit, TID the tid: the whole 32-bit register, or the pair under I64 and U64, of each responder,
under every type and with no flag. Only the registers written differ. VSEL without a prefix is illegal. -/
def Obligations.LogicSelectionAndTid : Prop :=
  (∀ (i : Instr) (c : Ctx) (s : State) (d : Byte) (v : Nat → DWord), Issues i c s →
    UndoRoom c s (8 * (c.tids.length + (Mask.tids c.zeroSet c.pool.threads).length)) →
    (let e (u : Nat) (n : Nat) : DWord := c.pool.getElem c.wide u n
     match i with
      | .vand _ x a b => x = d ∧ v = fun u => e u a.toNat &&& e u b.toNat
      | .vor _ x a b => x = d ∧ v = fun u => e u a.toNat ||| e u b.toNat
      | .vxor _ x a b => x = d ∧ v = fun u => e u a.toNat ^^^ e u b.toNat
      | .vandn _ x a b => x = d ∧ v = fun u => e u a.toNat &&& ~~~(e u b.toNat)
      | .vnot _ x a => x = d ∧ v = fun u => ~~~(e u a.toNat)
      | .vsel _ x a b => x = d ∧ v = fun u => (e u a.toNat &&& e u c.x) ||| (e u b.toNat &&& ~~~(e u c.x))
      | .tid _ x => x = d ∧ v = fun u => BitVec.ofNat 64 u
      | _ => False) →
    ∃ t q, exec i s = .next t ∧ Effect i c s t q c.cp ∧
      (∀ u ∈ c.tids, q.getElem c.wide u d.toNat = lowPart c.wide (v u)) ∧
      (∀ u ∈ Mask.tids c.zeroSet c.pool.threads, u ∉ c.tids → q.getElem c.wide u d.toNat = 0) ∧
      (∀ u n, n < 256 → ¬((u ∈ c.tids ∨ u ∈ Mask.tids c.zeroSet c.pool.threads) ∧ written c.wide d.toNat n) →
        q.reg u n = c.pool.reg u n) ∧
      { q with regs := c.pool.regs, undoRegs := c.pool.undoRegs } = c.pool) ∧
  (∀ (d a b : Byte) (c : Ctx) (s : State), AtIssue c s → c.pfx = none → InLimits c s →
    Traps (.vsel none d a b) c s 0x01 0 0 0)

/-- R19, R39, R85, R109, R111, R116 to R136, R155, R156: an instruction that computes thread registers (VADD, VSUB,
VMUL, VMULH, VFMA, VMIN, VMAX, VABS, VNEG, VCLAMP, VDOT4, VSCAL, VAND to VNOT, VSHL to VROT, VPOPC to VBFI, VCMP,
VSEL, VMOV, VMOVI, TID, VCVT, VPACK, VUNPK, VRCP to VCOS, SCAN, MATCH) writes the table's value to v_d of each
responder and 0 to v_d of each non-responder of a zero form, and raises the flags of the responders' elements. Where
their old values are more than the pool's share of the undo log holds, beside older ones, it has no effect yet and
the pool's commit is forced (R180).

R110, R120, R133, R199, R333: a type outside an instruction's class is an illegal instruction, and so are a VUNPK of
an element that the register has not and a VDOT4 under FP32 whose FMT does not name FP8 formats; a recipe slice's
atomic of a legal type is a violation of the recipe's scope. The model's choices: readings of the number rules (log
40) and the register of a MATCH (log 51). -/
def Obligations.ThreadResults : Prop :=
  ((∀ (i : Instr) (c : Ctx) (s : State) (r : ThreadResult), Issues i c s → threadResult i c = some r →
     UndoRoom c s (8 * (c.tids.length + (Mask.tids c.zeroSet c.pool.threads).length)) →
     r.vals.map (·.1) = c.tids ∧
     ∃ t q y, exec i s = .next t ∧ Effect i c s t q y ∧
       (∀ e ∈ r.vals, q.getElem r.wide e.1 r.d.toNat = lowPart r.wide e.2) ∧
       (∀ u ∈ Mask.tids c.zeroSet c.pool.threads, u ∉ c.tids → q.getElem r.wide u r.d.toNat = 0) ∧
       (∀ u n, n < 256 → ¬((u ∈ c.tids ∨ u ∈ Mask.tids c.zeroSet c.pool.threads) ∧ written r.wide r.d.toNat n) →
         q.reg u n = c.pool.reg u n) ∧
       { q with regs := c.pool.regs, undoRegs := c.pool.undoRegs } = c.pool ∧
       y.fstat = c.cp.fstat ||| r.flags ∧ { y with fstat := c.cp.fstat } = c.cp) ∧
   (∀ (i : Instr) (c : Ctx) (s : State) (r : ThreadResult) (k : Nat), Issues i c s → threadResult i c = some r →
     k ∈ c.pool.cores → c.pool.undoHeld ≠ 0 →
     s.share k < c.pool.undoOn k + 4 * (c.tids.filter fun u => c.pool.coreOfThread u = k ∧
       KMap.find? c.pool.undoRegs (regKey (u, r.d.toNat)) = none).length →
     exec i s = .next (s.forceFor c.pid c.cid [c.pid]))) ∧
  ((∀ (i : Instr) (c : Ctx) (s : State) (l : List Nat), Issues i c s → (comesAfter i = true → c.earlier = none) →
     typeClass i = some l → c.tyCode ∉ l → Traps i c s 0x01 0 0 0) ∧
   (∀ (i : Instr) (c : Ctx) (s : State), Issues i c s → (comesAfter i = true → c.earlier = none) → isAtomic i = true →
     c.tyCode ∈ [3, 4, 7, 8, 11] → c.pool.rslice = true → Traps i c s 0x0F 0 0 0) ∧
   (∀ (p : Option Prefix) (d a b : Byte) (c : Ctx) (s : State), AtIssue c s → InLimits c s → c.pfx = p →
     classNarrow c.tyCode = true → 32 / c.ty.width ≤ b.toNat → Traps (.vunpk p d a b) c s 0x01 0 0 0) ∧
   (∀ (p : Option Prefix) (d a b : Byte) (c : Ctx) (s : State), Issues (.vdot4 p d a b) c s →
     (comesAfter (.vdot4 p d a b) = true → c.earlier = none) → c.tyCode = 11 →
     c.fmt.toNat % 16 ∉ [12, 13] ∨ c.fmt.toNat / 16 % 16 ∉ [12, 13] → Traps (.vdot4 p d a b) c s 0x01 0 0 0))

/-! ### Scratchpad, windows and permutes -/

/-- R56, R194: of the offsets of a scratchpad access, those misaligned trap first, with TMASK naming their threads and
the address of the first; then those outside the pool's scratchpad.

R26, R176: a misaligned window offset traps first; then one of a register at or above the allotment or of a thread
the pool has not.

R202, R203: a VSHFL distance at or above the group width is illegal; a VBCST of a thread the pool has not traps. The
model's choice: the recorded ADDR is the offset of the lowest thread that fails the check, in the scratchpad and in
a window (log 53). -/
def Obligations.OffsetAndLaneTraps : Prop :=
  (∀ (i : Instr) (c : Ctx) (s : State) (l : List (Nat × Int)) (z : Nat) (named : Bool), Issues i c s →
     spadAccess i c = some (l, z, named) →
     let mask (b : List (Nat × Int)) : Mask := if named then Mask.ofTids (b.map (·.1)) else 0
     (∀ e r, (l.filter fun e => e.2 % (z : Int) ≠ 0) = e :: r → Traps i c s 0x09 (mask (e :: r)) 0 (BitVec.ofInt 64 e.2)) ∧
     (∀ e r, (∀ x ∈ l, x.2 % (z : Int) = 0) → (l.filter fun e => e.2 < 0 ∨ (c.pool.spadSize : Int) < e.2 + z) = e :: r →
       Traps i c s 0x0B (mask (e :: r)) 0 (BitVec.ofInt 64 e.2))) ∧
  (∀ (i : Instr) (c : Ctx) (s : State) (a : Byte) (wide peer : Bool), Issues i c s → windowOf i = some (a, wide, peer) →
     let off (t : Nat) : Nat := (c.pool.reg t a.toNat).toNat
     (∀ t r, (c.tids.filter fun t => off t % (if wide then 8 else 4) ≠ 0) = t :: r →
       Traps i c s 0x09 (Mask.ofTids (t :: r)) 0 (BitVec.ofNat 64 (off t))) ∧
     (∀ t r, (∀ u ∈ c.tids, off u % (if wide then 8 else 4) = 0) →
       (c.tids.filter fun t => c.pool.allot ≤ (windowAt peer t (off t)).2 ∨
         c.pool.threads ≤ (windowAt peer t (off t)).1) = t :: r →
       Traps i c s 0x0C (Mask.ofTids (t :: r)) 0 (BitVec.ofNat 64 (off t)))) ∧
  ((∀ (p : Option Prefix) (d a delta : Byte) (kind : BitVec 2) (c : Ctx) (s : State),
     Issues (.vshfl p d a delta kind) c s → c.pool.group ≤ delta.toNat → Traps (.vshfl p d a delta kind) c s 0x01 0 0 0) ∧
   (∀ (p : Option Prefix) (d a b : Byte) (c : Ctx) (s : State), Issues (.vbcst p d a b) c s →
     c.pool.threads ≤ (c.s b).toNat % 2 ^ 32 →
     Traps (.vbcst p d a b) c s 0x0C 0 0 (BitVec.ofNat 64 ((c.s b).toNat % 2 ^ 32))))

/-- R16, R19, R44, R194, R195, R197, R201 to R203: VLDS, VLDW, VPERM, VSHFL and VBCST read their operands at issue and
become outstanding result operations, bound to their clause's flag; nothing else changes but what meeting the
scratchpad's bytes decides (R207). -/
def Obligations.ResultsKnownAtIssue : Prop :=
  ∀ (i : Instr) (c : Ctx) (s s1 : State) (q : Pool) (wide : Bool) (d : Byte) (vals : List (Nat × DWord)), Issues i c s →
    (match spadAccess i c with
      | some (l, z, _) => s1 = s.met c l z ∧ Fits c l z
      | none => s1 = s) →
    (∀ a w peer, windowOf i = some (a, w, peer) → WindowFits c a w peer) →
    s1.pool? c.pid = some q → q.cp? c.cid = some c.cp → RoomAt c s q 0 → knownValues i c q = some (wide, d, vals) →
    ∃ t, exec i s = .next t ∧ Effect i c { s1 with nextId := s1.nextId + 1 } t
      { q with ops := q.ops ++ [c.knownResult s1.nextId wide d vals 0 0] } c.cp

/-- R16, R139, R140, R194 to R196: VSTS and SST write the scratchpad at once, in ascending tid, and stay outstanding as
a performed operation; every other byte, and memory, are as before. SLD reads eight bytes of the scratchpad at once
and is outstanding until it completes.

R199, R200: scratchpad atomics are performed one thread after another in ascending tid; VATOM delivers the old
values as a result operation, VRED raises its flags at once.

R176, R177, R197: VSTW writes registers through a window, in ascending tid; of two threads that write one register
the later leaves its value, and every other register is as before. -/
def Obligations.ScratchpadAndWindowAccesses : Prop :=
  ((∀ (i : Instr) (c : Ctx) (s : State) (l : List (Nat × Int)) (z : Nat) (named : Bool) (w : List (Nat × List Byte))
     (q : Pool), Issues i c s → spadAccess i c = some (l, z, named) → Fits c l z → spadBytes i c = some w →
     (s.met c l z).pool? c.pid = some q → q.cp? c.cid = some c.cp → RoomAt c s q (z * l.length) →
     ∃ t r o, exec i s = .next t ∧ Effect i c { s.met c l z with nextId := (s.met c l z).nextId + 1 } t r c.cp ∧
       (∀ a, r.spadByte a = (lastByte w a).getD (q.spadByte a)) ∧
       { r with spad := q.spad, undoSpad := q.undoSpad, ops := q.ops } = q ∧ r.ops = q.ops ++ [o] ∧
       o.id = (s.met c l z).nextId ∧ o.kind = .spad ∧ o.cp = c.cid ∧
       o.flag = (match c.cp.clause with | some cl => cl.fb | none => 15)) ∧
   (∀ (p : Option Prefix) (d a : Byte) (c : Ctx) (s : State) (q : Pool), Issues (.sld p d a 1) c s →
     let o := (c.s a).toNat
     Fits c [(0, (o : Int))] 8 → (s.met c [(0, (o : Int))] 8).pool? c.pid = some q → q.cp? c.cid = some c.cp →
     RoomAt c s q 0 →
     let u := s.met c [(0, (o : Int))] 8
     let v : DWord := BitVec.ofNat 64 (q.spadRead o 8)
     ∃ t, exec (.sld p d a 1) s = .next t ∧ Effect (.sld p d a 1) c { u with nextId := u.nextId + 1 } t
       { q with ops := q.ops ++ [{ c.newOp .sknown with
         id := u.nextId, dest := d.toNat, wide := true, lanes := [⟨0, o, o, v, 1⟩], got := some [v] }] } c.cp)) ∧
  ((∀ (c : Ctx) (op : Nat) (e : Nat × Int) (l : List (Nat × Int)) (y x : Nat) (q : Pool),
     let z := if c.wide then 8 else 4
     let old := q.spadRead e.2.toNat z
     let r := atomicElem op c.tyCode c.rm c.sat old (c.pool.getElem c.wide e.1 y).toNat (c.pool.getElem c.wide e.1 x).toNat
     let rest := c.spadAtomics op l y x (q.spadWriteBytes e.2.toNat (toBytes r.1 z))
     c.spadAtomics op (e :: l) y x q = (rest.1, BitVec.ofNat 64 old :: rest.2.1, r.2 ||| rest.2.2.1,
       (e.2.toNat, toBytes r.1 z) :: rest.2.2.2)) ∧
   (∀ (p : Option Prefix) (d a b : Byte) (w : Access) (c : Ctx) (s : State) (l : List (Nat × Int)) (z : Nat) (n : Bool)
     (q : Pool), Issues (.vatomSpad p d a b w) c s → spadAccess (.vatomSpad p d a b w) c = some (l, z, n) → Fits c l z →
     (w.ord = 2 ∨ w.ord = 3 → c.earlier = none) → (s.met c l z).pool? c.pid = some q → q.cp? c.cid = some c.cp →
     RoomAt c s q (z * l.length) →
     let r := c.spadAtomics w.op.toNat l b.toNat c.x q
     ∃ t, exec (.vatomSpad p d a b w) s = .next t ∧
       Effect (.vatomSpad p d a b w) c { s.met c l z with nextId := (s.met c l z).nextId + 1 } t
         { r.1 with ops := q.ops ++ [c.knownResult (s.met c l z).nextId c.wide d ((l.map (·.1)).zip r.2.1) r.2.2.1
           w.ord.toNat] } c.cp) ∧
   (∀ (p : Option Prefix) (d a b : Byte) (w : Access) (c : Ctx) (s : State) (l : List (Nat × Int)) (z : Nat) (n : Bool)
     (q : Pool), Issues (.vredSpad p d a b w) c s → spadAccess (.vredSpad p d a b w) c = some (l, z, n) → Fits c l z →
     (w.ord = 2 ∨ w.ord = 3 → c.earlier = none) → (s.met c l z).pool? c.pid = some q → q.cp? c.cid = some c.cp →
     RoomAt c s q (z * l.length) →
     let v := c.spadAtomics w.op.toNat l d.toNat 0 q
     ∃ t r o, exec (.vredSpad p d a b w) s = .next t ∧
       Effect (.vredSpad p d a b w) c { s.met c l z with nextId := (s.met c l z).nextId + 1 } t r
         { c.cp with fstat := c.cp.fstat ||| v.2.2.1 } ∧
       (∀ k, r.spadByte k = v.1.spadByte k) ∧ { r with spad := q.spad, undoSpad := q.undoSpad, ops := q.ops } = q ∧
       r.ops = q.ops ++ [o] ∧ o.id = (s.met c l z).nextId ∧ o.kind = .spad ∧ o.cp = c.cid)) ∧
  (∀ (p : Option Prefix) (d a : Byte) (size win : BitVec 1) (c : Ctx) (s : State), Issues (.vstw p d a size win) c s →
     WindowFits c a (size = 1) (win = 1) → UndoRoom c s (8 * c.tids.length) →
     let tgt (t : Nat) : Nat × Nat := windowAt (win = 1) t (c.pool.reg t a.toNat).toNat
     ∃ t q, exec (.vstw p d a size win) s = .next t ∧ Effect (.vstw p d a size win) c s t q c.cp ∧
       (∀ u ∈ c.tids, (∀ v ∈ c.tids, u < v → regKey (tgt v) ≠ regKey (tgt u)) →
         q.getElem (size = 1) (tgt u).1 (tgt u).2 = c.pool.getElem (size = 1) u d.toNat) ∧
       (∀ u n, (∀ v ∈ c.tids, regKey (tgt v) ≠ regKey (u, n) ∧ (size = 1 → regKey (tgt v) + 1 ≠ regKey (u, n))) →
         q.reg u n = c.pool.reg u n) ∧
       { q with regs := c.pool.regs, undoRegs := c.pool.undoRegs } = c.pool)

/-! ### Global memory -/

/-- R254: of the accesses of an instruction the misaligned ones trap first, with TMASK naming their threads and the
address of the first; then those beyond 56 bits.

R251 to R254: an access that passes its checks is aligned, within 56 bits, in the slice's scope, to no pinned page
when it writes, and to a page whose leaf, as its cluster looks it up, permits it and whose physical address decodes.
What a cluster looks up is the leaf of the page tables, or an entry that its translation cache holds, for a write
one whose D is set.

R56, R254, R255: an access that fails a check traps with the check's cause; a load that parks becomes an outstanding
operation at which its CP stands, past it, or is a hold violation without effect while its CP holds (R46). The
model's choices: the recorded ADDR is that of the lowest thread that fails (log 53), and where a slice's scope is
checked (log 7). -/
def Obligations.AccessChecks : Prop :=
  (∀ (c : Ctx) (s : State) (l : List (Nat × Int)) (z : Nat) (k : XKind) (named : Bool),
     let mask (b : List (Nat × Int)) : Mask := if named then Mask.ofTids (b.map (·.1)) else 0
     (∀ e r, (l.filter fun e => e.2 % (z : Int) ≠ 0) = e :: r →
       c.checkAll s l z k named = .trap 0x09 (mask (e :: r)) 0 (BitVec.ofInt 64 e.2)) ∧
     (∀ e r, (∀ x ∈ l, x.2 % (z : Int) = 0) → (l.filter fun e => e.2 < 0 ∨ 2 ^ 56 ≤ e.2) = e :: r →
       c.checkAll s l z k named = .trap 0x0A (mask (e :: r)) 0 (BitVec.ofInt 64 e.2))) ∧
  ((∀ (c : Ctx) (s t : State) (va : Int) (z pa : Nat) (k : XKind), c.checkOne s va z k = (.ok pa, t) →
     va % (z : Int) = 0 ∧ 0 ≤ va ∧ va < 2 ^ 56 ∧ c.sliceAllows s va.toNat z k.writes = true ∧
     (k.writes = true → c.pool.task.recipe = none → s.pinned c.asid va.toNat = false) ∧
     (∃ leaf n u, s.leafFor (if k.writes = true ∧ c.pool.task.recipe ≠ none then c.pool.cluster else clusterOf c.core)
         c.asid va.toNat (k.writes && c.pool.task.recipe.isNone) = (.ok (leaf, n), u) ∧
       pa = leafPa leaf n va.toNat ∧ Pte.allows leaf k = true) ∧ s.decodes pa = true) ∧
   (∀ (s u : State) (cluster asid va n : Nat) (write : Bool) (leaf : DWord),
     s.leafFor cluster asid va write = (.ok (leaf, n), u) →
     (∃ l, s.walk asid va = .ok l ∧ leaf = l.word ∧ n = l.bits) ∨
     (∃ e ∈ s.tlb, e.covers cluster asid va = true ∧ leaf = e.leaf ∧ n = e.bits ∧ (write = true → Pte.d e.leaf = true)))) ∧
  (∀ (i : Instr) (c : Ctx) (s : State) (l : List (Nat × Int)) (z : Nat) (k : XKind) (named : Bool), Issues i c s →
     globalAccess i c = some (l, z, k, named) → (comesAfter i = true → c.earlier = none) →
     (∀ cause tm detail addr, c.checkAll s l z k named = .trap cause tm detail addr →
       Traps i c s cause tm detail addr) ∧
     (∀ park s1, k = .load → c.checkAll s l z k named = .park park s1 →
       (c.cp.holdLeft ≠ 0 → Traps i c s 0x04 0 0 0) ∧
       (c.cp.holdLeft = 0 → ∀ q, s1.pool? c.pid = some q → q.cp? c.cid = some c.cp →
         ∃ u o, exec i s = .next (u.standAt c.pid c.cid (.load s1.nextId c.cp.pc c.cp.clause)) ∧
           Effect i c { s1 with nextId := s1.nextId + 1 } u { q with ops := q.ops ++ [o] } c.cp ∧ o.park = some park ∧
           globalOp i c l (l.map fun _ => 0) s1.nextId none = some { o with park := none })))

/-- R16, R178, R239, R257, R258, R261, R287: SLD, VLD, SST, VST and VRED that pass their checks capture their operands
and become outstanding operations; a release, acquire or `.sc` access at .cl or wider apart, that is all they do. An
`.sc` store or reduction waits while an `.sc` access of its cores to its bytes is not performed (R288). The model's
choices: the moments of loads and stores (log 15), and that a timestamp is above the clocks of all the pool's cores
(log 50). -/
def Obligations.AccessesOutstanding : Prop :=
  ∀ (i : Instr) (c : Ctx) (s s1 : State) (l : List (Nat × Int)) (z : Nat) (k : XKind) (named : Bool) (pas : List Nat)
    (q : Pool) (o : Op), Issues i c s → globalAccess i c = some (l, z, k, named) →
    (∀ p d a b w, i ≠ .vatomGlobal p d a b w) → (comesAfter i = true → c.earlier = none) →
    (comesAfter i = true → (orderOf i).2 ≤ 1) → c.checkAll s l z k named = .ok pas s1 →
    s1.pool? c.pid = some q → q.cp? c.cid = some c.cp → RoomAt c s q 0 →
    globalOp i c l pas s1.nextId (stamped c (orderOf i).1 s1).1 = some o →
    let held : Prop := k = .store ∧ (orderOf i).1 = 3 ∧ s1.scOpen c.pool o = true
    (held → Stalls i c s) ∧
    (¬held → ∃ t, exec i s = .next t ∧
      Effect i c { (stamped c (orderOf i).1 s1).2 with nextId := s1.nextId + 1 } t { q with ops := q.ops ++ [o] } c.cp)

/-- R179, R258, R259, R287, R288: VLD.sc at .cl or wider is outstanding and commits its pool, and is held for its
timestamp (log 50).

R178, R179, R259, R288: VST and VRED as a release or `.sc` access at .cl or wider enter the journal at once, marked
as a release, and commit their pool; where their entries do not fit, commits are forced first. An `.sc` one waits
while an `.sc` access of its cores to its bytes is not performed. The model's choices: a commit does not wait for
waiting loads (log 13), and a timestamp is above the clocks of all the pool's cores (log 50). -/
def Obligations.OrderedAccesses : Prop :=
  (∀ (p : Option Prefix) (d a b : Byte) (w : Access) (c : Ctx) (s s1 : State) (pas : List Nat) (q : Pool) (o : Op),
     Issues (.vld p d a b w) c s → w.ord = 3 → 2 ≤ w.scope.toNat → c.earlier = none →
     c.checkAll s (addressesOf c a b w) (if c.wide then 8 else 4) .load true = .ok pas s1 →
     s1.pool? c.pid = some q → q.cp? c.cid = some c.cp →
     globalOp (.vld p d a b w) c (addressesOf c a b w) pas s1.nextId (stamped c 3 s1).1 = some o →
     let s2 : State := { (stamped c 3 s1).2 with
       nextId := s1.nextId + 1
       held := s1.held ++ [⟨c.pid, s1.nextId, c.core, (KMap.get s1.scClock 0 c.core + 1) % 2 ^ 64⟩] }
     let s3 : State := c.modPool s2 fun p => { p with ops := p.ops ++ [o] }
     (s3.canCommit c.pid (some s1.nextId) = true →
       Commits (.vld p d a b w) c s s2 { q with ops := q.ops ++ [o] } c.cp (some s1.nextId)
         { sys := w.scope.toNat = 5 } .go) ∧
     (s3.canCommit c.pid (some s1.nextId) = false → Stalls (.vld p d a b w) c s)) ∧
  (∀ (i : Instr) (c : Ctx) (s s1 s3 : State) (l : List (Nat × Int)) (z : Nat) (pas : List Nat) (q : Pool) (o : Op),
     Issues i c s → globalAccess i c = some (l, z, .store, true) → (∀ p d a b w, i ≠ .vatomGlobal p d a b w) →
     comesAfter i = true → 2 ≤ (orderOf i).2 → c.earlier = none → c.checkAll s l z .store true = .ok pas s1 →
     globalOp i c l pas 0 none = some o →
     let held : Prop := (orderOf i).1 = 3 ∧ s1.scOpen c.pool o = true
     let enter : Enter := (stamped c (orderOf i).1 s1).2.enterJournal c.pid (o.entries c.pid c.pool true)
     (held → Stalls i c s) ∧
     (¬held → ∀ ps, enter = .commitFirst ps → exec i s = .next (s.forceFor c.pid c.cid ps)) ∧
     (¬held → enter = .entered s3 → s3.pool? c.pid = some q → q.cp? c.cid = some c.cp →
       (s3.canCommit c.pid none = true → Commits i c s s3 q c.cp none
         { stamp := (stamped c (orderOf i).1 s1).1.map (·, c.core), sys := (orderOf i).2 = 5 } .go) ∧
       (s3.canCommit c.pid none = false → Stalls i c s)))

/-- R179, R260, R287, R288, R297, R301: VATOM on global memory is a commit point whose record carries one atomic for
each responder, in ascending tid; it is outstanding until the record gives the old values. An `.sc` one waits while
an `.sc` access of its cores to its bytes is not performed. The model's choices: a commit does not wait for waiting
loads (log 13), and a timestamp is above the clocks of all the pool's cores (log 50). -/
def Obligations.GlobalAtomics : Prop :=
  ∀ (p : Option Prefix) (d a b : Byte) (w : Access) (c : Ctx) (s s1 : State) (l : List (Nat × Int)) (z : Nat)
    (pas : List Nat) (q : Pool) (o : Op), Issues (.vatomGlobal p d a b w) c s →
    globalAccess (.vatomGlobal p d a b w) c = some (l, z, .store, true) →
    (comesAfter (.vatomGlobal p d a b w) = true → c.earlier = none) → c.checkAll s l z .store true = .ok pas s1 →
    s1.pool? c.pid = some q → q.cp? c.cid = some c.cp →
    globalOp (.vatomGlobal p d a b w) c l pas s1.nextId (stamped c w.ord.toNat s1).1 = some o →
    let s2 : State := { (stamped c w.ord.toNat s1).2 with nextId := s1.nextId + 1 }
    let s3 : State := c.modPool s2 fun p => { p with ops := p.ops ++ [o] }
    let stamp : Option (Nat × Nat) := if 2 ≤ w.scope.toNat then (stamped c w.ord.toNat s1).1.map (·, c.core) else none
    let atoms : List Atom := o.lanes.map fun e =>
      { pool := c.pid, op := s1.nextId, asid := c.asid, va := e.addr, pa := e.pa, aop := w.op.toNat, ty := c.tyCode, rm := c.rmCode
        sat := c.sat, y := e.y, x := e.x, result := none }
    let held : Prop := w.ord = 3 ∧ s1.scOpen c.pool o = true
    (held → Stalls (.vatomGlobal p d a b w) c s) ∧
    (¬held → s3.canCommit c.pid (some s1.nextId) = true →
      Commits (.vatomGlobal p d a b w) c s s2 { q with ops := q.ops ++ [o] } c.cp (some s1.nextId)
        { atoms := atoms, stamp := stamp, sys := w.scope.toNat = 5, marks := true }
        (if (w.ord = 1 ∨ w.ord = 3) ∧ 3 ≤ w.scope.toNat then .acquire else .go)) ∧
    (¬held → s3.canCommit c.pid (some s1.nextId) = false → Stalls (.vatomGlobal p d a b w) c s)

/-- R179, R244, R262, R263, R296: PREF, which asks for its responders' lines, changes no pool and no journal but its own
CP, which goes on; FLUSH below .cl does nothing, and from .cl on commits its pool; INV of no bytes does nothing, of
a range beyond 56 bits traps, and otherwise becomes a performed operation, which drops the lines of its range from
the caches of its scope and clears the holder bit, and it alone, of the regions it covers. The model's choice: which
loads a commit does not wait for (log 13). -/
def Obligations.CacheInstructions : Prop :=
  (∀ (p : Option Prefix) (d a b : Byte) (w : Access) (c : Ctx) (s s1 : State), Issues (.pref p d a b w) c s →
    UndoRoom c s 0 →
    s1 = (addressesOf c a b w).foldl (fun s e => c.prefetch s w.scope.toNat (if c.wide then 8 else 4) e) s →
    s1.pools = s.pools ∧ s1.journal = s.journal ∧
    ∃ t, exec (.pref p d a b w) s = .next t ∧ Effect (.pref p d a b w) c s1 t c.pool c.cp) ∧
  (∀ (p : Option Prefix) (scope : BitVec 3) (c : Ctx) (s : State), Issues (.flush p scope) c s →
    (scope.toNat ≤ 1 → UndoRoom c s 0 →
      ∃ t, exec (.flush p scope) s = .next t ∧ Effect (.flush p scope) c s t c.pool c.cp) ∧
    (2 ≤ scope.toNat →
      let o : Op := { c.newOp (.flush 0) with id := s.nextId }
      let s2 : State := { s with nextId := s.nextId + 1 }
      let s3 : State := c.modPool s2 fun p => { p with ops := p.ops ++ [o] }
      (s3.canCommit c.pid none = true → ∃ u t, exec (.flush p scope) s = .next t ∧
        Effect (.flush p scope) c s2 u { c.pool with ops := c.pool.ops ++ [o] } c.cp ∧
        u.commitPool c.pid none { sys := scope.toNat = 5 } (fun id v => waitFor c .go id
          (c.modPool v fun q => q.modOp s.nextId fun x => { x with kind := .flush id })) = some t) ∧
      (s3.canCommit c.pid none = false → Stalls (.flush p scope) c s))) ∧
  (∀ (p : Option Prefix) (d a : Byte) (scope : BitVec 3) (c : Ctx) (s : State), Issues (.inv p d a scope) c s →
    (c.s d = 0 → UndoRoom c s 0 →
      ∃ t, exec (.inv p d a scope) s = .next t ∧ Effect (.inv p d a scope) c s t c.pool c.cp) ∧
    (c.s d ≠ 0 → 2 ^ 56 < (c.s a).toNat + (c.s d).toNat → Traps (.inv p d a scope) c s 0x0A 0 0 (c.s a)) ∧
    (c.s d ≠ 0 → (c.s a).toNat + (c.s d).toNat ≤ 2 ^ 56 → UndoRoom c s 0 →
      ∃ t, exec (.inv p d a scope) s = .next t ∧
        Effect (.inv p d a scope) c { s with nextId := s.nextId + 1 } t { c.pool with ops := c.pool.ops ++
          [{ c.newOp (.inv (c.s d).toNat) with
            id := s.nextId, scope := scope.toNat, lanes := [⟨0, (c.s a).toNat, 0, 0, 0⟩] }] } c.cp)) ∧
  (∀ (s : State) (core scope pa n : Nat),
    let t := s.dropLines core scope pa n
    let hit (line : Nat) : Prop := 0 < n ∧ 64 * line < pa + n ∧ pa < 64 * line + 64
    { t with l1 := s.l1, cc := s.cc, dir := s.dir } = s ∧
    (∀ e, e ∈ t.l1 ↔ e ∈ s.l1 ∧
      ¬(hit (e.1 % 2 ^ 46) ∧ if scope ≤ 1 then e.1 / 2 ^ 46 = core else e.1 / 2 ^ 46 / 4 = core / 4)) ∧
    (scope ≤ 2 → t.cc = s.cc ∧ t.dir = s.dir) ∧
    (3 ≤ scope → (∀ e, e ∈ t.cc ↔ e ∈ s.cc ∧ ¬(hit (e.1 % 2 ^ 46) ∧ e.1 / 2 ^ 46 = core / 4)) ∧
      ∀ e ∈ s.dir, e.2.written ≠ 0 → pa ≤ 4096 * e.1 → 4096 * e.1 + 4096 ≤ pa + n →
        (e.1, (⟨e.2.holders &&& ~~~BitVec.ofNat 64 (2 ^ (core / 4)), e.2.written⟩ : Region)) ∈ t.dir))

/-- R178: the entries of one instruction enter together where they fit the pool's shares, in order after those before
them; else commits are to be done first, and none has entered: the pool's is forced where entries of it are in no
record yet, and where they are in records these are waited for. Entries of one instruction that alone exceed the
share, with nothing of the pool in the journal, enter once the 64 KiB have room for them, for which the pools with
the oldest entries commit first (log 6). A forced commit is taken where the pool can commit, and its CP waits for
the record at its instruction, which it then issues; else the CP stands at it. A core in whose journal entries of a
pool come to stand has observed what the pool's cores have, for its clock (R287, log 50).

R178, R179, R181, R282, R287, R297, R299, R301: the record of a group of pools carries their journal entries that no
record carries yet, and the images of its DURABLE pools; it is not accepted yet. It takes effect after the records
under way of its own pools, those whose bytes they have read, and those of stores that its own overwrite. Its
entries are marked with it, and each pool of the group has a new local checkpoint and an empty undo log. Memory is
as before. The model's choices: the sizes of entries (log 6), which loads a commit does not wait for (log 13), the
records that one comes after (log 22) and its clock, the largest of its cores (log 50). -/
def Obligations.JournalAndRecords : Prop :=
  ((∀ (s : State) (pool : Nat) (es : List Entry),
     let size (k : Nat) : Nat := ((es.filter fun e => e.core = k).map Entry.size).sum
     ((∀ k ∈ es.map (·.core), s.journalHeld pool k + size k ≤ s.share k ∨
         (s.journalHeld pool k = 0 ∧ s.journalTotal k + size k ≤ 65536)) →
       s.enterJournal pool es = .entered { s.shareClock pool (es.map (·.core)).dedup with journal := s.journal ++ es }) ∧
     (∀ k, es ≠ [] → (∀ e ∈ es, e.core = k) → s.journalHeld pool k = 0 → s.share k < size k →
       65536 < s.journalTotal k + size k → s.enterJournal pool es = .commitFirst
         ((s.journal.find? fun e => e.core = k && e.record.isNone && e.pool != pool).map (·.pool)).toList) ∧
     (∀ k ∈ es.map (·.core), s.journalHeld pool k ≠ 0 → s.share k < s.journalHeld pool k + size k →
       ∃ ps, s.enterJournal pool es = .commitFirst ps ∧
         ((∃ e ∈ s.journal, e.pool = pool ∧ e.core = k ∧ e.record = none) → pool ∈ ps) ∧
         ((∀ e ∈ s.journal, e.pool = pool → e.record ≠ none) → pool ∉ ps))) ∧
   (∀ (s : State) (pool : Nat) (p : Pool) (cores : List Nat), s.pool? pool = some p →
     let u := s.shareClock pool cores
     { u with scClock := s.scClock } = s ∧ ∀ k, KMap.get u.scClock 0 k =
       if k ∈ cores then (p.cores.map (KMap.get s.scClock 0)).foldl max (KMap.get s.scClock 0 k)
       else KMap.get s.scClock 0 k) ∧
   (∀ (s : State) (pid cid pool : Nat),
     (s.canCommit pool none = true → ∃ t, s.forceFor pid cid [pool] = t ∧ s.commitPool pool none {} (fun id u =>
       u.modCp pid cid fun cp => { cp with wait := some (id, .go), stand := .stall }) = some t) ∧
     (s.canCommit pool none = false → s.forceFor pid cid [pool] = s.standAt pid cid .stall) ∧
     s.forceFor pid cid [] = s.standAt pid cid .stall)) ∧
  (∀ (s : State) (group : List Nat) (c : Carry),
     let mine (e : Entry) : Bool := group.contains e.pool && e.record.isNone
     ∃ t r, s.formRecord group c = (s.nextId, t) ∧ t.records = s.records ++ [r] ∧ t.nextId = s.nextId + 1 ∧
       r.id = s.nextId ∧ r.pools = group ∧ r.entries = s.journal.filter mine ∧ r.atoms = c.atoms ∧
       (r.signals = c.signals.filterMap fun x => (s.pool? x.1).map fun p => (x.1, x.2, p.task)) ∧
       r.accepted = false ∧ r.stamp = c.stamp ∧ r.drain = c.sys ∧
       (∀ q ∈ group, ∀ p, s.pool? q = some p → ∀ k ∈ p.cores, KMap.get s.scClock 0 k ≤ r.clock) ∧
       (r.clock = 0 ∨ ∃ q ∈ group, ∃ p, s.pool? q = some p ∧ ∃ k ∈ p.cores, r.clock = KMap.get s.scClock 0 k) ∧
       (∀ n, n ∈ r.after ↔ ∃ b ∈ s.records, b.id = n ∧ ((∃ q ∈ b.pools, q ∈ group) ∨
         (∃ q ∈ group, ∃ p, s.pool? q = some p ∧ n ∈ p.seen) ∨
         (∃ e ∈ b.entries, ∃ f ∈ r.entries, e.core = f.core ∧
           rangesOverlap e.span.1 e.span.2 f.span.1 f.span.2 = true))) ∧
       (∀ q p, s.pool? q = some p → q ∈ group → p.durable = true → (q, p.toImage) ∈ r.images) ∧
       t.journal = s.journal.map (fun e => if mine e then { e with record := some s.nextId } else e) ∧
       (∀ q, t.pool? q = (s.pool? q).map fun p =>
         let p := { p with
           deps := p.deps.filter fun d => d ∉ group
           seen := if ∃ d ∈ p.deps, d ∈ group then p.seen ++ [s.nextId] else p.seen }
         if q ∈ group then p.checkpoint else p) ∧
       SameMemory s t ∧ { t with records := s.records, nextId := s.nextId, journal := s.journal, pools := s.pools } = s)

/-! ### Gongs, waits and commit points -/

/-- R210 to R213: GINIT writes a gong of its count; GARR counts an arrival and reads the phase; GEXP changes the
expected count; where arrivals then equal it and none is pending the phase turns, which is a commit point.

R194, R212, R213: the gong traps: an offset of more than 32 bits or a count out of range has detail 3, a word that
is no gong detail 1, an arrival beyond the expected count detail 2; an offset that is misaligned or outside the
scratchpad traps as R194 says. The model's choices: a word that is no gong gives GEXP its detail 1 before a count
out of range gives 3 (log 53), and which loads a commit does not wait for (log 13). -/
def Obligations.GongInstructions : Prop :=
  (∀ (c : Ctx) (s s1 : State) (a : Byte) (q : Pool) (o w exp phase pend arr : Nat), GongAt c s a s1 q o w →
     RoomAt c s q 8 →
     (∀ (p : Option Prefix) (b : Byte), Issues (.ginit p a b) c s → 1 ≤ (c.s b).toNat → (c.s b).toNat ≤ 65535 →
       ∃ t, exec (.ginit p a b) s = .next t ∧
         Effect (.ginit p a b) c s1 t (q.spadWrite o 8 (gongWord (c.s b).toNat 0 0 0)) c.cp) ∧
     (GongIs w exp phase pend arr → NoneEarlier c →
       (∀ (p : Option Prefix) (d : Byte), Issues (.garr p d a) c s → arr < exp →
         let y := c.cp.setS d.toNat (BitVec.ofNat 64 phase)
         (¬(arr + 1 = exp ∧ pend = 0) → ∃ t, exec (.garr p d a) s = .next t ∧
           Effect (.garr p d a) c s1 t (q.spadWrite o 8 (gongWord exp phase pend (arr + 1))) y) ∧
         (arr + 1 = exp → pend = 0 → s1.canCommit c.pid none = true →
           Commits (.garr p d a) c s s1 (q.spadWrite o 8 (gongWord exp (1 - phase) 0 0)) y none {} .go) ∧
         (arr + 1 = exp → pend = 0 → s1.canCommit c.pid none = false → Stalls (.garr p d a) c s)) ∧
       (∀ (p : Option Prefix) (b : Byte) (n : Nat), Issues (.gexp p a b) c s → n = (c.s b).toNat → 1 ≤ n → arr ≤ n →
         n ≤ 65535 →
         (¬(arr = n ∧ pend = 0) → ∃ t, exec (.gexp p a b) s = .next t ∧
           Effect (.gexp p a b) c s1 t (q.spadWrite o 8 (gongWord n phase pend arr)) c.cp) ∧
         (arr = n → pend = 0 → s1.canCommit c.pid none = true →
           Commits (.gexp p a b) c s s1 (q.spadWrite o 8 (gongWord n (1 - phase) 0 0)) c.cp none {} .go) ∧
         (arr = n → pend = 0 → s1.canCommit c.pid none = false → Stalls (.gexp p a b) c s)))) ∧
  ((∀ (i : Instr) (c : Ctx) (s : State) (a : Byte), Issues i c s → gongReg i = some a → 2 ^ 32 ≤ (c.s a).toNat →
     (∀ p a b, i = .gwait p a b → c.cp.holdLeft = 0) → Traps i c s 0x01 0 3 0) ∧
   (∀ (i : Instr) (c : Ctx) (s : State) (a : Byte), Issues i c s → gongReg i = some a → (c.s a).toNat < 2 ^ 32 →
     (∀ p a b, i = .gwait p a b → c.cp.holdLeft = 0) →
     ((c.s a).toNat % 8 ≠ 0 → Traps i c s 0x09 0 0 (c.s a)) ∧
     ((c.s a).toNat % 8 = 0 → c.pool.spadSize < (c.s a).toNat + 8 → Traps i c s 0x0B 0 0 (c.s a))) ∧
   (∀ (c : Ctx) (s s1 : State) (a : Byte) (q : Pool) (o w exp phase pend arr : Nat), GongAt c s a s1 q o w →
     (∀ (p : Option Prefix) (b : Byte), Issues (.ginit p a b) c s → (c.s b).toNat = 0 ∨ 65535 < (c.s b).toNat →
       Traps (.ginit p a b) c s 0x01 0 3 0) ∧
     (∀ i, gongReg i = some a → (∀ p a b, i ≠ .ginit p a b) → Issues i c s →
       (∀ p a b, i = .gwait p a b → c.cp.holdLeft = 0) → (∀ e h n r, ¬GongIs w e h n r) → Traps i c s 0x01 0 1 0) ∧
     (GongIs w exp phase pend arr →
       (∀ (p : Option Prefix) (d : Byte), Issues (.garr p d a) c s → arr = exp → Traps (.garr p d a) c s 0x01 0 2 0) ∧
       (∀ (p : Option Prefix) (b : Byte), Issues (.gexp p a b) c s →
         (c.s b).toNat = 0 ∨ (c.s b).toNat < arr ∨ 65535 < (c.s b).toNat → Traps (.gexp p a b) c s 0x01 0 3 0))))

/-- R46, R183, R210, R212: GWAIT goes on once the phase differs from bit 0 of s_b and no record of its pool is under
way, and waits at the gong till then; WAITC goes on once no more than b commands of its class are outstanding, and
waits till then: standing at a blocking instruction on c.gth and c.mrg, and on c.cpy while a copy is parked, stalled
on c.cpy and c.mtx else. With a hold open GWAIT, WAITC on c.gth and c.mrg, and WAITC on c.cpy while it would wait
for a parked copy, are hold violations.

R46, R158, R159, R277: WATCH goes on where the word it reads differs from s_b, and waits at it, its line watched,
where it does not; an acquire at .die or wider reads at the home slice and invalidates, and one at .cl or wider that
has read bytes of a record under way waits for it. YIELD goes past itself and stands there. With a hold open both
are hold violations, whatever they would do; a slice's WATCH is one of its recipe's scope. The model's choices: a
WAITC on c.cpy blocks for a copy parked for any reason (log 18), and poison met by a WATCH (log 14). -/
def Obligations.BlockingInstructions : Prop :=
  ((∀ (p : Option Prefix) (a b : Byte) (c : Ctx) (s s1 : State) (q : Pool) (o w exp phase pend arr : Nat),
     Issues (.gwait p a b) c s → GongAt c s a s1 q o w → GongIs w exp phase pend arr → c.cp.holdLeft = 0 →
     (phase ≠ (c.s b).toNat % 2 ∧ (∀ r ∈ s1.records, c.pid ∉ r.pools) → RoomAt c s q 0 →
       ∃ t, exec (.gwait p a b) s = .next t ∧ Effect (.gwait p a b) c s1 t q c.cp) ∧
     (phase = (c.s b).toNat % 2 ∨ (∃ r ∈ s1.records, c.pid ∈ r.pools) →
       exec (.gwait p a b) s = .next (s1.standAt c.pid c.cid (.gong o ((c.s b).getLsbD 0) (Instr.gwait p a b).words)))) ∧
   (∀ (p : Option Prefix) (a b : Byte) (c : Ctx) (s : State), Issues (.gwait p a b) c s → c.cp.holdLeft ≠ 0 →
     Traps (.gwait p a b) c s 0x04 0 0 0) ∧
   (∀ (p : Option Prefix) (d b : Byte) (c : Ctx) (s : State), Issues (.waitc p d b) c s →
     (c.cp.holdLeft ≠ 0 → d = 1 ∨ d = 2 → Traps (.waitc p d b) c s 0x04 0 0 0) ∧
     (c.cp.holdLeft = 0 ∨ (d ≠ 1 ∧ d ≠ 2) → NoFault c d.toNat → c.cp.outstandingOf d.toNat ≤ b.toNat → UndoRoom c s 0 →
       ∃ t, exec (.waitc p d b) s = .next t ∧ Effect (.waitc p d b) c s t c.pool c.cp) ∧
     (c.cp.holdLeft = 0 → d = 1 ∨ d = 2 → NoFault c d.toNat → b.toNat < c.cp.outstandingOf d.toNat →
       exec (.waitc p d b) s = .next (s.standAt c.pid c.cid (.counter d.toNat b.toNat))) ∧
     (NoFault c d.toNat → b.toNat < c.cp.outstandingOf d.toNat → d = 0 ∨ d = 3 →
       let parked : Prop := d = 0 ∧ ∃ k ∈ c.pool.cmds, k.cp = c.cid ∧ classOf k.kind = 0 ∧ k.park ≠ none
       (¬parked → Stalls (.waitc p d b) c s) ∧
       (parked → c.cp.holdLeft = 0 → exec (.waitc p d b) s = .next (s.standAt c.pid c.cid (.counter 0 b.toNat))) ∧
       (parked → c.cp.holdLeft ≠ 0 → Traps (.waitc p d b) c s 0x04 0 0 0)) ∧
     (∀ f r, c.cp.faults = f :: r → f.cls = d.toNat → c.cp.holdLeft = 0 →
       exec (.waitc p d b) s = .next ((c.modCp s fun _ => { c.cp with faults := r }).takeTrap c.pid c.cid c.cp.pc 0x17 0
         f.detail f.addr)))) ∧
  ((∀ (p : Option Prefix) (ord : BitVec 2) (scope : BitVec 3) (a b : Byte) (c : Ctx) (s s1 s2 : State) (pa : Nat)
     (r : ReadResult) (q : Pool), Issues (.watch p ord scope a b) c s → c.pool.rslice = false → c.cp.holdLeft = 0 →
     c.checkAll s [(0, ((c.s a).toNat : Int))] 8 .load false = .ok [pa] s1 →
     (ord = 1 → 3 ≤ scope.toNat → s1.droppedAt c.asid (c.s a).toNat = none) →
     c.pool.ownWrite c.cid none pa 8 = none → s1.pendingReds c.core pa 8 = [] → s1.lineHeld (pa / 64) = false →
     s1.readFor c.pid c.core c.asid pa 8 (decide (ord = 1 ∧ 3 ≤ scope.toNat)) = (r, s2) →
     let s3 : State := s2.readAgain c.pid c.cid pa 8
     let stands (u : State) : State := u.standAt c.pid c.cid (.watch (c.s a).toNat (c.s b) ord.toNat scope.toNat
       (Instr.watch p ord scope a b).words)
     let under : Prop := ord = 1 ∧ 2 ≤ scope.toNat ∧ r.recs ≠ []
     s3.pool? c.pid = some q → q.cp? c.cid = some c.cp → RoomAt c s q 0 →
     (ofBytes r.bytes ≠ (c.s b).toNat → r.bytes.length = 8 → ¬under →
       ∃ t, exec (.watch p ord scope a b) s = .next t ∧ Effect (.watch p ord scope a b) c
         (if ord = 1 ∧ 3 ≤ scope.toNat then s3.invalidate c.pool.cluster else s3) t q c.cp) ∧
     (ofBytes r.bytes ≠ (c.s b).toNat → r.bytes.length = 8 → under →
       exec (.watch p ord scope a b) s = .next (stands s2)) ∧
     (ofBytes r.bytes = (c.s b).toNat → exec (.watch p ord scope a b) s =
       .next (stands (s2.addWatch c.core (lineOf pa))))) ∧
   (∀ (p : Option Prefix) (ord : BitVec 2) (scope : BitVec 3) (a b : Byte) (c : Ctx) (s : State),
     Issues (.watch p ord scope a b) c s →
     (c.cp.holdLeft ≠ 0 → Traps (.watch p ord scope a b) c s 0x04 0 0 0) ∧
     (c.cp.holdLeft = 0 → c.pool.rslice = true → Traps (.watch p ord scope a b) c s 0x0F 0 0 0)) ∧
   (∀ (p : Option Prefix) (c : Ctx) (s : State), Issues (.yield_ p) c s →
     (c.cp.holdLeft ≠ 0 → Traps (.yield_ p) c s 0x04 0 0 0) ∧
     (c.cp.holdLeft = 0 → ∃ u, exec (.yield_ p) s = .next (u.standAt c.pid c.cid (.yielded c.cp.pc)) ∧
       Effect (.yield_ p) c s u c.pool c.cp)))

/-- R161, R279, R325: FENCE comes after every load, store and atomic of its CP; as a release at .cl or wider, and SUCC,
it is a commit point; as an acquire at .die or wider it invalidates, and at .cl or wider it waits while a record
whose bytes its pool has read is under way. SUCC signals once, and is no instruction of a recipe slice. The model's
choices: which loads a commit does not wait for (log 13) and that a timestamp is above the clocks of all the pool's
cores (log 50). -/
def Obligations.FenceAndSucc : Prop :=
  (∀ (p : Option Prefix) (ord : BitVec 2) (scope : BitVec 3) (c : Ctx) (s : State), Issues (.fence p ord scope) c s →
    NoneEarlier c →
    let s1 : State := (stamped c ord.toNat s).2
    let acquires : Prop := ord ≠ 2 ∧ 3 ≤ scope.toNat
    let under : Prop := ord ≠ 2 ∧ 2 ≤ scope.toNat ∧ ∃ r ∈ s.records, r.id ∈ c.pool.seen
    (under → Stalls (.fence p ord scope) c s) ∧
    (¬under → ord ≠ 1 → 2 ≤ scope.toNat → s.canCommit c.pid none = true →
      Commits (.fence p ord scope) c s s1 c.pool { c.cp with fencedRel := true } none { sys := scope.toNat = 5 }
        (if ord ≠ 2 ∧ 3 ≤ scope.toNat then .acquire else .go)) ∧
    (¬under → ord ≠ 1 → 2 ≤ scope.toNat → s.canCommit c.pid none = false → Stalls (.fence p ord scope) c s) ∧
    (¬under → ord = 1 ∨ scope.toNat ≤ 1 → UndoRoom c s 0 → ∃ t s2, exec (.fence p ord scope) s = .next t ∧
      Effect (.fence p ord scope) c s2 t c.pool c.cp ∧
      (acquires → s2 = s1.invalidate c.pool.cluster) ∧ (¬acquires → s2 = s1))) ∧
  (∀ (p : Option Prefix) (ord : BitVec 2) (scope : BitVec 3) (c : Ctx) (s : State) (o : Op),
    Issues (.fence p ord scope) c s → c.earlier = some o →
    exec (.fence p ord scope) s = .next (s.waitOp c.pid c.cid c.cp.pc o)) ∧
  (∀ (p : Option Prefix) (c : Ctx) (s : State), Issues (.succ p) c s →
    (c.pool.rslice = true → Traps (.succ p) c s 0x0F 0 0 0) ∧
    (c.pool.rslice = false → ∀ sends, sends = (c.pool.task.record.succb != 0 && !c.pool.task.signalled) →
      (s.canCommit c.pid none = true → Commits (.succ p) c s s
        { c.pool with task := { c.pool.task with signalled := c.pool.task.signalled || sends } } c.cp none
        { signals := if sends then [(c.pid, true)] else [], marks := true } .go) ∧
      (s.canCommit c.pid none = false → Stalls (.succ p) c s)))

/-- R34, R57, R147, R183, R209, R217: END waits for its CP's operations and commands, reports the fault of an engine,
closes its hold and NOPRE interval, also while its commit has to wait, clears its tiles, and is a commit point whose
completion ends the CP; the last END of a pool signals and defines as its task record says. A wait for a parked
command or load is a blocking point, with a hold open a violation.

R46, R162, R299, R301, R340: SYSC is a commit point; with responders it leaves an operation with their arguments at
which its CP stands. With a hold open it is a hold violation, whatever it would do; it is no instruction of a recipe
slice. The model's choice: a commit does not wait for waiting loads (log 13). -/
def Obligations.EndAndSystemCall : Prop :=
  ((∀ (p : Option Prefix) (c : Ctx) (s : State), Issues (.end_ p) c s →
     (∀ o ∈ c.pool.ops, o.cp = c.cid → o.kind = .sysc) → (∀ k, k ≤ 3 → c.cp.outstandingOf k = 0) → c.cp.faults = [] →
     let s1 : State := (c.modPool s fun q => q.releaseTiles c.cid).modCp c.pid c.cid fun y =>
       { y with holdLeft := 0, nopre := none }
     ∀ x, x = (if c.pool.lastToEnd c.cid then c.lastEnd s1 else ({}, s1)) →
     (x.2.canCommit c.pid none = true → ∃ u t q y, exec (.end_ p) s = .next t ∧
       u.commitPool c.pid none x.1 (waitFor c .endCp) = some t ∧ OnlyPool c.pid x.2 u ∧ u.pool? c.pid = some q ∧
       q.cp? c.cid = some y ∧ PastPc (.end_ p) c y ∧ y.holdLeft = 0 ∧ y.nopre = none ∧
       (∀ e ∈ q.tiles, e.2.owner ≠ some c.cid)) ∧
     (x.2.canCommit c.pid none = false → exec (.end_ p) s =
       .next ((c.modCp s fun y => { y with holdLeft := 0, nopre := none }).standAt c.pid c.cid .stall))) ∧
   (∀ (p : Option Prefix) (c : Ctx) (s : State), Issues (.end_ p) c s →
     (∀ o, c.outstanding = some o → exec (.end_ p) s = .next (s.waitOp c.pid c.cid c.cp.pc o)) ∧
     ((∀ o ∈ c.pool.ops, o.cp = c.cid → o.kind = .sysc) →
       let parked : Prop := ∃ k ∈ c.pool.cmds, k.cp = c.cid ∧ classOf k.kind = 1 ∧ k.park ≠ none
       ((∃ k, k ≤ 3 ∧ c.cp.outstandingOf k ≠ 0) →
         (¬parked → Stalls (.end_ p) c s) ∧
         (parked → c.cp.holdLeft ≠ 0 → Traps (.end_ p) c s 0x04 0 0 0) ∧
         (parked → c.cp.holdLeft = 0 → exec (.end_ p) s = .next (s.standAt c.pid c.cid (.counter 1 0)))) ∧
       ((∀ k, k ≤ 3 → c.cp.outstandingOf k = 0) → ∀ f r, c.cp.faults = f :: r → exec (.end_ p) s =
         .next ((c.modCp s fun _ => { c.cp with faults := r }).takeTrap c.pid c.cid c.cp.pc 0x17 0 f.detail f.addr)))) ∧
   (∀ (s : State) (id pid cid : Nat) (q : Pool) (cp : Cp), s.pool? pid = some q → q.cp? cid = some cp →
     cp.wait = some (id, .endCp) → ∃ r, (s.settleCp id pid cid).pool? pid = some r ∧ r.cp? cid = some { cp with
       wait := none, status := .ended, stack := [], clause := none })) ∧
  (∀ (p : Option Prefix) (d a : Byte) (narg : BitVec 4) (service : BitVec 16) (c : Ctx) (s : State),
     let i : Instr := .sysc p d a narg service
     Issues i c s →
     (c.cp.holdLeft ≠ 0 → Traps i c s 0x04 0 0 0) ∧
     (c.cp.holdLeft = 0 → c.pool.rslice = true → Traps i c s 0x0F 0 0 0) ∧
     (c.pool.rslice = false → c.cp.holdLeft = 0 →
       (c.tids = [] →
         (s.canCommit c.pid none = true → Commits i c s s c.pool c.cp none { marks := true } .go) ∧
         (s.canCommit c.pid none = false → Stalls i c s)) ∧
       (c.tids ≠ [] →
         let o : Op := { c.newOp .sysc with
           id := s.nextId, flag := 15, dest := d.toNat, wide := true, aop := service.toNat
           lanes := c.tids.map fun t => ⟨t, 0, 0, 0, 0⟩
           args := c.tids.map fun t => (List.range narg.toNat).map fun k => c.pool.reg t (a.toNat + k) }
         let s2 : State := { s with nextId := s.nextId + 1 }
         let s3 : State := c.modPool s2 fun q => { q with ops := q.ops ++ [o] }
         (s3.canCommit c.pid none = true → ∃ u t, exec i s = .next t ∧
           Effect i c s2 u { c.pool with ops := c.pool.ops ++ [o] } c.cp ∧
           u.commitPool c.pid none { marks := true } (fun id v => c.modCp v fun y =>
             { y with stand := .sysc s.nextId c.cp.pc, wait := some (id, .go) }) = some t) ∧
         (s3.canCommit c.pid none = false → Stalls i c s))))

/-! ### Engine commands, work and recipes -/

/-- R21, R182, R204 to R206, R214: a CPY within its limits becomes an outstanding copy of its CP, counted in c.cpy, and
adds its bytes to its gong's pending bytes in the same step; with 63 copies outstanding it stalls, and outside the
limits of its record or of the scratchpad, or with a word that is no gong, it traps without effect. The model's
choice: when a command's bytes are decided (log 16). -/
def Obligations.Copies : Prop :=
  ∀ (p : Option Prefix) (d a : Byte) (variant marks : BitVec 4) (r : TensorRecord) (c : Ctx) (s : State) (k : CopyCmd),
    let i : Instr := .cpy p d a variant marks r
    Issues i c s → k = copyOf c d a variant marks r →
    (63 ≤ c.cp.cpy → Stalls i c s) ∧
    (c.cp.cpy < 63 →
      (¬CopyFits c k (wordOf c marks 1 r.r1) (wordOf c marks 3 r.r3) → Traps i c s 0x14 0 0 0) ∧
      (CopyFits c k (wordOf c marks 1 r.r1) (wordOf c marks 3 r.r3) → ¬CopyReaches k →
        let byte (r x : Nat) : Prop := r < k.rows ∧ k.addr + r * k.gpitch ≤ x ∧ x < k.addr + r * k.gpitch + k.rowBytes
        ∃ x r, 2 ^ 56 ≤ x ∧ byte r x ∧ (∀ y r, 2 ^ 56 ≤ y → byte r y → x ≤ y) ∧
          Traps i c s 0x0A 0 0 (BitVec.ofNat 64 x)) ∧
      (CopyFits c k (wordOf c marks 1 r.r1) (wordOf c marks 3 r.r3) → CopyReaches k →
        (k.gong = none → ∀ sn s1 q, c.copySnap s k = (sn, s1) → s1.pool? c.pid = some q → q.cp? c.cid = some c.cp →
          RoomAt c s q 0 → ∃ t, exec i s = .next t ∧ Effect i c { s1 with nextId := s1.nextId + 1 } t
            { q with cmds := q.cmds ++ [c.command s1.nextId (.copy k) sn] } { c.cp with cpy := c.cp.cpy + 1 }) ∧
        (∀ o s1 q, k.gong = some o → s1 = s.met c [(0, (o : Int))] 8 → s1.pool? c.pid = some q →
          (∀ e h n x, ¬GongIs (q.spadRead o 8) e h n x) → Traps i c s 0x01 0 1 0) ∧
        (∀ o s1 q w exp phase pend arr, k.gong = some o → s1 = s.met c [(0, (o : Int))] 8 → s1.pool? c.pid = some q →
          q.cp? c.cid = some c.cp → w = q.spadRead o 8 → GongIs w exp phase pend arr →
          (2 ^ 28 ≤ pend + k.rowBytes * k.rows → Traps i c s 0x15 0 0 0) ∧
          (pend + k.rowBytes * k.rows < 2 ^ 28 → RoomAt c s q 8 → ∀ q1 sn s2,
            q1 = q.spadWrite o 8 (gongWord exp phase (pend + k.rowBytes * k.rows) arr) →
            c.copySnap (c.modPool s1 fun x => x.spadWrite o 8 (gongWord exp phase (pend + k.rowBytes * k.rows) arr)) k =
              (sn, s2) → s2.pool? c.pid = some q1 →
            ∃ t, exec i s = .next t ∧ Effect i c { s2 with nextId := s2.nextId + 1 } t
              { q1 with cmds := q1.cmds ++ [c.command s2.nextId (.copy k) sn] } { c.cp with cpy := c.cp.cpy + 1 }))))

/-- R264: GDESC copies a descriptor within its limits into handle d, and is else an illegal instruction with detail
0x10.

R182, R255, R265: GTHR through a defined handle reads its indexes and, once the row of its lowest responder passes
its checks, becomes an outstanding gather counted in c.gth; an undefined handle, a destination outside the
scratchpad and an index outside the extent trap, and so does a check of R254 that the row fails, with its cause as
DETAIL, or one of a slice's scope. Where that row parks, the GTHR is outstanding by itself and its CP stands at it,
past it, or it is a hold violation. -/
def Obligations.GatherInstructions : Prop :=
  (∀ (p : Option Prefix) (d a : Byte) (c : Ctx) (s : State), Issues (.gdesc p d a) c s → UndoRoom c s 0 →
     (HandleFits (handleOf c a) → ∃ t y, exec (.gdesc p d a) s = .next t ∧ Effect (.gdesc p d a) c s t c.pool y ∧
       KMap.find? y.handles d.toNat = some (handleOf c a) ∧
       (∀ n, n ≠ d.toNat → KMap.find? y.handles n = KMap.find? c.cp.handles n) ∧
       { y with handles := c.cp.handles } = c.cp) ∧
     (¬HandleFits (handleOf c a) → Traps (.gdesc p d a) c s 0x01 0 0x10 0)) ∧
  (∀ (p : Option Prefix) (m : BitVec 3) (a b : Byte) (c : Ctx) (s : State),
     let i : Instr := .gthr p m a b
     let rows := gatherRowsOf c a
     Issues i c s →
     (63 ≤ c.cp.gth → Stalls i c s) ∧
     (c.cp.gth < 63 →
       (KMap.find? c.cp.handles b.toNat = none → Traps i c s 0x01 0 0x11 0) ∧
       (∀ h, KMap.find? c.cp.handles b.toNat = some h →
         (∀ t n r, rows = (t, n) :: r →
           c.pool.spadSize < h.doff + r.length * h.dpitch + h.dstBytes → Traps i c s 0x14 0 0 0) ∧
         (∀ t n r, rows = (t, n) :: r → h.doff + r.length * h.dpitch + h.dstBytes ≤ c.pool.spadSize → h.count ≤ n →
           Traps i c s 0x16 (Mask.ofTids [t]) 0x14 0) ∧
         (∀ s1 q, (match rows with
             | [] => s1 = s
             | (_, n) :: r => h.doff + r.length * h.dpitch + h.dstBytes ≤ c.pool.spadSize ∧ n < h.count ∧
                 c.checkRow (lineChunks (h.rowAt n) h.srcBytes) s = (.ok (), s1)) →
           s1.pool? c.pid = some q → q.cp? c.cid = some c.cp → RoomAt c s q 0 →
           ∃ t, exec i s = .next t ∧ Effect i c { s1 with nextId := s1.nextId + 1 } t
             { q with cmds := q.cmds ++ [c.command s1.nextId (.gather ⟨m.toNat, h, rows⟩) []] }
             { c.cp with gth := c.cp.gth + 1 }) ∧
         (∀ t n r f va s1, rows = (t, n) :: r → h.doff + r.length * h.dpitch + h.dstBytes ≤ c.pool.spadSize → n < h.count →
           c.checkRow (lineChunks (h.rowAt n) h.srcBytes) s = (.error (f, va), s1) →
           let only : Mask := Mask.ofTids [t]
           (f = .x .address → Traps i c s 0x16 only 0x0A (BitVec.ofNat 64 va)) ∧
           (f = .x .absent → Traps i c s 0x16 only 0x0D (BitVec.ofNat 64 va)) ∧
           (f = .x .denied → Traps i c s 0x16 only 0x0E (BitVec.ofNat 64 va)) ∧
           (f = .scope → Traps i c s 0x0F only 0 (BitVec.ofNat 64 va))) ∧
         (∀ t n r f va s1, rows = (t, n) :: r → h.doff + r.length * h.dpitch + h.dstBytes ≤ c.pool.spadSize → n < h.count →
           c.checkRow (lineChunks (h.rowAt n) h.srcBytes) s = (.error (.x f, va), s1) →
           f = .recoverable ∨ (∃ k, f = .tile k) →
           let k := s1.parkFor c.asid va f
           (c.cp.holdLeft ≠ 0 → Traps i c s 0x04 0 0 0) ∧
           (c.cp.holdLeft = 0 → ∀ q, k.2.pool? c.pid = some q → q.cp? c.cid = some c.cp →
             ∃ u, exec i s = .next (u.standAt c.pid c.cid (.load k.2.nextId c.cp.pc c.cp.clause)) ∧
               Effect i c { k.2 with nextId := k.2.nextId + 1 } u { q with ops := q.ops ++
                 [{ c.newOp (.gather m.toNat h (some a.toNat)) with
                   id := k.2.nextId, flag := 15, park := some k.1
                   lanes := rows.map fun x => ⟨x.1, x.2, 0, 0, 0⟩ }] } c.cp)))))

/-- R21, R182, R267: an MRG within its limits becomes an outstanding merge counted in c.mrg; outside its limits, and on
a block that is misaligned or beyond 56 bits, it traps without effect. The model's choice: a merge's readings (log
17). -/
def Obligations.Merges : Prop :=
  ∀ (p : Option Prefix) (d a : Byte) (variant marks : BitVec 4) (r : TensorRecord) (c : Ctx) (s : State) (k : MergeCmd),
    let i : Instr := .mrg p d a variant marks r
    Issues i c s → k = mergeOf c d a variant marks r →
    (63 ≤ c.cp.mrg → Stalls i c s) ∧
    (c.cp.mrg < 63 →
      (¬MergeFits c a k (wordOf c marks 0 r.r0) (wordOf c marks 1 r.r1) → Traps i c s 0x14 0 0 0) ∧
      (MergeFits c a k (wordOf c marks 0 r.r0) (wordOf c marks 1 r.r1) →
        (k.block % 64 ≠ 0 → Traps i c s 0x09 0 0 (c.s d)) ∧
        (k.block % 64 = 0 → 2 ^ 56 ≤ k.block → Traps i c s 0x0A 0 0 (c.s d)) ∧
        (k.block % 64 = 0 → k.block < 2 ^ 56 → UndoRoom c s 0 →
          ∃ t, exec i s = .next t ∧ Effect i c { s with nextId := s.nextId + 1 } t
            { c.pool with cmds := c.pool.cmds ++ [c.command s.nextId (.merge k) []] }
            { c.cp with mrg := c.cp.mrg + 1 })))

/-- R180, R182, R216 to R219, R221, R224, R226, R227: a matrix instruction whose set is of whole words, whose tiles and
formats pass their checks, and whose scale and metadata bytes lie in the scratchpad, captures what it reads and
becomes an outstanding command counted in c.mtx; the undo log keeps what it will change, and it changes nothing yet.

R216, R224, R226, R227: a responder in a word that is not whole traps first; then a format that is not the
instruction's (detail 8), a tile of another CP (7), a tile without an owner (6), a tile of the other kind (5), with
TMASK naming the responders of the words that fail; then a scale offset outside the scratchpad, and metadata that
fail R227; then scale codes that differ from the captured ones (4), and a residue count above 256. That TMASK of
detail 4 names every word that differs is the model's choice (log 53). The model's choices: the recorded ADDR is the
first failing offset, that of the lowest thread (log 53), and the readings of the matrix rules (log 30). -/
def Obligations.MatrixCommands : Prop :=
  (∀ (i : Instr) (c : Ctx) (s s2 : State) (q : Pool) (m : MatrixCmd), isMatrix i = true → Issues i c s → c.cp.mtx < 63 →
     (∀ t ∈ c.tids, t / 32 ∈ c.wholeWords) → c.tileFault (setOf i c) = none →
     (if (matrixOf i c).op = .mdrn ∨ (matrixOf i c).op = .mzero then s2 = s ∧ m = setOf i c
       else
         s2 = (s.touchAll c.pid ((c.scaleOffsets (setOf i c)).map (·.2)) 1).touchAll c.pid
           ((setOf i c).metaRanges.map (·.1)) ((setOf i c).k / 8) ∧
         (∀ e ∈ c.scaleOffsets (setOf i c), e.2 + 1 ≤ c.pool.spadSize) ∧
         (∀ p d a acc marks r, i = .mmas p d a acc marks r → wordOf c marks 1 r.r1 < 65536 ∧
           wordOf c marks 3 r.r3 = 0 ∧ (setOf i c).k / 8 ≤ wordOf c marks 1 r.r1 ∧
           ∀ e ∈ (setOf i c).metaRanges, e.1 + e.2 ≤ c.pool.spadSize) ∧
         m = c.capture s2 (setOf i c) ∧ c.scaleFault m = none) →
     s2.pool? c.pid = some q → q.cp? c.cid = some c.cp → RoomAt c s q (8320 * c.wholeWords.length) →
     ∃ t, exec i s = .next t ∧ Effect i c { s2 with nextId := s2.nextId + 1 } t
       { q.keepTiles m with cmds := q.cmds ++ [c.command s2.nextId (.matrix m) []] } { c.cp with mtx := c.cp.mtx + 1 } ∧
       (q.keepTiles m).tiles = q.tiles ∧ (q.keepTiles m).regs = q.regs) ∧
  (∀ (i : Instr) (c : Ctx) (s : State), isMatrix i = true → Issues i c s →
     (63 ≤ c.cp.mtx → Stalls i c s) ∧
     (c.cp.mtx < 63 →
       let m := setOf i c
       let lanes (l : List Nat) : Mask := Mask.ofTids (l.flatMap fun w => (List.range 32).map (32 * w + ·))
       (∀ t r, (c.tids.filter fun t => t / 32 ∉ c.wholeWords) = t :: r → Traps i c s 0x12 (Mask.ofTids (t :: r)) 0 0) ∧
       ((∀ t ∈ c.tids, t / 32 ∈ c.wholeWords) → c.wholeWords ≠ [] →
         let q8 (x : Nat) : Prop := x = 1 ∨ x = 15
         let wrong : Prop := match m.op with
           | .mma => q8 m.aCode ∨ q8 m.bCode ∨ m.sparse = true
           | .mmaq => ¬q8 m.aCode ∨ ¬q8 m.bCode ∨ m.sparse = true
           | .mmas => m.sparse = false
           | _ => False
         let other := m.words.filter fun w => match (tileOf c m w).owner with | some o => o ≠ c.cid | none => false
         (wrong → Traps i c s 0x01 (lanes m.words) 8 0) ∧
         (¬wrong → other ≠ [] → Traps i c s 0x01 (lanes other) 7 0) ∧
         (¬wrong → other = [] → m.op ≠ .mzero →
           let free := m.words.filter fun w => (tileOf c m w).owner.isNone
           (free ≠ [] → Traps i c s 0x01 (lanes free) 6 0) ∧
           (free = [] → m.op ≠ .mdrn →
             let kind := m.words.filter fun w => (tileOf c m w).kind != .empty && (tileOf c m w).kind != m.path
             kind ≠ [] → Traps i c s 0x01 (lanes kind) 5 0))) ∧
       ((∀ t ∈ c.tids, t / 32 ∈ c.wholeWords) → c.tileFault m = none → m.op ≠ .mdrn → m.op ≠ .mzero →
         let out := (c.scaleOffsets m).filter fun e => decide (c.pool.spadSize < e.2 + 1)
         let badMeta : Prop := ∃ p d a acc marks r, i = .mmas p d a acc marks r ∧
           ((marks.getLsbD 1 = true ∧ 65536 ≤ wordOf c marks 1 r.r1) ∨ (marks.getLsbD 3 = true ∧ wordOf c marks 3 r.r3 ≠ 0) ∨
             wordOf c marks 1 r.r1 % 65536 < m.k / 8 ∨ ∃ e ∈ m.metaRanges, c.pool.spadSize < e.1 + e.2)
         (∀ e l, out = e :: l → Traps i c s 0x0B (Mask.ofTids (out.map (·.1))) 0 (BitVec.ofNat 64 e.2)) ∧
         (out = [] → badMeta → Traps i c s 0x14 0 0 0) ∧
         (out = [] → ¬badMeta → ∀ s2 m2, m2 = c.capture s2 m →
           s2 = (s.touchAll c.pid ((c.scaleOffsets m).map (·.2)) 1).touchAll c.pid (m.metaRanges.map (·.1)) (m.k / 8) →
           let differ := m.words.filter fun w => (tileOf c m w).capt &&
             ((tileOf c m w).rsc != m2.rowScales w || (tileOf c m w).csc != m2.colScales w)
           (differ ≠ [] → Traps i c s 0x01 (lanes differ) 4 0) ∧
           (differ = [] → m.aCode = 1 ∨ m.aCode = 15 → m.bCode = 1 ∨ m.bCode = 15 →
             (∃ w ∈ m.words, 256 < (tileOf c m w).count + m.k) → Traps i c s 0x13 0 0 0)))))

/-- R178, R190, R323, R330: LAUNCH and RCDEF read their record at issue and place an entry in the journal that holds the
bytes read; poison among them marks the CP. Neither is an instruction of a recipe slice, and a misaligned register
traps.

R50 to R52, R324: SPAWN hands the items of its responders, in ascending tid, to the packing unit of its core, where
an item joins the pending pool of its entry. An illegal item traps with TMASK naming the responders that have one; a
SPAWN whose items do not all fit stalls. (That the unit is that of the CP's core is log 20.) The model's choices:
poisoned operands (log 14), the packing unit a SPAWN meets (log 20), packed pools (log 21) and the order of the
checks (log 39). -/
def Obligations.LaunchSpawnAndDefine : Prop :=
  ((∀ (p : Option Prefix) (d a : Byte) (c : Ctx) (s s1 s2 s3 s4 : State) (pa ph : Nat) (r : ReadResult) (q : Pool),
     let i : Instr := .launch p d a
     Issues i c s → c.pool.rslice = false → (c.s d).toNat % 64 = 0 → (c.s a).toNat % 64 = 0 →
     c.checkOne s ((c.s a).toNat : Int) 64 .load = (.ok pa, s1) →
     c.checkOne s1 ((c.s d).toNat : Int) 64 .store = (.ok ph, s2) → ReadsLine c s2 (c.s a).toNat pa r s3 →
     s3.enterJournal c.pid [c.entry (c.s d).toNat ph (.launch r.bytes)] = .entered s4 → s4.pool? c.pid = some q →
     q.cp? c.cid = some c.cp → RoomAt c s q 0 →
     ∃ t, exec i s = .next t ∧ Effect i c s4 t q (poisonedBy r.poison c.cp)) ∧
   (∀ (p : Option Prefix) (d a : Byte) (c : Ctx) (s : State), Issues (.launch p d a) c s →
     (c.pool.rslice = true → Traps (.launch p d a) c s 0x0F 0 0 0) ∧
     (c.pool.rslice = false → (c.s d).toNat % 64 ≠ 0 → Traps (.launch p d a) c s 0x09 0 0 (c.s d)) ∧
     (c.pool.rslice = false → (c.s d).toNat % 64 = 0 → (c.s a).toNat % 64 ≠ 0 →
       Traps (.launch p d a) c s 0x09 0 0 (c.s a))) ∧
   (∀ (p : Option Prefix) (d : Byte) (marks : BitVec 4) (w : TensorRecord) (c : Ctx) (s s1 s2 s3 s4 s5 : State)
     (pa pb : Nat) (r1 r2 : ReadResult) (q : Pool),
     let i : Instr := .rcdef p d marks w
     Issues i c s → c.pool.rslice = false → (c.s d).toNat % 128 = 0 →
     c.checkOne s ((c.s d).toNat : Int) 128 .load = (.ok pa, s1) →
     c.checkOne s1 ((c.s d).toNat : Int) 128 .store = (.ok pb, s2) →
     ReadsLine c s2 (c.s d).toNat pa r1 s3 → ReadsLine c s3 ((c.s d).toNat + 64) (pa + 64) r2 s4 →
     s4.enterJournal c.pid [c.entry (c.s d).toNat pa (.define (r1.bytes ++ r2.bytes)
       [BitVec.ofNat 32 (wordOf c marks 0 w.r0), BitVec.ofNat 32 (wordOf c marks 1 w.r1),
        BitVec.ofNat 32 (wordOf c marks 2 w.r2), BitVec.ofNat 32 (wordOf c marks 3 w.r3)])] = .entered s5 →
     s5.pool? c.pid = some q → q.cp? c.cid = some c.cp → RoomAt c s q 0 →
     ∃ t, exec i s = .next t ∧ Effect i c s5 t q (poisonedBy (r1.poison || r2.poison) c.cp)) ∧
   (∀ (p : Option Prefix) (d : Byte) (marks : BitVec 4) (w : TensorRecord) (c : Ctx) (s : State),
     Issues (.rcdef p d marks w) c s →
     (c.pool.rslice = true → Traps (.rcdef p d marks w) c s 0x0F 0 0 0) ∧
     (c.pool.rslice = false → (c.s d).toNat % 128 ≠ 0 → Traps (.rcdef p d marks w) c s 0x09 0 0 (c.s d)))) ∧
  ((∀ (p : Option Prefix) (a : Byte) (c : Ctx) (s : State), Issues (.spawn p a) c s →
     (c.pool.rslice = true → Traps (.spawn p a) c s 0x0F 0 0 0) ∧
     (c.pool.rslice = false →
       (∀ t r, (c.tids.filter fun t => !itemLegal c s a t) = t :: r →
         Traps (.spawn p a) c s 0x11 (Mask.ofTids (t :: r)) 0 0) ∧
       ((∀ t ∈ c.tids, itemLegal c s a t = true) →
         (4096 < s.packed c.core + c.tids.length → Stalls (.spawn p a) c s) ∧
         (s.packed c.core + c.tids.length ≤ 4096 → ∀ s1 q,
           s1 = (c.tids.map fun t => (c.pool.reg t a.toNat, c.pool.reg t (a.toNat + 1), c.pool.reg t (a.toNat + 2),
             c.pool.reg t (a.toNat + 3))).foldl (fun s it => s.joinItem c.core c.asid c.pid c.pool.task.queue it) s →
           s1.pool? c.pid = some q → q.cp? c.cid = some c.cp → RoomAt c s q 0 →
           ∃ t, exec (.spawn p a) s = .next t ∧ Effect (.spawn p a) c s1 t q c.cp)))) ∧
   (∀ (s : State) (core asid pid : Nat) (queue : Option Nat) (x : Word × Word × Word × Word) (u : Pending),
     x.1.toNat / 65536 % 2 = 0 →
     (s.packing.filter fun p => p.core = core ∧ p.asid = asid ∧ p.entry = x.1.toNat % 65536) = [u] →
     u.items.length < 1023 →
     let t := s.joinItem core asid pid queue x
     { t with packing := s.packing } = s.shareClock pid [core] ∧
     (t.packing.filter fun p => p.core = core ∧ p.asid = asid ∧ p.entry = x.1.toNat % 65536) =
       [{ u with items := u.items ++ [x.2], spawners := (u.spawners ++ [pid]).dedup }]))

/-- R33, R272, R326, R327: CPSTART by CP 0 starts the next CP of its pool at the clause header at s_d, with s0 = s_a,
once its earlier scalar accesses have taken effect, for a CP on another core once a commit has made its SSTs visible
there; one at an address that is no word address traps then in the new CP (R106, `ClausesBegin`). CPSTOP stops
another CP that runs or stands at a trap. Both trap where the manual forbids them. The model's choices: operands of
CPSTART and when CPSTOP takes hold (log 38). -/
def Obligations.StartingAndStoppingCps : Prop :=
  (∀ (p : Option Prefix) (d a : Byte) (c : Ctx) (s : State),
    let i : Instr := .cpstart p d a
    let n := c.pool.started + 1
    Issues i c s →
    (c.pool.rslice = true → Traps i c s 0x0F 0 0 0) ∧
    (c.pool.rslice = false → c.cid ≠ 0 → Traps i c s 0x01 0 0 0) ∧
    (c.pool.rslice = false → c.cid = 0 → c.pool.cpsMax ≤ n → Traps i c s 0x01 0 0x30 0) ∧
    (c.pool.rslice = false → c.cid = 0 → n < c.pool.cpsMax → c.beforeStart = none → c.unseenStores s n ≠ [] →
      exec i s = .next (s.forceFor c.pid c.cid
        (if (c.unseenStores s n).any (·.record.isNone) then [c.pid] else []))) ∧
    (c.pool.rslice = false → c.cid = 0 → n < c.pool.cpsMax → c.beforeStart = none → c.unseenStores s n = [] →
      UndoRoom c s 0 →
      ∃ t q x, exec i s = .next t ∧ Effect i c s t q c.cp ∧ q.started = n ∧ q.cp? n = some x ∧
        (∀ j, j ≠ n → q.cp? j = c.pool.cp? j) ∧ { q with cps := c.pool.cps, started := c.pool.started } = c.pool ∧
        Fresh x c.pool.threads (c.s d >>> 2) (c.s a) ∧ x.skew = (c.s d).toNat % 4)) ∧
  (∀ (p : Option Prefix) (a : Byte) (c : Ctx) (s : State),
    let i : Instr := .cpstop p a
    let n := (c.s a).toNat
    Issues i c s →
    (c.pool.rslice = true → Traps i c s 0x0F 0 0 0) ∧
    (c.pool.rslice = false → 8 ≤ n ∨ n = c.cid → Traps i c s 0x01 0 0 0) ∧
    (c.pool.rslice = false → n < 8 → n ≠ c.cid → UndoRoom c s 0 →
      (∀ x, c.pool.cp? n = some x → x.status = .running ∨ x.status = .trapped →
        ∃ t q, exec i s = .next t ∧ Effect i c s t q c.cp ∧
          q.cp? n = some { x with status := .stopping, stand := .no, holdLeft := 0, nopre := none, trap := none } ∧
          (∀ j, j ≠ n → q.cp? j = c.pool.cp? j) ∧
          q.ops = c.pool.ops.filter (fun o => !(o.cp == n && (o.park.isSome || o.kind == .sysc))) ∧
          { q with cps := c.pool.cps, ops := c.pool.ops } = c.pool) ∧
      ((∀ x, c.pool.cp? n = some x → x.status ≠ .running ∧ x.status ≠ .trapped) →
        ∃ t, exec i s = .next t ∧ Effect i c s t c.pool c.cp)))

/-- R331, R333: RCRET, RCDROP and RCQRY answer in s_d what the table gives for the tenant's recipe at s_a; RCRET retires
and RCDROP drops it; RCRET waits while it regenerates. An address beyond 56 bits traps. The model's choice: the
readings of definitions (log 23). -/
def Obligations.RecipeInstructions : Prop :=
  (∀ (i : Instr) (d a : Byte) (c : Ctx) (s : State), recipeRegs i = some (d, a) → Issues i c s →
    (c.pool.rslice = true → Traps i c s 0x0F 0 0 0) ∧
    (c.pool.rslice = false → 2 ^ 56 ≤ (c.s a).toNat → Traps i c s 0x0A 0 0 (c.s a)) ∧
    (c.pool.rslice = false → (c.s a).toNat < 2 ^ 56 →
      (recipeAnswer i s (recipeOf s c.asid (c.s a).toNat) = none → Stalls i c s) ∧
      (∀ v s1 q, recipeAnswer i s (recipeOf s c.asid (c.s a).toNat) = some (v, s1) → s1.pool? c.pid = some q →
        q.cp? c.cid = some c.cp → RoomAt c s q 0 →
        ∃ t, exec i s = .next t ∧ Effect i c s1 t q (c.cp.setS d.toNat v)))) ∧
  (∀ (s : State) (r : Recipe), KMap.find? (s.retire r).recipes r.id = none ∧
    (∀ n, n ≠ r.id → KMap.find? (s.retire r).recipes n = KMap.find? s.recipes n) ∧
    KMap.find? (s.dropTile r).recipes r.id = some { r with state := .dropped } ∧
    (∀ n, n ≠ r.id → KMap.find? (s.dropTile r).recipes n = KMap.find? s.recipes n) ∧
    (s.retire r).pools = s.pools ∧ (s.dropTile r).pools = s.pools)

/-! ### Completions -/

/-- R16, R19, R44, R45, R180, R258, R260, R277, R280, R337, R339: a result operation completes by delivering its values:
a thread operation in v_d of its threads, SLD in s_d, with its flags; its bound flag is then clear, and what other
loads of the CP have read of the same bytes is read again. A load first reads its memory; one whose tile has been
dropped parks, and an acquire that has read bytes of a record under way waits for it. While another CP of the pool
is inside its hold, thread results wait; so does a value that is not known yet. Where the old values of the
destinations do not fit the undo log, a commit is forced first, and thread results wait until it is done (R180). A
load of which a lane could not read, its copy gone meanwhile (R339), has read nothing. The model's choice: the
moment a value is read (log 15). -/
def Obligations.ResultsDelivered : Prop :=
  (∀ (s : State) (pid : Nat) (p : Pool) (o : Op) (vals : List DWord) (y : Cp), s.pool? pid = some p →
    p.cp? o.cp = some y → p.ops.find? (fun x => x.id = o.id) = some o →
    o.kind = .known ∨ o.kind = .load ∨ o.kind = .vatom → o.dest + (if o.wide then 1 else 0) < 256 →
    (o.lanes.map (·.tid)).Nodup → vals.length = o.lanes.length →
    ∃ q, (s.finishOp pid o vals).pool? pid = some q ∧
      q.ops = (p.ops.filter (fun x => x.id != o.id)).map (rereads o) ∧
      q.cp? o.cp = some (marked o.flags o.poisoned y) ∧ (∀ j, j ≠ o.cp → q.cp? j = p.cp? j) ∧
      Delivered o.wide o.dest ((o.lanes.map (·.tid)).zip vals) (Mask.tids o.zero p.threads) p q ∧
      q.spad = p.spad ∧ q.tiles = p.tiles ∧ q.cmds = p.cmds) ∧
  (∀ (s : State) (pid : Nat) (p : Pool) (o : Op) (v : DWord) (y : Cp), s.pool? pid = some p → p.cp? o.cp = some y →
    o.kind = .sload ∨ o.kind = .sknown →
    ∃ q, (s.finishOp pid o [v]).pool? pid = some q ∧
      q.ops = (p.ops.filter (fun x => x.id != o.id)).map (rereads o) ∧
      q.cp? o.cp = some (marked o.flags o.poisoned (y.setS o.dest v)) ∧ (∀ j, j ≠ o.cp → q.cp? j = p.cp? j) ∧
      q.regs = p.regs) ∧
  (∀ (s : State) (pid : Nat) (p : Pool) (o : Op) (home : Bool) (x : Lane), x.x = 0 → s.laneGone p o x = none →
    s.sampleLanes pid p o home false [x] =
      (let r := s.readFor pid (o.coreFor p x) p.task.asid x.pa (if o.wide then 8 else 4) home
       ([{ x with y := BitVec.ofNat 64 (ofBytes r.1.bytes), x := 1 }], r.1.poison, r.2))) ∧
  (∀ (s : State) (pid : Nat) (p : Pool) (o : Op), s.viral = none → s.pool? pid = some p →
    p.ops.find? (fun x => x.id = o.id) = some o → o.park = none → (∀ h ∈ s.held, h.pool ≠ pid ∨ h.op ≠ o.id) →
    let i : Instr := .resultOpCompletion pid o.id false
    let done (u t : State) : Prop := (s.undoNeed t pid = [] → exec i s = .next t) ∧
      (s.undoNeed t pid ≠ [] → exec i s = .next (u.forceUndo pid (some o.id) (s.undoNeed t pid)))
    (o.kind = .known ∨ o.kind = .vatom ∨ o.kind = .load →
      (∃ e ∈ p.cps, e.1 ≠ o.cp ∧ e.2.holdLeft ≠ 0 ∧ e.2.begun = true) ∨ s.undoForced pid = true → exec i s = .next s) ∧
    (o.kind = .sknown ∨ o.kind = .sload ∨ (s.undoForced pid = false ∧
        ∀ e ∈ p.cps, e.1 ≠ o.cp → e.2.holdLeft = 0 ∨ e.2.begun = false) →
      (o.kind = .known ∨ o.kind = .vatom ∨ o.kind = .sknown →
        (∀ vals, o.got = some vals → done s (s.finishOp pid o vals)) ∧ (o.got = none → exec i s = .next s)) ∧
      (o.kind = .load ∨ o.kind = .sload → s.redLanes p o = [] →
        (∀ g, s.tileGone p o = some g → exec i s = .next (s.parkAgain pid p o g)) ∧
        (s.tileGone p o = none → ∀ l poison s1 q, s.sampleLanes pid p o o.atHome false o.lanes = (l, poison, s1) →
          s1.pool? pid = some q → q.ops = p.ops →
          let recs := o.lanes.flatMap fun l => s1.openRecs (o.coreFor p l) l.pa (if o.wide then 8 else 4)
          let read (x : Op) : Op :=
            { x with lanes := l, poisoned := x.poisoned || poison, seen := (x.seen ++ recs).dedup }
          let s2 : State := s1.modPool pid fun x => x.modOp o.id read
          ((∃ e ∈ l, e.x = 0) → exec i s = .next (s2.modPool pid fun x => x.modOp o.id fun y =>
            { y with lanes := y.lanes.map fun e => { e with x := 0 } })) ∧
          ((∀ e ∈ l, e.x ≠ 0) → s2.acquireOpen (read o) = true → exec i s = .next s2) ∧
          ((∀ e ∈ l, e.x ≠ 0) → s2.acquireOpen (read o) = false → done s2 (s2.finishOp pid (read o) (l.map (·.y))))))))

/-- R16, R178, R258, R263, R280, R288: a store or reduction that is the first of its CP's enters the journal, in
ascending tid, once no earlier load and no earlier `.sc` access has its bytes to read; where it does not fit,
commits are forced. A scratchpad store has taken effect; FLUSH is done once its record is gone; INV then drops its
lines. Each operation is then no longer outstanding. A store that is not the first stays.

R45, R183, R185, R187, R255, R265, R287, R332: a parked load whose page or tile has come is checked again with the
addresses of its issue: it then stands with its physical addresses, its CP free to go on; it traps at its own place;
or it waits again. A parked GTHR reads its indexes, those of its issue once it has been saved (R185, R187), is
checked again and then becomes a gather of its CP. One whose page or tile has not come, or whose pool a test holds,
waits, and so does a broadcast while another CP is inside its hold (R45). The model's choice: the moments of loads
and stores (log 15). -/
def Obligations.OperationsPerformed : Prop :=
  (∀ (s : State) (pid : Nat) (p : Pool) (o : Op), s.viral = none → s.pool? pid = some p →
     p.ops.find? (fun x => x.id = o.id) = some o →
     let gone (u : State) : State := u.modPool pid fun q => { q with ops := q.ops.filter fun x => x.id != o.id }
     let firstStore := p.ops.find? fun x => x.cp = o.cp && (x.kind == .store || x.kind == .red)
     (o.kind = .store ∨ o.kind = .red →
       (firstStore = some o →
         let enter : Enter := s.enterJournal pid (o.entries pid p (((p.cp? o.cp).map (·.fencedRel)).getD false))
         (s.storeWaits p o = true → exec (.performedOpCompletion pid o.id) s = .next s) ∧
         (s.storeWaits p o = false →
           (∀ s1, enter = .entered s1 → exec (.performedOpCompletion pid o.id) s = .next (gone s1)) ∧
           (∀ ps, enter = .commitFirst ps →
             exec (.performedOpCompletion pid o.id) s = .next (ps.foldl State.forceCommit s)))) ∧
       (∀ x, firstStore = some x → x.id ≠ o.id → exec (.performedOpCompletion pid o.id) s = .next s)) ∧
     (o.kind = .spad → exec (.performedOpCompletion pid o.id) s = .next (gone s)) ∧
     (∀ r, o.kind = .flush r →
       ((∀ x ∈ s.records, x.id ≠ r) → exec (.performedOpCompletion pid o.id) s = .next (gone s)) ∧
       ((∃ x ∈ s.records, x.id = r) → exec (.performedOpCompletion pid o.id) s = .next s)) ∧
     (∀ n l r c, o.kind = .inv n → o.lanes = l :: r → s.ctxOf pid o.cp = some c →
       exec (.performedOpCompletion pid o.id) s = .next (gone (c.invPages o.scope (n / 4096 + 2) l.addr n s)))) ∧
  (∀ (s : State) (pid : Nat) (p : Pool) (o : Op) (k : Park) (c : Ctx), s.viral = none → s.pool? pid = some p →
     p.ops.find? (fun x => x.id = o.id) = some o → o.park = some k → s.ctxOf pid o.cp = some c →
     let held : Prop := o.kind ≠ .sload ∧ ∃ e ∈ p.cps, e.1 ≠ o.cp ∧ e.2.holdLeft ≠ 0 ∧ e.2.begun = true
     let left (y : Cp) : Cp := match y.stand with
       | .load i _ _ => if i = o.id then { y with stand := .no } else y
       | _ => y
     (s.parkOver k = false ∨ s.testHolds pid = true ∨ held → exec (.parkedLoadReissue pid o.id) s = .next s) ∧
     (s.parkOver k = true → s.testHolds pid = false → ¬held → ∀ md h a, o.kind = .gather md h a →
       let rows := o.lanes.map fun l => (l.tid, match a with
         | some n => (c.pool.reg l.tid n).toNat
         | none => l.addr)
       (∀ k' s1, c.gatherCheck h rows s = .park k' s1 → exec (.parkedLoadReissue pid o.id) s =
         .next (s1.modPool pid fun q => q.modOp o.id fun x => { x with park := some k' })) ∧
       (∀ s1, c.gatherCheck h rows s = .ok s1 → exec (.parkedLoadReissue pid o.id) s =
         .next ((c.addCmd (s1.modPool pid fun q => q.removeOp o.id) 1 (.gather ⟨md, h, rows⟩) []).modCp pid o.cp
           left))) ∧
     (s.parkOver k = true → s.testHolds pid = false → ¬held → (∀ md h a, o.kind ≠ .gather md h a) → ∀ checked,
       checked = c.checkAll s (o.lanes.map fun l => (l.tid, (l.addr : Int))) (if o.wide then 8 else 4) .load
         (o.kind == .load) →
       (∀ k' s1, checked = .park k' s1 → exec (.parkedLoadReissue pid o.id) s =
         .next (s1.modPool pid fun q => q.modOp o.id fun x => { x with park := some k' })) ∧
       (∀ cause tm detail addr pc cl, checked = .trap cause tm detail addr → c.cp.stand = .load o.id pc cl →
         ∃ t, exec (.parkedLoadReissue pid o.id) s = .next t ∧ OnlyPool pid s t ∧ ∃ q, t.pool? pid = some q ∧
           q.ops = p.ops.filter (fun x => x.id != o.id) ∧
           q.cp? o.cp = some { trapped c.cp p.threads o.cp pc cause tm detail addr with clause := cl }) ∧
       (∀ pas s1, checked = .ok pas s1 → ¬(o.ord = 3 ∧ 2 ≤ o.scope) →
         exec (.parkedLoadReissue pid o.id) s = .next (((stamped c o.ord s1).2.modPool pid fun q =>
           q.modOp o.id fun x => { x with
             park := none, stamp := (stamped c o.ord s1).1
             lanes := (x.lanes.zip pas).map fun e => { e.1 with pa := e.2 } }).modCp pid o.cp left))))

/-- R178, R180, R182, R204, R207 to R210, R213, R214, R265, R270, R286: COPY_COMPLETION, GATHER_COMPLETION and
MERGE_COMPLETION: the first command of its class of its CP, with its plan decided and its writes in the journal,
writes its scratchpad bytes, raises its flags, records its fault, and counts down its class. A copy with a gong
takes its bytes from PEND; where all have arrived and none is pending then, the phase turns, with a commit. One that
waits for a page or tile stays, with none of its writes made (R286), and so does one that waits for a commit; a
forced commit of its pool may divide its writes (R178), and one is forced where its bytes would take the undo log
above the share (R180, log 6). PEND never falls below 0, whatever the word holds (R208).

R205 to R207, R266, R268 to R270: what a command that completes writes. A copy in writes the bytes of its ranges,
one after the other, each as it stood at the copy's issue or as it stands; a copy out writes its bytes of the
scratchpad to them; a copy within the scratchpad its source. A copy that faults writes bytes without a value over
its whole range, as far as it can be written (R209). A gather converts its rows one after the other and ends before
the first, its own apart, that is outside the extent or fails a check; of a row the earliest check that any piece of
it fails decides, and a row of a tile that is down, which fails no other check, is waited for. A merge reads its
block and takes the lists of each row by ascending key, combining the values of equal keys; it writes its output,
each row's count and its progress, and stops at the first write that fails a check. The model's choices: which loads
a commit does not wait for (log 13), when a command's bytes are decided (log 16) and a merge's end (log 17). -/
def Obligations.CommandsComplete : Prop :=
  ((∀ (s s1 : State) (c : Ctx) (cmd : Cmd) (cls : Nat) (i : Instr), Completable s c cmd cls → cls ≤ 2 →
     i = [.copyCompletion c.pid cmd.id, .gatherCompletion c.pid cmd.id, .mergeCompletion c.pid cmd.id].getD cls
       (.copyCompletion 0 0) →
     let now := c.plan s { cmd with park := none }
     let ends (s2 : State) (pl : Plan) : Prop :=
       let t := c.endCmd s2 cmd pl
       (s2.undoFull t c.pid = true → exec i s = .next (s.forceUndo c.pid none [c.pid])) ∧
       (s2.undoFull t c.pid = false →
         ((∀ k, cmd.kind = .copy k → k.gong = none) → exec i s = .next t) ∧
         (∀ k o q, cmd.kind = .copy k → k.gong = some o → t.pool? c.pid = some q →
           (∀ e h n r, ¬GongIs (q.spadRead o 8) e h n r) → exec i s = .next t) ∧
         (∀ k o q exp phase pend arr, cmd.kind = .copy k → k.gong = some o → t.pool? c.pid = some q →
           GongIs (q.spadRead o 8) exp phase pend arr →
           (¬(arr = exp ∧ pend = 0) → exec i s = .next t) ∧
           (arr = exp → pend = 0 →
             let u := c.modPool t fun x => x.spadWrite o 8 (gongWord exp (1 - phase) 0 0)
             (u.canCommit c.pid none = true → ∃ v, exec i s = .next v ∧
               u.commitPool c.pid none {} (fun _ x => x) = some v) ∧
             (u.canCommit c.pid none = false → exec i s = .next s))))
     (∀ k, now = .wait k s1 →
       exec i s = .next (s1.modPool c.pid fun p => p.modCmd cmd.id fun x => { x with park := some k })) ∧
     (∀ pl k, now = .ok pl s1 → pl.park = some k → exec i s = .next (s1.modPool c.pid fun p =>
       p.modCmd cmd.id fun x => { x with park := some k, plan := some { pl with park := none } })) ∧
     (∀ f a, now = .bad f a s1 → ends s1 { fault := some (f, a) }) ∧
     (∀ pl, now = .ok pl s1 → pl.park = none →
       let sent := c.sendWrites (c.pool.kept cmd.id) (decide (cls = 0) && pl.fault.isSome) pl.writes s1
       (∀ s2, sent = .all s2 → ends s2 pl) ∧
       (∀ k, sent = .wait k → exec i s = .next ((s1.askFor k).modPool c.pid fun p =>
         p.modCmd cmd.id fun x => { x with park := some k, plan := some (pl.leave pl.writes) })) ∧
       (∀ left s2, sent = .full [c.pid] left s2 →
         let t := s2.modPool c.pid fun p => p.modCmd cmd.id fun x => { x with park := none, plan := some (pl.leave left) }
         (t.canCommit c.pid none = true → exec i s = .next (t.forceCommit c.pid)) ∧
         (t.canCommit c.pid none = false → exec i s = .next s)) ∧
       (∀ ps left s2, sent = .full ps left s2 → c.pid ∉ ps → exec i s = .next (ps.foldl State.forceCommit s)) ∧
       (∀ f a n s2, sent = .bad f a n s2 → ((∀ k, cmd.kind ≠ .copy k) → ends s2 (pl.stopAt (f, a) n)) ∧
         ∀ k, cmd.kind = .copy k → exec i s = .next ((k.spoiled (f, a) s1).2.modPool c.pid fun p =>
           p.modCmd cmd.id fun x => { x with plan := some (k.spoiled (f, a) s1).1 })))) ∧
   (∀ (s : State) (c : Ctx) (cmd : Cmd) (cls : Nat) (pl : Plan) (p : Pool) (y : Cp), s.pool? c.pid = some p →
     p.cp? cmd.cp = some y → c.cid = cmd.cp → classOf cmd.kind = cls → (∀ k, cmd.kind = .copy k → k.gong = none) →
     (∀ g, cmd.kind ≠ .gather g) → CommandDone s (c.endCmd s cmd pl) c cmd cls pl y) ∧
   (∀ (s : State) (c : Ctx) (cmd : Cmd) (pl : Plan) (g : GatherCmd) (p : Pool) (y : Cp), s.pool? c.pid = some p →
     p.cp? cmd.cp = some y → c.cid = cmd.cp → cmd.kind = .gather g →
     CommandDone s (c.endCmd s cmd pl) c cmd 1 pl (y.setM g.md (Mask.ofTids ((g.rows.take pl.rows).map (·.1))))) ∧
   (∀ (s : State) (c : Ctx) (cmd : Cmd) (k : CopyCmd) (o : Nat) (pl : Plan) (p : Pool) (y : Cp)
     (w : Nat), s.pool? c.pid = some p → p.cp? cmd.cp = some y → c.cid = cmd.cp → cmd.kind = .copy k →
     k.gong = some o → (pl.bytes.map (·.1)).Nodup → (∀ e ∈ pl.bytes, e.1 < o ∨ o + 8 ≤ e.1) → w = p.spadRead o 8 →
     ∃ q, (c.endCmd s cmd pl).pool? c.pid = some q ∧
       q.spadRead o 8 = w - 2 ^ 16 * min k.total (w / 2 ^ 16 % 2 ^ 28) ∧
       (∀ exp phase pend arr, GongIs w exp phase pend arr →
         q.spadRead o 8 = gongWord exp phase (pend - k.total) arr) ∧
       (∀ a, a < o ∨ o + 8 ≤ a → q.spadByte a = (KMap.find? pl.bytes a).getD (p.spadByte a)) ∧
       q.cmds = p.cmds.filter (fun x => x.id != cmd.id) ∧ q.regs = p.regs ∧
       (∀ j, j ≠ cmd.cp → q.cp? j = p.cp? j) ∧ q.cp? cmd.cp = some (commandDone 0 pl y))) ∧
  ((∀ k : CopyCmd, k.chunks.flatMap (fun e => (List.range e.2).map (e.1 + ·)) = copyAddresses k) ∧
   (∀ (s s1 : State) (c : Ctx) (cmd : Cmd) (k : CopyCmd) (bs : List Byte) (poison : Bool), cmd.kind = .copy k →
     cmd.plan = none →
     (k.variant = 0 ∧ c.readChunks k.chunks [] false s = .ok (bs, poison) s1) ∨
       (k.variant = 2 ∧ poison = false ∧ bs = (List.range k.total).map fun i => c.pool.spadByte (k.addr + i)) →
     ∃ out u, out.length = bs.length ∧ c.plan s cmd = .ok { bytes := tableFrom k.spad out, poison := poison } u ∧
       ∀ i, i < bs.length → out[i]? = bs[i]? ∨ cmd.snap[i]? = some out[i]?) ∧
   (∀ (s s1 : State) (c : Ctx) (cmd : Cmd) (k : CopyCmd) (f a : Nat), cmd.kind = .copy k → cmd.plan = none →
     (k.variant = 0 → c.readChunks k.chunks [] false s = .bad f a s1 →
       let x := s1.freeBytes k.total
       x.1.length = k.total ∧ c.plan s cmd = .ok { bytes := tableFrom k.spad x.1, fault := some (f, a) } x.2) ∧
     (k.variant = 1 → c.checkChunks k.chunks s = .bad f a s1 →
       ∃ w u, c.plan s cmd = .ok { writes := w, fault := some (f, a) } u ∧
         w.map (fun e => (e.1, e.2.length)) = k.chunks)) ∧
   (∀ (c : Ctx) (kept : Bool) (va : Nat) (bs : List Byte) (r : List (Nat × List Byte)) (s s1 : State) (f : Fail),
     c.checkChunk s va bs.length .engineWrite = (.error f, s1) →
     c.sendWrites kept true ((va, bs) :: r) s = c.sendWrites kept true r s1) ∧
   (∀ (s s1 : State) (c : Ctx) (cmd : Cmd) (k : CopyCmd), cmd.kind = .copy k → cmd.plan = none → k.variant = 1 →
     c.checkChunks k.chunks s = .ok () s1 →
     cmd.snap = (List.range k.total).map (fun i => some (c.pool.spadByte (k.spad + i))) →
     ∃ w, c.plan s cmd = .ok { writes := w } s1 ∧ w.flatMap (fun e => tableFrom e.1 e.2) =
       (copyAddresses k).zip ((List.range k.total).map fun i => c.pool.spadByte (k.spad + i))) ∧
   (∀ (s s1 : State) (c : Ctx) (h : Handle) (rm : RMode) (sat : Bool) (t n k : Nat) (r : List (Nat × Nat)) (acc : Plan),
     let rest := c.gatherRows h rm sat ((t, n) :: r) k acc s
     let ends : Moved Plan := .ok { acc with rows := k } s
     c.gatherRows h rm sat [] k acc s = ends ∧ (k ≠ 0 → h.count ≤ n → rest = ends) ∧
     (k = 0 ∨ n < h.count →
       let row := lineChunks (h.base + n * h.stride) h.srcBytes
       (∀ bs p s0, c.checkRow row s = (.ok (), s0) → c.readChunks row [] false s0 = .ok (bs, p) s1 →
         rest = c.gatherRows h rm sat r (k + 1) { acc with
           bytes := acc.bytes ++ tableFrom (h.doff + k * h.dpitch) (h.convertRow rm sat bs).1
           poison := acc.poison || p, flags := acc.flags ||| (h.convertRow rm sat bs).2 } s1) ∧
       (∀ f a u, c.checkRow row s = (.error (f, a), s1) → (c.engineFail s1 a f : Moved Plan) = u →
         (∀ cause ad v, u = .bad cause ad v → cause ≠ 0x0F → rest = ends) ∧
         (∀ b n v, u = .wait (.page b n) v → k ≠ 0 → rest = ends) ∧
         (∀ r v, u = .wait (.tile r) v → rest = u)))) ∧
   (∀ (h : Handle) (rm : RMode) (sat : Bool) (bs : List Byte), HandleFits h →
     let sw := (Ty.ofCode h.sfmt).width
     let dw := (Ty.ofCode h.dfmt).width
     let one (j : Nat) := convertElem (Ty.ofCode h.sfmt) (Ty.ofCode h.dfmt) rm sat (ofBytes bs / 2 ^ (sw * j) % 2 ^ sw)
     (h.sfmt = h.dfmt → h.convertRow rm sat bs = (bs, 0)) ∧
     (h.sfmt ≠ h.dfmt → (h.convertRow rm sat bs).2 = allFlags ((List.range h.nel).map one) ∧
       ∀ j, j < h.nel → ofBytes (h.convertRow rm sat bs).1 / 2 ^ (dw * j) % 2 ^ dw = (one j).1 % 2 ^ dw)) ∧
   (∀ (s : State) (c : Ctx) (cmd : Cmd) (k : MergeCmd) (bs : List Byte) (m1 : Merging), cmd.kind = .merge k →
     cmd.plan = none → (⟨s, [], k.ostart, 0, false, []⟩ : Merging).readBytes c k.block 128 = .ok (bs, m1) →
     let stops (m : Merging) (f : Option (Nat × Nat)) : Prop := c.plan s cmd = .ok
       { writes := m.out.reverse, marks := m.marks.reverse, poison := m.poison, flags := m.flags, fault := f } m.s
     (k.block? bs = none → stops m1 (some (0x22, 0))) ∧
     (∀ b m2, k.block? bs = some b → m1.write c b.prog 8 (progWord k.first k.ostart false) = .ok m2 →
       let all := k.rowsFrom c (RMode.ofCode cmd.rm) cmd.sat b k.rows k.first
         m2
       (∀ m, all = .ok m → stops m none) ∧ (∀ m f a, all = .error (.stop f a m) → stops m (some (f, a)))) ∧
      (∀ b m f a, k.block? bs = some b → m1.write c b.prog 8 (progWord k.first k.ostart false) = .error (.stop f a m) →
        stops m (some (f, a)))) ∧
    (∀ (m : Merging) (c : Ctx) (va n v : Nat),
      (∀ s1, c.checkChunks [(va, n)] m.s = .ok () s1 → m.write c va n v =
        .ok { m with s := s1, out := (va, toBytes v n) :: m.out, marks := (m.flags, m.poison) :: m.marks }) ∧
      (∀ f a s1, c.checkChunks [(va, n)] m.s = .bad f a s1 → m.write c va n v = .error (.stop f a { m with s := s1 })) ∧
      (∀ p s1, c.checkChunks [(va, n)] m.s = .wait p s1 → m.write c va n v = .error (.wait p s1))) ∧
   (∀ (k : MergeCmd) (c : Ctx) (rm : RMode) (sat : Bool) (b : MergeBlock) (n r : Nat) (m x y z : Merging),
     k.oneRow c rm sat b r m = .ok x → x.write c (b.ocnt + 4 * r) 4 (x.e - m.e) = .ok y →
     y.write c b.prog 8 (progWord (r + 1) y.e (n = 0)) = .ok z →
     k.rowsFrom c rm sat b (n + 1) r m = k.rowsFrom c rm sat b n (r + 1) z) ∧
   (∀ (k : MergeCmd) (c : Ctx) (b : MergeBlock) (m : Merging) (key v : Nat),
     (k.olimit ≤ m.e → k.emit c b m key v = .error (.stop 0x20 0 m)) ∧
     (m.e < k.olimit → ∀ m1, m.write c (b.okeys + 4 * m.e) 4 key = .ok m1 →
       (k.set = true → k.emit c b m key v = .ok { m1 with e := m.e + 1 }) ∧
       (k.set = false → ∀ m2, m1.write c (b.ovals + k.valBytes * m.e) k.valBytes v = .ok m2 →
         k.emit c b m key v = .ok { m2 with e := m.e + 1 }))) ∧
   (∀ (k : MergeCmd) (c : Ctx) (rm : RMode) (sat : Bool) (b : MergeBlock) (f i iEnd j jEnd x y : Nat)
     (ha pa hb pb : Option Nat) (m m1 m2 : Merging), headKey c b.akeys i iEnd ha pa m = .ok (some x, m1) →
     headKey c b.bkeys j jEnd hb pb m1 = .ok (some y, m2) →
     let row := k.row c rm sat b (f + 1) i iEnd j jEnd ha pa hb pb m
     (x < y → ∀ v m3 m4, valueOf k c b.avals i m2 = .ok (v, m3) → k.emit c b m3 x v = .ok m4 →
       row = k.row c rm sat b f (i + 1) iEnd j jEnd none (some x) (some y) pb m4) ∧
     (y < x → ∀ v m3 m4, valueOf k c b.bvals j m2 = .ok (v, m3) → k.emit c b m3 y v = .ok m4 →
       row = k.row c rm sat b f i iEnd (j + 1) jEnd (some x) pa none (some y) m4) ∧
     (x = y → ∀ v w m3 m4, valueOf k c b.avals i m2 = .ok (v, m3) → valueOf k c b.bvals j m3 = .ok (w, m4) →
       let z := if k.set then (0, 0) else k.combine rm sat v w
       let m5 : Merging := { m4 with flags := m4.flags ||| z.2 }
       let rest := k.row c rm sat b f (i + 1) iEnd (j + 1) jEnd none (some x) none (some y)
       (k.set = true ∨ k.keepz = true ∨ k.isZero z.1 = false → ∀ m6, k.emit c b m5 x z.1 = .ok m6 → row = rest m6) ∧
       (k.set = false → k.keepz = false → k.isZero z.1 = true → row = rest m5))))

/-- R76, R79, R221, R225 to R231: MATRIX_COMMAND_EXECUTE and MDRN_COMPLETION: the first command of its CP's and of those
on its tiles executes, and its class counts down: MZERO makes its tiles empty and the CP's; a multiply takes each of
its words a step, which without errors always executes; a word with an uncorrectable error executes nothing and
rolls the pool back; a drain adds each element of a tile, scaled by the tile's captured codes, to the C registers of
its lanes, raises the flags, adds the tile's corrections to CKI.CORR, and leaves it empty without an owner; a
poisoned tile gives NaN and marks the CP.

R76, R80, R81, R225, R226, R229, R230: what a step of a multiply does to the tile of a word: an empty tile starts
from its path's zeros; every element becomes the sum of itself and its products, on the residue path exactly, as
integers modulo 16,776,960, else rounded once; the first step captures the scale codes. Errors of one element are
corrected and counted; errors of two elements in different rows or columns, each of which the checksums tell from
none, are not. The model's choices: the readings of the matrix rules (log 30). -/
def Obligations.MatrixCommandsExecute : Prop :=
  (∀ (s : State) (pid : Nat) (p : Pool) (cmd : Cmd) (m : MatrixCmd) (y : Cp) (faults : List ProductFault),
     s.viral = none → s.pool? pid = some p → p.matrix? cmd.id = some (cmd, m) → p.cp? cmd.cp = some y →
     (p.matrixFirst cmd m = false → exec (.matrixCommandExecute pid cmd.id faults) s = .next s ∧
       exec (.mdrnCompletion pid cmd.id) s = .next s) ∧
     (p.matrixFirst cmd m = true →
       (m.op = .mzero → ∃ t q, exec (.matrixCommandExecute pid cmd.id faults) s = .next t ∧ OnlyPool pid s t ∧
         t.pool? pid = some q ∧ q.cp? cmd.cp = some { y with mtx := y.mtx - 1 } ∧
         (∀ w ∈ m.words, q.tile (2 * w + m.acc) =
           { Tile.empty with owner := some cmd.cp, corrp := (p.tile (2 * w + m.acc)).corrp }) ∧
         (∀ k, (∀ w ∈ m.words, k ≠ 2 * w + m.acc) → q.tile k = p.tile k) ∧ q.regs = p.regs ∧
         q.cmds = p.cmds.filter (fun x => x.id != cmd.id)) ∧
       (m.op = .mma ∨ m.op = .mmaq ∨ m.op = .mmas →
         let run := m.run faults m.words p (if m.metaFlag = true then Flags.META else 0)
         (faults = [] → run ≠ none) ∧
         (∀ q f, run = some (q, f) →
           ∃ t r, exec (.matrixCommandExecute pid cmd.id faults) s = .next t ∧ OnlyPool pid s t ∧
             t.pool? pid = some r ∧ r.tiles = q.tiles ∧ r.regs = p.regs ∧ r.spad = p.spad ∧
             r.cp? cmd.cp = some { y with fstat := y.fstat ||| f, mtx := y.mtx - 1 } ∧
             r.cmds = p.cmds.filter (fun x => x.id != cmd.id)) ∧
         (run = none → exec (.matrixCommandExecute pid cmd.id faults) s = .next (s.rollBackOrFence pid))) ∧
       (m.op = .mdrn → (∀ e ∈ p.cps, e.1 ≠ cmd.cp → e.2.holdLeft = 0 ∨ e.2.begun = false) → m.words.Nodup →
         m.d + 32 ≤ 256 → m.acc ≤ 1 →
         let tile (w : Nat) : Tile := p.tile (2 * w + m.acc)
         let code (w : Nat) (l : KMap Byte) (n : Nat) : Byte := if (tile w).capt then KMap.get l 0 n else 0x7F
         let drained (w i j : Nat) : Word × Flags := drainElem ((tile w).value i j) (code w (tile w).rsc i)
           (code w (tile w).csc j) (p.reg (32 * w + i) (m.d + j))
         ∃ t q z, exec (.mdrnCompletion pid cmd.id) s = .next t ∧ OnlyPool pid s t ∧ t.pool? pid = some q ∧
           (∀ w ∈ m.words, (tile w).poison = false → q.tile (2 * w + m.acc) = Tile.empty ∧
             ∀ i j, i < 32 → j < 32 → q.reg (32 * w + i) (m.d + j) = (drained w i j).1) ∧
           (∀ w ∈ m.words, (tile w).poison = true →
             q.tile (2 * w + m.acc) = { tile w with owner := none, corrp := 0 } ∧
             ∀ i j, i < 32 → j < 32 → q.reg (32 * w + i) (m.d + j) = 0x7FC00000) ∧
           (∀ u n, n < 256 → ¬(u / 32 ∈ m.words ∧ m.d ≤ n ∧ n < m.d + 32) → q.reg u n = p.reg u n) ∧
           q.spad = p.spad ∧ q.cmds = p.cmds.filter (fun x => x.id != cmd.id) ∧
           q.cp? cmd.cp = some z ∧ z.mtx = y.mtx - 1 ∧
           z.fstat = y.fstat ||| allFlags ((m.words.filter fun w => (tile w).poison = false).flatMap fun w =>
             (List.range 32).flatMap fun i => (List.range 32).map fun j => drained w i j) ∧
           (m.words ≠ [] → z.cki = (poisonedBy (m.words.any fun w => (tile w).poison)
             (y.addCorr (m.words.map fun w => (tile w).corrp).sum)).cki)) ∧
       (m.op = .mdrn → (∃ e ∈ p.cps, e.1 ≠ cmd.cp ∧ e.2.holdLeft ≠ 0 ∧ e.2.begun = true) →
         exec (.mdrnCompletion pid cmd.id) s = .next s))) ∧
  ((∀ (m : MatrixCmd) (w : Nat) (t : Tile) (fs : List ProductFault),
     let mine := fs.filter fun f => f.word = w && f.row < 32 && f.col < 32
     let wrong (l : List ProductFault) : Prop := ¬((l.map (·.delta)).sum % 255 = 0 ∧ (l.map (·.delta)).sum % 256 = 0 ∧
       (l.map (·.delta)).sum % 257 = 0)
     (mine = [] → ∃ u f, m.step w t fs = some (u, f) ∧ u.kind = m.path ∧
       u.count = t.count + (if m.residue then m.k else 0) ∧ u.capt = true ∧ u.owner = t.owner ∧ u.poison = t.poison ∧
       u.corrp = t.corrp ∧ u.rsc = (if t.capt then t.rsc else m.rowScales w) ∧
       u.csc = (if t.capt then t.csc else m.colScales w) ∧
       let old (i j : Nat) : Word := if t.kind = .empty then (if m.residue then 0x01000000 else 0)
         else KMap.get t.elem 0 (32 * i + j)
       let new (i j : Nat) : Word × Flags := m.element (old i j) (products (m.aRow w i) (m.bCol w j) (m.positions w i)) 0
       (∀ i j, i < 32 → j < 32 → KMap.get u.elem 0 (32 * i + j) = (new i j).1) ∧
       f = allFlags ((List.range 32).flatMap fun i => (List.range 32).map fun j => new i j)) ∧
     (∀ i j, mine ≠ [] → (∀ f ∈ mine, f.row = i ∧ f.col = j) → wrong mine → ∀ u f, m.step w t [] = some (u, f) →
       m.step w t fs = some ({ u with corrp := t.corrp + 1 }, f)) ∧
     (∀ f g, mine = [f, g] → f.row ≠ g.row ∨ f.col ≠ g.col → wrong [f] → wrong [g] → m.step w t fs = none)) ∧
   (∀ (m : MatrixCmd) (old : Word) (ps : List FVal),
     (m.residue = true → (m.element old ps 0).2 = 0 ∧ (tripleInt (wordTriple (m.element old ps 0).1) -
       (tripleInt (wordTriple old) + (ps.map FVal.int).sum)) % 16776960 = 0) ∧
     (m.residue = false → m.element old ps 0 = (let r := sumAcc (Fmt.decode .fp32 old.toNat :: ps)
       (BitVec.ofNat 32 r.1, r.2)))))

/-! ### Traps, waits and the commit engine -/

/-- R56, R57, R58, R163, R191: a trap stops its CP at the given pc with a record of the cause, DETAIL, ADDR, TCOUNT and
TFIRST, ends its hold, and changes nothing else; TRAP stops its CP past itself with cause 0x20 and its literal. The
handler resumes a trapped CP with its state as stopped, or ends its pool, whose task then completes with status
0x01; neither for a recipe slice. The model's choices: where a TRAP resumes (log 19) and what a termination does to
the journal (log 26). -/
def Obligations.TrapsAndHandler : Prop :=
  (∀ (s : State) (pid cid : Nat) (p : Pool) (x : Cp) (pc : DWord) (cause : Byte) (tmask : Mask) (detail : Word)
    (addr : DWord), s.pool? pid = some p → p.cp? cid = some x →
    CpBecomes s (s.takeTrap pid cid pc cause tmask detail addr) pid cid
      (trapped x p.threads cid pc cause tmask detail addr)) ∧
  (∀ (p : Option Prefix) (b : Byte) (c : Ctx) (s : State), Issues (.trap p b) c s →
    ∃ t, exec (.trap p b) s = .next t ∧ CpBecomes s t c.pid c.cid
      ((trapped c.cp c.pool.threads c.cid c.cp.pc 0x20 0 (b.zeroExtend 32) 0).beyond (Instr.trap p b).words)) ∧
  (∀ (s : State) (pid cid : Nat) (p : Pool) (x : Cp), s.viral = none → s.pool? pid = some p → p.cp? cid = some x →
    x.status = .trapped →
    (p.rslice = false → ∃ t, exec (.trapHandlerResume pid cid) s = .next t ∧
      CpBecomes s t pid cid { x with status := .running, trap := none }) ∧
    (p.rslice = true → exec (.trapHandlerResume pid cid) s = .next s ∧ exec (.poolTerminate pid) s = .next s) ∧
    (p.rslice = false → (∀ e ∈ s.pools, pid ∉ e.2.deps) →
      ∃ t, exec (.poolTerminate pid) s = .next t ∧ t.pool? pid = none ∧ OtherPools pid s t ∧ SameMemory s t ∧
        Over s t (failed p.task 0x01) pid ∧
        t.journal = s.journal.filter fun e => e.pool != pid || e.record.isSome))

/-- R46, R47, R158, R160, R212, R296: GONG_WAKE and WATCH_REREAD let a CP past its GWAIT or WATCH once the phase has
turned or the word differs, and leave it there till then; HOLD_TIMEOUT traps a CP whose hold has been open for more
than 4,096 clocks, also while it waits for a commit, NOPRE_BUDGET one whose NOPRE interval has for more than 65,536:
at its pc, or at its parked load, which is abandoned; in a SYSC or a YIELD it stops at that instruction's pc and
waits on in it once it is resumed (log 18). -/
def Obligations.WaitsEnd : Prop :=
  (∀ (s : State) (c : Ctx) (o words : Nat) (ph : Bool) (q : Pool) (w exp phase pend arr : Nat),
    s.canIssue c.pid c.cid = true → s.ctxOf c.pid c.cid = some c → c.cp.stand = .gong o ph words →
    (s.touchSpad c.pid o 8).pool? c.pid = some q → q.cp? c.cid = some c.cp → w = q.spadRead o 8 →
    GongIs w exp phase pend arr →
    (phase ≠ (if ph = true then 1 else 0) → (∀ r ∈ (s.touchSpad c.pid o 8).records, c.pid ∉ r.pools) →
      ∃ t, exec (.gongWake c.pid c.cid) s = .next t ∧
        CpBecomes (s.touchSpad c.pid o 8) t c.pid c.cid (c.cp.beyond words)) ∧
    (phase = (if ph = true then 1 else 0) ∨ (∃ r ∈ (s.touchSpad c.pid o 8).records, c.pid ∈ r.pools) →
      exec (.gongWake c.pid c.cid) s = .next (s.touchSpad c.pid o 8))) ∧
  (∀ (s s1 s2 : State) (c : Ctx) (addr words pa : Nat) (val : DWord) (ord scope : Nat) (r : ReadResult) (q : Pool),
    s.canIssue c.pid c.cid = true → s.ctxOf c.pid c.cid = some c → c.cp.stand = .watch addr val ord scope words →
    c.checkAll s [(0, (addr : Int))] 8 .load false = .ok [pa] s1 →
    (ord = 1 → 3 ≤ scope → s1.droppedAt c.asid addr = none) → c.pool.ownWrite c.cid none pa 8 = none →
    s1.pendingReds c.core pa 8 = [] → s1.lineHeld (pa / 64) = false →
    s1.readFor c.pid c.core c.asid pa 8 (decide (ord = 1 ∧ 3 ≤ scope)) = (r, s2) →
    let s3 : State := s2.readAgain c.pid c.cid pa 8
    let under : Prop := ord = 1 ∧ 2 ≤ scope ∧ r.recs ≠ []
    s3.pool? c.pid = some q → q.cp? c.cid = some c.cp → r.bytes.length = 8 →
    (ofBytes r.bytes ≠ val.toNat → ¬under → ∃ t, exec (.watchReread c.pid c.cid) s = .next t ∧
      CpBecomes (if ord = 1 ∧ 3 ≤ scope then s3.invalidate c.pool.cluster else s3) t c.pid c.cid (c.cp.beyond words)) ∧
    (ofBytes r.bytes ≠ val.toNat → under → exec (.watchReread c.pid c.cid) s = .next s2) ∧
    (ofBytes r.bytes = val.toNat →
      exec (.watchReread c.pid c.cid) s = .next (s2.addWatch c.core (lineOf pa)))) ∧
  (∀ (s : State) (pid cid : Nat) (p : Pool) (x : Cp), s.viral = none → s.pool? pid = some p → p.cp? cid = some x →
    x.status = .running →
    (x.holdLeft ≠ 0 → 4096 < s.now - x.holdSince →
      exec (.holdTimeout pid cid) s = .next (s.takeTrap pid cid x.pc 0x05 0 0 0)) ∧
    (x.holdLeft = 0 ∨ s.now - x.holdSince ≤ 4096 → exec (.holdTimeout pid cid) s = .next s) ∧
    (∀ n, x.nopre = some n →
      (s.now - n ≤ 65536 → exec (.nopreBudget pid cid) s = .next s) ∧
      (65536 < s.now - n →
        (∀ pc, x.stand = .yielded pc ∨ (∃ o, x.stand = .sysc o pc) → ∃ t, exec (.nopreBudget pid cid) s = .next t ∧
          CpBecomes s t pid cid { trapped x p.threads cid pc 0x06 0 0 0 with pc := x.pc, stand := x.stand }) ∧
        (∀ o pc cl, x.stand = .load o pc cl → pc ≠ x.pc → ∃ t q, exec (.nopreBudget pid cid) s = .next t ∧ OnlyPool pid s t ∧
          t.pool? pid = some q ∧ q.ops = p.ops.filter (fun y => y.id != o) ∧
          q.cp? cid = some { trapped x p.threads cid pc 0x06 0 0 0 with clause := cl }) ∧
        ((∀ o pc, x.stand ≠ .sysc o pc) → (∀ pc, x.stand ≠ .yielded pc) →
          (∀ o pc cl, x.stand = .load o pc cl → pc = x.pc) →
          exec (.nopreBudget pid cid) s = .next (s.takeTrap pid cid x.pc 0x06 0 0 0)))))

/-- R276, R282, R287, R288, R290, R293, R297 to R299, R301: a record is accepted, with its place in the order of
acceptance, once its cores' earlier records and those it depends on are, and an `.sc` one when it goes first; it
marks its RESTART pools, in place or not, where it must. One with a bad check code is sent again. A slice applies
the record next in that order to it. With the last of them the record takes effect, for all its bytes at once,
unless a tile it writes has still to be made again: its entries, its launches, then its atomics. Devices acknowledge
its writes, once, and a line of CXL memory that it wrote equals the CXL copy from then on, where no other write of
it is unacknowledged (R294). What is complete completes.

R287, R288: SC_CLOCK_REPORT: a live core reports its clock and raises it to the largest timestamp held;
SC_ACCESS_PERFORM: a held load is performed once every live core has reported its timestamp and it goes first, and
reads its memory. The model's readings (DEDUCED): the order of arrival, when a record takes effect, launches after
entries, and a bad record that is sent again (log 22); .sc at .cl (log 50). -/
def Obligations.CommitEngine : Prop :=
  ((∀ (s : State) (id : Nat), exec (.commitRecordAccept id false) s = .next s) ∧
   (∀ (s : State) (r : Record), r.stamp = none → (s.mayArrive r = true ↔ ∀ q ∈ s.records, q.accepted = false →
     ¬(q.id < r.id ∧ ∃ k ∈ q.cores, k ∈ r.cores) ∧ q.id ∉ r.after)) ∧
   (∀ (s : State) (id : Nat) (r : Record), s.viral = none → s.recordOf id = some r → r.accepted = false →
     (s.mayArrive r = false → exec (.commitRecordAccept id true) s = .next s) ∧
     (s.mayArrive r = true → ∃ u : State, exec (.commitRecordAccept id true) s = .next u.finishRecords ∧
       u.nextId = s.nextId + 1 ∧
       u.records = s.records.map (fun x => if x.id = id then { x with accepted := true, seq := s.nextId } else x) ∧
       (let marked (q : Nat) (p : Pool) : Pool :=
         if q ∈ r.pools ∧ r.marks = true ∧ p.durable = false ∧ p.rslice = false then
           { p with task := { p.task with nonReplay := true } } else p
        (∀ q, u.pool? q = (s.pool? q).map (marked q)) ∧
        u.out = s.out.map fun o => { o with pool := marked o.id o.pool }) ∧
       { u with records := s.records, pools := s.pools, nextId := s.nextId, out := s.out } = s)) ∧
   (∀ (s : State) (id slice : Nat) (r : Record), s.viral = none → s.recordOf id = some r →
     (s.mayApply r slice = false → exec (.commitRecordApply id slice) s = .next s.finishRecords) ∧
     (s.mayApply r slice = true →
       let left := r.left.filter fun h => h != slice
       (left ≠ [] → exec (.commitRecordApply id slice) s = .next (State.finishRecords { s with
         records := s.records.map fun x => if x.id = id then { x with left := left } else x })) ∧
       (left = [] →
         (∀ s1, s.tileWrites (s.recordWrites r) = (false, s1) →
           exec (.commitRecordApply id slice) s = .next s1.finishRecords) ∧
         (∀ s1, s.tileWrites (s.recordWrites r) = (true, s1) →
           let here := r.entries.filter fun e => decide (e.pa < Config.cxlEnd)
           let a := s1.applyEntries r here r.raised
           let l := a.1.applyLaunches r.clock here
           let b := l.1.applyAtoms r r.atoms
           ∃ u : State, exec (.commitRecordApply id slice) s = .next u.finishRecords ∧
             u.records = b.1.records.map (fun x => if x.id = id then { x with
               left := [], raised := a.2, atoms := b.2, after := (x.after ++ s1.readBefore r).dedup, device := l.2
               sys := x.sys || (x.drain && !l.2.isEmpty) } else x) ∧
             { u with records := b.1.records } = b.1)))) ∧
   (∀ (s : State) (id : Nat), s.viral = none →
     (∀ r, s.recordOf id = some r → r.accepted = true → r.left = [] → r.acked = false →
       ∃ u : State, exec (.deviceWriteAcknowledge id) s = .next (u.cleanLines r.cxlLines).finishRecords ∧
         u.records = s.records.map (fun x => if x.id = id then { x with sys := false, acked := true } else x) ∧
         { u with records := s.records } = s) ∧
     ((∀ r ∈ s.records, r.id = id → r.acked = true) → ∀ e, KMap.find? s.unacked id = some e →
       exec (.deviceWriteAcknowledge id) s =
         .next (({ s with unacked := KMap.del s.unacked id } : State).cleanLines e.2).finishRecords) ∧
     ((∀ r ∈ s.records, r.id = id → r.acked = true) → KMap.find? s.unacked id = none →
       exec (.deviceWriteAcknowledge id) s = .next s)) ∧
   (∀ (s : State) (l : List Nat),
     let u := s.cleanLines l
     { u with llc := s.llc } = s ∧ ∀ k, KMap.find? u.llc k = (KMap.find? s.llc k).map fun x =>
       if k ∈ l ∧ (∀ r ∈ s.records, r.accepted = true → r.left = [] → r.acked = false → k ∉ r.cxlLines) ∧
         (∀ e ∈ s.unacked, k ∉ e.2.2) then { x with state := .clean } else x)) ∧
  ((∀ (s : State) (core : Nat), s.viral = none → core < 256 → s.coreLive core = true →
     ∃ t, exec (.scClockReport core) s = .next t ∧ { t with scReport := s.scReport, scClock := s.scClock } = s ∧
       KMap.get t.scReport 0 core = KMap.get s.scClock 0 core ∧
       KMap.get t.scClock 0 core = max (KMap.get s.scClock 0 core) s.heldMax ∧
       (∀ k, k ≠ core → KMap.get t.scReport 0 k = KMap.get s.scReport 0 k ∧
         KMap.get t.scClock 0 k = KMap.get s.scClock 0 k)) ∧
   (∀ (s : State) (idx : Nat) (h : Held) (p : Pool) (o : Op) (y : Cp), s.viral = none → s.held[idx]? = some h →
     s.pool? h.pool = some p → p.ops.find? (fun x => x.id = h.op) = some o → p.cp? o.cp = some y → y.wait = none →
     let s1 : State := { s with held := s.held.eraseIdx idx }
     (s.reported h.stamp = false → exec (.scAccessPerform idx) s = .next s) ∧
     (s.reported h.stamp = true → s1.firstStamp (h.stamp, h.core) (o.lanes.map fun l => homeSlice l.pa) [] = true →
       s.redLanes p o = [] → s.tileGone p o = none →
       exec (.scAccessPerform idx) s = .next (s1.sampleOp h.pool h.op false))))

/-- R190, R258, R260, R261, R298: at its slice a store's bytes are committed; a reduction's word and an atomic's become
the operation's result of the old value, which is 0 in a poisoned granule, and the atomic returns it. Other bytes
stay as they are, where the line was last written under the key of the entry's tenant (R356). The model's choices:
an atomic on a poisoned granule (log 14). -/
def Obligations.EntriesApplied : Prop :=
  ∀ (s : State) (r : Record),
    let own (asid pa : Nat) : Prop := s.keyMatches (r.asid.map fun _ => s.keyFor asid) (pa / 64) = true
    let size (ty : Nat) : Nat := if ty = 4 ∨ ty = 8 then 8 else 4
    let old (pa z : Nat) : Nat := if s.poisonedLine (pa / 64) = true then 0 else ofBytes (Memory.readBytes s.mem pa z)
    let writes (t : State) (pa : Nat) (bs : List Byte) : Prop := ∀ a, Memory.read t.mem a =
      if pa ≤ a ∧ a < pa + bs.length then bs.getD (a - pa) 0 else Memory.read s.mem a
    (∀ (e : Entry) (bs : List Byte), e.kind = .store bs → own e.asid e.pa → bs.length ≤ 64 - e.pa % 64 →
      writes (s.applyEntry r e).1 e.pa bs ∧ (s.applyEntry r e).2 = 0) ∧
    (∀ (e : Entry) (op ty rm : Nat) (sat : Bool) (y : DWord), e.kind = .red op ty rm sat y → own e.asid e.pa →
      e.pa % size ty = 0 →
      let x := atomicElem op ty (RMode.ofCode rm) sat (old e.pa (size ty)) y.toNat 0
      writes (s.applyEntry r e).1 e.pa (toBytes x.1 (size ty)) ∧ (s.applyEntry r e).2 = x.2) ∧
    (∀ b : Atom, own b.asid b.pa → b.pa % size b.ty = 0 →
      let x := atomicElem b.aop b.ty (RMode.ofCode b.rm) b.sat (old b.pa (size b.ty)) b.y.toNat b.x.toNat
      writes (s.applyAtom r b).1 b.pa (toBytes x.1 (size b.ty)) ∧ (s.applyAtom r b).2 =
        { b with result := some (BitVec.ofNat 64 (old b.pa (size b.ty)), x.2, s.poisonedLine (b.pa / 64)) })

/-! ### Tasks and queues -/

/-- R315, R317, R320, R335, R336: a signal whose task's records are applied decrements COUNT of its block, keeps a
failure in bit 31 of its flags, and at 0 makes the successor a head of the queue, or over with status 0x08 where it
aborts; a block whose count is 0 already, that is misaligned or that cannot be written is logged; the first is not
written, so a tile that holds it stays as it is. Until then the signal waits, at a page that can come back for its
fault.

R321: a finished task whose records are applied and whose signal is gone counts one more in DONE of its queue's
header, and a failed one in ERRS, with its status and its ring index; it no longer runs. Until then it waits, also
for a dropped tile that holds the header, which it requests (R335, log 44). The model's choices: the order of a
signal and a completion (log 24) and the clock they carry (log 50). -/
def Obligations.SignalsAndCompletions : Prop :=
  ((∀ (s : State) (idx : Nat) (g : Signal), s.viral = none → s.signals[idx]? = some g →
     let block := g.task.record.succb.toNat
     let asid := g.task.asid
     let gone : State := { s with signals := s.signals.eraseIdx idx }
     let lost := (gone.logEvent (.signalLost block)).failTask g.pool 0x09
     ((∃ r ∈ s.records, g.pool ∈ r.pools) ∨ (∃ k, g.park = some k ∧ (asid, k) ∈ s.faults) →
       exec (.successorSignal idx) s = .next s) ∧
     ((∀ r ∈ s.records, g.pool ∉ r.pools) → (∀ k, g.park = some k → (asid, k) ∉ s.faults) →
       (block % 16 ≠ 0 → exec (.successorSignal idx) s = .next lost) ∧
       (block % 16 = 0 →
         (∀ e, e ≠ .recoverable → s.outsideTranslate asid block true = .error e →
           exec (.successorSignal idx) s = .next lost) ∧
         (s.outsideTranslate asid block true = .error .recoverable → exec (.successorSignal idx) s = .next
           { s.raiseFault asid block with signals := s.signals.set idx { g with park := some (block / 4096) } }) ∧
         (∀ pa, s.outsideTranslate asid block true = .ok pa →
           (s.sliceClear pa = false → exec (.successorSignal idx) s = .next s) ∧
           (s.sliceClear pa = true → s.recipeAt asid block = none →
             let count := s.word32 asid pa
             let flags := if g.status = 0 then s.word32 asid (pa + 4) else s.word32 asid (pa + 4) ||| 2 ^ 31
             let next := s.word32 asid (pa + 8) + 2 ^ 32 * s.word32 asid (pa + 12)
             let u0 := gone.touchOutside asid block true
             let u := u0.systemCommit asid pa (toBytes (count - 1) 4 ++ toBytes flags 4) g.task.clock
             (count = 0 → exec (.successorSignal idx) s = .next (u0.logEvent (.signalEmpty block))) ∧
             (2 ≤ count ∨ (count = 1 ∧ next = 0) → exec (.successorSignal idx) s = .next u) ∧
             (count = 1 → next ≠ 0 → exec (.successorSignal idx) s = .next
               (u.successor g.task next (flags.testBit 0 && flags.testBit 31)))) ∧
           (s.sliceClear pa = true → s.droppedAt asid block = none → s.word32 asid pa = 0 →
             exec (.successorSignal idx) s =
               .next ((gone.touchOutside asid block true).logEvent (.signalEmpty block))) ∧
           (s.sliceClear pa = true → ∀ r, s.recipeAt asid block = some r → r.state = .dropped →
             exec (.successorSignal idx) s = .next (s.requestTile r.id)))))) ∧
   (∀ (s : State) (t : Task) (next q : Nat) (x : Queue) (bs : List Byte), s.outsideRead t.asid next 64 = some bs →
     t.queue = some q → KMap.find? s.queues q = some x →
     let task : Task := { Task.ofRecord (TaskRec.ofBytes bs) t.asid t.queue none with clock := t.clock }
     (∃ u : State, s.successor t next false = u.wakeQueue q ∧ { u with queues := s.queues } = s ∧
       (∃ y : Queue, KMap.find? u.queues q = some y ∧ y.heads = x.heads ++ [task] ∧
         (x.heads = [] → y.headSince = s.time ∧ y.before = x.running)) ∧
       ∀ j, j ≠ q → KMap.find? u.queues j = KMap.find? s.queues j) ∧
     Over s (s.successor t next true) { task with status := 0x08 } s.nextId)) ∧
  (∀ (s : State) (idx : Nat) (c : Completion), s.viral = none → s.completions[idx]? = some c →
     ((∃ r ∈ s.records, c.pool ∈ r.pools) ∨ (∃ g ∈ s.signals, g.pool = c.pool) →
       exec (.taskCompletion idx) s = .next s) ∧
     ((∀ r ∈ s.records, c.pool ∉ r.pools) → (∀ g ∈ s.signals, g.pool ≠ c.pool) →
       (c.task.queue = none →
         exec (.taskCompletion idx) s = .next { s with completions := s.completions.eraseIdx idx }) ∧
       (∀ q x pa, c.task.queue = some q → KMap.find? s.queues q = some x → s.headerPa x = some pa →
         (s.sliceClear pa = false → exec (.taskCompletion idx) s = .next s) ∧
         (s.sliceClear pa = true → ∀ r, s.recipeAt x.asid x.header = some r → r.state = .dropped →
           exec (.taskCompletion idx) s = .next (s.requestTile r.id)) ∧
         (s.sliceClear pa = true → s.recipeAt x.asid x.header = none →
           ∃ u, exec (.taskCompletion idx) s = .next (u.dropUnbound q) ∧ ∃ v : State,
           { v with queues := s.queues, completions := s.completions } = s ∧
           v.completions = s.completions.eraseIdx idx ∧
           KMap.find? v.queues q = some { x with
             running := x.running.filter (fun n => n != c.pool), before := x.before.filter (fun n => n != c.pool) } ∧
           u = (v.touchOutside x.asid x.header true).systemCommit x.asid (pa + 8)
             (if c.task.status = 0 then toBytes (s.word32 x.asid (pa + 8) + 1) 4
              else toBytes (s.word32 x.asid (pa + 8) + 1) 4 ++ toBytes (s.word32 x.asid (pa + 12) + 1) 4 ++
                (toBytes (s.word32 x.asid (pa + 16)) 4).take 2 ++ [c.task.status] ++
                (toBytes (s.word32 x.asid (pa + 16)) 4).drop 3 ++ toBytes (c.task.ring.getD 0xFFFFFFFF) 4)
             c.task.clock))))

/-- R162, R299, R341 to R343, R352: SYSC_SERVICE_DONE does the services of the responders one after the other and gives
each its result in v_d and v_d+1, ends the operation and acquires for the pool's cluster; it waits while the commit
of the SYSC, a peer request of it or another CP's granted hold is open, while a tile it reads is down (R337) or a
line of it held, and while a record stands at a slice it writes. The results stand in the pool's last image, and in
those that records of it carry, too.

R341, R342, R352: what a service answers: −1 where it is unknown, −9 for a wrong number of arguments or open flags;
an error that holds, the one that Unquel names where it names one of these; and else its own result: a free handle,
the length it moved, the time in nanoseconds, 3,840 or 0. The errors: −2 for a handle that is not open or of the
other kind, −7 above 16 MiB or with every handle open, −3 for a buffer out of reach, −5 for no such peer, −6 for a
fenced link. Which of several errors is answered is the model's choice (log 43). -/
def Obligations.ServicesDone : Prop :=
  ((∀ (s : State) (pid : Nat) (p : Pool) (o : Op) (y : Cp) (results : List DWord) (data : List (List Byte)),
     s.viral = none → s.pool? pid = some p → p.ops.find? (fun x => x.id = o.id && x.kind == .sysc) = some o →
     p.cp? o.cp = some y →
     (y.wait.isSome = true ∨ s.peerSent o = false ∨ (∃ e ∈ p.cps, e.1 ≠ o.cp ∧ e.2.holdLeft ≠ 0 ∧ e.2.begun = true) ∨
         results.length ≠ o.lanes.length →
       exec (.syscServiceDone pid o.id results data) s = .next s) ∧
     (y.wait = none → s.peerSent o = true → (∀ e ∈ p.cps, e.1 ≠ o.cp → e.2.holdLeft = 0 ∨ e.2.begun = false) →
       results.length = o.lanes.length → o.args.length = o.lanes.length → o.dest < 255 → o.wide = true →
       (o.lanes.map (·.tid)).Nodup →
       let asid := p.task.asid
       let jobs := (o.args.zip results).zipIdx.map fun x => (x.1.1, x.1.2, data.getD x.2 [])
       let ws := s.serveTargets asid o.id o.aop jobs
       let x := s.serve asid o.id o.aop jobs
       let reads := o.args.flatMap (s.serviceReads asid o.aop)
       (∀ s1, s.allReady asid reads = (false, s1) → exec (.syscServiceDone pid o.id results data) s = .next s1) ∧
       (s.allReady asid reads = (true, s) → (∀ w ∈ ws, s.recipeAt asid w.1 = none) →
       ((∃ w ∈ ws, s.sliceClear w.2.1 = false) → exec (.syscServiceDone pid o.id results data) s = .next s) ∧
       (∀ p1, (∀ w ∈ ws, s.sliceClear w.2.1 = true) → x.2.pool? pid = some p1 →
         ∃ u q, exec (.syscServiceDone pid o.id results data) s = .next (u.invalidate p1.cluster) ∧
           OnlyPool pid { x.2 with
             peerOps := x.2.peerOps.filter (· != o.id), peerCut := x.2.peerCut.filter (·.1 != o.id)
             records := x.2.records.map fun r => { r with images := r.images.map fun e =>
               if e.1 = pid then (pid, p1.imageDone o x.1 e.2) else e } } u ∧ q.image = p1.image.map (p1.imageDone o x.1) ∧
           u.pool? pid = some q ∧ q.ops = p1.ops.filter (fun x => x.id != o.id) ∧ q.cps = p1.cps ∧
           Delivered true o.dest ((o.lanes.map (·.tid)).zip x.1) (Mask.tids o.zero p1.threads) p1 q)))) ∧
   (∀ (p : Pool) (o : Op) (vals : List DWord) (i : Image), vals.length = o.lanes.length → o.dest < 255 → o.wide = true →
     (o.lanes.map (·.tid)).Nodup →
     let j := p.imageDone o vals i
     { j with ops := i.ops, regs := i.regs } = i ∧ j.ops = i.ops.filter (fun x => x.id != o.id) ∧
     Delivered true o.dest ((o.lanes.map (·.tid)).zip vals) [] { p with regs := i.regs } { p with regs := j.regs }) ∧
   (∀ (s : State) (asid op service : Nat) (args : List Word) (r : DWord) (data : List Byte)
       (rest : List (List Word × DWord × List Byte)),
     let v := s.serviceResult asid op service args r data
     let ws := s.unquelWrites asid (s.serviceWrites asid service args data)
     let u := (s.serviceHandles asid service args v).touchWrites asid ws
     let next := if v.toInt < 0 then s else if ws = [] then u else u.outsideCommit (some asid) ws
     s.serve asid op service ((args, r, data) :: rest) =
       (v :: (next.serve asid op service rest).1, (next.serve asid op service rest).2))) ∧
  (∀ (s : State) (asid op service : Nat) (args : List Word) (r : DWord) (data : List Byte),
     let v := s.serviceResult asid op service args r data
     let E := s.serviceErrors asid op service args
     let n := serviceLength service args
     let tenant := (s.tenant asid).getD 0
     let h := (args.getD 0 0).toNat
     (serviceArgs service = none → v = -1) ∧
     (∀ k, serviceArgs service = some k → args.length ≠ k → v = -9) ∧
     (service = 1 → args.length = 3 → 8 ≤ (args.getD 2 0).toNat → v = -9) ∧
     (∀ k, serviceArgs service = some k → args.length = k → (service = 1 → (args.getD 2 0).toNat < 8) →
       (E ≠ [] → v ∈ E ∧ (r ∈ E → v = r)) ∧
       (E = [] → r.toInt < 0 → v.toInt ∈ [-8, -6, -5, -4] ∧ (r.toInt ∈ [-8, -6, -5, -4] → v = r)) ∧
       (E = [] → 0 ≤ r.toInt →
         (service ∈ [0x01, 0x10] → v.toNat < 4096 ∧ s.handleKind tenant v.toNat = none) ∧
         (service ∈ [0x03, 0x12, 0x31] → v.toNat = min n data.length) ∧
         (service ∈ [0x04, 0x11, 0x30] → v.toNat = min r.toNat n) ∧
         (service = 0x20 → v = BitVec.ofNat 64 (s.time * 1000 / Config.ticksPerMicro)) ∧
         (service = 0x40 → v = 3840) ∧ (service = 0x02 → v = 0))) ∧
     (service = 0x02 → ((-2 : DWord) ∈ E ↔ s.handleKind tenant h = none)) ∧
     (service ∈ [0x03, 0x04] → ((-2 : DWord) ∈ E ↔ s.handleKind tenant h ≠ some 0)) ∧
     (service ∈ [0x11, 0x12] → ((-2 : DWord) ∈ E ↔ s.handleKind tenant h ≠ some 1)) ∧
     (service ∈ [0x01, 0x10] → (∀ j, j < 4096 → s.handleKind tenant j ≠ none) → (-7 : DWord) ∈ E) ∧
     (2 ^ 24 < n → (-7 : DWord) ∈ E) ∧
     (∀ a m rd wr, serviceBuffer service args = some (a, m, rd, wr) → n ≤ 2 ^ 24 → ((-3 : DWord) ∈ E ↔
       (rd = true ∧ s.accessible asid a m false = false) ∨ (wr = true ∧ s.accessible asid a m true = false))) ∧
     (service ∈ [0x30, 0x31] → ((-5 : DWord) ∈ E ↔ 8 ≤ h) ∧
       ((-6 : DWord) ∈ E ↔ h < 8 ∧ ((s.link h).fenced = true ∨ (op, h) ∈ s.peerCut))))

/-- R33, R50, R174, R310 to R312, R316 to R319: TASK_DISPATCH takes the first candidate that fits, a head: a bad record
or a shape that fits nowhere completes with its status; else a new pool of the record's shape stands at the place,
its CP 0 at the entry with the argument, its registers 0 but for a packed pool's items. READ advances for a ring
record. Within 1/64 µs of the dispatch before, while a record stands at the header's slice, and while a tile that
holds the header is down (R335, log 44), nothing is placed. A packed pool whose entry-table address is misaligned
has a bad record (log 21). The model's choices: a scratchpad reads 0 at its placement (log 5) and the dispatcher's
order (log 35). -/
def Obligations.TasksDispatched : Prop :=
  (∀ (s : State) (at_ : Placement) (q : Nat) (x : Queue) (t t' : Task) (ring : Bool), Running s →
    let s1 := s.noteReady
    let s2 := s1.keepDies s1.first
    let s3 : State := { s2 with nextId := s.nextId + 1 }
    s1.first.cand = some (.head q) → KMap.find? s2.queues q = some x → s2.ready q x = some t →
    s2.front x = some (t', ring) →
    (s.time < s.dispatchAt ∨ (∃ pa, ring = true ∧ s2.headerPa x = some pa ∧ s2.sliceClear pa = false) →
      exec (.taskDispatch at_) s = .next s2) ∧
    (s.dispatchAt ≤ s.time → (∀ pa, ring = true → s2.headerPa x = some pa → s2.sliceClear pa = true) →
      (∀ code, s3.badTask t = some code →
        ((ring = true → s3.headerWrite x = (true, s3)) → exec (.taskDispatch at_) s =
          .next ((s3.takeHead q s.nextId ring).taskOver { t with status := code } s.nextId)) ∧
        (∀ v, ring = true → s3.headerWrite x = (false, v) → exec (.taskDispatch at_) s = .next v)) ∧
      (s3.badTask t = none → s3.fits t.need at_ = true →
        s3.candAllows s1.first.blocked (.head q) (placedCluster at_) = true → ∀ room u, s3.makeRoom at_ = (room, u) →
        ((ring = true → u.headerWrite x = (true, u)) → exec (.taskDispatch at_) s = .next (if room = true then
          ((u.takeHead q s.nextId ring).markSpawners t.spawners).putPool s.nextId (t.newPool t.need) at_ else u)) ∧
        (∀ v, room = true → ring = true → u.headerWrite x = (false, v) → exec (.taskDispatch at_) s = .next v)))) ∧
  (∀ (s : State) (t : Task),
    let r := t.record
    let nowhere : Prop := shapeOk r.shape = true ∧ s.fitsEmpty t.need = false
    let bad : Prop := r.coord.toNat / 2 ^ 49 ≠ 0 ∨ r.aff.toNat % 2 ^ 32 / 4 ≠ 0 ∨ r.aff.toNat % 4 = 3 ∨
      shapeOk r.shape = false ∨ shapeSlice r.shape = true ∨ r.entry.toNat % 4 ≠ 0 ∨ r.succb.toNat % 16 ≠ 0
    (nowhere → s.badTask t = some 0x06) ∧ (¬nowhere → bad → s.badTask t = some 0x05) ∧
    (¬nowhere → ¬bad → s.badTask t = none)) ∧
  (∀ (s : State) (at_ : Placement), Running s → (∀ q, s.noteReady.first.cand ≠ some (.head q)) →
    exec (.taskDispatch at_) s = .next (s.noteReady.keepDies s.noteReady.first)) ∧
  (∀ (s : State) (pid : Nat) (t : Task) (at_ : Placement),
    ∃ p x, (s.putPool pid (t.newPool t.need) at_).pool? pid = some p ∧ p.parts = at_.parts ∧ p.task = t ∧
      p.threads = (if t.packed = true then t.items.length else t.record.shape.toNat % 65536) ∧
      p.allot = 8 * (t.record.shape.toNat / 65536 % 256) ∧ p.spadSize = 4096 * (t.record.shape.toNat / 2 ^ 24 % 65536) ∧
      p.cpsMax = t.record.shape.toNat / 2 ^ 40 % 16 ∧ p.group = 16 * 2 ^ (t.record.shape.toNat / 2 ^ 44 % 4) ∧
      p.placed = s.overwritten.length ∧ p.cps = [(0, x)] ∧ Fresh x p.threads (t.record.entry >>> 2) (if t.packed = true then 0 else t.record.arg) ∧
      x.skew = t.record.entry.toNat % 4 ∧
      p.spad = [] ∧ p.tiles = [] ∧ p.ops = [] ∧ p.cmds = [] ∧ p.started = 0 ∧
      (∀ u n, n < 256 → p.reg u n = (t.items[u]?.map fun e => if n = 0 then e.1 else if n = 1 then e.2.1
        else if n = 2 then e.2.2 else 0).getD 0) ∧
      OtherPools pid s (s.putPool pid (t.newPool t.need) at_) ∧ SameMemory s (s.putPool pid (t.newPool t.need) at_))

/-- R183 to R187, R232, R233, R249, R303, R314: PREEMPTION of a pool that may go, one that stands at blocking points
with no hold and no NOPRE interval, commits it and saves it, its live registers among its state, a parked gather
with the indices of its issue, its tiles in the order of their owners, words and accumulators (R232); RESUME places
the first candidate that fits, a pool that waits: a pre-empted one with its state as saved, past YIELDs and to its
blocking instructions, a restarted one as at its start. A tile image with a COUNT above 256 or a word that is no
residue is poisoned, and reads 0 (log 54). A test for which every CP stood as a pool was pre-empted is to run (log
32). The model's choice: images are kept as data, not as bytes of memory (log 42). -/
def Obligations.PoolsLeaveAndReturn : Prop :=
  let badTile (t : Tile) : Prop := 256 < t.count ∨ (t.kind = .residue ∧ ∃ e ∈ t.elem, 2 ^ 25 ≤ e.2.toNat)
  (∀ (s : State) (pid : Nat) (p : Pool), Running s → s.pool? pid = some p →
    let s1 := s.noteReady.keepDies s.noteReady.first
    ((∃ e ∈ p.cps, e.2.holdLeft ≠ 0 ∨ e.2.nopre.isSome = true ∨ (e.2.status = .running ∧
        (e.2.wait.isSome = true ∨ e.2.stand = .no ∨ e.2.stand = .stall ∨ ∃ k, e.2.stand = .parkedFetch k))) ∨
        (∃ o ∈ p.ops, o.isParked = false ∧ o.kind ≠ .sysc) ∨ (∃ k ∈ p.cmds, k.park = none) →
      exec (.preemption pid) s = .next s1) ∧
    (s1.mayPreempt pid p = true → ∀ s2 q, s1.commitPool pid none {} (fun _ u => u) = some s2 → s2.pool? pid = some q →
      ∃ t saved, exec (.preemption pid) s = .next t ∧ t.pool? pid = none ∧
        t.out = s2.out ++ [⟨pid, saved, .preempted, none⟩] ∧
        { t with pools := s2.pools, out := s2.out, tests := s2.tests } = s2 ∧
        (∀ k, KMap.find? t.tests k = (KMap.find? s2.tests k).map fun x =>
          if x.due.isSome = true ∧ x.ready = true ∧ (∃ c ∈ q.parts, c / 24 = k) then { x with cleared := true } else x) ∧
        OtherPools pid s2 t ∧ saved.cps = q.cps ∧ saved.spad = q.spad ∧ saved.ops = q.ops.map Op.saved ∧
        (saved.tiles.Perm q.tiles ∧ saved.tiles.Pairwise fun a b => a.2.owner.getD 8 < b.2.owner.getD 8 ∨
          (a.2.owner.getD 8 = b.2.owner.getD 8 ∧ a.1 ≤ b.1)) ∧
        saved.cmds = q.cmds ∧ saved.parts = [] ∧
        ∀ u n, n < 256 → saved.reg u n = if n < q.allot ∧ s1.savedRegs p n = true then q.reg u n else 0)) ∧
  (∀ (t : Tile) (bad : List Bool), t.owner ≠ none → badTile t → t.reread bad = { t with poison := true, elem := [] }) ∧
  (∀ (s : State) (pid : Nat) (at_ : Placement) (o : OutPool), Running s →
    let s1 := s.noteReady
    let s2 := s1.keepDies s1.first
    s1.first.cand = some (.resume pid) → s2.out.find? (fun x => x.id = pid) = some o →
    s2.fits o.pool.need at_ = true → s2.candAllows s1.first.blocked (.resume pid) (placedCluster at_) = true →
    (∀ u, s2.makeRoom at_ = (false, u) → o.why ≠ .lost → (o.why = .preempted → s2.poison = []) →
      exec (.resume pid at_) s = .next u) ∧
    (∀ u, s2.makeRoom at_ = (true, u) →
      let v : State := { u with out := u.out.filter fun x => x.id != pid }
      (o.why = .restarted → exec (.resume pid at_) s = .next
        ((v.countReplay.putPool pid (o.pool.task.newPool o.pool.need) at_).reissueAll pid)) ∧
      (o.why = .preempted → (s2.poison = [] ∨ ∀ e ∈ o.pool.tiles, e.2.owner = none) →
        (∀ e ∈ o.pool.tiles, e.2.owner ≠ none → ¬badTile e.2) →
        ∃ p, exec (.resume pid at_) s = .next ((v.putPool pid p at_).reissueAll pid) ∧
          p.regs = o.pool.regs ∧ p.spad = o.pool.spad ∧ p.ops = o.pool.ops ∧
          ((o.pool.tiles.map (·.1)).Nodup → ∀ e, e ∈ p.tiles ↔ e ∈ o.pool.tiles) ∧
          p.cmds.map (·.id) = o.pool.cmds.map (·.id) ∧
          p.cps = o.pool.cps.map fun e => (e.1, { e.2 with stand := match e.2.stand with
            | .load .. | .sysc .. => e.2.stand
            | _ => .no })))) ∧
  (∀ (s : State) (pid : Nat) (at_ : Placement), Running s → s.noteReady.first.cand ≠ some (.resume pid) →
    exec (.resume pid at_) s = .next (s.noteReady.keepDies s.noteReady.first))

/-- R52, R310, R311, R313, R324: at a toll boundary a slot whose queue was empty for the whole interval is given up and
one of class 2 or 3 that has waited undispatched through it ages by one; at a quantum boundary slots dispatched in
or held through it are given up for waiting queues; waiting queues are then mapped. PACKING_TIMEOUT launches a
pending pool 2 µs after its first item. Before their time none of the three does anything. The model's choice: how
clocks pass (log 3). -/
def Obligations.QueueIntervals : Prop :=
  (∀ s : State, Running s →
    (s.time < s.tollAt + micros s.toll → exec .tollIntervalBoundary s = .next s) ∧
    (s.tollAt + micros s.toll ≤ s.time → ∃ u : State, exec .tollIntervalBoundary s = .next (u.mapWaiting u.waiting) ∧
      { u with queues := s.queues, tollAt := s.tollAt } = s ∧ u.tollAt = s.time ∧
      ∀ q x, KMap.find? s.queues q = some x →
        let full := s.queueFull x
        let aged (y : Slot) : Slot := { y with
          eff := if (y.eff = 2 ∨ y.eff = 3) ∧ y.nonEmpty = true ∧ full = true ∧ y.tollDispatched = false
            then y.eff - 1 else y.eff
          tollDispatched := false, nonEmpty := full, empty := !full }
        KMap.find? u.queues q = some { x with
          slot := x.slot.bind fun y => if y.empty = true ∧ full = false then none else some (aged y) }) ∧
    (s.time < s.quantumAt + micros (s.toll * s.quantum) → exec .quantumBoundary s = .next s) ∧
    (s.quantumAt + micros (s.toll * s.quantum) ≤ s.time → ∃ (u : State) (off : List Nat),
      exec .quantumBoundary s = .next (u.mapWaiting u.waiting) ∧
      off = (if s.slotsUsed < 512 then [] else s.unmappable.take (min 64 s.waiting.length)) ∧ u.quantumAt = s.time ∧
      { u with queues := s.queues, quantumAt := s.quantumAt, waiting := s.waiting } = s ∧
      (∀ q, q ∈ u.waiting ↔ q ∈ s.waiting ∨ (q ∈ off ∧ ∃ x, KMap.find? s.queues q = some x ∧ s.queueFull x = true)) ∧
      ∀ q x, KMap.find? s.queues q = some x → KMap.find? u.queues q = some { x with
        slot := if q ∈ off then none else x.slot.map fun y => { y with quantumDispatched := false } })) ∧
  (∀ (s : State) (core entry : Nat), s.viral = none →
    let due (p : Pending) : Prop := p.core = core ∧ p.entry = entry ∧ p.since + micros 2 ≤ s.time
    ((∀ p ∈ s.packing, ¬due p) → exec (.packingTimeout core entry) s = .next s) ∧
    (∀ l p r, s.packing = l ++ p :: r → (∀ x ∈ l, ¬due x) → due p →
      exec (.packingTimeout core entry) s = .next (({ s with packing := l ++ r } : State).launchPending p))) ∧
  (∀ (s : State) (p : Pending) (q : Nat) (x : Queue), p.queue = some q → KMap.find? s.queues q = some x →
    ∃ (u : State) (t : Task) (y : Queue), s.launchPending p = u.wakeQueue q ∧ { u with queues := s.queues } = s ∧
      KMap.find? u.queues q = some y ∧ y.heads = x.heads ++ [t] ∧ t.packed = true ∧ t.items = p.items ∧
      t.asid = p.asid ∧ t.spawners = p.spawners)


/-! ### Failures, regeneration, management and devices -/

/-- R179, R180, R188, R189: ROLLBACK of a pool that no other depends on restores the registers, scratchpad bytes and
tiles of its undo log and its CPs as of its checkpoint, without holds and NOPRE intervals, discards its journal
entries that no record carries, but for those of a command issued before the checkpoint, and leaves memory as it is;
a load or a gather that was parked at the checkpoint is parked as it was then. Its fourth in one interval fences its
home core first. The model's choice: what a rollback leaves outstanding (log 25). -/
def Obligations.RollbackRestores : Prop :=
  ∀ (s : State) (pid : Nat) (p : Pool), s.viral = none → s.pool? pid = some p → (∀ e ∈ s.pools, pid ∉ e.2.deps) →
    (3 ≤ p.rollbacks → exec (.rollback pid) s = .next
      (let t := s.fenceCores [p.homeCore]; if (t.pool? pid).map (·.rollbacks) = some p.rollbacks then t.rollBack pid else t)) ∧
    (p.rollbacks < 3 → (p.undoRegs.map (·.1)).Nodup → (p.undoSpad.map (·.1)).Nodup → (p.undoTiles.map (·.1)).Nodup →
      ∃ t q, exec (.rollback pid) s = .next t ∧ t.pool? pid = some q ∧ OtherPools pid s t ∧ SameMemory s t ∧
        t.journal = s.journal.filter (fun e => !(e.pool = pid && e.record.isNone && !e.kept)) ∧ t.records = s.records ∧
        t.log = s.log ++ [.rollback pid] ∧
        (∀ u n, q.reg u n = (KMap.find? p.undoRegs (256 * u + n)).getD (p.reg u n)) ∧
        (∀ a, q.spadByte a = (KMap.find? p.undoSpad a).getD (p.spadByte a)) ∧
        (∀ k, q.tile k = (KMap.find? p.undoTiles k).getD (p.tile k)) ∧
        (∀ j x, KMap.find? p.ckpt.cps j = some x → ∃ y, q.cp? j = some y ∧ y.pc = x.pc ∧ y.clause = x.clause ∧ y.s = x.s ∧
          y.m = x.m ∧ y.fstat = x.fstat ∧ y.cki = x.cki ∧ y.handles = x.handles ∧ y.holdLeft = 0 ∧ y.nopre = none) ∧
        (∀ o ∈ p.ckpt.ops, o.park ≠ none → o.kind = .load ∨ o.kind = .sload ∨ (∃ m h a, o.kind = .gather m h a) → o ∈ q.ops) ∧
        q.undoRegs = [] ∧ q.undoSpad = [] ∧ q.undoTiles = [] ∧ q.rollbacks = p.rollbacks + 1)

/-- R189, R248, R302, R304, R352: CORE_FENCE, CLUSTER_FENCE and DIE_FENCE of a live unit take it and its cores out of
use, with the cached lines of its clusters, every pool on it that is not about to end by a record that stands, and
the home cores of the pools that would be rolled back with these for a fourth time (R189); a die sets REPLREQ. One
that does not exist or is fenced already changes nothing. PEER_LINK_FENCE fences a link and drops what waits on it
and what its peer has asked and is not applied; the Fence command and a thermal trip of a die do the same as these;
a Fence command for what does not exist changes nothing and completes with status 1 (the value is the model's
choice, log 33).

R301, R303, R305: a lost pool of a RESTART task starts over, where its task is still replayable, and else completes
with status 0x03; one of a DURABLE task returns from its last image, or starts over without one; a slice leaves its
recipe without one. The model's choices: which pools a fence takes (log 25) and the clock that a lost task takes
along (log 50). -/
def Obligations.FencesAndLostPools : Prop :=
  (∀ s : State, s.viral = none →
     let gone (cores : List Nat) : List Nat := (s.lostWith (s.withWorn cores) (s.poolsAt (s.withWorn cores))).2
     (∀ k, (256 ≤ k ∨ s.coreLive k = false → exec (.coreFence k) s = .next s) ∧
       (k < 256 → s.coreLive k = true → ∃ t, exec (.coreFence k) s = .next t ∧ t.coreLive k = false ∧
         (∀ c ∈ s.withWorn [k], t.coreLive c = false) ∧
         (∀ e ∈ t.l1, e.1 / 2 ^ 46 ≠ k) ∧
         (∀ pid p, s.pool? pid = some p → k ∈ p.cores → p.willEnd (gone [k]) = false → t.pool? pid = none) ∧
         SameMemory s t)) ∧
     (∀ k, (64 ≤ k ∨ s.clusterLive k = false → exec (.clusterFence k) s = .next s) ∧
       (k < 64 → s.clusterLive k = true → ∃ t, exec (.clusterFence k) s = .next t ∧ t.clusterLive k = false ∧
         (∀ c, c / 4 = k → t.coreLive c = false) ∧ (∀ e ∈ t.cc, e.1 / 2 ^ 46 ≠ k) ∧ (∀ e ∈ t.tlb, e.cluster ≠ k) ∧
         (∀ pid p, s.pool? pid = some p → (∃ c ∈ p.cores, c / 4 = k) →
           p.willEnd (gone [4 * k, 4 * k + 1, 4 * k + 2, 4 * k + 3]) = false → t.pool? pid = none) ∧
         SameMemory s t)) ∧
     (∀ d, (8 ≤ d ∨ d ∈ s.fencedDies → exec (.dieFence d) s = .next s) ∧
       (d < 8 → d ∉ s.fencedDies → ∃ t, exec (.dieFence d) s = .next t ∧ t.fencedDies = s.fencedDies ++ [d] ∧
         t.replReq = true ∧ (∀ e ∈ t.cc, e.1 / 2 ^ 46 / 8 ≠ d) ∧ (∀ c, c / 32 = d → t.coreLive c = false) ∧
         (∀ pid p, s.pool? pid = some p → (∃ c ∈ p.cores, c / 32 = d) →
           p.willEnd (gone ((List.range 32).map (32 * d + ·))) = false → t.pool? pid = none) ∧ SameMemory s t)) ∧
     (∀ n, (8 ≤ n → exec (.peerLinkFence n) s = .next s) ∧
       (n < 8 → ∃ t, exec (.peerLinkFence n) s = .next t ∧ { t with
           links := s.links, peerCut := s.peerCut, portReads := s.portReads, records := s.records } = s ∧
         PeerDropped s t n ∧ KMap.get t.links Link.fresh n = { KMap.get s.links Link.fresh n with fenced := true, queue := [] } ∧
         (∀ j, j ≠ n → KMap.get t.links Link.fresh j = KMap.get s.links Link.fresh j) ∧
         ∀ o j, (o, j) ∈ t.peerCut ↔ (o, j) ∈ s.peerCut ∨ (j = n ∧ ∃ x ∈ s.syscOps, x.2.id = o ∧ x.2.aop ∈ [0x30, 0x31] ∧
           ∃ a ∈ x.2.args, (a.getD 0 0).toNat = n))) ∧
     (∀ d, ∃ t, exec (.thermalTrip (some d)) s = .next t ∧ exec (.dieFence d) s = .next t) ∧
     (s.phase = .running → ∀ n,
       (n < 8 → ∃ t u, exec (.dieFence n) s = .next t ∧ exec (.fenceCommand (.die n)) s = .next u ∧ Commanded 0x0C 0 .none t u) ∧
       (n < 64 → ∃ t u, exec (.clusterFence n) s = .next t ∧ exec (.fenceCommand (.cluster n)) s = .next u ∧
         Commanded 0x0C 0 .none t u) ∧
       (n < 256 → ∃ t u, exec (.coreFence n) s = .next t ∧ exec (.fenceCommand (.core n)) s = .next u ∧
         Commanded 0x0C 0 .none t u) ∧
       (n < 8 → ∃ t u, exec (.peerLinkFence n) s = .next t ∧ exec (.fenceCommand (.peer n)) s = .next u ∧
         Commanded 0x0C 0 .none t u) ∧
       (n < 8 → ∃ t u, exec (.fenceCommand (.peerRelease n)) s = .next u ∧ Commanded 0x0C 0 .none t u ∧
         { t with links := s.links } = s ∧
         KMap.get t.links Link.fresh n = { Link.fresh with asid := (KMap.get s.links Link.fresh n).asid }) ∧
       (∀ x, x = .die n ∧ 8 ≤ n ∨ x = .cluster n ∧ 64 ≤ n ∨ x = .core n ∧ 256 ≤ n ∨ x = .peer n ∧ 8 ≤ n ∨
           x = .peerRelease n ∧ 8 ≤ n →
         ∃ u, exec (.fenceCommand x) s = .next u ∧ Commanded 0x0C 1 .none s u))) ∧
  (∀ (s : State) (pid : Nat) (p : Pool) (unsent : Bool),
     let task : Task := { p.task with
       signalled := p.task.signalled && !unsent
       clock := max p.task.clock ((p.cores.map (KMap.get s.scClock 0)).foldl max 0) }
     let again := s.losePool pid p unsent
     let startsOver : Prop := ∃ q, again.out = s.out ++ [⟨pid, q, .restarted, none⟩] ∧
       q.task = task ∧ q.threads = p.threads ∧ q.parts = []
     (∀ n r, p.task.recipe = some n → KMap.find? s.recipes n = some r → { again with recipes := s.recipes } = s ∧
       KMap.find? again.recipes n = some { r with slice := none, staging := [], lost := true }) ∧
     (p.task.recipe = none →
       let marked : Prop := p.task.nonReplay = true ∨ ∃ r ∈ s.records, r.marks = true ∧ pid ∈ r.pools
       (p.durable = false → marked → Over s again (failed task 0x03) pid ∧ again.out = s.out) ∧
       (p.durable = false → ¬marked → startsOver) ∧
       (p.durable = true → s.lastImage pid p = none → startsOver) ∧
       (∀ i, p.durable = true → s.lastImage pid p = some i →
         ∃ q, again.out = s.out ++ [⟨pid, q, .lost, none⟩] ∧ q.cps = i.cps ∧ q.regs = i.regs ∧
           q.spad = i.spad ∧ q.tiles = i.tiles ∧ q.ops = i.ops ∧ q.parts = [])))

/-- R238, R245, R295, R306, R334, R346: a sequencer error loses the cluster pools of its cluster, and the third within
24 hours fences the cluster; a cache error drops the line, or every line, of the cluster's cache; an LLC error, by
the state of its line, is corrected and logged, poisons the granule, drops the Resident tile it lies in, which is
logged, or is viral; one that a base die reports is in HBM; viral entry, a thermal trip of the package and the Viral
command record the first cause, fence the peer links, and interrupt the application die.

R304, R307, R353, R354: PACKAGE_RESET leaves the package as at reset, keeping CXL memory, with HBM that depends on
nothing it held, and after a warm reset the log and REPLREQ; BOOT measures the four images in their order and runs
the package where each is good, and else stops for recovery at the first that is not. The model's choices: what a
reset keeps (log 27) and how a boot goes (log 28). -/
def Obligations.ErrorsAndReset : Prop :=
  (∀ s : State, s.viral = none →
     (∀ k, k < 64 → s.clusterLive k = true →
       let recent := (s.seqResets ++ [(k, s.time)]).filter fun x => s.time - x.2 < micros (24 * 3600 * 1000000)
       let lost (p : Pool) : Prop := 6 < p.parts.length ∧ p.cluster = k
       ∃ t, exec (.sequencerError k) s = .next t ∧ t.seqResets = recent ∧ SameMemory s t ∧
         ((∀ e ∈ s.pools, e.2.rollbacks < 3) →
           ∀ pid p, s.pool? pid = some p → lost p → p.willEnd [] = false → t.pool? pid = none) ∧
         ((recent.filter fun x => x.1 = k).length < 3 →
           ((s.pools.map (·.1)).Nodup → (∀ e ∈ s.pools, e.2.rollbacks < 3) → ∀ pid p, s.pool? pid = some p → ¬lost p → ∃ q, t.pool? pid = some q) ∧
           ((∀ e ∈ s.pools, ¬lost e.2) → t = { s with seqResets := recent, log := s.log ++ [.sequencerReset k] })) ∧
         (3 ≤ (recent.filter fun x => x.1 = k).length → t.clusterLive k = false)) ∧
     (∀ k line, ∃ t, exec (.clusterCacheError k line) s = .next t ∧
       { t with cc := s.cc, log := s.log } = s ∧ t.log = s.log ++ [.cacheError k] ∧
       ∀ e, e ∈ t.cc ↔ e ∈ s.cc ∧ ¬(e.1 / 2 ^ 46 = k ∧ (line = none ∨ line = some (e.1 % 2 ^ 46)))) ∧
     (∀ line,
       let poisoned : State := { s with poison := KMap.put s.poison line (), log := s.log ++ [.poisoned line] }
       (s.lineState line = some .clean → exec (.llcError line .cleanLine) s =
         .next { s with log := s.log ++ [.corrected line] }) ∧
       (s.lineState line ≠ some .clean → exec (.llcError line .cleanLine) s = .next s) ∧
       (s.lineState line = some .dirty → exec (.llcError line .dirtyLine) s = .next poisoned) ∧
       (s.lineState line ≠ some .dirty → exec (.llcError line .dirtyLine) s = .next s) ∧
       (∃ t, exec (.llcError line .tagState) s = .next t ∧ BecomesViral s t 0x03) ∧
       (64 * line < 0x6000000000 → ∃ t, exec (.llcError line .baseDieRead) s = .next t ∧
         { t with llc := s.llc, evicted := s.evicted } = poisoned) ∧
       (0x6000000000 ≤ 64 * line → exec (.llcError line .baseDieRead) s = .next s) ∧
       (s.residentTile line = none → exec (.llcError line .recipeLine) s = .next s) ∧
       (∀ r, s.residentTile line = some r → exec (.llcError line .recipeLine) s =
         .next ((s.dropTile r).logEvent (.recipeError r.id)))) ∧
     (∀ cause : Byte, (1 ≤ cause.toNat → cause.toNat ≤ 7 →
       ∃ t, exec (.viralEntry cause) s = .next t ∧ BecomesViral s t cause) ∧
       (cause = 0 ∨ 7 < cause.toNat → exec (.viralEntry cause) s = .next s)) ∧
     (∃ t, exec (.thermalTrip none) s = .next t ∧ BecomesViral s t 0x06) ∧
     (s.phase = .running → ∃ t u, BecomesViral s t 0x07 ∧ exec .viralCommand s = .next u ∧ Commanded 0x0D 0 .none t u)) ∧
  ((∀ (s : State) (cold : Bool), ∃ t, exec (.packageReset cold) s = .next t ∧
     { t with mem := [], log := [], replReq := false, keyGen := [], agenda := [], fresh := 0, nextId := 1 } = State.reset ∧
     t.log = (if cold = true then [] else s.log) ∧ t.replReq = (if cold = true then false else s.replReq) ∧
     t.keyGen = s.keyGen ∧
     (Memory.wf s.mem = true → ∀ a, 0x8000000000 ≤ a → Memory.read t.mem a = Memory.read s.mem a) ∧
     ∀ u v : State, u.fresh = s.fresh → Memory.wf s.mem = true → Memory.wf u.mem = true →
       exec (.packageReset cold) u = .next v → ∀ a, a < 0x6000000000 → Memory.read v.mem a = Memory.read t.mem a) ∧
   (∀ (s : State) (l : List BootImage), s.viral = none →
     let good (x : BootImage) : Prop := x.ed25519Ok = true ∧ x.mldsaOk = true ∧ Config.fusedVersion.toNat ≤ x.version.toNat
     (s.phase ≠ .off → exec (.boot l) s = .next s) ∧
     (s.phase = .off → ∀ n, n ≤ 4 → n ≤ l.length → (∀ k x, k < n → l[k]? = some x → good x) →
       (n < 4 → ∀ x, l[n]? = some x → ¬good x) →
       ∃ t, exec (.boot l) s = .next t ∧ t.phase = (if n = 4 then .running else .recovery) ∧
         { t with phase := s.phase, measured := s.measured } = s ∧
         (∀ k x, k < n → l[k]? = some x → KMap.get t.measured 0 k = Config.extend (KMap.get s.measured 0 k) x.hash) ∧
         ∀ k, n ≤ k → KMap.get t.measured 0 k = KMap.get s.measured 0 k)))

/-- R305, R306, R345: in the viral state no instruction and no event changes anything, but for PACKAGE_RESET; a device's
request is answered with an error, and the application die's supervisor reads PKGSTAT, with VIRAL and VCAUSE, and
the error log in the management block (log 33). The model's choice: what still moves in the viral state (log 29). -/
def Obligations.ViralStopsThePackage : Prop :=
  ∀ (i : Instr) (s : State), s.viral.isSome = true → (∀ cold, i ≠ .packageReset cold) →
    (∀ port rid w va len bs, i = .deviceDmaRequest port rid w va len bs →
      exec i s = .next { s with replies := s.replies ++ [.error port] }) ∧
    (∀ port rid op w va y x, i = .pcieAtomicop port rid op w va y x →
      exec i s = .next { s with replies := s.replies ++ [.error port] }) ∧
    ((∀ port rid w va len bs, i ≠ .deviceDmaRequest port rid w va len bs) →
      (∀ port rid op w va y x, i ≠ .pcieAtomicop port rid op w va y x) →
      (∀ pa len bs, i ≠ .applicationDieAccess (.physical true) false pa len bs) → exec i s = .next s) ∧
    (∀ pa len bs, i = .applicationDieAccess (.physical true) false pa len bs →
      let inside : Prop := ∀ k, k < len → 0x100000000000 ≤ pa + k ∧ pa + k < 0x100010000000
      (inside → exec i s = .next { s with replies := s.replies ++ [.management s.pkgstat s.log] }) ∧
      (¬inside → exec i s = .next s))

/-- R329, R332 to R334: REGENERATION_ADMIT requests the source tiles that are down, waits for its turn and for room in
the reserve, fails a recipe whose kernel has no slice shape with error 5, and else admits it with that shape; it
waits too while a source tile has failed (log 31). SLICE_POOL_PLACE places the admitted regeneration whose turn it
is; SLICE_TRAP fails the recipe of a slice that has trapped.

R329, R330, R332, R334, R337: at SLICE_POOL_END the staged tile, whose digest matches or which is the first made,
stands in memory, Resident, or Anchored at depth 8, with one more in GEN; a digest that differs counts a silent
error, and the second in a row fails the recipe with error 6. REGEN_HOLD_EXPIRY ends the hold of a tile that no one
awaits or whose time is over; RECIPE_LINE_EVICTION drops a Resident tile that is not held. The model's choices: what
holds a recipe and when a regeneration starts (log 31). -/
def Obligations.RecipeEvents : Prop :=
  (∀ s : State, s.viral = none →
     (∀ n r, KMap.find? s.recipes n = some r → r.id = n →
       (r.state ≠ .regenerating ∨ r.admitted = true → exec (.regenerationAdmit n) s = .next s) ∧
       (r.state = .regenerating → r.admitted = false → (∀ j x, KMap.find? s.recipes j = some x → x.id = j) →
         ((∃ q ∈ s.sourceTiles r, q.state = .dropped ∨ q.state = .regenerating) →
           ∃ t, exec (.regenerationAdmit n) s = .next t ∧ SameButWalked s t ∧ t.pools = s.pools ∧
             (∀ q ∈ s.sourceTiles r, q.state = .dropped → ∃ y, KMap.find? t.recipes q.id = some y ∧
               y.state = .regenerating ∧ y.admitted = false ∧ y.chain = r.chain ∧ y.began = r.began ∧ y.root = r.root ∧ y.requested = s.time) ∧
             ∀ j x, KMap.find? s.recipes j = some x → x.state ≠ .dropped → KMap.find? t.recipes j = some x) ∧
         ((∀ q ∈ s.sourceTiles r, q.state ≠ .dropped ∧ q.state ≠ .regenerating) →
           ((∃ q ∈ s.sourceTiles r, q.state = .failed) ∨ s.inTurn r = false ∨ s.reserveFits r = false →
             exec (.regenerationAdmit n) s = .next s) ∧
           ((∀ q ∈ s.sourceTiles r, q.state ≠ .failed) → s.inTurn r = true → s.reserveFits r = true →
             (s.sliceShape r = none → exec (.regenerationAdmit n) s = .next (s.failRecipe r 5)) ∧
             (∀ w, s.sliceShape r = some w → ∃ t y, exec (.regenerationAdmit n) s = .next t ∧
               KMap.find? t.recipes n = some y ∧ y.admitted = true ∧ y.shape = w ∧ y.state = .regenerating ∧
               { t with recipes := s.recipes } = s ∧
               ∀ q ∈ s.sourceTiles r, q.state = .resident → ∃ z, KMap.find? t.recipes q.id = some z ∧
                 n ∈ z.holders))))) ∧
     (∀ n r, KMap.find? s.recipes n = some r → ∃ t, s.failRecipe r 5 = t ∧
       KMap.find? t.recipes r.id = some { r with
         state := .failed, err := 5, slice := none, ended := false, staging := [], admitted := false
         holders := r.holders.filter fun h => h != r.id } ∧ SameButEntry r.asid r.record s t ∧ t.pools = s.pools) ∧
     (∀ (n : Nat) (at_ : Placement) (r : Recipe) (need : Need), s.phase = .running →
       let s1 := s.noteReady
       let s2 := s1.keepDies s1.first
       s1.first.cand = some (.regen n) → KMap.find? s2.recipes n = some r → s2.candNeed (.regen n) = some need →
       s2.fits need at_ = true → s2.candAllows s1.first.blocked (.regen n) (placedCluster at_) = true → r.id = n →
       (∀ u, s2.makeRoom at_ = (false, u) → exec (.slicePoolPlace n at_) s = .next u) ∧
       (∀ u q, s2.makeRoom at_ = (true, u) → KMap.find? u.recipes n = some q → ∃ v : State,
         exec (.slicePoolPlace n at_) s = .next (v.putPool u.nextId (r.sliceTask.newPool need) at_) ∧
         { v with recipes := u.recipes, nextId := u.nextId, replays := u.replays } = u ∧ v.nextId = u.nextId + 1 ∧
         v.replays = (if r.lost = true then min 65535 (u.replays + 1) else u.replays) ∧
         KMap.find? v.recipes n = some { q with slice := some u.nextId, lost := false })) ∧
     (∀ (n : Nat) (at_ : Placement), s.phase = .running → s.noteReady.first.cand ≠ some (.regen n) →
       exec (.slicePoolPlace n at_) s = .next (s.noteReady.keepDies s.noteReady.first)) ∧
     (∀ (pid n : Nat) (p : Pool) (r : Recipe), s.pool? pid = some p → p.task.recipe = some n →
       (∀ e ∈ s.pools, pid ∉ e.2.deps) → KMap.find? s.recipes n = some r → r.id = n →
       ((∀ e ∈ p.cps, e.2.status ≠ .trapped) → exec (.sliceTrap pid) s = .next s) ∧
       ((∃ e ∈ p.cps, e.2.status = .trapped) → ∃ t y, exec (.sliceTrap pid) s = .next t ∧ t.pool? pid = none ∧
         OtherPools pid s t ∧ SameButEntry r.asid r.record s t ∧ t.journal = s.journal.filter (fun e => e.pool != pid) ∧
         (∀ x ∈ t.records, pid ∉ x.pools) ∧ KMap.find? t.recipes n = some y ∧
         y.state = .failed ∧ y.err = 5))) ∧
  (∀ (s : State) (n : Nat) (r : Recipe), s.viral = none → KMap.find? s.recipes n = some r → r.id = n →
     let crc := crc64 r.stagedBytes
     (r.ended = false ∨ r.state ≠ .regenerating → exec (.slicePoolEnd n) s = .next s) ∧
     (r.ended = true → r.state = .regenerating →
       (r.gen = 0 ∨ crc = r.digest → ∃ t y, exec (.slicePoolEnd n) s = .next t ∧ KMap.find? t.recipes n = some y ∧
         y.state = (if 8 ≤ r.depth then .anchored else .resident) ∧ y.gen = r.gen + 1 ∧ y.digest = crc ∧
         y.staging = [] ∧ y.slice = none ∧ SameButEntry r.asid r.record (s.storeTile r) t ∧ t.pools = s.pools) ∧
       (r.gen ≠ 0 → crc ≠ r.digest → ∃ t y, exec (.slicePoolEnd n) s = .next t ∧ KMap.find? t.recipes n = some y ∧
         y.silent = r.silent + 1 ∧ .silentError n ∈ t.log ∧
         (r.mismatches = 0 → y.state = .regenerating ∧ y.ended = false ∧ y.staging = [] ∧ SameMemory s t) ∧
         (1 ≤ r.mismatches → y.state = .failed ∧ y.err = 6 ∧ SameButEntry r.asid r.record s t))) ∧
     (∀ h, r.holdUntil = some h →
       (h ≤ s.time ∨ s.awaited n = false → ∃ t, exec (.regenHoldExpiry n) s = .next t ∧
         { t with recipes := s.recipes } = s ∧ KMap.find? t.recipes n = some { r with holdUntil := none } ∧
         ∀ j, j ≠ n → KMap.find? t.recipes j = KMap.find? s.recipes j) ∧
       (s.time < h → s.awaited n = true → exec (.regenHoldExpiry n) s = .next s)) ∧
     (let u : State := { s with evicted := s.evicted.filter (· != n) }
      (r.state = .resident → r.holders = [] → r.holdUntil = none →
        exec (.recipeLineEviction n) s = .next (u.dropTile r)) ∧
      (r.state ≠ .resident → exec (.recipeLineEviction n) s = .next u) ∧
      (r.state = .resident → r.holders ≠ [] ∨ r.holdUntil ≠ none → exec (.recipeLineEviction n) s = .next s)))

/-- R249: the test of a live cluster falls due at its time, runs once no pool is left there, and is skipped, with its
blockers logged, where 250 ms after it fell due some CP has not stood, unless a pool has been pre-empted for it; at
its end it falls due a period later, and what failed is fenced. As time passes a due test notes whether every CP
stands, and one that runs ends after 20 ms at the latest, with nothing failed (log 32).

R253, R255, R294, R305, R308, R310, R311, R328, R346, R348, R349, R351, R355 to R357: each command of a running
package with good operands does what the manual says and nothing else, and completes in its order, a shootdown once
the accesses that an old entry has translated are over, an unbind once the queue is gone. One with a bad operand
changes nothing and completes with status 1 (the value is the model's choice, log 33). The model's choices: when
tests fall due (log 32), operands of commands (log 33) and times (log 3). -/
def Obligations.TestsAndCommands : Prop :=
  (∀ (s : State) (k : Nat), s.viral = none →
     let t := s.test k
     let set (x : FieldTest) : State := { s with tests := KMap.put s.tests k x }
     (s.phase = .running → k < 64 → s.clusterLive k = true → t.due = none → t.running = false → t.nextDue ≤ s.time →
       exec (.inFieldTestDue k) s = .next (set { t with due := some s.time, ready := false, cleared := false })) ∧
     (s.time < t.nextDue → exec (.inFieldTestDue k) s = .next s) ∧
     (t.due.isSome = true → s.clusterLive k = true → s.poolsOn k = [] → exec (.inFieldTestRun k) s =
       .next (set { t with due := none, ready := false, cleared := false, running := true, began := s.time })) ∧
     (s.poolsOn k ≠ [] ∨ t.due = none → exec (.inFieldTestRun k) s = .next s) ∧
     (∀ d, t.due = some d →
       (∀ b r, s.testBlockers k = b :: r → t.ready = false → t.cleared = false → d + micros 250000 ≤ s.time →
         exec (.inFieldTestSkip k) s = .next { set { t with
             due := none, overdue := true, nextDue := s.time + micros 600000000 } with
           log := s.log ++ [.testSkipped k (b :: r)] }) ∧
       (s.time < d + micros 250000 ∨ t.ready = true ∨ t.cleared = true ∨ s.testBlockers k = [] → exec (.inFieldTestSkip k) s = .next s)) ∧
     (t.running = false → ∀ f b, exec (.inFieldTestEnd k f b) s = .next s) ∧
     (t.running = true →
       let u (o : Bool) : State := set { t with
         running := false, overdue := o, nextDue := s.time + micros (s.period * 1000000) }
       exec (.inFieldTestEnd k none false) s = .next (u false) ∧
       (∀ c, c / 4 = k → exec (.inFieldTestEnd k (some c) false) s = .next ((u t.overdue).fenceCore c) ∧
         exec (.inFieldTestEnd k (some c) true) s = .next (((u t.overdue).fenceCore c).fenceCluster k)) ∧
       (∀ c, c / 4 ≠ k → exec (.inFieldTestEnd k (some c) false) s = .next (u false)) ∧
       exec (.inFieldTestEnd k none true) s = .next ((u t.overdue).fenceCluster k) ∧
       (t.began + micros 20000 ≤ s.time → exec (.inFieldTestEnd k none false) s = .next (s.noteTest k)) ∧
       (s.time < t.began + micros 20000 → s.noteTest k = s)) ∧
     (t.running = false → t.due.isSome = true →
       (s.testBlockers k = [] → s.noteTest k = set { t with ready := true }) ∧
       (s.testBlockers k ≠ [] →
         exec (.inFieldTestSkip k) (set { t with ready := false }) = .next (s.noteTest k)))) ∧
  (∀ s : State, Running s →
     let Does (code : Nat) (w : CmdWait) (i : Instr) (t : State) : Prop := ∃ u, exec i s = .next u ∧ Commanded code 0 w t u
     let Bad (code : Nat) (i : Instr) : Prop := ∃ u, exec i s = .next u ∧ Commanded code 1 .none s u
     (∀ a l4 tab n key,
       let good : Prop := a < 65536 ∧ l4 % 4096 = 0 ∧ l4 < 2 ^ 52 ∧ tab < 2 ^ 56 ∧ n ≤ 65536 ∧ key < 256 ∧
         KMap.find? s.asids a = none
       (good → Does 0x01 .none (.asidBind a l4 tab n key) { s with asids := KMap.put s.asids a ⟨l4, tab, n, key⟩ }) ∧
       (¬good → Bad 0x01 (.asidBind a l4 tab n key))) ∧
     (∀ a, a < 65536 → s.asidBusy a = false → ∃ t, Does 0x02 .none (.asidUnbind a) t ∧ { t with asids := s.asids, tlb := s.tlb } = s ∧
       KMap.find? t.asids a = none ∧ (∀ j, j ≠ a → KMap.find? t.asids j = KMap.find? s.asids j) ∧
       ∀ e ∈ t.tlb, e.asid ≠ a) ∧
     (∀ a, 65536 ≤ a ∨ s.asidBusy a = true → Bad 0x02 (.asidUnbind a)) ∧
     (∀ a va n, n = 0 ∨ 2 ^ 56 < va + n ∨ 65536 ≤ a → Bad 0x03 (.shootdown a va n)) ∧
     (∀ a va n, 0 < n → va + n ≤ 2 ^ 56 → a < 65536 → ∃ t, Does 0x03 (.shootdown a va n s.nextId) (.shootdown a va n) t ∧ { t with tlb := s.tlb } = s ∧
       (∀ e, e ∈ t.tlb ↔ e ∈ s.tlb ∧ ¬(e.asid = a ∧ e.base < va + n ∧ va < e.base + 2 ^ e.bits)) ∧
       (t.cmdWaits (.shootdown a va n s.nextId) = true ↔ ∃ e ∈ s.pools, e.2.task.asid = a ∧ ∃ o ∈ e.2.ops, o.id < s.nextId ∧
         o.underWay = true ∧ ∃ l ∈ o.lanes, rangesOverlap l.addr (if o.wide = true then 8 else 4) va n = true)) ∧
     (∀ q n x, KMap.find? s.queues q = some x →
       (x.base = 0 → ∃ t, Does 0x06 .none (.class0Grant q n) t ∧
         { t with queues := s.queues } = s ∧ KMap.find? t.queues q = some { x with grant := x.grant + n } ∧
         ∀ j, j ≠ q → KMap.find? t.queues j = KMap.find? s.queues j) ∧
       (x.base ≠ 0 → Bad 0x06 (.class0Grant q n))) ∧
     (∀ q n, KMap.find? s.queues q = none → Bad 0x06 (.class0Grant q n)) ∧
     (∀ a ways b, KMap.find? s.asids a = some b → ∃ t, Does 0x07 .none (.wayMask a none ways) t ∧
       { t with ways := s.ways } = s ∧ (∀ h, h < 64 → t.wayMask b.key h = ways) ∧
       ∀ h, h < 64 → ∃ u, Does 0x07 .none (.wayMask a (some h) ways) u ∧ { u with ways := s.ways } = s ∧
         u.wayMask b.key h = ways ∧ ∀ j, j ≠ 64 * b.key + h → KMap.get u.ways 0 j = KMap.get s.ways 0 j) ∧
     (∀ a n b, KMap.find? s.asids a = some b →
       Does 0x08 .none (.recipeLimit a n) { s with recipeLimit := KMap.put s.recipeLimit b.key n }) ∧
     (∀ a n ways h, KMap.find? s.asids a = none → Bad 0x07 (.wayMask a h ways) ∧ Bad 0x08 (.recipeLimit a n)) ∧
      (∀ a ways h, 64 ≤ h → Bad 0x07 (.wayMask a (some h) ways)) ∧
     (∀ k, (k < 256 → Does 0x09 .none (.keyLoad k) { s with keyGen := KMap.put s.keyGen k (KMap.get s.keyGen 0 k + 1) }) ∧
       (256 ≤ k → Bad 0x09 (.keyLoad k))) ∧
     (∀ port rid a, KMap.find? s.asids a = none ∨ 65536 ≤ rid → Bad 0x0A (.deviceBind port rid a)) ∧
     (∀ port rid a b, KMap.find? s.asids a = some b → rid < 65536 →
       (port ≤ 4 → ∃ t, Does 0x0A .none (.deviceBind port rid a) t ∧ { t with devices := s.devices } = s ∧
         t.deviceAsid port rid = some a ∧ (port = 4 → ∀ r, t.deviceAsid 4 r = some a) ∧
         ∀ p r, p ≠ port ∨ (port ≠ 4 ∧ r ≠ rid) → t.deviceAsid p r = s.deviceAsid p r) ∧
       (8 ≤ port → port < 16 → ∃ t, Does 0x0A .none (.deviceBind port rid a) t ∧ { t with links := s.links } = s ∧
         KMap.get t.links Link.fresh (port - 8) = { KMap.get s.links Link.fresh (port - 8) with asid := some a }) ∧
       ((4 < port ∧ port < 8) ∨ 16 ≤ port → Bad 0x0A (.deviceBind port rid a))) ∧
     (∀ toll quantum period,
       let good : Prop := (∀ x, toll = some x → 100 ≤ x ∧ x ≤ 100000) ∧ (∀ x, quantum = some x → 1 ≤ x ∧ x ≤ 255) ∧
         ∀ x, period = some x → 3600 ≤ x ∧ x ≤ 2592000
       (good → Does 0x0B .none (.timing toll quantum period) { s with
         toll := toll.getD s.toll, quantum := quantum.getD s.quantum, period := period.getD s.period }) ∧
       (¬good → Bad 0x0B (.timing toll quantum period))) ∧
     (∀ port base n,
       let good : Prop := port < 4 ∧ n ≠ 0 ∧ 0x8000000000 ≤ base ∧ base + n ≤ 0x100000000000 ∧
         ∀ w ∈ s.windows, w.1 = port ∨ rangesOverlap w.2.1 w.2.2 base n = false
       (good → Does 0x0E .none (.cxlWindow port base n) { s with windows := KMap.put s.windows port (base, n) }) ∧
       (¬good → Bad 0x0E (.cxlWindow port base n))) ∧
     (∀ watts,
       (1500 ≤ watts → watts ≤ 3200 → Does 0x0F .none (.powerLimit watts) { s with powerLimit := watts }) ∧
       (watts < 1500 ∨ 3200 < watts → Bad 0x0F (.powerLimit watts)) ∧
       (s.time < s.sampleAt + micros 100 → exec (.powerSample watts) s = .next s) ∧
       (s.sampleAt + micros 100 ≤ s.time → exec (.powerSample watts) s = .next { s with
         sampleAt := s.time
         clockMHz := if s.powerLimit < watts then max 600 (s.clockMHz - 25) else min 1500 (s.clockMHz + 25) })) ∧
     exec .replaysClear s = .next { s with replays := 0 } ∧
     (∀ nonce, (nonce.length = 32 → ∃ t, Does 0x10 .none (.attest nonce) t ∧ { t with report := s.report } = s ∧
         t.report.length = 0xF00 ∧ ofBytes (t.report.take 8) = 1 ∧ (t.report.drop 16).take 32 = nonce ∧
         ofBytes ((t.report.drop 56).take 2) = 0xFFFF) ∧
       (nonce.length ≠ 32 → Bad 0x10 (.attest nonce))) ∧
     (∀ a page, ∃ t, exec (.faultRecordComplete a page) s = .next t ∧ { t with faults := s.faults } = s ∧
       ∀ f, f ∈ t.faults ↔ f ∈ s.faults ∧ f ≠ (a, page)) ∧
     (∀ q,
       (∀ x, KMap.find? s.queues q = some x → ∃ u : State, Does 0x05 (.unbind q) (.queueUnbind q) (u.dropUnbound q) ∧
         { u with queues := s.queues, waiting := s.waiting } = s ∧ q ∉ u.waiting ∧
         KMap.find? u.queues q = some { x with unbinding := true, broken := true, slot := none, heads := [] }) ∧
       (KMap.find? s.queues q = none → Bad 0x05 (.queueUnbind q))) ∧
     (∀ header a (caplog cls : Byte),
       (∀ pa, s.outsideTranslate a header true = .ok pa → s.sliceClear pa = false →
         exec (.queueBind header a caplog cls) s = .next s) ∧
       ((∀ pa, s.outsideTranslate a header true = .ok pa → s.sliceClear pa = true) →
         let good : Prop := header % 64 = 0 ∧ 1 ≤ caplog.toNat ∧ caplog.toNat ≤ 20 ∧ cls.toNat ≤ 3 ∧
           KMap.find? s.asids a ≠ none
         let bind (pa id : Nat) (running : List Nat) (t : State) : State := ({ t with
           queues := KMap.put s.queues id (Queue.fresh a header caplog.toNat cls.toNat s.time running)
           headDie := KMap.del (KMap.del s.headDie (2 * id)) (2 * id + 1) } : State).touchOutside a header true |>.systemCommit a pa (toBytes 0 16)
         (∀ pa r, good → s.outsideTranslate a header true = .ok pa → s.isMemory pa = true →
           (s.queueAt a header = none → s.queues.length < 65536) → (∀ id x, s.queueAt a header = some (id, x) → x.broken = true) →
           s.recipeAt a header = some r → r.state = .dropped →
           exec (.queueBind header a caplog cls) s = .next (s.requestTile r.id)) ∧
         (∀ pa, good → s.outsideTranslate a header true = .ok pa → s.isMemory pa = true → s.recipeAt a header = none →
           (s.queueAt a header = none → s.queues.length < 65536 → Does 0x04 .none (.queueBind header a caplog cls)
             (bind pa s.nextId [] { s with nextId := s.nextId + 1 })) ∧
           (s.queueAt a header = none → 65536 ≤ s.queues.length → Bad 0x04 (.queueBind header a caplog cls)) ∧
           ∀ id x, s.queueAt a header = some (id, x) →
             (x.broken = true → Does 0x04 .none (.queueBind header a caplog cls) (bind pa id x.running s)) ∧
             (x.broken = false → Bad 0x04 (.queueBind header a caplog cls))) ∧
         (¬good ∨ (∀ pa, s.outsideTranslate a header true = .ok pa → s.isMemory pa = false) →
           Bad 0x04 (.queueBind header a caplog cls)))))

/-- R276, R290, R300, R335, R340, R344, R345, R347, R349, R353: a device or the application die reads bytes of memory by
its bound ASID, writes them as a commit from outside every cluster, and is refused where it has no ASID or a check
fails; a read that meets a tile not held anywhere, or a line that its slice holds, is held by its port, the tile is
regenerated, and it is answered once nothing holds it; an AtomicOp answers the old value, or is refused where its
leaf allows no write or it is misaligned; a supervisor reads PKGSTAT and the error logs; BAR0 answers for itself,
and in recovery mode nothing else does. Which port number stands for which BAR is the model's choice (log 10); so
are the holding of a read (R349 speaks of writes: log 44) and the place of the registers in the management block
(log 33).

R350 to R352: a flit out of order, of a reserved type or with a wrong CRC is answered by a nak, and a data flit in
order is acknowledged and its credit returned; a nak is answered by the flits since, and fences the link after eight
replays without an advance of ACKSEQ to a flit not acknowledged before; credits are added, and a request or a
response is sent against one. A peer's read is answered by data flits of its link. A peer's request is a device's by
the link's ASID; a write is refused above 224 bytes or across a block of 256, a request on a link without an ASID
too; a fenced link takes nothing, and what its peer has asked and is not applied is dropped. Which channel a request
takes is the model's choice, which one a peer's data flit has taken and a payload are free values (log 10). The
model's choices: the ports and how answers are listed (log 10), and that the application die reads without a
tenant's key (log 34). -/
def Obligations.OutsideRequests : Prop :=
  ((∀ s : State, Running s →
     let refused (port rid : Nat) : State :=
       { s with replies := s.replies ++ [.error port], log := s.log ++ [.deviceRefused port rid] }
     let Unheld (a va len : Nat) : Prop := ∀ c ∈ lineChunks va len, s.droppedAt a c.1 = none ∧
       ∀ pa, s.outsideTranslate a c.1 false = .ok pa → s.lineHeld (pa / 64) = false
     let Holds (i : Instr) (x : PortRead) : Prop := ∃ t, exec i s = .next t ∧ t.portReads = s.portReads ++ [x] ∧
       t.replies = s.replies ∧ ∀ a c, x.asid = some a → lineChunks x.va x.len = [c] →
         t = { (match s.droppedAt a c.1 with | some r => s.requestTile r | none => s) with portReads := s.portReads ++ [x] }
     (∀ port rid w va len bs, 5 < port → exec (.deviceDmaRequest port rid w va len bs) s = .next s) ∧
     (∀ port rid w va len bs, port < 5 →
       (∀ a, s.deviceAsid port rid ≠ some a) ∨ (port = 4 ∧ 2 ^ 36 < va + if w = true then bs.length else len) →
       exec (.deviceDmaRequest port rid w va len bs) s = .next (refused port rid)) ∧
     (∀ port rid a va len bs, port < 5 → s.deviceAsid port rid = some a →
       (port = 4 → va + len ≤ 2 ^ 36 ∧ va + bs.length ≤ 2 ^ 36) →
       (∀ data, s.outsideBytes a va len = some data → Unheld a va len → exec (.deviceDmaRequest port rid false va len bs) s =
         .next ((s.touchRange a va len false).reply (.bytes port data))) ∧
       (s.outsideBytes a va len ≠ none → ¬Unheld a va len →
         Holds (.deviceDmaRequest port rid false va len bs) ⟨port, rid, some a, va, len⟩) ∧
       (s.outsideBytes a va len = none → exec (.deviceDmaRequest port rid false va len bs) s = .next (refused port rid)) ∧
       (∀ t, s.outsideWrite port a va bs = some t → exec (.deviceDmaRequest port rid true va len bs) s = .next t) ∧
       (s.outsideWrite port a va bs = none →
         exec (.deviceDmaRequest port rid true va len bs) s = .next (refused port rid))) ∧
     (∀ port rid op (wide : Bool) va (y x : DWord), port < 4 →
       let z := if wide = true then 8 else 4
       ((∀ a, s.deviceAsid port rid ≠ some a) → exec (.pcieAtomicop port rid op wide va y x) s = .next (refused port rid)) ∧
       (∀ a, s.deviceAsid port rid = some a →
         ((∃ e, s.outsideTranslate a va true = .error e) ∨ va % z ≠ 0 ∨
             (∃ pa, s.outsideTranslate a va true = .ok pa ∧ s.isMemory pa = false) →
           exec (.pcieAtomicop port rid op wide va y x) s = .next (refused port rid)) ∧
         (∀ pa, s.outsideTranslate a va true = .ok pa → va % z = 0 →
           s.isMemory pa = true → pa % z = 0 → pa + z ≤ 0x8000000000 → s.records = [] → s.recipeAt a va = none →
           s.poisonedLine (pa / 64) = false → s.keyMatches (some (s.keyFor a)) (pa / 64) = true →
           let s0 := s.touchOutside a va true
           let old := ofBytes (Memory.readBytes s0.mem pa z)
           let new := match op with
             | .fetchAdd => (old + y.toNat) % 2 ^ (8 * z)
             | .swap => y.toNat % 2 ^ (8 * z)
             | .cas => if old = y.toNat % 2 ^ (8 * z) then x.toNat % 2 ^ (8 * z) else old
           ∃ u, exec (.pcieAtomicop port rid op wide va y x) s = .next u ∧ u.records = [] ∧
             u.replies = s.replies ++ [.value port (BitVec.ofNat 64 old)] ∧
             ∀ b, Memory.read u.mem b =
               if pa ≤ b ∧ b < pa + z then (toBytes new z).getD (b - pa) 0 else Memory.read s0.mem b))) ∧
     (∀ a va len bs,
       (∀ data, s.outsideBytes a va len = some data → Unheld a va len →
         exec (.applicationDieAccess (.virtual a) false va len bs) s =
           .next ((s.touchRange a va len false).reply (.bytes 16 data))) ∧
       (s.outsideBytes a va len ≠ none → ¬Unheld a va len →
         Holds (.applicationDieAccess (.virtual a) false va len bs) ⟨16, 0, some a, va, len⟩) ∧
       (∀ t, s.outsideWrite 16 a va bs = some t →
         exec (.applicationDieAccess (.virtual a) true va len bs) s = .next t) ∧
       (s.outsideBytes a va len = none →
         exec (.applicationDieAccess (.virtual a) false va len bs) s = .next (s.reply (.error 16))) ∧
       (s.outsideWrite 16 a va bs = none →
         exec (.applicationDieAccess (.virtual a) true va len bs) s = .next (s.reply (.error 16)))) ∧
     (∀ x a data, s.portReads = [x] → x.asid = some a → s.outsideBytes a x.va x.len = some data → Unheld a x.va x.len →
       let u := ({ s with portReads := [] } : State).touchRange a x.va x.len false
       (x.port < 8 ∨ 16 ≤ x.port → s.serveReads = u.reply (.bytes x.port data)) ∧
       (∀ n, n < 8 → x.port = 8 + n → (KMap.get s.links Link.fresh n).fenced = false → ∃ t, s.serveReads = t ∧
         { t with links := s.links } = u ∧ KMap.get t.links Link.fresh n = { KMap.get s.links Link.fresh n with
           queue := (KMap.get s.links Link.fresh n).queue ++ responses data })) ∧
     (∀ pa len bs sup,
       ((∀ k, k < len → s.isMemory (pa + k) = true) →
         ((∀ c ∈ lineChunks pa len, s.lineHeld (c.1 / 64) = false) →
           exec (.applicationDieAccess (.physical sup) false pa len bs) s =
             .next (s.reply (.bytes 16 ((List.range len).map fun k => s.byteUnder none (pa + k))))) ∧
         ((∃ c ∈ lineChunks pa len, s.lineHeld (c.1 / 64) = true) →
           Holds (.applicationDieAccess (.physical sup) false pa len bs) ⟨16, 0, none, pa, len⟩)) ∧
       ((∀ k, k < bs.length → s.isMemory (pa + k) = true) → exec (.applicationDieAccess (.physical sup) true pa len bs) s =
         .next (s.outsideCommit none [(pa, pa, bs)] (some 16))) ∧
       (∀ k, k < len → s.isMemory (pa + k) = false → portSpace (pa + k) = false →
         (sup = false ∨ pa + k < 0x100000000000 ∨ 0x100010000000 ≤ pa + k) →
         exec (.applicationDieAccess (.physical sup) false pa len bs) s = .next (s.reply (.error 16))) ∧
       (bs ≠ [] → (∀ k, k < bs.length → s.isMemory (pa + k) = false ∧ portSpace (pa + k) = true) →
         exec (.applicationDieAccess (.physical sup) true pa len bs) s = .next (s.reply (.write pa bs))) ∧
       (0 < len → (∀ k, k < len → s.isMemory (pa + k) = false) →
         (∀ k, k < len → portSpace (pa + k) = true) →
         ∃ t data, exec (.applicationDieAccess (.physical sup) false pa len bs) s = .next t ∧ data.length = len ∧
           { t with fresh := s.fresh } = s.reply (.bytes 16 data)) ∧
       (0 < len → (∀ k, k < len → 0x100000000000 ≤ pa + k ∧ pa + k < 0x100010000000) →
         exec (.applicationDieAccess (.physical true) false pa len bs) s = .next (s.reply (.management s.pkgstat s.log))) ∧
       (bs ≠ [] → (∀ k, k < bs.length → 0x100000000000 ≤ pa + k ∧ pa + k < 0x100010000000) →
         exec (.applicationDieAccess (.physical true) true pa len bs) s = .next s))) ∧
   (∀ s : State, s.viral = none → s.phase = .running ∨ s.phase = .recovery →
     let refused (port rid : Nat) : State :=
       { s with replies := s.replies ++ [.error port], log := s.log ++ [.deviceRefused port rid] }
     (∀ rid va len bs,
       (va + len ≤ 2 ^ 24 → ∃ t data, exec (.deviceDmaRequest 5 rid false va len bs) s = .next t ∧ data.length = len ∧
         { t with fresh := s.fresh } = s.reply (.bytes 5 data)) ∧
       (va + bs.length ≤ 2 ^ 24 → exec (.deviceDmaRequest 5 rid true va len bs) s =
         .next (s.reply (.write (0x100050000000 + va) bs))) ∧
       (∀ w, 2 ^ 24 < va + (if w = true then bs.length else len) →
         exec (.deviceDmaRequest 5 rid w va len bs) s = .next (refused 5 rid)) ∧
       (s.phase = .recovery → (∀ w, exec (.deviceDmaRequest 4 rid w va len bs) s = .next (refused 4 rid)) ∧
         ∀ port w, port ≠ 4 → port ≠ 5 → exec (.deviceDmaRequest port rid w va len bs) s = .next s)))) ∧
  (∀ s : State, s.viral = none → ∀ port l, port < 8 → KMap.get s.links Link.fresh port = l →
     (s.phase = .running →
       let Answered (i : Instr) (u : State) (m : List PeerMsg) : Prop := ∃ t, exec i s = .next t ∧
         { t with links := s.links } = u ∧ KMap.get t.links Link.fresh port = { l with queue := l.queue ++ m } ∧
         ∀ j, j ≠ port → KMap.get t.links Link.fresh j = KMap.get s.links Link.fresh j
       let Refused (i : Instr) : Prop :=
         Answered i { s with log := s.log ++ [.deviceRefused (8 + port) port] } [.response none]
       (∀ va len bs w f, l.fenced = true →
         exec (.peerRequest port w va len bs) s = .next s ∧ exec (.peerFlitReceive port f) s = .next s) ∧
       (∀ va len bs w, l.fenced = false → l.asid = none → Refused (.peerRequest port w va len bs)) ∧
       (∀ a va len bs, l.fenced = false → l.asid = some a →
         (∀ data, s.outsideBytes a va len = some data →
           ((∀ c ∈ lineChunks va len, s.droppedAt a c.1 = none ∧
               ∀ pa, s.outsideTranslate a c.1 false = .ok pa → s.lineHeld (pa / 64) = false) →
             Answered (.peerRequest port false va len bs) (s.touchRange a va len false) (responses data)) ∧
           ((∃ c ∈ lineChunks va len, s.droppedAt a c.1 ≠ none ∨
               ∃ pa, s.outsideTranslate a c.1 false = .ok pa ∧ s.lineHeld (pa / 64) = true) →
             ∃ t, exec (.peerRequest port false va len bs) s = .next t ∧ t.replies = s.replies ∧
               t.portReads = s.portReads ++ [⟨8 + port, port, some a, va, len⟩])) ∧
         (s.outsideBytes a va len = none → Refused (.peerRequest port false va len bs)) ∧
         (∀ t, bs.length ≤ 224 → va % 256 + bs.length ≤ 256 → s.outsideWrite (8 + port) a va bs = some t →
           exec (.peerRequest port true va len bs) s = .next t) ∧
         (224 < bs.length ∨ 256 < va % 256 + bs.length ∨ s.outsideWrite (8 + port) a va bs = none →
           Refused (.peerRequest port true va len bs))) ∧
       (∀ f, l.fenced = false →
         let good : Prop := f.crc = crc64 (flitBody f) ∧ f.type.toNat < 6 ∧ (f.type = 1 → f.seq.toNat = l.expect)
         let ack := f.ackSeq.toNat
         let n := (ack + 4096 - l.acked) % 4096
         let advances : Bool := decide (0 < n ∧ n ≤ (l.next + 4095 - l.acked) % 4096)
         let replays := if advances = true then 0 else l.replays
         let y : Link := { l with
           acked := if advances = true then ack else l.acked, replays := replays
           credits := addCredits l.credits f.credits }
         let After (replies : List Reply) (y : Link) : Prop := ∃ t, exec (.peerFlitReceive port f) s = .next t ∧
           { t with
             links := s.links, replies := s.replies, peerCut := s.peerCut, fresh := s.fresh, portReads := s.portReads
             records := s.records } = s ∧
           (if y.fenced = true then PeerDropped s t port else t.portReads = s.portReads ∧ t.records = s.records) ∧
           t.replies = s.replies ++ replies ∧ (f.type ≠ 1 → t.fresh = s.fresh) ∧
           KMap.get t.links Link.fresh port = y ∧ ∀ j, j ≠ port → KMap.get t.links Link.fresh j = KMap.get s.links Link.fresh j
         (¬good → After [.nak port l.expect] l) ∧
         (good → f.type = 1 → ∃ k, k < 4 ∧ After [.ack port f.seq.toNat, .credit port (BitVec.ofNat 32 (256 ^ k))]
           { y with expect := (l.expect + 1) % 4096 }) ∧
         (good → f.type = 3 → replays < 8 → After
           (.replay port ((ack + 1) % 4096) :: (l.store.take ((l.next + 4095 - ack) % 4096)).reverse.map (.flit port ·))
           { y with replays := replays + 1 }) ∧
         (good → f.type = 3 → 8 ≤ replays → After [] { y with fenced := true, queue := [] }) ∧
         (good → f.type = 0 ∨ f.type = 2 ∨ f.type = 4 → After [] y) ∧
         (good → f.type = 5 → After [] { l with fenced := true, queue := [] }) ∧
         ∀ c k, k < 4 → (addCredits l.credits c).toNat / 256 ^ k % 256 =
           (l.credits.toNat / 256 ^ k + c.toNat / 256 ^ k) % 256)) ∧
     (∀ q rest c, l.fenced = false → l.queue = q :: rest → (l.next + 4095 - l.acked) % 4096 < 512 → c < 4 →
       l.credits.toNat / 256 ^ c % 256 ≠ 0 → (∀ j, j < c → l.credits.toNat / 256 ^ j % 256 = 0) →
       ∃ f, f.type = 1 ∧ f.seq.toNat = l.next % 4096 ∧ f.ackSeq.toNat = (l.expect + 4095) % 4096 ∧
         f.crc = crc64 (flitBody f) ∧ (s.sendFlit port).replies = s.replies ++ .flit port f :: (match q with
           | .request _ => []
           | .response (some bs) => [.bytes (8 + port) bs]
           | .response none => [.error (8 + port)]) ∧
         KMap.get (s.sendFlit port).links Link.fresh port = { l with
           queue := rest, next := (l.next + 1) % 4096, store := (f :: l.store).take 512
           credits := l.credits - BitVec.ofNat 32 (256 ^ c) }) ∧
     (l.queue = [] ∨ l.fenced = true ∨ l.credits = 0 ∨ 512 ≤ (l.next + 4095 - l.acked) % 4096 → s.sendFlit port = s))

end
end

