-- ==== Sys2Proof/Laws/Map.lean ====
section
/-! SUPPORT. Sparse tables and package memory: what a read gives after each operation, and that every write
keeps the canonical form of memory. -/

namespace Sys2Proof.Machine

@[simp] theorem KMap.find?_nil (k : Nat) : KMap.find? ([] : KMap α) k = none := rfl

theorem KMap.find?_cons (j : Nat) (a : α) (m : KMap α) (k : Nat) :
    KMap.find? ((j, a) :: m) k = if j = k then some a else KMap.find? m k := rfl

theorem KMap.find?_filter_key (m : KMap α) (f : Nat → Bool) (k : Nat) :
    KMap.find? (m.filter fun e => f e.1) k = if f k then KMap.find? m k else none := by
  induction m with
  | nil => simp
  | cons e m ih =>
      obtain ⟨j, a⟩ := e
      by_cases hj : f j
      · simp only [List.filter_cons, hj, if_true, KMap.find?_cons, ih]
        by_cases h : j = k
        · subst h; simp [hj]
        · simp [h]
      · simp only [List.filter_cons, hj, KMap.find?_cons]
        by_cases h : j = k
        · subst h; simp [hj, ih]
        · simp [h, ih]

@[simp] theorem KMap.find?_del_self (m : KMap α) (k : Nat) : KMap.find? (KMap.del m k) k = none := by
  rw [KMap.del, KMap.find?_filter_key m (fun j => j != k)]; simp

theorem KMap.find?_del_ne (m : KMap α) (h : j ≠ k) : KMap.find? (KMap.del m k) j = KMap.find? m j := by
  rw [KMap.del, KMap.find?_filter_key m (fun j => j != k)]; simp [h]

theorem KMap.find?_insert_ne (m : KMap α) (a : α) (h : j ≠ k) :
    KMap.find? (KMap.insert m k a) j = KMap.find? m j := by
  induction m with
  | nil => simp [KMap.insert, KMap.find?_cons, Ne.symm h]
  | cons e m ih =>
      obtain ⟨i, b⟩ := e
      by_cases hk : k < i
      · simp [KMap.insert, hk, KMap.find?_cons, Ne.symm h]
      · simp [KMap.insert, hk, KMap.find?_cons, ih]

theorem KMap.find?_insert_self (m : KMap α) (a : α) (h : KMap.find? m k = none) :
    KMap.find? (KMap.insert m k a) k = some a := by
  induction m with
  | nil => simp [KMap.insert, KMap.find?_cons]
  | cons e m ih =>
      obtain ⟨i, b⟩ := e
      simp only [KMap.find?_cons] at h
      by_cases hi : i = k
      · simp [hi] at h
      · simp only [hi, if_false] at h
        by_cases hk : k < i
        · simp [KMap.insert, hk, KMap.find?_cons]
        · simp [KMap.insert, hk, KMap.find?_cons, hi, ih h]

@[simp] theorem KMap.find?_put_self (m : KMap α) (k : Nat) (a : α) :
    KMap.find? (KMap.put m k a) k = some a :=
  KMap.find?_insert_self _ a (KMap.find?_del_self m k)

theorem KMap.find?_put_ne (m : KMap α) (a : α) (h : j ≠ k) :
    KMap.find? (KMap.put m k a) j = KMap.find? m j := by
  rw [KMap.put, KMap.find?_insert_ne _ _ h, KMap.find?_del_ne _ h]

@[simp] theorem KMap.get_set_self [DecidableEq α] (m : KMap α) (z : α) (k : Nat) (a : α) :
    KMap.get (KMap.set m z k a) z k = a := by
  unfold KMap.set KMap.get
  split
  · simp [*]
  · simp

theorem KMap.get_set_ne [DecidableEq α] (m : KMap α) (z : α) (a : α) (h : j ≠ k) :
    KMap.get (KMap.set m z k a) z j = KMap.get m z j := by
  unfold KMap.set KMap.get
  split
  · rw [KMap.find?_del_ne _ h]
  · rw [KMap.find?_put_ne _ _ h]

theorem KMap.get_set [DecidableEq α] (m : KMap α) (z : α) (k j : Nat) (a : α) :
    KMap.get (KMap.set m z k a) z j = if j = k then a else KMap.get m z j := by
  by_cases h : j = k
  · subst h; simp
  · simp [h, KMap.get_set_ne m z a h]

theorem KMap.find?_modify (m : KMap α) (k : Nat) (f : α → α) (j : Nat) :
    KMap.find? (KMap.modify m k f) j = if j = k then (KMap.find? m k).map f else KMap.find? m j := by
  induction m with
  | nil => simp [KMap.modify]
  | cons e m ih =>
      obtain ⟨i, a⟩ := e
      simp only [KMap.modify, List.map_cons] at ih ⊢
      by_cases hi : i = k
      · subst hi
        by_cases hj : j = i
        · subst hj; simp [KMap.find?_cons]
        · simp only [if_true, KMap.find?_cons, Ne.symm hj, if_false]
          simpa [KMap.modify, hj] using ih
      · by_cases hj : j = k
        · subst hj
          simp only [hi, if_false, KMap.find?_cons]
          simpa using ih
        · simp only [hi, if_false, KMap.find?_cons, hj]
          by_cases hij : i = j
          · simp [hij]
          · simp only [hij, if_false]
            simpa [hj] using ih

@[simp] theorem KMap.find?_modify_self (m : KMap α) (k : Nat) (f : α → α) :
    KMap.find? (KMap.modify m k f) k = (KMap.find? m k).map f := by simp [KMap.find?_modify]

theorem KMap.find?_modify_ne (m : KMap α) (f : α → α) (h : j ≠ k) :
    KMap.find? (KMap.modify m k f) j = KMap.find? m j := by simp [KMap.find?_modify, h]

theorem KMap.find?_record (m : KMap α) (k : Nat) (a : α) (j : Nat) :
    KMap.find? (KMap.record m k a) j = if j = k then some ((KMap.find? m k).getD a) else KMap.find? m j := by
  unfold KMap.record
  cases h : KMap.find? m k with
  | some b => by_cases hj : j = k <;> simp [hj, h]
  | none =>
      by_cases hj : j = k
      · subst hj; simp [KMap.find?_insert_self m a h]
      · simp [hj, KMap.find?_insert_ne m a hj]

theorem KMap.length_insert (m : KMap α) (k : Nat) (a : α) : (KMap.insert m k a).length = m.length + 1 := by
  induction m with
  | nil => rfl
  | cons e m ih =>
      obtain ⟨j, b⟩ := e
      by_cases h : k < j <;> simp [KMap.insert, h, ih]

theorem KMap.length_record_le (m : KMap α) (k : Nat) (a : α) : (KMap.record m k a).length ≤ m.length + 1 := by
  unfold KMap.record
  split
  · omega
  · rw [KMap.length_insert]

/-! ### Canonical form -/

theorem KMap.sorted_filter (m : KMap α) (f : Nat × α → Bool) (h : KMap.sorted m) : KMap.sorted (m.filter f) := by
  induction m with
  | nil => rfl
  | cons e m ih =>
      obtain ⟨j, a⟩ := e
      simp only [KMap.sorted, Bool.and_eq_true, List.all_eq_true, decide_eq_true_eq] at h
      by_cases he : f (j, a)
      · simp only [List.filter_cons, he, if_true, KMap.sorted, Bool.and_eq_true, List.all_eq_true,
          decide_eq_true_eq]
        exact ⟨fun x hx => h.1 x (List.mem_filter.mp hx).1, ih h.2⟩
      · simpa [List.filter_cons, he] using ih h.2

theorem KMap.mem_insert (m : KMap α) (k : Nat) (a : α) (e : Nat × α) (h : e ∈ KMap.insert m k a) :
    e = (k, a) ∨ e ∈ m := by
  induction m with
  | nil => simpa [KMap.insert] using h
  | cons x m ih =>
      obtain ⟨j, b⟩ := x
      by_cases hk : k < j
      · simpa [KMap.insert, hk] using h
      · simp only [KMap.insert, hk, if_false, List.mem_cons] at h ⊢
        rcases h with h | h
        · exact .inr (.inl h)
        · rcases ih h with h | h
          · exact .inl h
          · exact .inr (.inr h)

theorem KMap.sorted_insert (m : KMap α) (k : Nat) (a : α) (h : KMap.sorted m) (hk : ∀ e ∈ m, e.1 ≠ k) :
    KMap.sorted (KMap.insert m k a) := by
  induction m with
  | nil => rfl
  | cons x m ih =>
      obtain ⟨j, b⟩ := x
      simp only [KMap.sorted, Bool.and_eq_true, List.all_eq_true, decide_eq_true_eq] at h
      by_cases hj : k < j
      · simp only [KMap.insert, hj, if_true, KMap.sorted, Bool.and_eq_true, List.all_eq_true,
          decide_eq_true_eq, List.mem_cons]
        refine ⟨?_, h.1, h.2⟩
        rintro e (rfl | he)
        · exact hj
        · exact Nat.lt_trans hj (h.1 e he)
      · simp only [KMap.insert, hj, if_false, KMap.sorted, Bool.and_eq_true, List.all_eq_true,
          decide_eq_true_eq]
        refine ⟨fun e he => ?_, ih h.2 fun e he => hk e (List.mem_cons_of_mem _ he)⟩
        rcases KMap.mem_insert _ _ _ _ he with rfl | he
        · have := hk (j, b) (by simp)
          dsimp only at this ⊢
          omega
        · exact h.1 e he

theorem KMap.sorted_put (m : KMap α) (k : Nat) (a : α) (h : KMap.sorted m) : KMap.sorted (KMap.put m k a) :=
  KMap.sorted_insert _ _ _ (KMap.sorted_filter _ _ h) fun e he => by simpa using (List.mem_filter.mp he).2

/-! ### Memory -/

theorem Memory.wf_write (m : List Host.Cell) (a : Nat) (b : Byte) (h : Memory.wf m) :
    Memory.wf (Memory.write m a b) := by
  simp only [Memory.wf, Bool.and_eq_true, List.all_eq_true, bne_iff_ne] at h ⊢
  unfold Memory.write KMap.set
  split
  · exact ⟨KMap.sorted_filter _ _ h.1, fun e he => h.2 e (List.mem_filter.mp he).1⟩
  · refine ⟨KMap.sorted_put _ _ _ h.1, fun e he => ?_⟩
    rcases KMap.mem_insert _ _ _ _ he with rfl | he
    · assumption
    · exact h.2 e (List.mem_filter.mp he).1

theorem Memory.wf_writeBytes (m : List Host.Cell) (a : Nat) (bs : List Byte) (h : Memory.wf m) :
    Memory.wf (Memory.writeBytes m a bs) := by
  induction bs generalizing m a with
  | nil => exact h
  | cons b bs ih => exact ih _ _ (Memory.wf_write m a b h)

theorem Memory.read_write (m : List Host.Cell) (a k : Nat) (b : Byte) :
    Memory.read (Memory.write m a b) k = if k = a then b else Memory.read m k :=
  KMap.get_set m 0 a k b

theorem Memory.read_writeBytes_out (m : List Host.Cell) (a : Nat) (bs : List Byte) (k : Nat)
    (h : k < a ∨ a + bs.length ≤ k) : Memory.read (Memory.writeBytes m a bs) k = Memory.read m k := by
  induction bs generalizing m a with
  | nil => rfl
  | cons b bs ih =>
      simp only [List.length_cons] at h
      rw [Memory.writeBytes, ih _ _ (by omega), Memory.read_write, if_neg (by omega)]

theorem Memory.read_writeBytes_in (m : List Host.Cell) (a : Nat) (bs : List Byte) (i : Nat)
    (h : i < bs.length) : Memory.read (Memory.writeBytes m a bs) (a + i) = bs.getD i 0 := by
  induction bs generalizing m a i with
  | nil => simp at h
  | cons b bs ih =>
      rw [Memory.writeBytes]
      cases i with
      | zero => rw [Memory.read_writeBytes_out _ _ _ _ (by omega)]; simp [Memory.read_write]
      | succ i =>
          have := ih (Memory.write m a b) (a + 1) i (by simpa using h)
          rw [show a + (i + 1) = a + 1 + i by omega, this]; simp

end Sys2Proof.Machine
end

