-- ==== Sys2Proof/Laws/State.lean ====
section
/-! SUPPORT. What each field reads after each update of a state, a pool or a CP: every field an operation does not
name is as it was.  All hold by unfolding the record update. -/

namespace Sys2Proof.Machine

/-! ### State.setPool -/

@[simp] theorem State.setPool_mem (s : State) (p : Nat) (x : Pool) :
    (s.setPool p x).mem = s.mem := rfl
@[simp] theorem State.setPool_poison (s : State) (p : Nat) (x : Pool) :
    (s.setPool p x).poison = s.poison := rfl
@[simp] theorem State.setPool_keyOf (s : State) (p : Nat) (x : Pool) :
    (s.setPool p x).keyOf = s.keyOf := rfl
@[simp] theorem State.setPool_lineClock (s : State) (p : Nat) (x : Pool) :
    (s.setPool p x).lineClock = s.lineClock := rfl
@[simp] theorem State.setPool_overwritten (s : State) (p : Nat) (x : Pool) :
    (s.setPool p x).overwritten = s.overwritten := rfl
@[simp] theorem State.setPool_llc (s : State) (p : Nat) (x : Pool) :
    (s.setPool p x).llc = s.llc := rfl
@[simp] theorem State.setPool_evicted (s : State) (p : Nat) (x : Pool) :
    (s.setPool p x).evicted = s.evicted := rfl
@[simp] theorem State.setPool_out (s : State) (p : Nat) (x : Pool) :
    (s.setPool p x).out = s.out := rfl
@[simp] theorem State.setPool_journal (s : State) (p : Nat) (x : Pool) :
    (s.setPool p x).journal = s.journal := rfl
@[simp] theorem State.setPool_records (s : State) (p : Nat) (x : Pool) :
    (s.setPool p x).records = s.records := rfl
@[simp] theorem State.setPool_unacked (s : State) (p : Nat) (x : Pool) :
    (s.setPool p x).unacked = s.unacked := rfl
@[simp] theorem State.setPool_l1 (s : State) (p : Nat) (x : Pool) :
    (s.setPool p x).l1 = s.l1 := rfl
@[simp] theorem State.setPool_cc (s : State) (p : Nat) (x : Pool) :
    (s.setPool p x).cc = s.cc := rfl
@[simp] theorem State.setPool_dir (s : State) (p : Nat) (x : Pool) :
    (s.setPool p x).dir = s.dir := rfl
@[simp] theorem State.setPool_dropAll (s : State) (p : Nat) (x : Pool) :
    (s.setPool p x).dropAll = s.dropAll := rfl
@[simp] theorem State.setPool_watch (s : State) (p : Nat) (x : Pool) :
    (s.setPool p x).watch = s.watch := rfl
@[simp] theorem State.setPool_tlb (s : State) (p : Nat) (x : Pool) :
    (s.setPool p x).tlb = s.tlb := rfl
@[simp] theorem State.setPool_commands (s : State) (p : Nat) (x : Pool) :
    (s.setPool p x).commands = s.commands := rfl
@[simp] theorem State.setPool_faults (s : State) (p : Nat) (x : Pool) :
    (s.setPool p x).faults = s.faults := rfl
@[simp] theorem State.setPool_scClock (s : State) (p : Nat) (x : Pool) :
    (s.setPool p x).scClock = s.scClock := rfl
@[simp] theorem State.setPool_scReport (s : State) (p : Nat) (x : Pool) :
    (s.setPool p x).scReport = s.scReport := rfl
@[simp] theorem State.setPool_held (s : State) (p : Nat) (x : Pool) :
    (s.setPool p x).held = s.held := rfl
@[simp] theorem State.setPool_asids (s : State) (p : Nat) (x : Pool) :
    (s.setPool p x).asids = s.asids := rfl
@[simp] theorem State.setPool_keyGen (s : State) (p : Nat) (x : Pool) :
    (s.setPool p x).keyGen = s.keyGen := rfl
@[simp] theorem State.setPool_queues (s : State) (p : Nat) (x : Pool) :
    (s.setPool p x).queues = s.queues := rfl
@[simp] theorem State.setPool_waiting (s : State) (p : Nat) (x : Pool) :
    (s.setPool p x).waiting = s.waiting := rfl
@[simp] theorem State.setPool_packing (s : State) (p : Nat) (x : Pool) :
    (s.setPool p x).packing = s.packing := rfl
@[simp] theorem State.setPool_signals (s : State) (p : Nat) (x : Pool) :
    (s.setPool p x).signals = s.signals := rfl
@[simp] theorem State.setPool_completions (s : State) (p : Nat) (x : Pool) :
    (s.setPool p x).completions = s.completions := rfl
@[simp] theorem State.setPool_recipes (s : State) (p : Nat) (x : Pool) :
    (s.setPool p x).recipes = s.recipes := rfl
@[simp] theorem State.setPool_recipeLimit (s : State) (p : Nat) (x : Pool) :
    (s.setPool p x).recipeLimit = s.recipeLimit := rfl
@[simp] theorem State.setPool_ways (s : State) (p : Nat) (x : Pool) :
    (s.setPool p x).ways = s.ways := rfl
@[simp] theorem State.setPool_windows (s : State) (p : Nat) (x : Pool) :
    (s.setPool p x).windows = s.windows := rfl
@[simp] theorem State.setPool_devices (s : State) (p : Nat) (x : Pool) :
    (s.setPool p x).devices = s.devices := rfl
@[simp] theorem State.setPool_links (s : State) (p : Nat) (x : Pool) :
    (s.setPool p x).links = s.links := rfl
@[simp] theorem State.setPool_handles (s : State) (p : Nat) (x : Pool) :
    (s.setPool p x).handles = s.handles := rfl
@[simp] theorem State.setPool_peerOps (s : State) (p : Nat) (x : Pool) :
    (s.setPool p x).peerOps = s.peerOps := rfl
@[simp] theorem State.setPool_peerCut (s : State) (p : Nat) (x : Pool) :
    (s.setPool p x).peerCut = s.peerCut := rfl
@[simp] theorem State.setPool_replies (s : State) (p : Nat) (x : Pool) :
    (s.setPool p x).replies = s.replies := rfl
@[simp] theorem State.setPool_portReads (s : State) (p : Nat) (x : Pool) :
    (s.setPool p x).portReads = s.portReads := rfl
@[simp] theorem State.setPool_measured (s : State) (p : Nat) (x : Pool) :
    (s.setPool p x).measured = s.measured := rfl
@[simp] theorem State.setPool_report (s : State) (p : Nat) (x : Pool) :
    (s.setPool p x).report = s.report := rfl
@[simp] theorem State.setPool_log (s : State) (p : Nat) (x : Pool) :
    (s.setPool p x).log = s.log := rfl
@[simp] theorem State.setPool_tests (s : State) (p : Nat) (x : Pool) :
    (s.setPool p x).tests = s.tests := rfl
@[simp] theorem State.setPool_seqResets (s : State) (p : Nat) (x : Pool) :
    (s.setPool p x).seqResets = s.seqResets := rfl
@[simp] theorem State.setPool_fencedCores (s : State) (p : Nat) (x : Pool) :
    (s.setPool p x).fencedCores = s.fencedCores := rfl
@[simp] theorem State.setPool_fencedClusters (s : State) (p : Nat) (x : Pool) :
    (s.setPool p x).fencedClusters = s.fencedClusters := rfl
@[simp] theorem State.setPool_fencedDies (s : State) (p : Nat) (x : Pool) :
    (s.setPool p x).fencedDies = s.fencedDies := rfl
@[simp] theorem State.setPool_replReq (s : State) (p : Nat) (x : Pool) :
    (s.setPool p x).replReq = s.replReq := rfl
@[simp] theorem State.setPool_viral (s : State) (p : Nat) (x : Pool) :
    (s.setPool p x).viral = s.viral := rfl
@[simp] theorem State.setPool_replays (s : State) (p : Nat) (x : Pool) :
    (s.setPool p x).replays = s.replays := rfl
@[simp] theorem State.setPool_headDie (s : State) (p : Nat) (x : Pool) :
    (s.setPool p x).headDie = s.headDie := rfl
@[simp] theorem State.setPool_toll (s : State) (p : Nat) (x : Pool) :
    (s.setPool p x).toll = s.toll := rfl
@[simp] theorem State.setPool_quantum (s : State) (p : Nat) (x : Pool) :
    (s.setPool p x).quantum = s.quantum := rfl
@[simp] theorem State.setPool_period (s : State) (p : Nat) (x : Pool) :
    (s.setPool p x).period = s.period := rfl
@[simp] theorem State.setPool_tollAt (s : State) (p : Nat) (x : Pool) :
    (s.setPool p x).tollAt = s.tollAt := rfl
@[simp] theorem State.setPool_quantumAt (s : State) (p : Nat) (x : Pool) :
    (s.setPool p x).quantumAt = s.quantumAt := rfl
@[simp] theorem State.setPool_phase (s : State) (p : Nat) (x : Pool) :
    (s.setPool p x).phase = s.phase := rfl
@[simp] theorem State.setPool_powerLimit (s : State) (p : Nat) (x : Pool) :
    (s.setPool p x).powerLimit = s.powerLimit := rfl
@[simp] theorem State.setPool_clockMHz (s : State) (p : Nat) (x : Pool) :
    (s.setPool p x).clockMHz = s.clockMHz := rfl
@[simp] theorem State.setPool_sampleAt (s : State) (p : Nat) (x : Pool) :
    (s.setPool p x).sampleAt = s.sampleAt := rfl
@[simp] theorem State.setPool_now (s : State) (p : Nat) (x : Pool) :
    (s.setPool p x).now = s.now := rfl
@[simp] theorem State.setPool_slots (s : State) (p : Nat) (x : Pool) :
    (s.setPool p x).slots = s.slots := rfl
@[simp] theorem State.setPool_slotUnits (s : State) (p : Nat) (x : Pool) :
    (s.setPool p x).slotUnits = s.slotUnits := rfl
@[simp] theorem State.setPool_time (s : State) (p : Nat) (x : Pool) :
    (s.setPool p x).time = s.time := rfl
@[simp] theorem State.setPool_dispatchAt (s : State) (p : Nat) (x : Pool) :
    (s.setPool p x).dispatchAt = s.dispatchAt := rfl
@[simp] theorem State.setPool_agenda (s : State) (p : Nat) (x : Pool) :
    (s.setPool p x).agenda = s.agenda := rfl
@[simp] theorem State.setPool_focus (s : State) (p : Nat) (x : Pool) :
    (s.setPool p x).focus = s.focus := rfl
@[simp] theorem State.setPool_eventTurn (s : State) (p : Nat) (x : Pool) :
    (s.setPool p x).eventTurn = s.eventTurn := rfl
@[simp] theorem State.setPool_fresh (s : State) (p : Nat) (x : Pool) :
    (s.setPool p x).fresh = s.fresh := rfl
@[simp] theorem State.setPool_nextId (s : State) (p : Nat) (x : Pool) :
    (s.setPool p x).nextId = s.nextId := rfl

/-! ### State.modPool -/

@[simp] theorem State.modPool_mem (s : State) (p : Nat) (f : Pool → Pool) :
    (s.modPool p f).mem = s.mem := rfl
@[simp] theorem State.modPool_poison (s : State) (p : Nat) (f : Pool → Pool) :
    (s.modPool p f).poison = s.poison := rfl
@[simp] theorem State.modPool_keyOf (s : State) (p : Nat) (f : Pool → Pool) :
    (s.modPool p f).keyOf = s.keyOf := rfl
@[simp] theorem State.modPool_lineClock (s : State) (p : Nat) (f : Pool → Pool) :
    (s.modPool p f).lineClock = s.lineClock := rfl
@[simp] theorem State.modPool_overwritten (s : State) (p : Nat) (f : Pool → Pool) :
    (s.modPool p f).overwritten = s.overwritten := rfl
@[simp] theorem State.modPool_llc (s : State) (p : Nat) (f : Pool → Pool) :
    (s.modPool p f).llc = s.llc := rfl
@[simp] theorem State.modPool_evicted (s : State) (p : Nat) (f : Pool → Pool) :
    (s.modPool p f).evicted = s.evicted := rfl
@[simp] theorem State.modPool_out (s : State) (p : Nat) (f : Pool → Pool) :
    (s.modPool p f).out = s.out := rfl
@[simp] theorem State.modPool_journal (s : State) (p : Nat) (f : Pool → Pool) :
    (s.modPool p f).journal = s.journal := rfl
@[simp] theorem State.modPool_records (s : State) (p : Nat) (f : Pool → Pool) :
    (s.modPool p f).records = s.records := rfl
@[simp] theorem State.modPool_unacked (s : State) (p : Nat) (f : Pool → Pool) :
    (s.modPool p f).unacked = s.unacked := rfl
@[simp] theorem State.modPool_l1 (s : State) (p : Nat) (f : Pool → Pool) :
    (s.modPool p f).l1 = s.l1 := rfl
@[simp] theorem State.modPool_cc (s : State) (p : Nat) (f : Pool → Pool) :
    (s.modPool p f).cc = s.cc := rfl
@[simp] theorem State.modPool_dir (s : State) (p : Nat) (f : Pool → Pool) :
    (s.modPool p f).dir = s.dir := rfl
@[simp] theorem State.modPool_dropAll (s : State) (p : Nat) (f : Pool → Pool) :
    (s.modPool p f).dropAll = s.dropAll := rfl
@[simp] theorem State.modPool_watch (s : State) (p : Nat) (f : Pool → Pool) :
    (s.modPool p f).watch = s.watch := rfl
@[simp] theorem State.modPool_tlb (s : State) (p : Nat) (f : Pool → Pool) :
    (s.modPool p f).tlb = s.tlb := rfl
@[simp] theorem State.modPool_commands (s : State) (p : Nat) (f : Pool → Pool) :
    (s.modPool p f).commands = s.commands := rfl
@[simp] theorem State.modPool_faults (s : State) (p : Nat) (f : Pool → Pool) :
    (s.modPool p f).faults = s.faults := rfl
@[simp] theorem State.modPool_scClock (s : State) (p : Nat) (f : Pool → Pool) :
    (s.modPool p f).scClock = s.scClock := rfl
@[simp] theorem State.modPool_scReport (s : State) (p : Nat) (f : Pool → Pool) :
    (s.modPool p f).scReport = s.scReport := rfl
@[simp] theorem State.modPool_held (s : State) (p : Nat) (f : Pool → Pool) :
    (s.modPool p f).held = s.held := rfl
@[simp] theorem State.modPool_asids (s : State) (p : Nat) (f : Pool → Pool) :
    (s.modPool p f).asids = s.asids := rfl
@[simp] theorem State.modPool_keyGen (s : State) (p : Nat) (f : Pool → Pool) :
    (s.modPool p f).keyGen = s.keyGen := rfl
@[simp] theorem State.modPool_queues (s : State) (p : Nat) (f : Pool → Pool) :
    (s.modPool p f).queues = s.queues := rfl
@[simp] theorem State.modPool_waiting (s : State) (p : Nat) (f : Pool → Pool) :
    (s.modPool p f).waiting = s.waiting := rfl
@[simp] theorem State.modPool_packing (s : State) (p : Nat) (f : Pool → Pool) :
    (s.modPool p f).packing = s.packing := rfl
@[simp] theorem State.modPool_signals (s : State) (p : Nat) (f : Pool → Pool) :
    (s.modPool p f).signals = s.signals := rfl
@[simp] theorem State.modPool_completions (s : State) (p : Nat) (f : Pool → Pool) :
    (s.modPool p f).completions = s.completions := rfl
@[simp] theorem State.modPool_recipes (s : State) (p : Nat) (f : Pool → Pool) :
    (s.modPool p f).recipes = s.recipes := rfl
@[simp] theorem State.modPool_recipeLimit (s : State) (p : Nat) (f : Pool → Pool) :
    (s.modPool p f).recipeLimit = s.recipeLimit := rfl
@[simp] theorem State.modPool_ways (s : State) (p : Nat) (f : Pool → Pool) :
    (s.modPool p f).ways = s.ways := rfl
@[simp] theorem State.modPool_windows (s : State) (p : Nat) (f : Pool → Pool) :
    (s.modPool p f).windows = s.windows := rfl
@[simp] theorem State.modPool_devices (s : State) (p : Nat) (f : Pool → Pool) :
    (s.modPool p f).devices = s.devices := rfl
@[simp] theorem State.modPool_links (s : State) (p : Nat) (f : Pool → Pool) :
    (s.modPool p f).links = s.links := rfl
@[simp] theorem State.modPool_handles (s : State) (p : Nat) (f : Pool → Pool) :
    (s.modPool p f).handles = s.handles := rfl
@[simp] theorem State.modPool_peerOps (s : State) (p : Nat) (f : Pool → Pool) :
    (s.modPool p f).peerOps = s.peerOps := rfl
@[simp] theorem State.modPool_peerCut (s : State) (p : Nat) (f : Pool → Pool) :
    (s.modPool p f).peerCut = s.peerCut := rfl
@[simp] theorem State.modPool_replies (s : State) (p : Nat) (f : Pool → Pool) :
    (s.modPool p f).replies = s.replies := rfl
@[simp] theorem State.modPool_portReads (s : State) (p : Nat) (f : Pool → Pool) :
    (s.modPool p f).portReads = s.portReads := rfl
@[simp] theorem State.modPool_measured (s : State) (p : Nat) (f : Pool → Pool) :
    (s.modPool p f).measured = s.measured := rfl
@[simp] theorem State.modPool_report (s : State) (p : Nat) (f : Pool → Pool) :
    (s.modPool p f).report = s.report := rfl
@[simp] theorem State.modPool_log (s : State) (p : Nat) (f : Pool → Pool) :
    (s.modPool p f).log = s.log := rfl
@[simp] theorem State.modPool_tests (s : State) (p : Nat) (f : Pool → Pool) :
    (s.modPool p f).tests = s.tests := rfl
@[simp] theorem State.modPool_seqResets (s : State) (p : Nat) (f : Pool → Pool) :
    (s.modPool p f).seqResets = s.seqResets := rfl
@[simp] theorem State.modPool_fencedCores (s : State) (p : Nat) (f : Pool → Pool) :
    (s.modPool p f).fencedCores = s.fencedCores := rfl
@[simp] theorem State.modPool_fencedClusters (s : State) (p : Nat) (f : Pool → Pool) :
    (s.modPool p f).fencedClusters = s.fencedClusters := rfl
@[simp] theorem State.modPool_fencedDies (s : State) (p : Nat) (f : Pool → Pool) :
    (s.modPool p f).fencedDies = s.fencedDies := rfl
@[simp] theorem State.modPool_replReq (s : State) (p : Nat) (f : Pool → Pool) :
    (s.modPool p f).replReq = s.replReq := rfl
@[simp] theorem State.modPool_viral (s : State) (p : Nat) (f : Pool → Pool) :
    (s.modPool p f).viral = s.viral := rfl
@[simp] theorem State.modPool_replays (s : State) (p : Nat) (f : Pool → Pool) :
    (s.modPool p f).replays = s.replays := rfl
@[simp] theorem State.modPool_headDie (s : State) (p : Nat) (f : Pool → Pool) :
    (s.modPool p f).headDie = s.headDie := rfl
@[simp] theorem State.modPool_toll (s : State) (p : Nat) (f : Pool → Pool) :
    (s.modPool p f).toll = s.toll := rfl
@[simp] theorem State.modPool_quantum (s : State) (p : Nat) (f : Pool → Pool) :
    (s.modPool p f).quantum = s.quantum := rfl
@[simp] theorem State.modPool_period (s : State) (p : Nat) (f : Pool → Pool) :
    (s.modPool p f).period = s.period := rfl
@[simp] theorem State.modPool_tollAt (s : State) (p : Nat) (f : Pool → Pool) :
    (s.modPool p f).tollAt = s.tollAt := rfl
@[simp] theorem State.modPool_quantumAt (s : State) (p : Nat) (f : Pool → Pool) :
    (s.modPool p f).quantumAt = s.quantumAt := rfl
@[simp] theorem State.modPool_phase (s : State) (p : Nat) (f : Pool → Pool) :
    (s.modPool p f).phase = s.phase := rfl
@[simp] theorem State.modPool_powerLimit (s : State) (p : Nat) (f : Pool → Pool) :
    (s.modPool p f).powerLimit = s.powerLimit := rfl
@[simp] theorem State.modPool_clockMHz (s : State) (p : Nat) (f : Pool → Pool) :
    (s.modPool p f).clockMHz = s.clockMHz := rfl
@[simp] theorem State.modPool_sampleAt (s : State) (p : Nat) (f : Pool → Pool) :
    (s.modPool p f).sampleAt = s.sampleAt := rfl
@[simp] theorem State.modPool_now (s : State) (p : Nat) (f : Pool → Pool) :
    (s.modPool p f).now = s.now := rfl
@[simp] theorem State.modPool_slots (s : State) (p : Nat) (f : Pool → Pool) :
    (s.modPool p f).slots = s.slots := rfl
@[simp] theorem State.modPool_slotUnits (s : State) (p : Nat) (f : Pool → Pool) :
    (s.modPool p f).slotUnits = s.slotUnits := rfl
@[simp] theorem State.modPool_time (s : State) (p : Nat) (f : Pool → Pool) :
    (s.modPool p f).time = s.time := rfl
@[simp] theorem State.modPool_dispatchAt (s : State) (p : Nat) (f : Pool → Pool) :
    (s.modPool p f).dispatchAt = s.dispatchAt := rfl
@[simp] theorem State.modPool_agenda (s : State) (p : Nat) (f : Pool → Pool) :
    (s.modPool p f).agenda = s.agenda := rfl
@[simp] theorem State.modPool_focus (s : State) (p : Nat) (f : Pool → Pool) :
    (s.modPool p f).focus = s.focus := rfl
@[simp] theorem State.modPool_eventTurn (s : State) (p : Nat) (f : Pool → Pool) :
    (s.modPool p f).eventTurn = s.eventTurn := rfl
@[simp] theorem State.modPool_fresh (s : State) (p : Nat) (f : Pool → Pool) :
    (s.modPool p f).fresh = s.fresh := rfl
@[simp] theorem State.modPool_nextId (s : State) (p : Nat) (f : Pool → Pool) :
    (s.modPool p f).nextId = s.nextId := rfl

/-! ### State.modCp -/

@[simp] theorem State.modCp_mem (s : State) (p c : Nat) (f : Cp → Cp) :
    (s.modCp p c f).mem = s.mem := rfl
@[simp] theorem State.modCp_poison (s : State) (p c : Nat) (f : Cp → Cp) :
    (s.modCp p c f).poison = s.poison := rfl
@[simp] theorem State.modCp_keyOf (s : State) (p c : Nat) (f : Cp → Cp) :
    (s.modCp p c f).keyOf = s.keyOf := rfl
@[simp] theorem State.modCp_lineClock (s : State) (p c : Nat) (f : Cp → Cp) :
    (s.modCp p c f).lineClock = s.lineClock := rfl
@[simp] theorem State.modCp_overwritten (s : State) (p c : Nat) (f : Cp → Cp) :
    (s.modCp p c f).overwritten = s.overwritten := rfl
@[simp] theorem State.modCp_llc (s : State) (p c : Nat) (f : Cp → Cp) :
    (s.modCp p c f).llc = s.llc := rfl
@[simp] theorem State.modCp_evicted (s : State) (p c : Nat) (f : Cp → Cp) :
    (s.modCp p c f).evicted = s.evicted := rfl
@[simp] theorem State.modCp_out (s : State) (p c : Nat) (f : Cp → Cp) :
    (s.modCp p c f).out = s.out := rfl
@[simp] theorem State.modCp_journal (s : State) (p c : Nat) (f : Cp → Cp) :
    (s.modCp p c f).journal = s.journal := rfl
@[simp] theorem State.modCp_records (s : State) (p c : Nat) (f : Cp → Cp) :
    (s.modCp p c f).records = s.records := rfl
@[simp] theorem State.modCp_unacked (s : State) (p c : Nat) (f : Cp → Cp) :
    (s.modCp p c f).unacked = s.unacked := rfl
@[simp] theorem State.modCp_l1 (s : State) (p c : Nat) (f : Cp → Cp) :
    (s.modCp p c f).l1 = s.l1 := rfl
@[simp] theorem State.modCp_cc (s : State) (p c : Nat) (f : Cp → Cp) :
    (s.modCp p c f).cc = s.cc := rfl
@[simp] theorem State.modCp_dir (s : State) (p c : Nat) (f : Cp → Cp) :
    (s.modCp p c f).dir = s.dir := rfl
@[simp] theorem State.modCp_dropAll (s : State) (p c : Nat) (f : Cp → Cp) :
    (s.modCp p c f).dropAll = s.dropAll := rfl
@[simp] theorem State.modCp_watch (s : State) (p c : Nat) (f : Cp → Cp) :
    (s.modCp p c f).watch = s.watch := rfl
@[simp] theorem State.modCp_tlb (s : State) (p c : Nat) (f : Cp → Cp) :
    (s.modCp p c f).tlb = s.tlb := rfl
@[simp] theorem State.modCp_commands (s : State) (p c : Nat) (f : Cp → Cp) :
    (s.modCp p c f).commands = s.commands := rfl
@[simp] theorem State.modCp_faults (s : State) (p c : Nat) (f : Cp → Cp) :
    (s.modCp p c f).faults = s.faults := rfl
@[simp] theorem State.modCp_scClock (s : State) (p c : Nat) (f : Cp → Cp) :
    (s.modCp p c f).scClock = s.scClock := rfl
@[simp] theorem State.modCp_scReport (s : State) (p c : Nat) (f : Cp → Cp) :
    (s.modCp p c f).scReport = s.scReport := rfl
@[simp] theorem State.modCp_held (s : State) (p c : Nat) (f : Cp → Cp) :
    (s.modCp p c f).held = s.held := rfl
@[simp] theorem State.modCp_asids (s : State) (p c : Nat) (f : Cp → Cp) :
    (s.modCp p c f).asids = s.asids := rfl
@[simp] theorem State.modCp_keyGen (s : State) (p c : Nat) (f : Cp → Cp) :
    (s.modCp p c f).keyGen = s.keyGen := rfl
@[simp] theorem State.modCp_queues (s : State) (p c : Nat) (f : Cp → Cp) :
    (s.modCp p c f).queues = s.queues := rfl
@[simp] theorem State.modCp_waiting (s : State) (p c : Nat) (f : Cp → Cp) :
    (s.modCp p c f).waiting = s.waiting := rfl
@[simp] theorem State.modCp_packing (s : State) (p c : Nat) (f : Cp → Cp) :
    (s.modCp p c f).packing = s.packing := rfl
@[simp] theorem State.modCp_signals (s : State) (p c : Nat) (f : Cp → Cp) :
    (s.modCp p c f).signals = s.signals := rfl
@[simp] theorem State.modCp_completions (s : State) (p c : Nat) (f : Cp → Cp) :
    (s.modCp p c f).completions = s.completions := rfl
@[simp] theorem State.modCp_recipes (s : State) (p c : Nat) (f : Cp → Cp) :
    (s.modCp p c f).recipes = s.recipes := rfl
@[simp] theorem State.modCp_recipeLimit (s : State) (p c : Nat) (f : Cp → Cp) :
    (s.modCp p c f).recipeLimit = s.recipeLimit := rfl
@[simp] theorem State.modCp_ways (s : State) (p c : Nat) (f : Cp → Cp) :
    (s.modCp p c f).ways = s.ways := rfl
@[simp] theorem State.modCp_windows (s : State) (p c : Nat) (f : Cp → Cp) :
    (s.modCp p c f).windows = s.windows := rfl
@[simp] theorem State.modCp_devices (s : State) (p c : Nat) (f : Cp → Cp) :
    (s.modCp p c f).devices = s.devices := rfl
@[simp] theorem State.modCp_links (s : State) (p c : Nat) (f : Cp → Cp) :
    (s.modCp p c f).links = s.links := rfl
@[simp] theorem State.modCp_handles (s : State) (p c : Nat) (f : Cp → Cp) :
    (s.modCp p c f).handles = s.handles := rfl
@[simp] theorem State.modCp_peerOps (s : State) (p c : Nat) (f : Cp → Cp) :
    (s.modCp p c f).peerOps = s.peerOps := rfl
@[simp] theorem State.modCp_peerCut (s : State) (p c : Nat) (f : Cp → Cp) :
    (s.modCp p c f).peerCut = s.peerCut := rfl
@[simp] theorem State.modCp_replies (s : State) (p c : Nat) (f : Cp → Cp) :
    (s.modCp p c f).replies = s.replies := rfl
@[simp] theorem State.modCp_portReads (s : State) (p c : Nat) (f : Cp → Cp) :
    (s.modCp p c f).portReads = s.portReads := rfl
@[simp] theorem State.modCp_measured (s : State) (p c : Nat) (f : Cp → Cp) :
    (s.modCp p c f).measured = s.measured := rfl
@[simp] theorem State.modCp_report (s : State) (p c : Nat) (f : Cp → Cp) :
    (s.modCp p c f).report = s.report := rfl
@[simp] theorem State.modCp_log (s : State) (p c : Nat) (f : Cp → Cp) :
    (s.modCp p c f).log = s.log := rfl
@[simp] theorem State.modCp_tests (s : State) (p c : Nat) (f : Cp → Cp) :
    (s.modCp p c f).tests = s.tests := rfl
@[simp] theorem State.modCp_seqResets (s : State) (p c : Nat) (f : Cp → Cp) :
    (s.modCp p c f).seqResets = s.seqResets := rfl
@[simp] theorem State.modCp_fencedCores (s : State) (p c : Nat) (f : Cp → Cp) :
    (s.modCp p c f).fencedCores = s.fencedCores := rfl
@[simp] theorem State.modCp_fencedClusters (s : State) (p c : Nat) (f : Cp → Cp) :
    (s.modCp p c f).fencedClusters = s.fencedClusters := rfl
@[simp] theorem State.modCp_fencedDies (s : State) (p c : Nat) (f : Cp → Cp) :
    (s.modCp p c f).fencedDies = s.fencedDies := rfl
@[simp] theorem State.modCp_replReq (s : State) (p c : Nat) (f : Cp → Cp) :
    (s.modCp p c f).replReq = s.replReq := rfl
@[simp] theorem State.modCp_viral (s : State) (p c : Nat) (f : Cp → Cp) :
    (s.modCp p c f).viral = s.viral := rfl
@[simp] theorem State.modCp_replays (s : State) (p c : Nat) (f : Cp → Cp) :
    (s.modCp p c f).replays = s.replays := rfl
@[simp] theorem State.modCp_headDie (s : State) (p c : Nat) (f : Cp → Cp) :
    (s.modCp p c f).headDie = s.headDie := rfl
@[simp] theorem State.modCp_toll (s : State) (p c : Nat) (f : Cp → Cp) :
    (s.modCp p c f).toll = s.toll := rfl
@[simp] theorem State.modCp_quantum (s : State) (p c : Nat) (f : Cp → Cp) :
    (s.modCp p c f).quantum = s.quantum := rfl
@[simp] theorem State.modCp_period (s : State) (p c : Nat) (f : Cp → Cp) :
    (s.modCp p c f).period = s.period := rfl
@[simp] theorem State.modCp_tollAt (s : State) (p c : Nat) (f : Cp → Cp) :
    (s.modCp p c f).tollAt = s.tollAt := rfl
@[simp] theorem State.modCp_quantumAt (s : State) (p c : Nat) (f : Cp → Cp) :
    (s.modCp p c f).quantumAt = s.quantumAt := rfl
@[simp] theorem State.modCp_phase (s : State) (p c : Nat) (f : Cp → Cp) :
    (s.modCp p c f).phase = s.phase := rfl
@[simp] theorem State.modCp_powerLimit (s : State) (p c : Nat) (f : Cp → Cp) :
    (s.modCp p c f).powerLimit = s.powerLimit := rfl
@[simp] theorem State.modCp_clockMHz (s : State) (p c : Nat) (f : Cp → Cp) :
    (s.modCp p c f).clockMHz = s.clockMHz := rfl
@[simp] theorem State.modCp_sampleAt (s : State) (p c : Nat) (f : Cp → Cp) :
    (s.modCp p c f).sampleAt = s.sampleAt := rfl
@[simp] theorem State.modCp_now (s : State) (p c : Nat) (f : Cp → Cp) :
    (s.modCp p c f).now = s.now := rfl
@[simp] theorem State.modCp_slots (s : State) (p c : Nat) (f : Cp → Cp) :
    (s.modCp p c f).slots = s.slots := rfl
@[simp] theorem State.modCp_slotUnits (s : State) (p c : Nat) (f : Cp → Cp) :
    (s.modCp p c f).slotUnits = s.slotUnits := rfl
@[simp] theorem State.modCp_time (s : State) (p c : Nat) (f : Cp → Cp) :
    (s.modCp p c f).time = s.time := rfl
@[simp] theorem State.modCp_dispatchAt (s : State) (p c : Nat) (f : Cp → Cp) :
    (s.modCp p c f).dispatchAt = s.dispatchAt := rfl
@[simp] theorem State.modCp_agenda (s : State) (p c : Nat) (f : Cp → Cp) :
    (s.modCp p c f).agenda = s.agenda := rfl
@[simp] theorem State.modCp_focus (s : State) (p c : Nat) (f : Cp → Cp) :
    (s.modCp p c f).focus = s.focus := rfl
@[simp] theorem State.modCp_eventTurn (s : State) (p c : Nat) (f : Cp → Cp) :
    (s.modCp p c f).eventTurn = s.eventTurn := rfl
@[simp] theorem State.modCp_fresh (s : State) (p c : Nat) (f : Cp → Cp) :
    (s.modCp p c f).fresh = s.fresh := rfl
@[simp] theorem State.modCp_nextId (s : State) (p c : Nat) (f : Cp → Cp) :
    (s.modCp p c f).nextId = s.nextId := rfl

/-! ### State.takeTrap -/

@[simp] theorem State.takeTrap_mem (s : State) (p c : Nat) (pc : DWord) (k : Byte) (m : Mask) (d : Word) (a : DWord) :
    (s.takeTrap p c pc k m d a).mem = s.mem := rfl
@[simp] theorem State.takeTrap_poison (s : State) (p c : Nat) (pc : DWord) (k : Byte) (m : Mask) (d : Word) (a : DWord) :
    (s.takeTrap p c pc k m d a).poison = s.poison := rfl
@[simp] theorem State.takeTrap_keyOf (s : State) (p c : Nat) (pc : DWord) (k : Byte) (m : Mask) (d : Word) (a : DWord) :
    (s.takeTrap p c pc k m d a).keyOf = s.keyOf := rfl
@[simp] theorem State.takeTrap_lineClock (s : State) (p c : Nat) (pc : DWord) (k : Byte) (m : Mask) (d : Word) (a : DWord) :
    (s.takeTrap p c pc k m d a).lineClock = s.lineClock := rfl
@[simp] theorem State.takeTrap_overwritten (s : State) (p c : Nat) (pc : DWord) (k : Byte) (m : Mask) (d : Word) (a : DWord) :
    (s.takeTrap p c pc k m d a).overwritten = s.overwritten := rfl
@[simp] theorem State.takeTrap_llc (s : State) (p c : Nat) (pc : DWord) (k : Byte) (m : Mask) (d : Word) (a : DWord) :
    (s.takeTrap p c pc k m d a).llc = s.llc := rfl
@[simp] theorem State.takeTrap_evicted (s : State) (p c : Nat) (pc : DWord) (k : Byte) (m : Mask) (d : Word) (a : DWord) :
    (s.takeTrap p c pc k m d a).evicted = s.evicted := rfl
@[simp] theorem State.takeTrap_out (s : State) (p c : Nat) (pc : DWord) (k : Byte) (m : Mask) (d : Word) (a : DWord) :
    (s.takeTrap p c pc k m d a).out = s.out := rfl
@[simp] theorem State.takeTrap_journal (s : State) (p c : Nat) (pc : DWord) (k : Byte) (m : Mask) (d : Word) (a : DWord) :
    (s.takeTrap p c pc k m d a).journal = s.journal := rfl
@[simp] theorem State.takeTrap_records (s : State) (p c : Nat) (pc : DWord) (k : Byte) (m : Mask) (d : Word) (a : DWord) :
    (s.takeTrap p c pc k m d a).records = s.records := rfl
@[simp] theorem State.takeTrap_unacked (s : State) (p c : Nat) (pc : DWord) (k : Byte) (m : Mask) (d : Word) (a : DWord) :
    (s.takeTrap p c pc k m d a).unacked = s.unacked := rfl
@[simp] theorem State.takeTrap_l1 (s : State) (p c : Nat) (pc : DWord) (k : Byte) (m : Mask) (d : Word) (a : DWord) :
    (s.takeTrap p c pc k m d a).l1 = s.l1 := rfl
@[simp] theorem State.takeTrap_cc (s : State) (p c : Nat) (pc : DWord) (k : Byte) (m : Mask) (d : Word) (a : DWord) :
    (s.takeTrap p c pc k m d a).cc = s.cc := rfl
@[simp] theorem State.takeTrap_dir (s : State) (p c : Nat) (pc : DWord) (k : Byte) (m : Mask) (d : Word) (a : DWord) :
    (s.takeTrap p c pc k m d a).dir = s.dir := rfl
@[simp] theorem State.takeTrap_dropAll (s : State) (p c : Nat) (pc : DWord) (k : Byte) (m : Mask) (d : Word) (a : DWord) :
    (s.takeTrap p c pc k m d a).dropAll = s.dropAll := rfl
@[simp] theorem State.takeTrap_watch (s : State) (p c : Nat) (pc : DWord) (k : Byte) (m : Mask) (d : Word) (a : DWord) :
    (s.takeTrap p c pc k m d a).watch = s.watch := rfl
@[simp] theorem State.takeTrap_tlb (s : State) (p c : Nat) (pc : DWord) (k : Byte) (m : Mask) (d : Word) (a : DWord) :
    (s.takeTrap p c pc k m d a).tlb = s.tlb := rfl
@[simp] theorem State.takeTrap_commands (s : State) (p c : Nat) (pc : DWord) (k : Byte) (m : Mask) (d : Word) (a : DWord) :
    (s.takeTrap p c pc k m d a).commands = s.commands := rfl
@[simp] theorem State.takeTrap_faults (s : State) (p c : Nat) (pc : DWord) (k : Byte) (m : Mask) (d : Word) (a : DWord) :
    (s.takeTrap p c pc k m d a).faults = s.faults := rfl
@[simp] theorem State.takeTrap_scClock (s : State) (p c : Nat) (pc : DWord) (k : Byte) (m : Mask) (d : Word) (a : DWord) :
    (s.takeTrap p c pc k m d a).scClock = s.scClock := rfl
@[simp] theorem State.takeTrap_scReport (s : State) (p c : Nat) (pc : DWord) (k : Byte) (m : Mask) (d : Word) (a : DWord) :
    (s.takeTrap p c pc k m d a).scReport = s.scReport := rfl
@[simp] theorem State.takeTrap_held (s : State) (p c : Nat) (pc : DWord) (k : Byte) (m : Mask) (d : Word) (a : DWord) :
    (s.takeTrap p c pc k m d a).held = s.held := rfl
@[simp] theorem State.takeTrap_asids (s : State) (p c : Nat) (pc : DWord) (k : Byte) (m : Mask) (d : Word) (a : DWord) :
    (s.takeTrap p c pc k m d a).asids = s.asids := rfl
@[simp] theorem State.takeTrap_keyGen (s : State) (p c : Nat) (pc : DWord) (k : Byte) (m : Mask) (d : Word) (a : DWord) :
    (s.takeTrap p c pc k m d a).keyGen = s.keyGen := rfl
@[simp] theorem State.takeTrap_queues (s : State) (p c : Nat) (pc : DWord) (k : Byte) (m : Mask) (d : Word) (a : DWord) :
    (s.takeTrap p c pc k m d a).queues = s.queues := rfl
@[simp] theorem State.takeTrap_waiting (s : State) (p c : Nat) (pc : DWord) (k : Byte) (m : Mask) (d : Word) (a : DWord) :
    (s.takeTrap p c pc k m d a).waiting = s.waiting := rfl
@[simp] theorem State.takeTrap_packing (s : State) (p c : Nat) (pc : DWord) (k : Byte) (m : Mask) (d : Word) (a : DWord) :
    (s.takeTrap p c pc k m d a).packing = s.packing := rfl
@[simp] theorem State.takeTrap_signals (s : State) (p c : Nat) (pc : DWord) (k : Byte) (m : Mask) (d : Word) (a : DWord) :
    (s.takeTrap p c pc k m d a).signals = s.signals := rfl
@[simp] theorem State.takeTrap_completions (s : State) (p c : Nat) (pc : DWord) (k : Byte) (m : Mask) (d : Word) (a : DWord) :
    (s.takeTrap p c pc k m d a).completions = s.completions := rfl
@[simp] theorem State.takeTrap_recipes (s : State) (p c : Nat) (pc : DWord) (k : Byte) (m : Mask) (d : Word) (a : DWord) :
    (s.takeTrap p c pc k m d a).recipes = s.recipes := rfl
@[simp] theorem State.takeTrap_recipeLimit (s : State) (p c : Nat) (pc : DWord) (k : Byte) (m : Mask) (d : Word) (a : DWord) :
    (s.takeTrap p c pc k m d a).recipeLimit = s.recipeLimit := rfl
@[simp] theorem State.takeTrap_ways (s : State) (p c : Nat) (pc : DWord) (k : Byte) (m : Mask) (d : Word) (a : DWord) :
    (s.takeTrap p c pc k m d a).ways = s.ways := rfl
@[simp] theorem State.takeTrap_windows (s : State) (p c : Nat) (pc : DWord) (k : Byte) (m : Mask) (d : Word) (a : DWord) :
    (s.takeTrap p c pc k m d a).windows = s.windows := rfl
@[simp] theorem State.takeTrap_devices (s : State) (p c : Nat) (pc : DWord) (k : Byte) (m : Mask) (d : Word) (a : DWord) :
    (s.takeTrap p c pc k m d a).devices = s.devices := rfl
@[simp] theorem State.takeTrap_links (s : State) (p c : Nat) (pc : DWord) (k : Byte) (m : Mask) (d : Word) (a : DWord) :
    (s.takeTrap p c pc k m d a).links = s.links := rfl
@[simp] theorem State.takeTrap_handles (s : State) (p c : Nat) (pc : DWord) (k : Byte) (m : Mask) (d : Word) (a : DWord) :
    (s.takeTrap p c pc k m d a).handles = s.handles := rfl
@[simp] theorem State.takeTrap_peerOps (s : State) (p c : Nat) (pc : DWord) (k : Byte) (m : Mask) (d : Word) (a : DWord) :
    (s.takeTrap p c pc k m d a).peerOps = s.peerOps := rfl
@[simp] theorem State.takeTrap_peerCut (s : State) (p c : Nat) (pc : DWord) (k : Byte) (m : Mask) (d : Word) (a : DWord) :
    (s.takeTrap p c pc k m d a).peerCut = s.peerCut := rfl
@[simp] theorem State.takeTrap_replies (s : State) (p c : Nat) (pc : DWord) (k : Byte) (m : Mask) (d : Word) (a : DWord) :
    (s.takeTrap p c pc k m d a).replies = s.replies := rfl
@[simp] theorem State.takeTrap_portReads (s : State) (p c : Nat) (pc : DWord) (k : Byte) (m : Mask) (d : Word) (a : DWord) :
    (s.takeTrap p c pc k m d a).portReads = s.portReads := rfl
@[simp] theorem State.takeTrap_measured (s : State) (p c : Nat) (pc : DWord) (k : Byte) (m : Mask) (d : Word) (a : DWord) :
    (s.takeTrap p c pc k m d a).measured = s.measured := rfl
@[simp] theorem State.takeTrap_report (s : State) (p c : Nat) (pc : DWord) (k : Byte) (m : Mask) (d : Word) (a : DWord) :
    (s.takeTrap p c pc k m d a).report = s.report := rfl
@[simp] theorem State.takeTrap_log (s : State) (p c : Nat) (pc : DWord) (k : Byte) (m : Mask) (d : Word) (a : DWord) :
    (s.takeTrap p c pc k m d a).log = s.log := rfl
@[simp] theorem State.takeTrap_tests (s : State) (p c : Nat) (pc : DWord) (k : Byte) (m : Mask) (d : Word) (a : DWord) :
    (s.takeTrap p c pc k m d a).tests = s.tests := rfl
@[simp] theorem State.takeTrap_seqResets (s : State) (p c : Nat) (pc : DWord) (k : Byte) (m : Mask) (d : Word) (a : DWord) :
    (s.takeTrap p c pc k m d a).seqResets = s.seqResets := rfl
@[simp] theorem State.takeTrap_fencedCores (s : State) (p c : Nat) (pc : DWord) (k : Byte) (m : Mask) (d : Word) (a : DWord) :
    (s.takeTrap p c pc k m d a).fencedCores = s.fencedCores := rfl
@[simp] theorem State.takeTrap_fencedClusters (s : State) (p c : Nat) (pc : DWord) (k : Byte) (m : Mask) (d : Word) (a : DWord) :
    (s.takeTrap p c pc k m d a).fencedClusters = s.fencedClusters := rfl
@[simp] theorem State.takeTrap_fencedDies (s : State) (p c : Nat) (pc : DWord) (k : Byte) (m : Mask) (d : Word) (a : DWord) :
    (s.takeTrap p c pc k m d a).fencedDies = s.fencedDies := rfl
@[simp] theorem State.takeTrap_replReq (s : State) (p c : Nat) (pc : DWord) (k : Byte) (m : Mask) (d : Word) (a : DWord) :
    (s.takeTrap p c pc k m d a).replReq = s.replReq := rfl
@[simp] theorem State.takeTrap_viral (s : State) (p c : Nat) (pc : DWord) (k : Byte) (m : Mask) (d : Word) (a : DWord) :
    (s.takeTrap p c pc k m d a).viral = s.viral := rfl
@[simp] theorem State.takeTrap_replays (s : State) (p c : Nat) (pc : DWord) (k : Byte) (m : Mask) (d : Word) (a : DWord) :
    (s.takeTrap p c pc k m d a).replays = s.replays := rfl
@[simp] theorem State.takeTrap_headDie (s : State) (p c : Nat) (pc : DWord) (k : Byte) (m : Mask) (d : Word) (a : DWord) :
    (s.takeTrap p c pc k m d a).headDie = s.headDie := rfl
@[simp] theorem State.takeTrap_toll (s : State) (p c : Nat) (pc : DWord) (k : Byte) (m : Mask) (d : Word) (a : DWord) :
    (s.takeTrap p c pc k m d a).toll = s.toll := rfl
@[simp] theorem State.takeTrap_quantum (s : State) (p c : Nat) (pc : DWord) (k : Byte) (m : Mask) (d : Word) (a : DWord) :
    (s.takeTrap p c pc k m d a).quantum = s.quantum := rfl
@[simp] theorem State.takeTrap_period (s : State) (p c : Nat) (pc : DWord) (k : Byte) (m : Mask) (d : Word) (a : DWord) :
    (s.takeTrap p c pc k m d a).period = s.period := rfl
@[simp] theorem State.takeTrap_tollAt (s : State) (p c : Nat) (pc : DWord) (k : Byte) (m : Mask) (d : Word) (a : DWord) :
    (s.takeTrap p c pc k m d a).tollAt = s.tollAt := rfl
@[simp] theorem State.takeTrap_quantumAt (s : State) (p c : Nat) (pc : DWord) (k : Byte) (m : Mask) (d : Word) (a : DWord) :
    (s.takeTrap p c pc k m d a).quantumAt = s.quantumAt := rfl
@[simp] theorem State.takeTrap_phase (s : State) (p c : Nat) (pc : DWord) (k : Byte) (m : Mask) (d : Word) (a : DWord) :
    (s.takeTrap p c pc k m d a).phase = s.phase := rfl
@[simp] theorem State.takeTrap_powerLimit (s : State) (p c : Nat) (pc : DWord) (k : Byte) (m : Mask) (d : Word) (a : DWord) :
    (s.takeTrap p c pc k m d a).powerLimit = s.powerLimit := rfl
@[simp] theorem State.takeTrap_clockMHz (s : State) (p c : Nat) (pc : DWord) (k : Byte) (m : Mask) (d : Word) (a : DWord) :
    (s.takeTrap p c pc k m d a).clockMHz = s.clockMHz := rfl
@[simp] theorem State.takeTrap_sampleAt (s : State) (p c : Nat) (pc : DWord) (k : Byte) (m : Mask) (d : Word) (a : DWord) :
    (s.takeTrap p c pc k m d a).sampleAt = s.sampleAt := rfl
@[simp] theorem State.takeTrap_now (s : State) (p c : Nat) (pc : DWord) (k : Byte) (m : Mask) (d : Word) (a : DWord) :
    (s.takeTrap p c pc k m d a).now = s.now := rfl
@[simp] theorem State.takeTrap_slots (s : State) (p c : Nat) (pc : DWord) (k : Byte) (m : Mask) (d : Word) (a : DWord) :
    (s.takeTrap p c pc k m d a).slots = s.slots := rfl
@[simp] theorem State.takeTrap_slotUnits (s : State) (p c : Nat) (pc : DWord) (k : Byte) (m : Mask) (d : Word) (a : DWord) :
    (s.takeTrap p c pc k m d a).slotUnits = s.slotUnits := rfl
@[simp] theorem State.takeTrap_time (s : State) (p c : Nat) (pc : DWord) (k : Byte) (m : Mask) (d : Word) (a : DWord) :
    (s.takeTrap p c pc k m d a).time = s.time := rfl
@[simp] theorem State.takeTrap_dispatchAt (s : State) (p c : Nat) (pc : DWord) (k : Byte) (m : Mask) (d : Word) (a : DWord) :
    (s.takeTrap p c pc k m d a).dispatchAt = s.dispatchAt := rfl
@[simp] theorem State.takeTrap_agenda (s : State) (p c : Nat) (pc : DWord) (k : Byte) (m : Mask) (d : Word) (a : DWord) :
    (s.takeTrap p c pc k m d a).agenda = s.agenda := rfl
@[simp] theorem State.takeTrap_focus (s : State) (p c : Nat) (pc : DWord) (k : Byte) (m : Mask) (d : Word) (a : DWord) :
    (s.takeTrap p c pc k m d a).focus = s.focus := rfl
@[simp] theorem State.takeTrap_eventTurn (s : State) (p c : Nat) (pc : DWord) (k : Byte) (m : Mask) (d : Word) (a : DWord) :
    (s.takeTrap p c pc k m d a).eventTurn = s.eventTurn := rfl
@[simp] theorem State.takeTrap_fresh (s : State) (p c : Nat) (pc : DWord) (k : Byte) (m : Mask) (d : Word) (a : DWord) :
    (s.takeTrap p c pc k m d a).fresh = s.fresh := rfl
@[simp] theorem State.takeTrap_nextId (s : State) (p c : Nat) (pc : DWord) (k : Byte) (m : Mask) (d : Word) (a : DWord) :
    (s.takeTrap p c pc k m d a).nextId = s.nextId := rfl

/-! ### State.standAt -/

@[simp] theorem State.standAt_mem (s : State) (p c : Nat) (x : Stand) :
    (s.standAt p c x).mem = s.mem := rfl
@[simp] theorem State.standAt_poison (s : State) (p c : Nat) (x : Stand) :
    (s.standAt p c x).poison = s.poison := rfl
@[simp] theorem State.standAt_keyOf (s : State) (p c : Nat) (x : Stand) :
    (s.standAt p c x).keyOf = s.keyOf := rfl
@[simp] theorem State.standAt_lineClock (s : State) (p c : Nat) (x : Stand) :
    (s.standAt p c x).lineClock = s.lineClock := rfl
@[simp] theorem State.standAt_overwritten (s : State) (p c : Nat) (x : Stand) :
    (s.standAt p c x).overwritten = s.overwritten := rfl
@[simp] theorem State.standAt_llc (s : State) (p c : Nat) (x : Stand) :
    (s.standAt p c x).llc = s.llc := rfl
@[simp] theorem State.standAt_evicted (s : State) (p c : Nat) (x : Stand) :
    (s.standAt p c x).evicted = s.evicted := rfl
@[simp] theorem State.standAt_out (s : State) (p c : Nat) (x : Stand) :
    (s.standAt p c x).out = s.out := rfl
@[simp] theorem State.standAt_journal (s : State) (p c : Nat) (x : Stand) :
    (s.standAt p c x).journal = s.journal := rfl
@[simp] theorem State.standAt_records (s : State) (p c : Nat) (x : Stand) :
    (s.standAt p c x).records = s.records := rfl
@[simp] theorem State.standAt_unacked (s : State) (p c : Nat) (x : Stand) :
    (s.standAt p c x).unacked = s.unacked := rfl
@[simp] theorem State.standAt_l1 (s : State) (p c : Nat) (x : Stand) :
    (s.standAt p c x).l1 = s.l1 := rfl
@[simp] theorem State.standAt_cc (s : State) (p c : Nat) (x : Stand) :
    (s.standAt p c x).cc = s.cc := rfl
@[simp] theorem State.standAt_dir (s : State) (p c : Nat) (x : Stand) :
    (s.standAt p c x).dir = s.dir := rfl
@[simp] theorem State.standAt_dropAll (s : State) (p c : Nat) (x : Stand) :
    (s.standAt p c x).dropAll = s.dropAll := rfl
@[simp] theorem State.standAt_watch (s : State) (p c : Nat) (x : Stand) :
    (s.standAt p c x).watch = s.watch := rfl
@[simp] theorem State.standAt_tlb (s : State) (p c : Nat) (x : Stand) :
    (s.standAt p c x).tlb = s.tlb := rfl
@[simp] theorem State.standAt_commands (s : State) (p c : Nat) (x : Stand) :
    (s.standAt p c x).commands = s.commands := rfl
@[simp] theorem State.standAt_faults (s : State) (p c : Nat) (x : Stand) :
    (s.standAt p c x).faults = s.faults := rfl
@[simp] theorem State.standAt_scClock (s : State) (p c : Nat) (x : Stand) :
    (s.standAt p c x).scClock = s.scClock := rfl
@[simp] theorem State.standAt_scReport (s : State) (p c : Nat) (x : Stand) :
    (s.standAt p c x).scReport = s.scReport := rfl
@[simp] theorem State.standAt_held (s : State) (p c : Nat) (x : Stand) :
    (s.standAt p c x).held = s.held := rfl
@[simp] theorem State.standAt_asids (s : State) (p c : Nat) (x : Stand) :
    (s.standAt p c x).asids = s.asids := rfl
@[simp] theorem State.standAt_keyGen (s : State) (p c : Nat) (x : Stand) :
    (s.standAt p c x).keyGen = s.keyGen := rfl
@[simp] theorem State.standAt_queues (s : State) (p c : Nat) (x : Stand) :
    (s.standAt p c x).queues = s.queues := rfl
@[simp] theorem State.standAt_waiting (s : State) (p c : Nat) (x : Stand) :
    (s.standAt p c x).waiting = s.waiting := rfl
@[simp] theorem State.standAt_packing (s : State) (p c : Nat) (x : Stand) :
    (s.standAt p c x).packing = s.packing := rfl
@[simp] theorem State.standAt_signals (s : State) (p c : Nat) (x : Stand) :
    (s.standAt p c x).signals = s.signals := rfl
@[simp] theorem State.standAt_completions (s : State) (p c : Nat) (x : Stand) :
    (s.standAt p c x).completions = s.completions := rfl
@[simp] theorem State.standAt_recipes (s : State) (p c : Nat) (x : Stand) :
    (s.standAt p c x).recipes = s.recipes := rfl
@[simp] theorem State.standAt_recipeLimit (s : State) (p c : Nat) (x : Stand) :
    (s.standAt p c x).recipeLimit = s.recipeLimit := rfl
@[simp] theorem State.standAt_ways (s : State) (p c : Nat) (x : Stand) :
    (s.standAt p c x).ways = s.ways := rfl
@[simp] theorem State.standAt_windows (s : State) (p c : Nat) (x : Stand) :
    (s.standAt p c x).windows = s.windows := rfl
@[simp] theorem State.standAt_devices (s : State) (p c : Nat) (x : Stand) :
    (s.standAt p c x).devices = s.devices := rfl
@[simp] theorem State.standAt_links (s : State) (p c : Nat) (x : Stand) :
    (s.standAt p c x).links = s.links := rfl
@[simp] theorem State.standAt_handles (s : State) (p c : Nat) (x : Stand) :
    (s.standAt p c x).handles = s.handles := rfl
@[simp] theorem State.standAt_peerOps (s : State) (p c : Nat) (x : Stand) :
    (s.standAt p c x).peerOps = s.peerOps := rfl
@[simp] theorem State.standAt_peerCut (s : State) (p c : Nat) (x : Stand) :
    (s.standAt p c x).peerCut = s.peerCut := rfl
@[simp] theorem State.standAt_replies (s : State) (p c : Nat) (x : Stand) :
    (s.standAt p c x).replies = s.replies := rfl
@[simp] theorem State.standAt_portReads (s : State) (p c : Nat) (x : Stand) :
    (s.standAt p c x).portReads = s.portReads := rfl
@[simp] theorem State.standAt_measured (s : State) (p c : Nat) (x : Stand) :
    (s.standAt p c x).measured = s.measured := rfl
@[simp] theorem State.standAt_report (s : State) (p c : Nat) (x : Stand) :
    (s.standAt p c x).report = s.report := rfl
@[simp] theorem State.standAt_log (s : State) (p c : Nat) (x : Stand) :
    (s.standAt p c x).log = s.log := rfl
@[simp] theorem State.standAt_tests (s : State) (p c : Nat) (x : Stand) :
    (s.standAt p c x).tests = s.tests := rfl
@[simp] theorem State.standAt_seqResets (s : State) (p c : Nat) (x : Stand) :
    (s.standAt p c x).seqResets = s.seqResets := rfl
@[simp] theorem State.standAt_fencedCores (s : State) (p c : Nat) (x : Stand) :
    (s.standAt p c x).fencedCores = s.fencedCores := rfl
@[simp] theorem State.standAt_fencedClusters (s : State) (p c : Nat) (x : Stand) :
    (s.standAt p c x).fencedClusters = s.fencedClusters := rfl
@[simp] theorem State.standAt_fencedDies (s : State) (p c : Nat) (x : Stand) :
    (s.standAt p c x).fencedDies = s.fencedDies := rfl
@[simp] theorem State.standAt_replReq (s : State) (p c : Nat) (x : Stand) :
    (s.standAt p c x).replReq = s.replReq := rfl
@[simp] theorem State.standAt_viral (s : State) (p c : Nat) (x : Stand) :
    (s.standAt p c x).viral = s.viral := rfl
@[simp] theorem State.standAt_replays (s : State) (p c : Nat) (x : Stand) :
    (s.standAt p c x).replays = s.replays := rfl
@[simp] theorem State.standAt_headDie (s : State) (p c : Nat) (x : Stand) :
    (s.standAt p c x).headDie = s.headDie := rfl
@[simp] theorem State.standAt_toll (s : State) (p c : Nat) (x : Stand) :
    (s.standAt p c x).toll = s.toll := rfl
@[simp] theorem State.standAt_quantum (s : State) (p c : Nat) (x : Stand) :
    (s.standAt p c x).quantum = s.quantum := rfl
@[simp] theorem State.standAt_period (s : State) (p c : Nat) (x : Stand) :
    (s.standAt p c x).period = s.period := rfl
@[simp] theorem State.standAt_tollAt (s : State) (p c : Nat) (x : Stand) :
    (s.standAt p c x).tollAt = s.tollAt := rfl
@[simp] theorem State.standAt_quantumAt (s : State) (p c : Nat) (x : Stand) :
    (s.standAt p c x).quantumAt = s.quantumAt := rfl
@[simp] theorem State.standAt_phase (s : State) (p c : Nat) (x : Stand) :
    (s.standAt p c x).phase = s.phase := rfl
@[simp] theorem State.standAt_powerLimit (s : State) (p c : Nat) (x : Stand) :
    (s.standAt p c x).powerLimit = s.powerLimit := rfl
@[simp] theorem State.standAt_clockMHz (s : State) (p c : Nat) (x : Stand) :
    (s.standAt p c x).clockMHz = s.clockMHz := rfl
@[simp] theorem State.standAt_sampleAt (s : State) (p c : Nat) (x : Stand) :
    (s.standAt p c x).sampleAt = s.sampleAt := rfl
@[simp] theorem State.standAt_now (s : State) (p c : Nat) (x : Stand) :
    (s.standAt p c x).now = s.now := rfl
@[simp] theorem State.standAt_slots (s : State) (p c : Nat) (x : Stand) :
    (s.standAt p c x).slots = s.slots := rfl
@[simp] theorem State.standAt_slotUnits (s : State) (p c : Nat) (x : Stand) :
    (s.standAt p c x).slotUnits = s.slotUnits := rfl
@[simp] theorem State.standAt_time (s : State) (p c : Nat) (x : Stand) :
    (s.standAt p c x).time = s.time := rfl
@[simp] theorem State.standAt_dispatchAt (s : State) (p c : Nat) (x : Stand) :
    (s.standAt p c x).dispatchAt = s.dispatchAt := rfl
@[simp] theorem State.standAt_agenda (s : State) (p c : Nat) (x : Stand) :
    (s.standAt p c x).agenda = s.agenda := rfl
@[simp] theorem State.standAt_focus (s : State) (p c : Nat) (x : Stand) :
    (s.standAt p c x).focus = s.focus := rfl
@[simp] theorem State.standAt_eventTurn (s : State) (p c : Nat) (x : Stand) :
    (s.standAt p c x).eventTurn = s.eventTurn := rfl
@[simp] theorem State.standAt_fresh (s : State) (p c : Nat) (x : Stand) :
    (s.standAt p c x).fresh = s.fresh := rfl
@[simp] theorem State.standAt_nextId (s : State) (p c : Nat) (x : Stand) :
    (s.standAt p c x).nextId = s.nextId := rfl

/-! ### State.addDeps -/

@[simp] theorem State.addDeps_mem (s : State) (p : Nat) (l : List Nat) :
    (s.addDeps p l).mem = s.mem := rfl
@[simp] theorem State.addDeps_poison (s : State) (p : Nat) (l : List Nat) :
    (s.addDeps p l).poison = s.poison := rfl
@[simp] theorem State.addDeps_keyOf (s : State) (p : Nat) (l : List Nat) :
    (s.addDeps p l).keyOf = s.keyOf := rfl
@[simp] theorem State.addDeps_lineClock (s : State) (p : Nat) (l : List Nat) :
    (s.addDeps p l).lineClock = s.lineClock := rfl
@[simp] theorem State.addDeps_overwritten (s : State) (p : Nat) (l : List Nat) :
    (s.addDeps p l).overwritten = s.overwritten := rfl
@[simp] theorem State.addDeps_llc (s : State) (p : Nat) (l : List Nat) :
    (s.addDeps p l).llc = s.llc := rfl
@[simp] theorem State.addDeps_evicted (s : State) (p : Nat) (l : List Nat) :
    (s.addDeps p l).evicted = s.evicted := rfl
@[simp] theorem State.addDeps_out (s : State) (p : Nat) (l : List Nat) :
    (s.addDeps p l).out = s.out := rfl
@[simp] theorem State.addDeps_journal (s : State) (p : Nat) (l : List Nat) :
    (s.addDeps p l).journal = s.journal := rfl
@[simp] theorem State.addDeps_records (s : State) (p : Nat) (l : List Nat) :
    (s.addDeps p l).records = s.records := rfl
@[simp] theorem State.addDeps_unacked (s : State) (p : Nat) (l : List Nat) :
    (s.addDeps p l).unacked = s.unacked := rfl
@[simp] theorem State.addDeps_l1 (s : State) (p : Nat) (l : List Nat) :
    (s.addDeps p l).l1 = s.l1 := rfl
@[simp] theorem State.addDeps_cc (s : State) (p : Nat) (l : List Nat) :
    (s.addDeps p l).cc = s.cc := rfl
@[simp] theorem State.addDeps_dir (s : State) (p : Nat) (l : List Nat) :
    (s.addDeps p l).dir = s.dir := rfl
@[simp] theorem State.addDeps_dropAll (s : State) (p : Nat) (l : List Nat) :
    (s.addDeps p l).dropAll = s.dropAll := rfl
@[simp] theorem State.addDeps_watch (s : State) (p : Nat) (l : List Nat) :
    (s.addDeps p l).watch = s.watch := rfl
@[simp] theorem State.addDeps_tlb (s : State) (p : Nat) (l : List Nat) :
    (s.addDeps p l).tlb = s.tlb := rfl
@[simp] theorem State.addDeps_commands (s : State) (p : Nat) (l : List Nat) :
    (s.addDeps p l).commands = s.commands := rfl
@[simp] theorem State.addDeps_faults (s : State) (p : Nat) (l : List Nat) :
    (s.addDeps p l).faults = s.faults := rfl
@[simp] theorem State.addDeps_scClock (s : State) (p : Nat) (l : List Nat) :
    (s.addDeps p l).scClock = s.scClock := rfl
@[simp] theorem State.addDeps_scReport (s : State) (p : Nat) (l : List Nat) :
    (s.addDeps p l).scReport = s.scReport := rfl
@[simp] theorem State.addDeps_held (s : State) (p : Nat) (l : List Nat) :
    (s.addDeps p l).held = s.held := rfl
@[simp] theorem State.addDeps_asids (s : State) (p : Nat) (l : List Nat) :
    (s.addDeps p l).asids = s.asids := rfl
@[simp] theorem State.addDeps_keyGen (s : State) (p : Nat) (l : List Nat) :
    (s.addDeps p l).keyGen = s.keyGen := rfl
@[simp] theorem State.addDeps_queues (s : State) (p : Nat) (l : List Nat) :
    (s.addDeps p l).queues = s.queues := rfl
@[simp] theorem State.addDeps_waiting (s : State) (p : Nat) (l : List Nat) :
    (s.addDeps p l).waiting = s.waiting := rfl
@[simp] theorem State.addDeps_packing (s : State) (p : Nat) (l : List Nat) :
    (s.addDeps p l).packing = s.packing := rfl
@[simp] theorem State.addDeps_signals (s : State) (p : Nat) (l : List Nat) :
    (s.addDeps p l).signals = s.signals := rfl
@[simp] theorem State.addDeps_completions (s : State) (p : Nat) (l : List Nat) :
    (s.addDeps p l).completions = s.completions := rfl
@[simp] theorem State.addDeps_recipes (s : State) (p : Nat) (l : List Nat) :
    (s.addDeps p l).recipes = s.recipes := rfl
@[simp] theorem State.addDeps_recipeLimit (s : State) (p : Nat) (l : List Nat) :
    (s.addDeps p l).recipeLimit = s.recipeLimit := rfl
@[simp] theorem State.addDeps_ways (s : State) (p : Nat) (l : List Nat) :
    (s.addDeps p l).ways = s.ways := rfl
@[simp] theorem State.addDeps_windows (s : State) (p : Nat) (l : List Nat) :
    (s.addDeps p l).windows = s.windows := rfl
@[simp] theorem State.addDeps_devices (s : State) (p : Nat) (l : List Nat) :
    (s.addDeps p l).devices = s.devices := rfl
@[simp] theorem State.addDeps_links (s : State) (p : Nat) (l : List Nat) :
    (s.addDeps p l).links = s.links := rfl
@[simp] theorem State.addDeps_handles (s : State) (p : Nat) (l : List Nat) :
    (s.addDeps p l).handles = s.handles := rfl
@[simp] theorem State.addDeps_peerOps (s : State) (p : Nat) (l : List Nat) :
    (s.addDeps p l).peerOps = s.peerOps := rfl
@[simp] theorem State.addDeps_peerCut (s : State) (p : Nat) (l : List Nat) :
    (s.addDeps p l).peerCut = s.peerCut := rfl
@[simp] theorem State.addDeps_replies (s : State) (p : Nat) (l : List Nat) :
    (s.addDeps p l).replies = s.replies := rfl
@[simp] theorem State.addDeps_portReads (s : State) (p : Nat) (l : List Nat) :
    (s.addDeps p l).portReads = s.portReads := rfl
@[simp] theorem State.addDeps_measured (s : State) (p : Nat) (l : List Nat) :
    (s.addDeps p l).measured = s.measured := rfl
@[simp] theorem State.addDeps_report (s : State) (p : Nat) (l : List Nat) :
    (s.addDeps p l).report = s.report := rfl
@[simp] theorem State.addDeps_log (s : State) (p : Nat) (l : List Nat) :
    (s.addDeps p l).log = s.log := rfl
@[simp] theorem State.addDeps_tests (s : State) (p : Nat) (l : List Nat) :
    (s.addDeps p l).tests = s.tests := rfl
@[simp] theorem State.addDeps_seqResets (s : State) (p : Nat) (l : List Nat) :
    (s.addDeps p l).seqResets = s.seqResets := rfl
@[simp] theorem State.addDeps_fencedCores (s : State) (p : Nat) (l : List Nat) :
    (s.addDeps p l).fencedCores = s.fencedCores := rfl
@[simp] theorem State.addDeps_fencedClusters (s : State) (p : Nat) (l : List Nat) :
    (s.addDeps p l).fencedClusters = s.fencedClusters := rfl
@[simp] theorem State.addDeps_fencedDies (s : State) (p : Nat) (l : List Nat) :
    (s.addDeps p l).fencedDies = s.fencedDies := rfl
@[simp] theorem State.addDeps_replReq (s : State) (p : Nat) (l : List Nat) :
    (s.addDeps p l).replReq = s.replReq := rfl
@[simp] theorem State.addDeps_viral (s : State) (p : Nat) (l : List Nat) :
    (s.addDeps p l).viral = s.viral := rfl
@[simp] theorem State.addDeps_replays (s : State) (p : Nat) (l : List Nat) :
    (s.addDeps p l).replays = s.replays := rfl
@[simp] theorem State.addDeps_headDie (s : State) (p : Nat) (l : List Nat) :
    (s.addDeps p l).headDie = s.headDie := rfl
@[simp] theorem State.addDeps_toll (s : State) (p : Nat) (l : List Nat) :
    (s.addDeps p l).toll = s.toll := rfl
@[simp] theorem State.addDeps_quantum (s : State) (p : Nat) (l : List Nat) :
    (s.addDeps p l).quantum = s.quantum := rfl
@[simp] theorem State.addDeps_period (s : State) (p : Nat) (l : List Nat) :
    (s.addDeps p l).period = s.period := rfl
@[simp] theorem State.addDeps_tollAt (s : State) (p : Nat) (l : List Nat) :
    (s.addDeps p l).tollAt = s.tollAt := rfl
@[simp] theorem State.addDeps_quantumAt (s : State) (p : Nat) (l : List Nat) :
    (s.addDeps p l).quantumAt = s.quantumAt := rfl
@[simp] theorem State.addDeps_phase (s : State) (p : Nat) (l : List Nat) :
    (s.addDeps p l).phase = s.phase := rfl
@[simp] theorem State.addDeps_powerLimit (s : State) (p : Nat) (l : List Nat) :
    (s.addDeps p l).powerLimit = s.powerLimit := rfl
@[simp] theorem State.addDeps_clockMHz (s : State) (p : Nat) (l : List Nat) :
    (s.addDeps p l).clockMHz = s.clockMHz := rfl
@[simp] theorem State.addDeps_sampleAt (s : State) (p : Nat) (l : List Nat) :
    (s.addDeps p l).sampleAt = s.sampleAt := rfl
@[simp] theorem State.addDeps_now (s : State) (p : Nat) (l : List Nat) :
    (s.addDeps p l).now = s.now := rfl
@[simp] theorem State.addDeps_slots (s : State) (p : Nat) (l : List Nat) :
    (s.addDeps p l).slots = s.slots := rfl
@[simp] theorem State.addDeps_slotUnits (s : State) (p : Nat) (l : List Nat) :
    (s.addDeps p l).slotUnits = s.slotUnits := rfl
@[simp] theorem State.addDeps_time (s : State) (p : Nat) (l : List Nat) :
    (s.addDeps p l).time = s.time := rfl
@[simp] theorem State.addDeps_dispatchAt (s : State) (p : Nat) (l : List Nat) :
    (s.addDeps p l).dispatchAt = s.dispatchAt := rfl
@[simp] theorem State.addDeps_agenda (s : State) (p : Nat) (l : List Nat) :
    (s.addDeps p l).agenda = s.agenda := rfl
@[simp] theorem State.addDeps_focus (s : State) (p : Nat) (l : List Nat) :
    (s.addDeps p l).focus = s.focus := rfl
@[simp] theorem State.addDeps_eventTurn (s : State) (p : Nat) (l : List Nat) :
    (s.addDeps p l).eventTurn = s.eventTurn := rfl
@[simp] theorem State.addDeps_fresh (s : State) (p : Nat) (l : List Nat) :
    (s.addDeps p l).fresh = s.fresh := rfl
@[simp] theorem State.addDeps_nextId (s : State) (p : Nat) (l : List Nat) :
    (s.addDeps p l).nextId = s.nextId := rfl

/-! ### State.logEvent -/

@[simp] theorem State.logEvent_mem (s : State) (e : LogEvent) :
    (s.logEvent e).mem = s.mem := rfl
@[simp] theorem State.logEvent_poison (s : State) (e : LogEvent) :
    (s.logEvent e).poison = s.poison := rfl
@[simp] theorem State.logEvent_keyOf (s : State) (e : LogEvent) :
    (s.logEvent e).keyOf = s.keyOf := rfl
@[simp] theorem State.logEvent_lineClock (s : State) (e : LogEvent) :
    (s.logEvent e).lineClock = s.lineClock := rfl
@[simp] theorem State.logEvent_overwritten (s : State) (e : LogEvent) :
    (s.logEvent e).overwritten = s.overwritten := rfl
@[simp] theorem State.logEvent_llc (s : State) (e : LogEvent) :
    (s.logEvent e).llc = s.llc := rfl
@[simp] theorem State.logEvent_evicted (s : State) (e : LogEvent) :
    (s.logEvent e).evicted = s.evicted := rfl
@[simp] theorem State.logEvent_pools (s : State) (e : LogEvent) :
    (s.logEvent e).pools = s.pools := rfl
@[simp] theorem State.logEvent_out (s : State) (e : LogEvent) :
    (s.logEvent e).out = s.out := rfl
@[simp] theorem State.logEvent_journal (s : State) (e : LogEvent) :
    (s.logEvent e).journal = s.journal := rfl
@[simp] theorem State.logEvent_records (s : State) (e : LogEvent) :
    (s.logEvent e).records = s.records := rfl
@[simp] theorem State.logEvent_unacked (s : State) (e : LogEvent) :
    (s.logEvent e).unacked = s.unacked := rfl
@[simp] theorem State.logEvent_l1 (s : State) (e : LogEvent) :
    (s.logEvent e).l1 = s.l1 := rfl
@[simp] theorem State.logEvent_cc (s : State) (e : LogEvent) :
    (s.logEvent e).cc = s.cc := rfl
@[simp] theorem State.logEvent_dir (s : State) (e : LogEvent) :
    (s.logEvent e).dir = s.dir := rfl
@[simp] theorem State.logEvent_dropAll (s : State) (e : LogEvent) :
    (s.logEvent e).dropAll = s.dropAll := rfl
@[simp] theorem State.logEvent_watch (s : State) (e : LogEvent) :
    (s.logEvent e).watch = s.watch := rfl
@[simp] theorem State.logEvent_tlb (s : State) (e : LogEvent) :
    (s.logEvent e).tlb = s.tlb := rfl
@[simp] theorem State.logEvent_commands (s : State) (e : LogEvent) :
    (s.logEvent e).commands = s.commands := rfl
@[simp] theorem State.logEvent_faults (s : State) (e : LogEvent) :
    (s.logEvent e).faults = s.faults := rfl
@[simp] theorem State.logEvent_scClock (s : State) (e : LogEvent) :
    (s.logEvent e).scClock = s.scClock := rfl
@[simp] theorem State.logEvent_scReport (s : State) (e : LogEvent) :
    (s.logEvent e).scReport = s.scReport := rfl
@[simp] theorem State.logEvent_held (s : State) (e : LogEvent) :
    (s.logEvent e).held = s.held := rfl
@[simp] theorem State.logEvent_asids (s : State) (e : LogEvent) :
    (s.logEvent e).asids = s.asids := rfl
@[simp] theorem State.logEvent_keyGen (s : State) (e : LogEvent) :
    (s.logEvent e).keyGen = s.keyGen := rfl
@[simp] theorem State.logEvent_queues (s : State) (e : LogEvent) :
    (s.logEvent e).queues = s.queues := rfl
@[simp] theorem State.logEvent_waiting (s : State) (e : LogEvent) :
    (s.logEvent e).waiting = s.waiting := rfl
@[simp] theorem State.logEvent_packing (s : State) (e : LogEvent) :
    (s.logEvent e).packing = s.packing := rfl
@[simp] theorem State.logEvent_signals (s : State) (e : LogEvent) :
    (s.logEvent e).signals = s.signals := rfl
@[simp] theorem State.logEvent_completions (s : State) (e : LogEvent) :
    (s.logEvent e).completions = s.completions := rfl
@[simp] theorem State.logEvent_recipes (s : State) (e : LogEvent) :
    (s.logEvent e).recipes = s.recipes := rfl
@[simp] theorem State.logEvent_recipeLimit (s : State) (e : LogEvent) :
    (s.logEvent e).recipeLimit = s.recipeLimit := rfl
@[simp] theorem State.logEvent_ways (s : State) (e : LogEvent) :
    (s.logEvent e).ways = s.ways := rfl
@[simp] theorem State.logEvent_windows (s : State) (e : LogEvent) :
    (s.logEvent e).windows = s.windows := rfl
@[simp] theorem State.logEvent_devices (s : State) (e : LogEvent) :
    (s.logEvent e).devices = s.devices := rfl
@[simp] theorem State.logEvent_links (s : State) (e : LogEvent) :
    (s.logEvent e).links = s.links := rfl
@[simp] theorem State.logEvent_handles (s : State) (e : LogEvent) :
    (s.logEvent e).handles = s.handles := rfl
@[simp] theorem State.logEvent_peerOps (s : State) (e : LogEvent) :
    (s.logEvent e).peerOps = s.peerOps := rfl
@[simp] theorem State.logEvent_peerCut (s : State) (e : LogEvent) :
    (s.logEvent e).peerCut = s.peerCut := rfl
@[simp] theorem State.logEvent_replies (s : State) (e : LogEvent) :
    (s.logEvent e).replies = s.replies := rfl
@[simp] theorem State.logEvent_portReads (s : State) (e : LogEvent) :
    (s.logEvent e).portReads = s.portReads := rfl
@[simp] theorem State.logEvent_measured (s : State) (e : LogEvent) :
    (s.logEvent e).measured = s.measured := rfl
@[simp] theorem State.logEvent_report (s : State) (e : LogEvent) :
    (s.logEvent e).report = s.report := rfl
@[simp] theorem State.logEvent_tests (s : State) (e : LogEvent) :
    (s.logEvent e).tests = s.tests := rfl
@[simp] theorem State.logEvent_seqResets (s : State) (e : LogEvent) :
    (s.logEvent e).seqResets = s.seqResets := rfl
@[simp] theorem State.logEvent_fencedCores (s : State) (e : LogEvent) :
    (s.logEvent e).fencedCores = s.fencedCores := rfl
@[simp] theorem State.logEvent_fencedClusters (s : State) (e : LogEvent) :
    (s.logEvent e).fencedClusters = s.fencedClusters := rfl
@[simp] theorem State.logEvent_fencedDies (s : State) (e : LogEvent) :
    (s.logEvent e).fencedDies = s.fencedDies := rfl
@[simp] theorem State.logEvent_replReq (s : State) (e : LogEvent) :
    (s.logEvent e).replReq = s.replReq := rfl
@[simp] theorem State.logEvent_viral (s : State) (e : LogEvent) :
    (s.logEvent e).viral = s.viral := rfl
@[simp] theorem State.logEvent_replays (s : State) (e : LogEvent) :
    (s.logEvent e).replays = s.replays := rfl
@[simp] theorem State.logEvent_headDie (s : State) (e : LogEvent) :
    (s.logEvent e).headDie = s.headDie := rfl
@[simp] theorem State.logEvent_toll (s : State) (e : LogEvent) :
    (s.logEvent e).toll = s.toll := rfl
@[simp] theorem State.logEvent_quantum (s : State) (e : LogEvent) :
    (s.logEvent e).quantum = s.quantum := rfl
@[simp] theorem State.logEvent_period (s : State) (e : LogEvent) :
    (s.logEvent e).period = s.period := rfl
@[simp] theorem State.logEvent_tollAt (s : State) (e : LogEvent) :
    (s.logEvent e).tollAt = s.tollAt := rfl
@[simp] theorem State.logEvent_quantumAt (s : State) (e : LogEvent) :
    (s.logEvent e).quantumAt = s.quantumAt := rfl
@[simp] theorem State.logEvent_phase (s : State) (e : LogEvent) :
    (s.logEvent e).phase = s.phase := rfl
@[simp] theorem State.logEvent_powerLimit (s : State) (e : LogEvent) :
    (s.logEvent e).powerLimit = s.powerLimit := rfl
@[simp] theorem State.logEvent_clockMHz (s : State) (e : LogEvent) :
    (s.logEvent e).clockMHz = s.clockMHz := rfl
@[simp] theorem State.logEvent_sampleAt (s : State) (e : LogEvent) :
    (s.logEvent e).sampleAt = s.sampleAt := rfl
@[simp] theorem State.logEvent_now (s : State) (e : LogEvent) :
    (s.logEvent e).now = s.now := rfl
@[simp] theorem State.logEvent_slots (s : State) (e : LogEvent) :
    (s.logEvent e).slots = s.slots := rfl
@[simp] theorem State.logEvent_slotUnits (s : State) (e : LogEvent) :
    (s.logEvent e).slotUnits = s.slotUnits := rfl
@[simp] theorem State.logEvent_time (s : State) (e : LogEvent) :
    (s.logEvent e).time = s.time := rfl
@[simp] theorem State.logEvent_dispatchAt (s : State) (e : LogEvent) :
    (s.logEvent e).dispatchAt = s.dispatchAt := rfl
@[simp] theorem State.logEvent_agenda (s : State) (e : LogEvent) :
    (s.logEvent e).agenda = s.agenda := rfl
@[simp] theorem State.logEvent_focus (s : State) (e : LogEvent) :
    (s.logEvent e).focus = s.focus := rfl
@[simp] theorem State.logEvent_eventTurn (s : State) (e : LogEvent) :
    (s.logEvent e).eventTurn = s.eventTurn := rfl
@[simp] theorem State.logEvent_fresh (s : State) (e : LogEvent) :
    (s.logEvent e).fresh = s.fresh := rfl
@[simp] theorem State.logEvent_nextId (s : State) (e : LogEvent) :
    (s.logEvent e).nextId = s.nextId := rfl

/-! ### Pool.modCp -/

@[simp] theorem Pool.modCp_task (p : Pool) (c : Nat) (f : Cp → Cp) :
    (p.modCp c f).task = p.task := rfl
@[simp] theorem Pool.modCp_threads (p : Pool) (c : Nat) (f : Cp → Cp) :
    (p.modCp c f).threads = p.threads := rfl
@[simp] theorem Pool.modCp_allot (p : Pool) (c : Nat) (f : Cp → Cp) :
    (p.modCp c f).allot = p.allot := rfl
@[simp] theorem Pool.modCp_spadSize (p : Pool) (c : Nat) (f : Cp → Cp) :
    (p.modCp c f).spadSize = p.spadSize := rfl
@[simp] theorem Pool.modCp_cpsMax (p : Pool) (c : Nat) (f : Cp → Cp) :
    (p.modCp c f).cpsMax = p.cpsMax := rfl
@[simp] theorem Pool.modCp_group (p : Pool) (c : Nat) (f : Cp → Cp) :
    (p.modCp c f).group = p.group := rfl
@[simp] theorem Pool.modCp_durable (p : Pool) (c : Nat) (f : Cp → Cp) :
    (p.modCp c f).durable = p.durable := rfl
@[simp] theorem Pool.modCp_rslice (p : Pool) (c : Nat) (f : Cp → Cp) :
    (p.modCp c f).rslice = p.rslice := rfl
@[simp] theorem Pool.modCp_parts (p : Pool) (c : Nat) (f : Cp → Cp) :
    (p.modCp c f).parts = p.parts := rfl
@[simp] theorem Pool.modCp_spadUnits (p : Pool) (c : Nat) (f : Cp → Cp) :
    (p.modCp c f).spadUnits = p.spadUnits := rfl
@[simp] theorem Pool.modCp_contexts (p : Pool) (c : Nat) (f : Cp → Cp) :
    (p.modCp c f).contexts = p.contexts := rfl
@[simp] theorem Pool.modCp_started (p : Pool) (c : Nat) (f : Cp → Cp) :
    (p.modCp c f).started = p.started := rfl
@[simp] theorem Pool.modCp_regs (p : Pool) (c : Nat) (f : Cp → Cp) :
    (p.modCp c f).regs = p.regs := rfl
@[simp] theorem Pool.modCp_spad (p : Pool) (c : Nat) (f : Cp → Cp) :
    (p.modCp c f).spad = p.spad := rfl
@[simp] theorem Pool.modCp_tiles (p : Pool) (c : Nat) (f : Cp → Cp) :
    (p.modCp c f).tiles = p.tiles := rfl
@[simp] theorem Pool.modCp_ops (p : Pool) (c : Nat) (f : Cp → Cp) :
    (p.modCp c f).ops = p.ops := rfl
@[simp] theorem Pool.modCp_cmds (p : Pool) (c : Nat) (f : Cp → Cp) :
    (p.modCp c f).cmds = p.cmds := rfl
@[simp] theorem Pool.modCp_ckpt (p : Pool) (c : Nat) (f : Cp → Cp) :
    (p.modCp c f).ckpt = p.ckpt := rfl
@[simp] theorem Pool.modCp_image (p : Pool) (c : Nat) (f : Cp → Cp) :
    (p.modCp c f).image = p.image := rfl
@[simp] theorem Pool.modCp_undoRegs (p : Pool) (c : Nat) (f : Cp → Cp) :
    (p.modCp c f).undoRegs = p.undoRegs := rfl
@[simp] theorem Pool.modCp_undoSpad (p : Pool) (c : Nat) (f : Cp → Cp) :
    (p.modCp c f).undoSpad = p.undoSpad := rfl
@[simp] theorem Pool.modCp_undoTiles (p : Pool) (c : Nat) (f : Cp → Cp) :
    (p.modCp c f).undoTiles = p.undoTiles := rfl
@[simp] theorem Pool.modCp_undoSince (p : Pool) (c : Nat) (f : Cp → Cp) :
    (p.modCp c f).undoSince = p.undoSince := rfl
@[simp] theorem Pool.modCp_undoWait (p : Pool) (c : Nat) (f : Cp → Cp) :
    (p.modCp c f).undoWait = p.undoWait := rfl
@[simp] theorem Pool.modCp_rollbacks (p : Pool) (c : Nat) (f : Cp → Cp) :
    (p.modCp c f).rollbacks = p.rollbacks := rfl
@[simp] theorem Pool.modCp_deps (p : Pool) (c : Nat) (f : Cp → Cp) :
    (p.modCp c f).deps = p.deps := rfl
@[simp] theorem Pool.modCp_seen (p : Pool) (c : Nat) (f : Cp → Cp) :
    (p.modCp c f).seen = p.seen := rfl
@[simp] theorem Pool.modCp_granted (p : Pool) (c : Nat) (f : Cp → Cp) :
    (p.modCp c f).granted = p.granted := rfl
@[simp] theorem Pool.modCp_blockedSince (p : Pool) (c : Nat) (f : Cp → Cp) :
    (p.modCp c f).blockedSince = p.blockedSince := rfl
@[simp] theorem Pool.modCp_placed (p : Pool) (c : Nat) (f : Cp → Cp) :
    (p.modCp c f).placed = p.placed := rfl

/-! ### Pool.setReg -/

@[simp] theorem Pool.setReg_task (p : Pool) (t n : Nat) (w : Word) :
    (p.setReg t n w).task = p.task := rfl
@[simp] theorem Pool.setReg_threads (p : Pool) (t n : Nat) (w : Word) :
    (p.setReg t n w).threads = p.threads := rfl
@[simp] theorem Pool.setReg_allot (p : Pool) (t n : Nat) (w : Word) :
    (p.setReg t n w).allot = p.allot := rfl
@[simp] theorem Pool.setReg_spadSize (p : Pool) (t n : Nat) (w : Word) :
    (p.setReg t n w).spadSize = p.spadSize := rfl
@[simp] theorem Pool.setReg_cpsMax (p : Pool) (t n : Nat) (w : Word) :
    (p.setReg t n w).cpsMax = p.cpsMax := rfl
@[simp] theorem Pool.setReg_group (p : Pool) (t n : Nat) (w : Word) :
    (p.setReg t n w).group = p.group := rfl
@[simp] theorem Pool.setReg_durable (p : Pool) (t n : Nat) (w : Word) :
    (p.setReg t n w).durable = p.durable := rfl
@[simp] theorem Pool.setReg_rslice (p : Pool) (t n : Nat) (w : Word) :
    (p.setReg t n w).rslice = p.rslice := rfl
@[simp] theorem Pool.setReg_parts (p : Pool) (t n : Nat) (w : Word) :
    (p.setReg t n w).parts = p.parts := rfl
@[simp] theorem Pool.setReg_spadUnits (p : Pool) (t n : Nat) (w : Word) :
    (p.setReg t n w).spadUnits = p.spadUnits := rfl
@[simp] theorem Pool.setReg_contexts (p : Pool) (t n : Nat) (w : Word) :
    (p.setReg t n w).contexts = p.contexts := rfl
@[simp] theorem Pool.setReg_cps (p : Pool) (t n : Nat) (w : Word) :
    (p.setReg t n w).cps = p.cps := rfl
@[simp] theorem Pool.setReg_started (p : Pool) (t n : Nat) (w : Word) :
    (p.setReg t n w).started = p.started := rfl
@[simp] theorem Pool.setReg_spad (p : Pool) (t n : Nat) (w : Word) :
    (p.setReg t n w).spad = p.spad := rfl
@[simp] theorem Pool.setReg_tiles (p : Pool) (t n : Nat) (w : Word) :
    (p.setReg t n w).tiles = p.tiles := rfl
@[simp] theorem Pool.setReg_ops (p : Pool) (t n : Nat) (w : Word) :
    (p.setReg t n w).ops = p.ops := rfl
@[simp] theorem Pool.setReg_cmds (p : Pool) (t n : Nat) (w : Word) :
    (p.setReg t n w).cmds = p.cmds := rfl
@[simp] theorem Pool.setReg_ckpt (p : Pool) (t n : Nat) (w : Word) :
    (p.setReg t n w).ckpt = p.ckpt := rfl
@[simp] theorem Pool.setReg_image (p : Pool) (t n : Nat) (w : Word) :
    (p.setReg t n w).image = p.image := rfl
@[simp] theorem Pool.setReg_undoSpad (p : Pool) (t n : Nat) (w : Word) :
    (p.setReg t n w).undoSpad = p.undoSpad := rfl
@[simp] theorem Pool.setReg_undoTiles (p : Pool) (t n : Nat) (w : Word) :
    (p.setReg t n w).undoTiles = p.undoTiles := rfl
@[simp] theorem Pool.setReg_undoSince (p : Pool) (t n : Nat) (w : Word) :
    (p.setReg t n w).undoSince = p.undoSince := rfl
@[simp] theorem Pool.setReg_undoWait (p : Pool) (t n : Nat) (w : Word) :
    (p.setReg t n w).undoWait = p.undoWait := rfl
@[simp] theorem Pool.setReg_rollbacks (p : Pool) (t n : Nat) (w : Word) :
    (p.setReg t n w).rollbacks = p.rollbacks := rfl
@[simp] theorem Pool.setReg_deps (p : Pool) (t n : Nat) (w : Word) :
    (p.setReg t n w).deps = p.deps := rfl
@[simp] theorem Pool.setReg_seen (p : Pool) (t n : Nat) (w : Word) :
    (p.setReg t n w).seen = p.seen := rfl
@[simp] theorem Pool.setReg_granted (p : Pool) (t n : Nat) (w : Word) :
    (p.setReg t n w).granted = p.granted := rfl
@[simp] theorem Pool.setReg_blockedSince (p : Pool) (t n : Nat) (w : Word) :
    (p.setReg t n w).blockedSince = p.blockedSince := rfl
@[simp] theorem Pool.setReg_placed (p : Pool) (t n : Nat) (w : Word) :
    (p.setReg t n w).placed = p.placed := rfl

/-! ### Pool.setRegKept -/

@[simp] theorem Pool.setRegKept_task (p : Pool) (t n : Nat) (w : Word) :
    (p.setRegKept t n w).task = p.task := rfl
@[simp] theorem Pool.setRegKept_threads (p : Pool) (t n : Nat) (w : Word) :
    (p.setRegKept t n w).threads = p.threads := rfl
@[simp] theorem Pool.setRegKept_allot (p : Pool) (t n : Nat) (w : Word) :
    (p.setRegKept t n w).allot = p.allot := rfl
@[simp] theorem Pool.setRegKept_spadSize (p : Pool) (t n : Nat) (w : Word) :
    (p.setRegKept t n w).spadSize = p.spadSize := rfl
@[simp] theorem Pool.setRegKept_cpsMax (p : Pool) (t n : Nat) (w : Word) :
    (p.setRegKept t n w).cpsMax = p.cpsMax := rfl
@[simp] theorem Pool.setRegKept_group (p : Pool) (t n : Nat) (w : Word) :
    (p.setRegKept t n w).group = p.group := rfl
@[simp] theorem Pool.setRegKept_durable (p : Pool) (t n : Nat) (w : Word) :
    (p.setRegKept t n w).durable = p.durable := rfl
@[simp] theorem Pool.setRegKept_rslice (p : Pool) (t n : Nat) (w : Word) :
    (p.setRegKept t n w).rslice = p.rslice := rfl
@[simp] theorem Pool.setRegKept_parts (p : Pool) (t n : Nat) (w : Word) :
    (p.setRegKept t n w).parts = p.parts := rfl
@[simp] theorem Pool.setRegKept_spadUnits (p : Pool) (t n : Nat) (w : Word) :
    (p.setRegKept t n w).spadUnits = p.spadUnits := rfl
@[simp] theorem Pool.setRegKept_contexts (p : Pool) (t n : Nat) (w : Word) :
    (p.setRegKept t n w).contexts = p.contexts := rfl
@[simp] theorem Pool.setRegKept_cps (p : Pool) (t n : Nat) (w : Word) :
    (p.setRegKept t n w).cps = p.cps := rfl
@[simp] theorem Pool.setRegKept_started (p : Pool) (t n : Nat) (w : Word) :
    (p.setRegKept t n w).started = p.started := rfl
@[simp] theorem Pool.setRegKept_spad (p : Pool) (t n : Nat) (w : Word) :
    (p.setRegKept t n w).spad = p.spad := rfl
@[simp] theorem Pool.setRegKept_tiles (p : Pool) (t n : Nat) (w : Word) :
    (p.setRegKept t n w).tiles = p.tiles := rfl
@[simp] theorem Pool.setRegKept_ops (p : Pool) (t n : Nat) (w : Word) :
    (p.setRegKept t n w).ops = p.ops := rfl
@[simp] theorem Pool.setRegKept_cmds (p : Pool) (t n : Nat) (w : Word) :
    (p.setRegKept t n w).cmds = p.cmds := rfl
@[simp] theorem Pool.setRegKept_ckpt (p : Pool) (t n : Nat) (w : Word) :
    (p.setRegKept t n w).ckpt = p.ckpt := rfl
@[simp] theorem Pool.setRegKept_image (p : Pool) (t n : Nat) (w : Word) :
    (p.setRegKept t n w).image = p.image := rfl
@[simp] theorem Pool.setRegKept_undoSpad (p : Pool) (t n : Nat) (w : Word) :
    (p.setRegKept t n w).undoSpad = p.undoSpad := rfl
@[simp] theorem Pool.setRegKept_undoTiles (p : Pool) (t n : Nat) (w : Word) :
    (p.setRegKept t n w).undoTiles = p.undoTiles := rfl
@[simp] theorem Pool.setRegKept_undoSince (p : Pool) (t n : Nat) (w : Word) :
    (p.setRegKept t n w).undoSince = p.undoSince := rfl
@[simp] theorem Pool.setRegKept_undoWait (p : Pool) (t n : Nat) (w : Word) :
    (p.setRegKept t n w).undoWait = p.undoWait := rfl
@[simp] theorem Pool.setRegKept_rollbacks (p : Pool) (t n : Nat) (w : Word) :
    (p.setRegKept t n w).rollbacks = p.rollbacks := rfl
@[simp] theorem Pool.setRegKept_deps (p : Pool) (t n : Nat) (w : Word) :
    (p.setRegKept t n w).deps = p.deps := rfl
@[simp] theorem Pool.setRegKept_seen (p : Pool) (t n : Nat) (w : Word) :
    (p.setRegKept t n w).seen = p.seen := rfl
@[simp] theorem Pool.setRegKept_granted (p : Pool) (t n : Nat) (w : Word) :
    (p.setRegKept t n w).granted = p.granted := rfl
@[simp] theorem Pool.setRegKept_blockedSince (p : Pool) (t n : Nat) (w : Word) :
    (p.setRegKept t n w).blockedSince = p.blockedSince := rfl
@[simp] theorem Pool.setRegKept_placed (p : Pool) (t n : Nat) (w : Word) :
    (p.setRegKept t n w).placed = p.placed := rfl

/-! ### Pool.setSpadByte -/

@[simp] theorem Pool.setSpadByte_task (p : Pool) (a : Nat) (b : Byte) :
    (p.setSpadByte a b).task = p.task := rfl
@[simp] theorem Pool.setSpadByte_threads (p : Pool) (a : Nat) (b : Byte) :
    (p.setSpadByte a b).threads = p.threads := rfl
@[simp] theorem Pool.setSpadByte_allot (p : Pool) (a : Nat) (b : Byte) :
    (p.setSpadByte a b).allot = p.allot := rfl
@[simp] theorem Pool.setSpadByte_spadSize (p : Pool) (a : Nat) (b : Byte) :
    (p.setSpadByte a b).spadSize = p.spadSize := rfl
@[simp] theorem Pool.setSpadByte_cpsMax (p : Pool) (a : Nat) (b : Byte) :
    (p.setSpadByte a b).cpsMax = p.cpsMax := rfl
@[simp] theorem Pool.setSpadByte_group (p : Pool) (a : Nat) (b : Byte) :
    (p.setSpadByte a b).group = p.group := rfl
@[simp] theorem Pool.setSpadByte_durable (p : Pool) (a : Nat) (b : Byte) :
    (p.setSpadByte a b).durable = p.durable := rfl
@[simp] theorem Pool.setSpadByte_rslice (p : Pool) (a : Nat) (b : Byte) :
    (p.setSpadByte a b).rslice = p.rslice := rfl
@[simp] theorem Pool.setSpadByte_parts (p : Pool) (a : Nat) (b : Byte) :
    (p.setSpadByte a b).parts = p.parts := rfl
@[simp] theorem Pool.setSpadByte_spadUnits (p : Pool) (a : Nat) (b : Byte) :
    (p.setSpadByte a b).spadUnits = p.spadUnits := rfl
@[simp] theorem Pool.setSpadByte_contexts (p : Pool) (a : Nat) (b : Byte) :
    (p.setSpadByte a b).contexts = p.contexts := rfl
@[simp] theorem Pool.setSpadByte_cps (p : Pool) (a : Nat) (b : Byte) :
    (p.setSpadByte a b).cps = p.cps := rfl
@[simp] theorem Pool.setSpadByte_started (p : Pool) (a : Nat) (b : Byte) :
    (p.setSpadByte a b).started = p.started := rfl
@[simp] theorem Pool.setSpadByte_regs (p : Pool) (a : Nat) (b : Byte) :
    (p.setSpadByte a b).regs = p.regs := rfl
@[simp] theorem Pool.setSpadByte_tiles (p : Pool) (a : Nat) (b : Byte) :
    (p.setSpadByte a b).tiles = p.tiles := rfl
@[simp] theorem Pool.setSpadByte_ops (p : Pool) (a : Nat) (b : Byte) :
    (p.setSpadByte a b).ops = p.ops := rfl
@[simp] theorem Pool.setSpadByte_cmds (p : Pool) (a : Nat) (b : Byte) :
    (p.setSpadByte a b).cmds = p.cmds := rfl
@[simp] theorem Pool.setSpadByte_ckpt (p : Pool) (a : Nat) (b : Byte) :
    (p.setSpadByte a b).ckpt = p.ckpt := rfl
@[simp] theorem Pool.setSpadByte_image (p : Pool) (a : Nat) (b : Byte) :
    (p.setSpadByte a b).image = p.image := rfl
@[simp] theorem Pool.setSpadByte_undoRegs (p : Pool) (a : Nat) (b : Byte) :
    (p.setSpadByte a b).undoRegs = p.undoRegs := rfl
@[simp] theorem Pool.setSpadByte_undoTiles (p : Pool) (a : Nat) (b : Byte) :
    (p.setSpadByte a b).undoTiles = p.undoTiles := rfl
@[simp] theorem Pool.setSpadByte_undoSince (p : Pool) (a : Nat) (b : Byte) :
    (p.setSpadByte a b).undoSince = p.undoSince := rfl
@[simp] theorem Pool.setSpadByte_undoWait (p : Pool) (a : Nat) (b : Byte) :
    (p.setSpadByte a b).undoWait = p.undoWait := rfl
@[simp] theorem Pool.setSpadByte_rollbacks (p : Pool) (a : Nat) (b : Byte) :
    (p.setSpadByte a b).rollbacks = p.rollbacks := rfl
@[simp] theorem Pool.setSpadByte_deps (p : Pool) (a : Nat) (b : Byte) :
    (p.setSpadByte a b).deps = p.deps := rfl
@[simp] theorem Pool.setSpadByte_seen (p : Pool) (a : Nat) (b : Byte) :
    (p.setSpadByte a b).seen = p.seen := rfl
@[simp] theorem Pool.setSpadByte_granted (p : Pool) (a : Nat) (b : Byte) :
    (p.setSpadByte a b).granted = p.granted := rfl
@[simp] theorem Pool.setSpadByte_blockedSince (p : Pool) (a : Nat) (b : Byte) :
    (p.setSpadByte a b).blockedSince = p.blockedSince := rfl
@[simp] theorem Pool.setSpadByte_placed (p : Pool) (a : Nat) (b : Byte) :
    (p.setSpadByte a b).placed = p.placed := rfl

/-! ### Pool.setSpadByteKept -/

@[simp] theorem Pool.setSpadByteKept_task (p : Pool) (a : Nat) (b : Byte) :
    (p.setSpadByteKept a b).task = p.task := rfl
@[simp] theorem Pool.setSpadByteKept_threads (p : Pool) (a : Nat) (b : Byte) :
    (p.setSpadByteKept a b).threads = p.threads := rfl
@[simp] theorem Pool.setSpadByteKept_allot (p : Pool) (a : Nat) (b : Byte) :
    (p.setSpadByteKept a b).allot = p.allot := rfl
@[simp] theorem Pool.setSpadByteKept_spadSize (p : Pool) (a : Nat) (b : Byte) :
    (p.setSpadByteKept a b).spadSize = p.spadSize := rfl
@[simp] theorem Pool.setSpadByteKept_cpsMax (p : Pool) (a : Nat) (b : Byte) :
    (p.setSpadByteKept a b).cpsMax = p.cpsMax := rfl
@[simp] theorem Pool.setSpadByteKept_group (p : Pool) (a : Nat) (b : Byte) :
    (p.setSpadByteKept a b).group = p.group := rfl
@[simp] theorem Pool.setSpadByteKept_durable (p : Pool) (a : Nat) (b : Byte) :
    (p.setSpadByteKept a b).durable = p.durable := rfl
@[simp] theorem Pool.setSpadByteKept_rslice (p : Pool) (a : Nat) (b : Byte) :
    (p.setSpadByteKept a b).rslice = p.rslice := rfl
@[simp] theorem Pool.setSpadByteKept_parts (p : Pool) (a : Nat) (b : Byte) :
    (p.setSpadByteKept a b).parts = p.parts := rfl
@[simp] theorem Pool.setSpadByteKept_spadUnits (p : Pool) (a : Nat) (b : Byte) :
    (p.setSpadByteKept a b).spadUnits = p.spadUnits := rfl
@[simp] theorem Pool.setSpadByteKept_contexts (p : Pool) (a : Nat) (b : Byte) :
    (p.setSpadByteKept a b).contexts = p.contexts := rfl
@[simp] theorem Pool.setSpadByteKept_cps (p : Pool) (a : Nat) (b : Byte) :
    (p.setSpadByteKept a b).cps = p.cps := rfl
@[simp] theorem Pool.setSpadByteKept_started (p : Pool) (a : Nat) (b : Byte) :
    (p.setSpadByteKept a b).started = p.started := rfl
@[simp] theorem Pool.setSpadByteKept_regs (p : Pool) (a : Nat) (b : Byte) :
    (p.setSpadByteKept a b).regs = p.regs := rfl
@[simp] theorem Pool.setSpadByteKept_tiles (p : Pool) (a : Nat) (b : Byte) :
    (p.setSpadByteKept a b).tiles = p.tiles := rfl
@[simp] theorem Pool.setSpadByteKept_ops (p : Pool) (a : Nat) (b : Byte) :
    (p.setSpadByteKept a b).ops = p.ops := rfl
@[simp] theorem Pool.setSpadByteKept_cmds (p : Pool) (a : Nat) (b : Byte) :
    (p.setSpadByteKept a b).cmds = p.cmds := rfl
@[simp] theorem Pool.setSpadByteKept_ckpt (p : Pool) (a : Nat) (b : Byte) :
    (p.setSpadByteKept a b).ckpt = p.ckpt := rfl
@[simp] theorem Pool.setSpadByteKept_image (p : Pool) (a : Nat) (b : Byte) :
    (p.setSpadByteKept a b).image = p.image := rfl
@[simp] theorem Pool.setSpadByteKept_undoRegs (p : Pool) (a : Nat) (b : Byte) :
    (p.setSpadByteKept a b).undoRegs = p.undoRegs := rfl
@[simp] theorem Pool.setSpadByteKept_undoTiles (p : Pool) (a : Nat) (b : Byte) :
    (p.setSpadByteKept a b).undoTiles = p.undoTiles := rfl
@[simp] theorem Pool.setSpadByteKept_undoSince (p : Pool) (a : Nat) (b : Byte) :
    (p.setSpadByteKept a b).undoSince = p.undoSince := rfl
@[simp] theorem Pool.setSpadByteKept_undoWait (p : Pool) (a : Nat) (b : Byte) :
    (p.setSpadByteKept a b).undoWait = p.undoWait := rfl
@[simp] theorem Pool.setSpadByteKept_rollbacks (p : Pool) (a : Nat) (b : Byte) :
    (p.setSpadByteKept a b).rollbacks = p.rollbacks := rfl
@[simp] theorem Pool.setSpadByteKept_deps (p : Pool) (a : Nat) (b : Byte) :
    (p.setSpadByteKept a b).deps = p.deps := rfl
@[simp] theorem Pool.setSpadByteKept_seen (p : Pool) (a : Nat) (b : Byte) :
    (p.setSpadByteKept a b).seen = p.seen := rfl
@[simp] theorem Pool.setSpadByteKept_granted (p : Pool) (a : Nat) (b : Byte) :
    (p.setSpadByteKept a b).granted = p.granted := rfl
@[simp] theorem Pool.setSpadByteKept_blockedSince (p : Pool) (a : Nat) (b : Byte) :
    (p.setSpadByteKept a b).blockedSince = p.blockedSince := rfl
@[simp] theorem Pool.setSpadByteKept_placed (p : Pool) (a : Nat) (b : Byte) :
    (p.setSpadByteKept a b).placed = p.placed := rfl

/-! ### Pool.removeOp -/

@[simp] theorem Pool.removeOp_task (p : Pool) (id : Nat) :
    (p.removeOp id).task = p.task := rfl
@[simp] theorem Pool.removeOp_threads (p : Pool) (id : Nat) :
    (p.removeOp id).threads = p.threads := rfl
@[simp] theorem Pool.removeOp_allot (p : Pool) (id : Nat) :
    (p.removeOp id).allot = p.allot := rfl
@[simp] theorem Pool.removeOp_spadSize (p : Pool) (id : Nat) :
    (p.removeOp id).spadSize = p.spadSize := rfl
@[simp] theorem Pool.removeOp_cpsMax (p : Pool) (id : Nat) :
    (p.removeOp id).cpsMax = p.cpsMax := rfl
@[simp] theorem Pool.removeOp_group (p : Pool) (id : Nat) :
    (p.removeOp id).group = p.group := rfl
@[simp] theorem Pool.removeOp_durable (p : Pool) (id : Nat) :
    (p.removeOp id).durable = p.durable := rfl
@[simp] theorem Pool.removeOp_rslice (p : Pool) (id : Nat) :
    (p.removeOp id).rslice = p.rslice := rfl
@[simp] theorem Pool.removeOp_parts (p : Pool) (id : Nat) :
    (p.removeOp id).parts = p.parts := rfl
@[simp] theorem Pool.removeOp_spadUnits (p : Pool) (id : Nat) :
    (p.removeOp id).spadUnits = p.spadUnits := rfl
@[simp] theorem Pool.removeOp_contexts (p : Pool) (id : Nat) :
    (p.removeOp id).contexts = p.contexts := rfl
@[simp] theorem Pool.removeOp_cps (p : Pool) (id : Nat) :
    (p.removeOp id).cps = p.cps := rfl
@[simp] theorem Pool.removeOp_started (p : Pool) (id : Nat) :
    (p.removeOp id).started = p.started := rfl
@[simp] theorem Pool.removeOp_regs (p : Pool) (id : Nat) :
    (p.removeOp id).regs = p.regs := rfl
@[simp] theorem Pool.removeOp_spad (p : Pool) (id : Nat) :
    (p.removeOp id).spad = p.spad := rfl
@[simp] theorem Pool.removeOp_tiles (p : Pool) (id : Nat) :
    (p.removeOp id).tiles = p.tiles := rfl
@[simp] theorem Pool.removeOp_cmds (p : Pool) (id : Nat) :
    (p.removeOp id).cmds = p.cmds := rfl
@[simp] theorem Pool.removeOp_ckpt (p : Pool) (id : Nat) :
    (p.removeOp id).ckpt = p.ckpt := rfl
@[simp] theorem Pool.removeOp_image (p : Pool) (id : Nat) :
    (p.removeOp id).image = p.image := rfl
@[simp] theorem Pool.removeOp_undoRegs (p : Pool) (id : Nat) :
    (p.removeOp id).undoRegs = p.undoRegs := rfl
@[simp] theorem Pool.removeOp_undoSpad (p : Pool) (id : Nat) :
    (p.removeOp id).undoSpad = p.undoSpad := rfl
@[simp] theorem Pool.removeOp_undoTiles (p : Pool) (id : Nat) :
    (p.removeOp id).undoTiles = p.undoTiles := rfl
@[simp] theorem Pool.removeOp_undoSince (p : Pool) (id : Nat) :
    (p.removeOp id).undoSince = p.undoSince := rfl
@[simp] theorem Pool.removeOp_undoWait (p : Pool) (id : Nat) :
    (p.removeOp id).undoWait = p.undoWait := rfl
@[simp] theorem Pool.removeOp_rollbacks (p : Pool) (id : Nat) :
    (p.removeOp id).rollbacks = p.rollbacks := rfl
@[simp] theorem Pool.removeOp_deps (p : Pool) (id : Nat) :
    (p.removeOp id).deps = p.deps := rfl
@[simp] theorem Pool.removeOp_seen (p : Pool) (id : Nat) :
    (p.removeOp id).seen = p.seen := rfl
@[simp] theorem Pool.removeOp_granted (p : Pool) (id : Nat) :
    (p.removeOp id).granted = p.granted := rfl
@[simp] theorem Pool.removeOp_blockedSince (p : Pool) (id : Nat) :
    (p.removeOp id).blockedSince = p.blockedSince := rfl
@[simp] theorem Pool.removeOp_placed (p : Pool) (id : Nat) :
    (p.removeOp id).placed = p.placed := rfl

/-! ### Pool.modOp -/

@[simp] theorem Pool.modOp_task (p : Pool) (id : Nat) (f : Op → Op) :
    (p.modOp id f).task = p.task := rfl
@[simp] theorem Pool.modOp_threads (p : Pool) (id : Nat) (f : Op → Op) :
    (p.modOp id f).threads = p.threads := rfl
@[simp] theorem Pool.modOp_allot (p : Pool) (id : Nat) (f : Op → Op) :
    (p.modOp id f).allot = p.allot := rfl
@[simp] theorem Pool.modOp_spadSize (p : Pool) (id : Nat) (f : Op → Op) :
    (p.modOp id f).spadSize = p.spadSize := rfl
@[simp] theorem Pool.modOp_cpsMax (p : Pool) (id : Nat) (f : Op → Op) :
    (p.modOp id f).cpsMax = p.cpsMax := rfl
@[simp] theorem Pool.modOp_group (p : Pool) (id : Nat) (f : Op → Op) :
    (p.modOp id f).group = p.group := rfl
@[simp] theorem Pool.modOp_durable (p : Pool) (id : Nat) (f : Op → Op) :
    (p.modOp id f).durable = p.durable := rfl
@[simp] theorem Pool.modOp_rslice (p : Pool) (id : Nat) (f : Op → Op) :
    (p.modOp id f).rslice = p.rslice := rfl
@[simp] theorem Pool.modOp_parts (p : Pool) (id : Nat) (f : Op → Op) :
    (p.modOp id f).parts = p.parts := rfl
@[simp] theorem Pool.modOp_spadUnits (p : Pool) (id : Nat) (f : Op → Op) :
    (p.modOp id f).spadUnits = p.spadUnits := rfl
@[simp] theorem Pool.modOp_contexts (p : Pool) (id : Nat) (f : Op → Op) :
    (p.modOp id f).contexts = p.contexts := rfl
@[simp] theorem Pool.modOp_cps (p : Pool) (id : Nat) (f : Op → Op) :
    (p.modOp id f).cps = p.cps := rfl
@[simp] theorem Pool.modOp_started (p : Pool) (id : Nat) (f : Op → Op) :
    (p.modOp id f).started = p.started := rfl
@[simp] theorem Pool.modOp_regs (p : Pool) (id : Nat) (f : Op → Op) :
    (p.modOp id f).regs = p.regs := rfl
@[simp] theorem Pool.modOp_spad (p : Pool) (id : Nat) (f : Op → Op) :
    (p.modOp id f).spad = p.spad := rfl
@[simp] theorem Pool.modOp_tiles (p : Pool) (id : Nat) (f : Op → Op) :
    (p.modOp id f).tiles = p.tiles := rfl
@[simp] theorem Pool.modOp_cmds (p : Pool) (id : Nat) (f : Op → Op) :
    (p.modOp id f).cmds = p.cmds := rfl
@[simp] theorem Pool.modOp_ckpt (p : Pool) (id : Nat) (f : Op → Op) :
    (p.modOp id f).ckpt = p.ckpt := rfl
@[simp] theorem Pool.modOp_image (p : Pool) (id : Nat) (f : Op → Op) :
    (p.modOp id f).image = p.image := rfl
@[simp] theorem Pool.modOp_undoRegs (p : Pool) (id : Nat) (f : Op → Op) :
    (p.modOp id f).undoRegs = p.undoRegs := rfl
@[simp] theorem Pool.modOp_undoSpad (p : Pool) (id : Nat) (f : Op → Op) :
    (p.modOp id f).undoSpad = p.undoSpad := rfl
@[simp] theorem Pool.modOp_undoTiles (p : Pool) (id : Nat) (f : Op → Op) :
    (p.modOp id f).undoTiles = p.undoTiles := rfl
@[simp] theorem Pool.modOp_undoSince (p : Pool) (id : Nat) (f : Op → Op) :
    (p.modOp id f).undoSince = p.undoSince := rfl
@[simp] theorem Pool.modOp_undoWait (p : Pool) (id : Nat) (f : Op → Op) :
    (p.modOp id f).undoWait = p.undoWait := rfl
@[simp] theorem Pool.modOp_rollbacks (p : Pool) (id : Nat) (f : Op → Op) :
    (p.modOp id f).rollbacks = p.rollbacks := rfl
@[simp] theorem Pool.modOp_deps (p : Pool) (id : Nat) (f : Op → Op) :
    (p.modOp id f).deps = p.deps := rfl
@[simp] theorem Pool.modOp_seen (p : Pool) (id : Nat) (f : Op → Op) :
    (p.modOp id f).seen = p.seen := rfl
@[simp] theorem Pool.modOp_granted (p : Pool) (id : Nat) (f : Op → Op) :
    (p.modOp id f).granted = p.granted := rfl
@[simp] theorem Pool.modOp_blockedSince (p : Pool) (id : Nat) (f : Op → Op) :
    (p.modOp id f).blockedSince = p.blockedSince := rfl
@[simp] theorem Pool.modOp_placed (p : Pool) (id : Nat) (f : Op → Op) :
    (p.modOp id f).placed = p.placed := rfl

/-! ### Pool.removeCmd -/

@[simp] theorem Pool.removeCmd_task (p : Pool) (id : Nat) :
    (p.removeCmd id).task = p.task := rfl
@[simp] theorem Pool.removeCmd_threads (p : Pool) (id : Nat) :
    (p.removeCmd id).threads = p.threads := rfl
@[simp] theorem Pool.removeCmd_allot (p : Pool) (id : Nat) :
    (p.removeCmd id).allot = p.allot := rfl
@[simp] theorem Pool.removeCmd_spadSize (p : Pool) (id : Nat) :
    (p.removeCmd id).spadSize = p.spadSize := rfl
@[simp] theorem Pool.removeCmd_cpsMax (p : Pool) (id : Nat) :
    (p.removeCmd id).cpsMax = p.cpsMax := rfl
@[simp] theorem Pool.removeCmd_group (p : Pool) (id : Nat) :
    (p.removeCmd id).group = p.group := rfl
@[simp] theorem Pool.removeCmd_durable (p : Pool) (id : Nat) :
    (p.removeCmd id).durable = p.durable := rfl
@[simp] theorem Pool.removeCmd_rslice (p : Pool) (id : Nat) :
    (p.removeCmd id).rslice = p.rslice := rfl
@[simp] theorem Pool.removeCmd_parts (p : Pool) (id : Nat) :
    (p.removeCmd id).parts = p.parts := rfl
@[simp] theorem Pool.removeCmd_spadUnits (p : Pool) (id : Nat) :
    (p.removeCmd id).spadUnits = p.spadUnits := rfl
@[simp] theorem Pool.removeCmd_contexts (p : Pool) (id : Nat) :
    (p.removeCmd id).contexts = p.contexts := rfl
@[simp] theorem Pool.removeCmd_cps (p : Pool) (id : Nat) :
    (p.removeCmd id).cps = p.cps := rfl
@[simp] theorem Pool.removeCmd_started (p : Pool) (id : Nat) :
    (p.removeCmd id).started = p.started := rfl
@[simp] theorem Pool.removeCmd_regs (p : Pool) (id : Nat) :
    (p.removeCmd id).regs = p.regs := rfl
@[simp] theorem Pool.removeCmd_spad (p : Pool) (id : Nat) :
    (p.removeCmd id).spad = p.spad := rfl
@[simp] theorem Pool.removeCmd_tiles (p : Pool) (id : Nat) :
    (p.removeCmd id).tiles = p.tiles := rfl
@[simp] theorem Pool.removeCmd_ops (p : Pool) (id : Nat) :
    (p.removeCmd id).ops = p.ops := rfl
@[simp] theorem Pool.removeCmd_ckpt (p : Pool) (id : Nat) :
    (p.removeCmd id).ckpt = p.ckpt := rfl
@[simp] theorem Pool.removeCmd_image (p : Pool) (id : Nat) :
    (p.removeCmd id).image = p.image := rfl
@[simp] theorem Pool.removeCmd_undoRegs (p : Pool) (id : Nat) :
    (p.removeCmd id).undoRegs = p.undoRegs := rfl
@[simp] theorem Pool.removeCmd_undoSpad (p : Pool) (id : Nat) :
    (p.removeCmd id).undoSpad = p.undoSpad := rfl
@[simp] theorem Pool.removeCmd_undoTiles (p : Pool) (id : Nat) :
    (p.removeCmd id).undoTiles = p.undoTiles := rfl
@[simp] theorem Pool.removeCmd_undoSince (p : Pool) (id : Nat) :
    (p.removeCmd id).undoSince = p.undoSince := rfl
@[simp] theorem Pool.removeCmd_undoWait (p : Pool) (id : Nat) :
    (p.removeCmd id).undoWait = p.undoWait := rfl
@[simp] theorem Pool.removeCmd_rollbacks (p : Pool) (id : Nat) :
    (p.removeCmd id).rollbacks = p.rollbacks := rfl
@[simp] theorem Pool.removeCmd_deps (p : Pool) (id : Nat) :
    (p.removeCmd id).deps = p.deps := rfl
@[simp] theorem Pool.removeCmd_seen (p : Pool) (id : Nat) :
    (p.removeCmd id).seen = p.seen := rfl
@[simp] theorem Pool.removeCmd_granted (p : Pool) (id : Nat) :
    (p.removeCmd id).granted = p.granted := rfl
@[simp] theorem Pool.removeCmd_blockedSince (p : Pool) (id : Nat) :
    (p.removeCmd id).blockedSince = p.blockedSince := rfl
@[simp] theorem Pool.removeCmd_placed (p : Pool) (id : Nat) :
    (p.removeCmd id).placed = p.placed := rfl

/-! ### Pool.modCmd -/

@[simp] theorem Pool.modCmd_task (p : Pool) (id : Nat) (f : Cmd → Cmd) :
    (p.modCmd id f).task = p.task := rfl
@[simp] theorem Pool.modCmd_threads (p : Pool) (id : Nat) (f : Cmd → Cmd) :
    (p.modCmd id f).threads = p.threads := rfl
@[simp] theorem Pool.modCmd_allot (p : Pool) (id : Nat) (f : Cmd → Cmd) :
    (p.modCmd id f).allot = p.allot := rfl
@[simp] theorem Pool.modCmd_spadSize (p : Pool) (id : Nat) (f : Cmd → Cmd) :
    (p.modCmd id f).spadSize = p.spadSize := rfl
@[simp] theorem Pool.modCmd_cpsMax (p : Pool) (id : Nat) (f : Cmd → Cmd) :
    (p.modCmd id f).cpsMax = p.cpsMax := rfl
@[simp] theorem Pool.modCmd_group (p : Pool) (id : Nat) (f : Cmd → Cmd) :
    (p.modCmd id f).group = p.group := rfl
@[simp] theorem Pool.modCmd_durable (p : Pool) (id : Nat) (f : Cmd → Cmd) :
    (p.modCmd id f).durable = p.durable := rfl
@[simp] theorem Pool.modCmd_rslice (p : Pool) (id : Nat) (f : Cmd → Cmd) :
    (p.modCmd id f).rslice = p.rslice := rfl
@[simp] theorem Pool.modCmd_parts (p : Pool) (id : Nat) (f : Cmd → Cmd) :
    (p.modCmd id f).parts = p.parts := rfl
@[simp] theorem Pool.modCmd_spadUnits (p : Pool) (id : Nat) (f : Cmd → Cmd) :
    (p.modCmd id f).spadUnits = p.spadUnits := rfl
@[simp] theorem Pool.modCmd_contexts (p : Pool) (id : Nat) (f : Cmd → Cmd) :
    (p.modCmd id f).contexts = p.contexts := rfl
@[simp] theorem Pool.modCmd_cps (p : Pool) (id : Nat) (f : Cmd → Cmd) :
    (p.modCmd id f).cps = p.cps := rfl
@[simp] theorem Pool.modCmd_started (p : Pool) (id : Nat) (f : Cmd → Cmd) :
    (p.modCmd id f).started = p.started := rfl
@[simp] theorem Pool.modCmd_regs (p : Pool) (id : Nat) (f : Cmd → Cmd) :
    (p.modCmd id f).regs = p.regs := rfl
@[simp] theorem Pool.modCmd_spad (p : Pool) (id : Nat) (f : Cmd → Cmd) :
    (p.modCmd id f).spad = p.spad := rfl
@[simp] theorem Pool.modCmd_tiles (p : Pool) (id : Nat) (f : Cmd → Cmd) :
    (p.modCmd id f).tiles = p.tiles := rfl
@[simp] theorem Pool.modCmd_ops (p : Pool) (id : Nat) (f : Cmd → Cmd) :
    (p.modCmd id f).ops = p.ops := rfl
@[simp] theorem Pool.modCmd_ckpt (p : Pool) (id : Nat) (f : Cmd → Cmd) :
    (p.modCmd id f).ckpt = p.ckpt := rfl
@[simp] theorem Pool.modCmd_image (p : Pool) (id : Nat) (f : Cmd → Cmd) :
    (p.modCmd id f).image = p.image := rfl
@[simp] theorem Pool.modCmd_undoRegs (p : Pool) (id : Nat) (f : Cmd → Cmd) :
    (p.modCmd id f).undoRegs = p.undoRegs := rfl
@[simp] theorem Pool.modCmd_undoSpad (p : Pool) (id : Nat) (f : Cmd → Cmd) :
    (p.modCmd id f).undoSpad = p.undoSpad := rfl
@[simp] theorem Pool.modCmd_undoTiles (p : Pool) (id : Nat) (f : Cmd → Cmd) :
    (p.modCmd id f).undoTiles = p.undoTiles := rfl
@[simp] theorem Pool.modCmd_undoSince (p : Pool) (id : Nat) (f : Cmd → Cmd) :
    (p.modCmd id f).undoSince = p.undoSince := rfl
@[simp] theorem Pool.modCmd_undoWait (p : Pool) (id : Nat) (f : Cmd → Cmd) :
    (p.modCmd id f).undoWait = p.undoWait := rfl
@[simp] theorem Pool.modCmd_rollbacks (p : Pool) (id : Nat) (f : Cmd → Cmd) :
    (p.modCmd id f).rollbacks = p.rollbacks := rfl
@[simp] theorem Pool.modCmd_deps (p : Pool) (id : Nat) (f : Cmd → Cmd) :
    (p.modCmd id f).deps = p.deps := rfl
@[simp] theorem Pool.modCmd_seen (p : Pool) (id : Nat) (f : Cmd → Cmd) :
    (p.modCmd id f).seen = p.seen := rfl
@[simp] theorem Pool.modCmd_granted (p : Pool) (id : Nat) (f : Cmd → Cmd) :
    (p.modCmd id f).granted = p.granted := rfl
@[simp] theorem Pool.modCmd_blockedSince (p : Pool) (id : Nat) (f : Cmd → Cmd) :
    (p.modCmd id f).blockedSince = p.blockedSince := rfl
@[simp] theorem Pool.modCmd_placed (p : Pool) (id : Nat) (f : Cmd → Cmd) :
    (p.modCmd id f).placed = p.placed := rfl

/-! ### Cp.setS -/

@[simp] theorem Cp.setS_status (c : Cp) (n : Nat) (x : DWord) :
    (c.setS n x).status = c.status := rfl
@[simp] theorem Cp.setS_pc (c : Cp) (n : Nat) (x : DWord) :
    (c.setS n x).pc = c.pc := rfl
@[simp] theorem Cp.setS_clause (c : Cp) (n : Nat) (x : DWord) :
    (c.setS n x).clause = c.clause := rfl
@[simp] theorem Cp.setS_m (c : Cp) (n : Nat) (x : DWord) :
    (c.setS n x).m = c.m := rfl
@[simp] theorem Cp.setS_stack (c : Cp) (n : Nat) (x : DWord) :
    (c.setS n x).stack = c.stack := rfl
@[simp] theorem Cp.setS_cpy (c : Cp) (n : Nat) (x : DWord) :
    (c.setS n x).cpy = c.cpy := rfl
@[simp] theorem Cp.setS_gth (c : Cp) (n : Nat) (x : DWord) :
    (c.setS n x).gth = c.gth := rfl
@[simp] theorem Cp.setS_mrg (c : Cp) (n : Nat) (x : DWord) :
    (c.setS n x).mrg = c.mrg := rfl
@[simp] theorem Cp.setS_mtx (c : Cp) (n : Nat) (x : DWord) :
    (c.setS n x).mtx = c.mtx := rfl
@[simp] theorem Cp.setS_fstat (c : Cp) (n : Nat) (x : DWord) :
    (c.setS n x).fstat = c.fstat := rfl
@[simp] theorem Cp.setS_cki (c : Cp) (n : Nat) (x : DWord) :
    (c.setS n x).cki = c.cki := rfl
@[simp] theorem Cp.setS_tmask (c : Cp) (n : Nat) (x : DWord) :
    (c.setS n x).tmask = c.tmask := rfl
@[simp] theorem Cp.setS_holdLeft (c : Cp) (n : Nat) (x : DWord) :
    (c.setS n x).holdLeft = c.holdLeft := rfl
@[simp] theorem Cp.setS_holdSince (c : Cp) (n : Nat) (x : DWord) :
    (c.setS n x).holdSince = c.holdSince := rfl
@[simp] theorem Cp.setS_begun (c : Cp) (n : Nat) (x : DWord) :
    (c.setS n x).begun = c.begun := rfl
@[simp] theorem Cp.setS_nopre (c : Cp) (n : Nat) (x : DWord) :
    (c.setS n x).nopre = c.nopre := rfl
@[simp] theorem Cp.setS_handles (c : Cp) (n : Nat) (x : DWord) :
    (c.setS n x).handles = c.handles := rfl
@[simp] theorem Cp.setS_faults (c : Cp) (n : Nat) (x : DWord) :
    (c.setS n x).faults = c.faults := rfl
@[simp] theorem Cp.setS_stand (c : Cp) (n : Nat) (x : DWord) :
    (c.setS n x).stand = c.stand := rfl
@[simp] theorem Cp.setS_trap (c : Cp) (n : Nat) (x : DWord) :
    (c.setS n x).trap = c.trap := rfl
@[simp] theorem Cp.setS_wait (c : Cp) (n : Nat) (x : DWord) :
    (c.setS n x).wait = c.wait := rfl
@[simp] theorem Cp.setS_fencedRel (c : Cp) (n : Nat) (x : DWord) :
    (c.setS n x).fencedRel = c.fencedRel := rfl
@[simp] theorem Cp.setS_next (c : Cp) (n : Nat) (x : DWord) :
    (c.setS n x).next = c.next := rfl
@[simp] theorem Cp.setS_ready (c : Cp) (n : Nat) (x : DWord) :
    (c.setS n x).ready = c.ready := rfl
@[simp] theorem Cp.setS_passed (c : Cp) (n : Nat) (x : DWord) :
    (c.setS n x).passed = c.passed := rfl
@[simp] theorem Cp.setS_skew (c : Cp) (n : Nat) (x : DWord) :
    (c.setS n x).skew = c.skew := rfl

/-! ### Cp.setM -/

@[simp] theorem Cp.setM_status (c : Cp) (n : Nat) (x : Mask) :
    (c.setM n x).status = c.status := rfl
@[simp] theorem Cp.setM_pc (c : Cp) (n : Nat) (x : Mask) :
    (c.setM n x).pc = c.pc := rfl
@[simp] theorem Cp.setM_clause (c : Cp) (n : Nat) (x : Mask) :
    (c.setM n x).clause = c.clause := rfl
@[simp] theorem Cp.setM_s (c : Cp) (n : Nat) (x : Mask) :
    (c.setM n x).s = c.s := rfl
@[simp] theorem Cp.setM_stack (c : Cp) (n : Nat) (x : Mask) :
    (c.setM n x).stack = c.stack := rfl
@[simp] theorem Cp.setM_cpy (c : Cp) (n : Nat) (x : Mask) :
    (c.setM n x).cpy = c.cpy := rfl
@[simp] theorem Cp.setM_gth (c : Cp) (n : Nat) (x : Mask) :
    (c.setM n x).gth = c.gth := rfl
@[simp] theorem Cp.setM_mrg (c : Cp) (n : Nat) (x : Mask) :
    (c.setM n x).mrg = c.mrg := rfl
@[simp] theorem Cp.setM_mtx (c : Cp) (n : Nat) (x : Mask) :
    (c.setM n x).mtx = c.mtx := rfl
@[simp] theorem Cp.setM_fstat (c : Cp) (n : Nat) (x : Mask) :
    (c.setM n x).fstat = c.fstat := rfl
@[simp] theorem Cp.setM_cki (c : Cp) (n : Nat) (x : Mask) :
    (c.setM n x).cki = c.cki := rfl
@[simp] theorem Cp.setM_tmask (c : Cp) (n : Nat) (x : Mask) :
    (c.setM n x).tmask = c.tmask := rfl
@[simp] theorem Cp.setM_holdLeft (c : Cp) (n : Nat) (x : Mask) :
    (c.setM n x).holdLeft = c.holdLeft := rfl
@[simp] theorem Cp.setM_holdSince (c : Cp) (n : Nat) (x : Mask) :
    (c.setM n x).holdSince = c.holdSince := rfl
@[simp] theorem Cp.setM_begun (c : Cp) (n : Nat) (x : Mask) :
    (c.setM n x).begun = c.begun := rfl
@[simp] theorem Cp.setM_nopre (c : Cp) (n : Nat) (x : Mask) :
    (c.setM n x).nopre = c.nopre := rfl
@[simp] theorem Cp.setM_handles (c : Cp) (n : Nat) (x : Mask) :
    (c.setM n x).handles = c.handles := rfl
@[simp] theorem Cp.setM_faults (c : Cp) (n : Nat) (x : Mask) :
    (c.setM n x).faults = c.faults := rfl
@[simp] theorem Cp.setM_stand (c : Cp) (n : Nat) (x : Mask) :
    (c.setM n x).stand = c.stand := rfl
@[simp] theorem Cp.setM_trap (c : Cp) (n : Nat) (x : Mask) :
    (c.setM n x).trap = c.trap := rfl
@[simp] theorem Cp.setM_wait (c : Cp) (n : Nat) (x : Mask) :
    (c.setM n x).wait = c.wait := rfl
@[simp] theorem Cp.setM_fencedRel (c : Cp) (n : Nat) (x : Mask) :
    (c.setM n x).fencedRel = c.fencedRel := rfl
@[simp] theorem Cp.setM_next (c : Cp) (n : Nat) (x : Mask) :
    (c.setM n x).next = c.next := rfl
@[simp] theorem Cp.setM_ready (c : Cp) (n : Nat) (x : Mask) :
    (c.setM n x).ready = c.ready := rfl
@[simp] theorem Cp.setM_passed (c : Cp) (n : Nat) (x : Mask) :
    (c.setM n x).passed = c.passed := rfl
@[simp] theorem Cp.setM_skew (c : Cp) (n : Nat) (x : Mask) :
    (c.setM n x).skew = c.skew := rfl

/-! ### Cp.setTop -/

@[simp] theorem Cp.setTop_status (c : Cp) (l : Level) :
    (c.setTop l).status = c.status := rfl
@[simp] theorem Cp.setTop_pc (c : Cp) (l : Level) :
    (c.setTop l).pc = c.pc := rfl
@[simp] theorem Cp.setTop_clause (c : Cp) (l : Level) :
    (c.setTop l).clause = c.clause := rfl
@[simp] theorem Cp.setTop_s (c : Cp) (l : Level) :
    (c.setTop l).s = c.s := rfl
@[simp] theorem Cp.setTop_m (c : Cp) (l : Level) :
    (c.setTop l).m = c.m := rfl
@[simp] theorem Cp.setTop_cpy (c : Cp) (l : Level) :
    (c.setTop l).cpy = c.cpy := rfl
@[simp] theorem Cp.setTop_gth (c : Cp) (l : Level) :
    (c.setTop l).gth = c.gth := rfl
@[simp] theorem Cp.setTop_mrg (c : Cp) (l : Level) :
    (c.setTop l).mrg = c.mrg := rfl
@[simp] theorem Cp.setTop_mtx (c : Cp) (l : Level) :
    (c.setTop l).mtx = c.mtx := rfl
@[simp] theorem Cp.setTop_fstat (c : Cp) (l : Level) :
    (c.setTop l).fstat = c.fstat := rfl
@[simp] theorem Cp.setTop_cki (c : Cp) (l : Level) :
    (c.setTop l).cki = c.cki := rfl
@[simp] theorem Cp.setTop_tmask (c : Cp) (l : Level) :
    (c.setTop l).tmask = c.tmask := rfl
@[simp] theorem Cp.setTop_holdLeft (c : Cp) (l : Level) :
    (c.setTop l).holdLeft = c.holdLeft := rfl
@[simp] theorem Cp.setTop_holdSince (c : Cp) (l : Level) :
    (c.setTop l).holdSince = c.holdSince := rfl
@[simp] theorem Cp.setTop_begun (c : Cp) (l : Level) :
    (c.setTop l).begun = c.begun := rfl
@[simp] theorem Cp.setTop_nopre (c : Cp) (l : Level) :
    (c.setTop l).nopre = c.nopre := rfl
@[simp] theorem Cp.setTop_handles (c : Cp) (l : Level) :
    (c.setTop l).handles = c.handles := rfl
@[simp] theorem Cp.setTop_faults (c : Cp) (l : Level) :
    (c.setTop l).faults = c.faults := rfl
@[simp] theorem Cp.setTop_stand (c : Cp) (l : Level) :
    (c.setTop l).stand = c.stand := rfl
@[simp] theorem Cp.setTop_trap (c : Cp) (l : Level) :
    (c.setTop l).trap = c.trap := rfl
@[simp] theorem Cp.setTop_wait (c : Cp) (l : Level) :
    (c.setTop l).wait = c.wait := rfl
@[simp] theorem Cp.setTop_fencedRel (c : Cp) (l : Level) :
    (c.setTop l).fencedRel = c.fencedRel := rfl
@[simp] theorem Cp.setTop_next (c : Cp) (l : Level) :
    (c.setTop l).next = c.next := rfl
@[simp] theorem Cp.setTop_ready (c : Cp) (l : Level) :
    (c.setTop l).ready = c.ready := rfl
@[simp] theorem Cp.setTop_passed (c : Cp) (l : Level) :
    (c.setTop l).passed = c.passed := rfl
@[simp] theorem Cp.setTop_skew (c : Cp) (l : Level) :
    (c.setTop l).skew = c.skew := rfl

/-! ### Cp.raise -/

@[simp] theorem Cp.raise_status (c : Cp) (f : BitVec 16) :
    (c.raise f).status = c.status := rfl
@[simp] theorem Cp.raise_pc (c : Cp) (f : BitVec 16) :
    (c.raise f).pc = c.pc := rfl
@[simp] theorem Cp.raise_clause (c : Cp) (f : BitVec 16) :
    (c.raise f).clause = c.clause := rfl
@[simp] theorem Cp.raise_s (c : Cp) (f : BitVec 16) :
    (c.raise f).s = c.s := rfl
@[simp] theorem Cp.raise_m (c : Cp) (f : BitVec 16) :
    (c.raise f).m = c.m := rfl
@[simp] theorem Cp.raise_stack (c : Cp) (f : BitVec 16) :
    (c.raise f).stack = c.stack := rfl
@[simp] theorem Cp.raise_cpy (c : Cp) (f : BitVec 16) :
    (c.raise f).cpy = c.cpy := rfl
@[simp] theorem Cp.raise_gth (c : Cp) (f : BitVec 16) :
    (c.raise f).gth = c.gth := rfl
@[simp] theorem Cp.raise_mrg (c : Cp) (f : BitVec 16) :
    (c.raise f).mrg = c.mrg := rfl
@[simp] theorem Cp.raise_mtx (c : Cp) (f : BitVec 16) :
    (c.raise f).mtx = c.mtx := rfl
@[simp] theorem Cp.raise_cki (c : Cp) (f : BitVec 16) :
    (c.raise f).cki = c.cki := rfl
@[simp] theorem Cp.raise_tmask (c : Cp) (f : BitVec 16) :
    (c.raise f).tmask = c.tmask := rfl
@[simp] theorem Cp.raise_holdLeft (c : Cp) (f : BitVec 16) :
    (c.raise f).holdLeft = c.holdLeft := rfl
@[simp] theorem Cp.raise_holdSince (c : Cp) (f : BitVec 16) :
    (c.raise f).holdSince = c.holdSince := rfl
@[simp] theorem Cp.raise_begun (c : Cp) (f : BitVec 16) :
    (c.raise f).begun = c.begun := rfl
@[simp] theorem Cp.raise_nopre (c : Cp) (f : BitVec 16) :
    (c.raise f).nopre = c.nopre := rfl
@[simp] theorem Cp.raise_handles (c : Cp) (f : BitVec 16) :
    (c.raise f).handles = c.handles := rfl
@[simp] theorem Cp.raise_faults (c : Cp) (f : BitVec 16) :
    (c.raise f).faults = c.faults := rfl
@[simp] theorem Cp.raise_stand (c : Cp) (f : BitVec 16) :
    (c.raise f).stand = c.stand := rfl
@[simp] theorem Cp.raise_trap (c : Cp) (f : BitVec 16) :
    (c.raise f).trap = c.trap := rfl
@[simp] theorem Cp.raise_wait (c : Cp) (f : BitVec 16) :
    (c.raise f).wait = c.wait := rfl
@[simp] theorem Cp.raise_fencedRel (c : Cp) (f : BitVec 16) :
    (c.raise f).fencedRel = c.fencedRel := rfl
@[simp] theorem Cp.raise_next (c : Cp) (f : BitVec 16) :
    (c.raise f).next = c.next := rfl
@[simp] theorem Cp.raise_ready (c : Cp) (f : BitVec 16) :
    (c.raise f).ready = c.ready := rfl
@[simp] theorem Cp.raise_passed (c : Cp) (f : BitVec 16) :
    (c.raise f).passed = c.passed := rfl
@[simp] theorem Cp.raise_skew (c : Cp) (f : BitVec 16) :
    (c.raise f).skew = c.skew := rfl

/-! ### Cp.setPoison -/

@[simp] theorem Cp.setPoison_status (c : Cp) :
    (c.setPoison).status = c.status := rfl
@[simp] theorem Cp.setPoison_pc (c : Cp) :
    (c.setPoison).pc = c.pc := rfl
@[simp] theorem Cp.setPoison_clause (c : Cp) :
    (c.setPoison).clause = c.clause := rfl
@[simp] theorem Cp.setPoison_s (c : Cp) :
    (c.setPoison).s = c.s := rfl
@[simp] theorem Cp.setPoison_m (c : Cp) :
    (c.setPoison).m = c.m := rfl
@[simp] theorem Cp.setPoison_stack (c : Cp) :
    (c.setPoison).stack = c.stack := rfl
@[simp] theorem Cp.setPoison_cpy (c : Cp) :
    (c.setPoison).cpy = c.cpy := rfl
@[simp] theorem Cp.setPoison_gth (c : Cp) :
    (c.setPoison).gth = c.gth := rfl
@[simp] theorem Cp.setPoison_mrg (c : Cp) :
    (c.setPoison).mrg = c.mrg := rfl
@[simp] theorem Cp.setPoison_mtx (c : Cp) :
    (c.setPoison).mtx = c.mtx := rfl
@[simp] theorem Cp.setPoison_fstat (c : Cp) :
    (c.setPoison).fstat = c.fstat := rfl
@[simp] theorem Cp.setPoison_tmask (c : Cp) :
    (c.setPoison).tmask = c.tmask := rfl
@[simp] theorem Cp.setPoison_holdLeft (c : Cp) :
    (c.setPoison).holdLeft = c.holdLeft := rfl
@[simp] theorem Cp.setPoison_holdSince (c : Cp) :
    (c.setPoison).holdSince = c.holdSince := rfl
@[simp] theorem Cp.setPoison_begun (c : Cp) :
    (c.setPoison).begun = c.begun := rfl
@[simp] theorem Cp.setPoison_nopre (c : Cp) :
    (c.setPoison).nopre = c.nopre := rfl
@[simp] theorem Cp.setPoison_handles (c : Cp) :
    (c.setPoison).handles = c.handles := rfl
@[simp] theorem Cp.setPoison_faults (c : Cp) :
    (c.setPoison).faults = c.faults := rfl
@[simp] theorem Cp.setPoison_stand (c : Cp) :
    (c.setPoison).stand = c.stand := rfl
@[simp] theorem Cp.setPoison_trap (c : Cp) :
    (c.setPoison).trap = c.trap := rfl
@[simp] theorem Cp.setPoison_wait (c : Cp) :
    (c.setPoison).wait = c.wait := rfl
@[simp] theorem Cp.setPoison_fencedRel (c : Cp) :
    (c.setPoison).fencedRel = c.fencedRel := rfl
@[simp] theorem Cp.setPoison_next (c : Cp) :
    (c.setPoison).next = c.next := rfl
@[simp] theorem Cp.setPoison_ready (c : Cp) :
    (c.setPoison).ready = c.ready := rfl
@[simp] theorem Cp.setPoison_passed (c : Cp) :
    (c.setPoison).passed = c.passed := rfl
@[simp] theorem Cp.setPoison_skew (c : Cp) :
    (c.setPoison).skew = c.skew := rfl

/-! ### Cp.addCorr -/

@[simp] theorem Cp.addCorr_status (c : Cp) (n : Nat) :
    (c.addCorr n).status = c.status := rfl
@[simp] theorem Cp.addCorr_pc (c : Cp) (n : Nat) :
    (c.addCorr n).pc = c.pc := rfl
@[simp] theorem Cp.addCorr_clause (c : Cp) (n : Nat) :
    (c.addCorr n).clause = c.clause := rfl
@[simp] theorem Cp.addCorr_s (c : Cp) (n : Nat) :
    (c.addCorr n).s = c.s := rfl
@[simp] theorem Cp.addCorr_m (c : Cp) (n : Nat) :
    (c.addCorr n).m = c.m := rfl
@[simp] theorem Cp.addCorr_stack (c : Cp) (n : Nat) :
    (c.addCorr n).stack = c.stack := rfl
@[simp] theorem Cp.addCorr_cpy (c : Cp) (n : Nat) :
    (c.addCorr n).cpy = c.cpy := rfl
@[simp] theorem Cp.addCorr_gth (c : Cp) (n : Nat) :
    (c.addCorr n).gth = c.gth := rfl
@[simp] theorem Cp.addCorr_mrg (c : Cp) (n : Nat) :
    (c.addCorr n).mrg = c.mrg := rfl
@[simp] theorem Cp.addCorr_mtx (c : Cp) (n : Nat) :
    (c.addCorr n).mtx = c.mtx := rfl
@[simp] theorem Cp.addCorr_fstat (c : Cp) (n : Nat) :
    (c.addCorr n).fstat = c.fstat := rfl
@[simp] theorem Cp.addCorr_tmask (c : Cp) (n : Nat) :
    (c.addCorr n).tmask = c.tmask := rfl
@[simp] theorem Cp.addCorr_holdLeft (c : Cp) (n : Nat) :
    (c.addCorr n).holdLeft = c.holdLeft := rfl
@[simp] theorem Cp.addCorr_holdSince (c : Cp) (n : Nat) :
    (c.addCorr n).holdSince = c.holdSince := rfl
@[simp] theorem Cp.addCorr_begun (c : Cp) (n : Nat) :
    (c.addCorr n).begun = c.begun := rfl
@[simp] theorem Cp.addCorr_nopre (c : Cp) (n : Nat) :
    (c.addCorr n).nopre = c.nopre := rfl
@[simp] theorem Cp.addCorr_handles (c : Cp) (n : Nat) :
    (c.addCorr n).handles = c.handles := rfl
@[simp] theorem Cp.addCorr_faults (c : Cp) (n : Nat) :
    (c.addCorr n).faults = c.faults := rfl
@[simp] theorem Cp.addCorr_stand (c : Cp) (n : Nat) :
    (c.addCorr n).stand = c.stand := rfl
@[simp] theorem Cp.addCorr_trap (c : Cp) (n : Nat) :
    (c.addCorr n).trap = c.trap := rfl
@[simp] theorem Cp.addCorr_wait (c : Cp) (n : Nat) :
    (c.addCorr n).wait = c.wait := rfl
@[simp] theorem Cp.addCorr_fencedRel (c : Cp) (n : Nat) :
    (c.addCorr n).fencedRel = c.fencedRel := rfl
@[simp] theorem Cp.addCorr_next (c : Cp) (n : Nat) :
    (c.addCorr n).next = c.next := rfl
@[simp] theorem Cp.addCorr_ready (c : Cp) (n : Nat) :
    (c.addCorr n).ready = c.ready := rfl
@[simp] theorem Cp.addCorr_passed (c : Cp) (n : Nat) :
    (c.addCorr n).passed = c.passed := rfl
@[simp] theorem Cp.addCorr_skew (c : Cp) (n : Nat) :
    (c.addCorr n).skew = c.skew := rfl

/-! ### Cp.advance -/

@[simp] theorem Cp.advance_status (c : Cp) (n : Nat) :
    (c.advance n).status = c.status := rfl
@[simp] theorem Cp.advance_s (c : Cp) (n : Nat) :
    (c.advance n).s = c.s := rfl
@[simp] theorem Cp.advance_m (c : Cp) (n : Nat) :
    (c.advance n).m = c.m := rfl
@[simp] theorem Cp.advance_stack (c : Cp) (n : Nat) :
    (c.advance n).stack = c.stack := rfl
@[simp] theorem Cp.advance_cpy (c : Cp) (n : Nat) :
    (c.advance n).cpy = c.cpy := rfl
@[simp] theorem Cp.advance_gth (c : Cp) (n : Nat) :
    (c.advance n).gth = c.gth := rfl
@[simp] theorem Cp.advance_mrg (c : Cp) (n : Nat) :
    (c.advance n).mrg = c.mrg := rfl
@[simp] theorem Cp.advance_mtx (c : Cp) (n : Nat) :
    (c.advance n).mtx = c.mtx := rfl
@[simp] theorem Cp.advance_fstat (c : Cp) (n : Nat) :
    (c.advance n).fstat = c.fstat := rfl
@[simp] theorem Cp.advance_cki (c : Cp) (n : Nat) :
    (c.advance n).cki = c.cki := rfl
@[simp] theorem Cp.advance_tmask (c : Cp) (n : Nat) :
    (c.advance n).tmask = c.tmask := rfl
@[simp] theorem Cp.advance_holdLeft (c : Cp) (n : Nat) :
    (c.advance n).holdLeft = c.holdLeft := rfl
@[simp] theorem Cp.advance_holdSince (c : Cp) (n : Nat) :
    (c.advance n).holdSince = c.holdSince := rfl
@[simp] theorem Cp.advance_begun (c : Cp) (n : Nat) :
    (c.advance n).begun = c.begun := rfl
@[simp] theorem Cp.advance_nopre (c : Cp) (n : Nat) :
    (c.advance n).nopre = c.nopre := rfl
@[simp] theorem Cp.advance_handles (c : Cp) (n : Nat) :
    (c.advance n).handles = c.handles := rfl
@[simp] theorem Cp.advance_faults (c : Cp) (n : Nat) :
    (c.advance n).faults = c.faults := rfl
@[simp] theorem Cp.advance_trap (c : Cp) (n : Nat) :
    (c.advance n).trap = c.trap := rfl
@[simp] theorem Cp.advance_wait (c : Cp) (n : Nat) :
    (c.advance n).wait = c.wait := rfl
@[simp] theorem Cp.advance_fencedRel (c : Cp) (n : Nat) :
    (c.advance n).fencedRel = c.fencedRel := rfl
@[simp] theorem Cp.advance_next (c : Cp) (n : Nat) :
    (c.advance n).next = c.next := rfl
@[simp] theorem Cp.advance_ready (c : Cp) (n : Nat) :
    (c.advance n).ready = c.ready := rfl
@[simp] theorem Cp.advance_passed (c : Cp) (n : Nat) :
    (c.advance n).passed = c.passed := rfl
@[simp] theorem Cp.advance_skew (c : Cp) (n : Nat) :
    (c.advance n).skew = c.skew := rfl

end Sys2Proof.Machine
end

