-- ==== Sys2Proof/Laws/Issue.lean ====
section
/-! SUPPORT. What the one wrapper of every instruction answers when the instruction issues with its own effect, and
what moving past an instruction leaves behind. -/

namespace Sys2Proof.Machine

/-! ### Pools and CPs of a changed state -/

theorem State.pool?_modPool (s : State) (p : Nat) (f : Pool → Pool) (q : Nat) :
    (s.modPool p f).pool? q = if q = p then (s.pool? p).map f else s.pool? q :=
  KMap.find?_modify _ _ _ _

@[simp] theorem State.pool?_modPool_self (s : State) (p : Nat) (f : Pool → Pool) :
    (s.modPool p f).pool? p = (s.pool? p).map f := by simp [State.pool?_modPool]

theorem State.pool?_modPool_ne (s : State) (f : Pool → Pool) (h : q ≠ p) :
    (s.modPool p f).pool? q = s.pool? q := by simp [State.pool?_modPool, h]

theorem State.pool?_setPool (s : State) (p : Nat) (x : Pool) (q : Nat) :
    (s.setPool p x).pool? q = if q = p then some x else s.pool? q := by
  by_cases h : q = p
  · subst h; simp [State.setPool, State.pool?]
  · simp [State.setPool, State.pool?, h, KMap.find?_put_ne _ _ h]

theorem Pool.cp?_modCp (p : Pool) (c : Nat) (f : Cp → Cp) (j : Nat) :
    (p.modCp c f).cp? j = if j = c then (p.cp? c).map f else p.cp? j :=
  KMap.find?_modify _ _ _ _

@[simp] theorem Pool.cp?_modCp_self (p : Pool) (c : Nat) (f : Cp → Cp) :
    (p.modCp c f).cp? c = (p.cp? c).map f := by simp [Pool.cp?_modCp]

theorem Pool.cp?_modCp_ne (p : Pool) (f : Cp → Cp) (h : j ≠ c) :
    (p.modCp c f).cp? j = p.cp? j := by simp [Pool.cp?_modCp, h]

/-- Two changes of one pool are one. -/
theorem State.modPool_modPool (s : State) (p : Nat) (f g : Pool → Pool) :
    (s.modPool p f).modPool p g = s.modPool p (g ∘ f) := by
  simp only [State.modPool, KMap.modify, List.map_map]
  congr 1
  apply List.map_congr_left
  intro e _
  by_cases h : e.1 = p <;> simp [h]

/-! ### The issue of an instruction -/

/-- What `issue` makes of the outcome of an instruction's own effect. -/
def issued (i : Instr) (h : Shape) (c : Ctx) (s : State) (r : Res) : State :=
  match r with
  | .done s' => match s.undoNeed s' c.pid with
      | [] => c.finish h i.words s'
      | ps => s.forceFor c.pid c.cid ps
  | .jump s' target eff =>
      match c.branch s' target eff with
      | .go s'' => s''.takeSlots (c.slotTimes h)
      | .wait s'' => s''
      | .noHeader => s.takeTrap c.pid c.cid c.cp.pc 0x01 0 0 0
  | .stay s' => s'
  | .trap cause tm detail addr => s.takeTrap c.pid c.cid c.cp.pc cause tm detail addr

theorem Issues.ctx {i : Instr} {c : Ctx} {s : State} (h : Issues i c s) :
    (⟨s.focus.1, s.focus.2, c.pool, c.cp, i.pfx⟩ : Ctx) = c := by
  have hf := h.focus
  have hp := h.pfx
  cases c
  simp_all

/-- An instruction that issues with its own effect answers what its effect comes to. -/
theorem issue_eq {i : Instr} {c : Ctx} {s : State} (h : Issues i c s) (body : Ctx → State → Res) :
    issue i (shapeOf i) body s = .next (issued i (shapeOf i) c s (body c s)) := by
  have hx := h.ctx
  have h1 : s.focus.1 = c.pid := by rw [h.focus]
  have h2 : s.focus.2 = c.cid := by rw [h.focus]
  have hcp : s.cp? c.pid c.cid = some c.cp := by simp [State.cp?, h.pool, h.cp]
  have hh : (c.cp.holding && decide (4096 < s.now - c.cp.holdSince)) = false := by
    cases hb : c.cp.holding
    · rfl
    · have := h.hold hb
      simp; omega
  have hn : (c.cp.nopre.any fun t => decide (65536 < s.now - t)) = false := by
    cases ht : c.cp.nopre with
    | none => rfl
    | some t =>
        have := h.nopre t ht
        simp; omega
  have hcl : c.cp.clause.isNone = false := by
    have := h.clause
    cases hc : c.cp.clause <;> simp_all
  have hb : ((shapeOf i).broadcast && c.heldByOther) = false := by
    cases hh : (shapeOf i).broadcast
    · rfl
    · simpa using h.alone hh
  have ha : (if ((shapeOf i).memory || (shapeOf i).memoryIf c) = true then c.acquiring else none) = none := by
    split
    · rename_i hm; exact h.acquired (by simpa using hm)
    · rfl
  have hl : (!i.wellFormed || !(shapeOf i).legal c) = false := by
    simp [h.lawful, show i.wellFormed = true from h.legal]
  rw [h1, h2] at hx
  unfold issue
  simp only [h1, h2, h.pool, hcp, h.can, Bool.not_true, Bool.false_or, hcl, Bool.false_eq_true, if_false,
    hh, hn, hx, hl, h.runs, h.free, h.engines, hb, ha]
  cases hr : body c s with
  | done s' => simp only [issued]; cases s.undoNeed s' c.pid <;> rfl
  | jump s' t f => simp only [issued]; cases c.branch s' t f <;> rfl
  | stay s' => rfl
  | trap k m d a => rfl

/-- R180: with room in the undo log for what is added, nothing is committed first. -/
theorem undoNeed_of_room {c : Ctx} {s t : State} {p q : Pool} (hp : s.pool? c.pid = some c.pool)
    (n : Nat) (hr : RoomAt c s p n) (ht : t.pool? c.pid = some q) (hc : q.cores = p.cores)
    (hu : ∀ k, q.undoOn k ≤ p.undoOn k + n) : s.undoNeed t c.pid = [] := by
  unfold State.undoNeed
  simp only [hp, ht]
  rcases hr with h | ⟨h, hl⟩
  · rw [if_pos]
    rw [List.isEmpty_iff, List.filter_eq_nil_iff, hc]
    intro k hk
    have := h k hk
    have := hu k
    simp; omega
  · split
    · rfl
    · unfold Pool.undoHeld at h
      have h1 : c.pool.undoRegs.length = 0 := by omega
      have h2 : c.pool.undoSpad.length = 0 := by omega
      have h3 : c.pool.undoTiles.length = 0 := by omega
      simp only [h1, h2, h3]
      suffices ∀ l : List Nat, (∀ k ∈ l, k ∈ p.cores) → (l.flatMap fun k =>
          let others := s.pools.filter fun e => e.1 != c.pid && decide (0 < e.2.undoOn k)
          if Config.journalBytes < q.undoOn k + (others.map fun e => e.2.undoOn k).sum then
            ((sortBy (fun (x y : Nat × Pool) =>
              decide (x.2.undoSince.getD s.now < y.2.undoSince.getD s.now)) others).map (·.1)).head?.toList else []) = [] by
        rw [this _ fun k hk => hc ▸ List.mem_of_mem_filter hk]
        rfl
      intro l hk
      rw [List.flatMap_eq_nil_iff]
      intro k hkl
      have := hl k (hk k hkl)
      have := hu k
      unfold State.undoOthers at *
      dsimp only
      rw [if_neg (by omega)]

/-! ### Past an instruction -/

/-- The CP as `finish` leaves it. -/
def Ctx.finishCp (c : Ctx) (h : Shape) (n now : Nat) (x : Cp) : Cp :=
  { (if h.broadcast && c.cp.holding then { x with holdLeft := x.holdLeft - 1, begun := true } else x).advance n with
    next := now + c.slotClocks h }

/-- The pool as `finish` leaves it. -/
def Ctx.finishPool (c : Ctx) (h : Shape) (n now : Nat) (p : Pool) : Pool :=
  if h.broadcast then { p.modCp c.cid (c.finishCp h n now) with granted := c.cid } else p.modCp c.cid (c.finishCp h n now)

theorem Ctx.finish_eq (c : Ctx) (h : Shape) (n : Nat) (s : State) :
    c.finish h n s = (s.modPool c.pid (c.finishPool h n s.now)).takeSlots (c.slotTimes h) := by
  have e : ((c.modCp s (c.finishCp h n s.now)).modPool c.pid
      fun p => if h.broadcast then { p with granted := c.cid } else p) = s.modPool c.pid (c.finishPool h n s.now) := by
    rw [Ctx.modCp, State.modCp, State.modPool_modPool]
    rfl
  unfold Ctx.finish
  simp only [Ctx.modPool, Ctx.modCp] at e ⊢
  rw [← e]
  rfl

theorem Ctx.finishCp_pc (c : Ctx) (h : Shape) (n now : Nat) (x : Cp) :
    (c.finishCp h n now x).pc = x.pc + BitVec.ofNat 64 n := by
  unfold Ctx.finishCp Cp.advance; split <;> rfl

theorem Ctx.finishCp_stand (c : Ctx) (h : Shape) (n now : Nat) (x : Cp) : (c.finishCp h n now x).stand = .no := rfl

theorem Ctx.finishCp_clause (c : Ctx) (h : Shape) (n now : Nat) (x : Cp) :
    (c.finishCp h n now x).clause = clauseAt x.clause (x.pc + BitVec.ofNat 64 n) := by
  unfold Ctx.finishCp Cp.advance clauseAt
  split <;> (dsimp only; cases x.clause with
    | none => rfl
    | some cl => by_cases hs : cl.stop = x.pc + BitVec.ofNat 64 n <;> simp [hs, Option.filter])

theorem Ctx.finishCp_hold (c : Ctx) (h : Shape) (n now : Nat) (x : Cp) :
    (c.finishCp h n now x).holdLeft = if h.broadcast && c.cp.holding then x.holdLeft - 1 else x.holdLeft := by
  unfold Ctx.finishCp Cp.advance; split <;> rfl

theorem Ctx.finishCp_begun (c : Ctx) (h : Shape) (n now : Nat) (x : Cp) :
    (c.finishCp h n now x).begun = (x.begun || h.broadcast && c.cp.holding) := by
  unfold Ctx.finishCp Cp.advance; split <;> simp_all

/-- The CP of a finished instruction is past it, when its own effect left its place and hold count alone. -/
theorem Ctx.past_finishCp {i : Instr} (c : Ctx) (now : Nat) (x : Cp) (hpc : x.pc = c.cp.pc)
    (hcl : x.clause = c.cp.clause) (hh : x.holdLeft = c.cp.holdLeft) (hb : x.begun = c.cp.begun) :
    Past i c now (c.finishCp (shapeOf i) i.words now x) := by
  refine ⟨⟨?_, ?_, rfl⟩, ?_, ?_, rfl⟩
  · rw [Ctx.finishCp_pc, hpc]
  · rw [Ctx.finishCp_clause, Ctx.finishCp_pc, hcl]
  · rw [Ctx.finishCp_hold, hh]
  · rw [Ctx.finishCp_begun, hb]

/-- An instruction that completes has the effect that its own changes of its pool and of its CP come to. -/
theorem effect_finish {i : Instr} {c : Ctx} {s : State} {p : Pool} (hp : s.pool? c.pid = some p)
    (hc : p.cp? c.cid = some c.cp) (g : Pool → Pool) (f : Cp → Cp) (hg : (g p).cps = p.cps)
    (hpc : (f c.cp).pc = c.cp.pc) (hcl : (f c.cp).clause = c.cp.clause)
    (hh : (f c.cp).holdLeft = c.cp.holdLeft) (hb : (f c.cp).begun = c.cp.begun) :
    Effect i c s (c.finish (shapeOf i) i.words (c.modCp (c.modPool s g) f)) (g p) (f c.cp) := by
  have e : c.finish (shapeOf i) i.words (c.modCp (c.modPool s g) f) =
      (s.modPool c.pid (c.finishPool (shapeOf i) i.words s.now ∘ (·.modCp c.cid f) ∘ g)).takeSlots
        (c.slotTimes (shapeOf i)) := by
    rw [Ctx.finish_eq, Ctx.modCp, State.modCp, Ctx.modPool, State.modPool_modPool, State.modPool_modPool]
    rfl
  rw [e]
  refine ⟨⟨rfl, fun q hq => State.pool?_modPool_ne s _ hq, fun a => rfl⟩, rfl, ?_⟩
  refine ⟨_, c.finishCp (shapeOf i) i.words s.now (f c.cp),
    by simp only [State.pool?]; exact (State.pool?_modPool_self s _ _).trans (by rw [hp]; rfl), ?_⟩
  dsimp only [Function.comp, Ctx.finishPool]
  have e (p : Pool) (j : Nat) : ((if (shapeOf i).broadcast = true then { p with granted := c.cid } else p) : Pool).cp? j =
      p.cp? j := by split <;> rfl
  have hq (j : Nat) : (g p).cp? j = p.cp? j := by unfold Pool.cp?; rw [hg]
  refine ⟨by split <;> rfl, by split <;> rfl, fun j hj => ?_, ?_, c.past_finishCp _ _ hpc hcl hh hb, ?_⟩
  · rw [e, Pool.cp?_modCp_ne _ _ hj, Pool.cp?_modCp_ne _ _ hj]
  · rw [e, Pool.cp?_modCp_self, Pool.cp?_modCp_self, hq, hc]; rfl
  · unfold Ctx.finishCp Cp.advance Cp.backTo
    split <;> rfl

/-- An instruction whose own effect changes its CP alone. -/
theorem effect_cp {i : Instr} {c : Ctx} {s : State} (h : Issues i c s) (f : Cp → Cp)
    (hpc : (f c.cp).pc = c.cp.pc) (hcl : (f c.cp).clause = c.cp.clause)
    (hh : (f c.cp).holdLeft = c.cp.holdLeft) (hb : (f c.cp).begun = c.cp.begun) :
    Effect i c s (c.finish (shapeOf i) i.words (c.modCp s f)) c.pool (f c.cp) := by
  have e : c.modPool s id = s := by
    simp [Ctx.modPool, State.modPool, KMap.modify]
  have := effect_finish (i := i) h.pool h.cp id f rfl hpc hcl hh hb
  rwa [e] at this

theorem KMap.modify_id (m : KMap α) (k : Nat) : KMap.modify m k id = m := by
  simp [KMap.modify]

theorem Pool.modCp_id (p : Pool) (c : Nat) : p.modCp c id = p := by
  unfold Pool.modCp; rw [KMap.modify_id]

theorem State.modPool_id (s : State) (p : Nat) : s.modPool p id = s := by
  unfold State.modPool; rw [KMap.modify_id]

theorem Ctx.modCp_id (c : Ctx) (s : State) : c.modCp s id = s := by
  have : (fun p : Pool => p.modCp c.cid id) = id := funext fun p => p.modCp_id c.cid
  unfold Ctx.modCp State.modCp
  rw [this, State.modPool_id]

theorem Pool.undoOn_modCp (p : Pool) (c : Nat) (f : Cp → Cp) (k : Nat) : (p.modCp c f).undoOn k = p.undoOn k := rfl

/-- The meaning of an instruction whose own effect changes its pool by g and its CP by f from a state s1 on, where
the undo logs have room for what g adds to them. -/
theorem completes_of {i : Instr} {c : Ctx} {s s1 : State} {p : Pool} {body : Ctx → State → Res} (h : Issues i c s)
    (hx : exec i s = issue i (shapeOf i) body s) (hp : s1.pool? c.pid = some p) (hc : p.cp? c.cid = some c.cp)
    (g : Pool → Pool) (f : Cp → Cp) (hb : body c s = .done (c.modCp (c.modPool s1 g) f))
    (n : Nat) (hr : RoomAt c s p n) (hcores : (g p).cores = p.cores) (hu : ∀ k, (g p).undoOn k ≤ p.undoOn k + n)
    (hg : (g p).cps = p.cps) (hpc : (f c.cp).pc = c.cp.pc) (hcl : (f c.cp).clause = c.cp.clause)
    (hh : (f c.cp).holdLeft = c.cp.holdLeft) (hbg : (f c.cp).begun = c.cp.begun) : ∃ t, exec i s = .next t ∧ Effect i c s1 t (g p) (f c.cp) := by
  refine ⟨_, ?_, effect_finish hp hc g f hg hpc hcl hh hbg⟩
  rw [hx, issue_eq h, hb, issued]
  have e : (c.modCp (c.modPool s1 g) f).pool? c.pid = some ((g p).modCp c.cid f) := by
    rw [Ctx.modCp, State.modCp, Ctx.modPool, State.modPool_modPool, State.pool?_modPool_self, hp]; rfl
  rw [undoNeed_of_room h.pool n hr e hcores fun k => by rw [Pool.undoOn_modCp]; exact hu k]

/-- The same for an effect on the CP alone. -/
theorem completes_cp {i : Instr} {c : Ctx} {s : State} {body : Ctx → State → Res} (h : Issues i c s)
    (hx : exec i s = issue i (shapeOf i) body s) (f : Cp → Cp) (hb : body c s = .done (c.modCp s f))
    (hr : UndoRoom c s 0) (hpc : (f c.cp).pc = c.cp.pc) (hcl : (f c.cp).clause = c.cp.clause)
    (hh : (f c.cp).holdLeft = c.cp.holdLeft) (hbg : (f c.cp).begun = c.cp.begun) : ∃ t, exec i s = .next t ∧ Effect i c s t c.pool (f c.cp) :=
  completes_of h hx h.pool h.cp id f (by rw [hb, Ctx.modPool, State.modPool_id]) 0 hr rfl (fun _ => by simp) rfl hpc hcl hh hbg

/-- An effect that traps. -/
theorem traps_of {i : Instr} {c : Ctx} {s : State} {body : Ctx → State → Res} (h : Issues i c s)
    (hx : exec i s = issue i (shapeOf i) body s) (hb : body c s = .trap k m d a) : Traps i c s k m d a := by
  unfold Traps; rw [hx, issue_eq h, hb]; rfl

/-- An effect that leaves the CP at the instruction, or has moved it itself. -/
theorem stays_of {i : Instr} {c : Ctx} {s t : State} {body : Ctx → State → Res} (h : Issues i c s)
    (hx : exec i s = issue i (shapeOf i) body s) (hb : body c s = .stay t) : exec i s = .next t := by
  rw [hx, issue_eq h, hb]; rfl

end Sys2Proof.Machine
end

