-- ==== Sys2Proof/Laws/Commit.lean ====
section
/-! SUPPORT. What a commit point depends on: the journal, and of each pool its dependences, its operations, its
commands and its parts; so the passing of an instruction changes nothing of it. -/

namespace Sys2Proof.Machine

/-- What of a pool a commit point looks at. -/
def Pool.commitView (p : Pool) : List Nat × List Op × List Cmd × List Nat × List (Nat × Nat) × Nat × Bool :=
  (p.deps, p.ops, p.cmds, p.parts, p.spadUnits, p.task.asid, p.rslice)

/-- Two states in which the commit points of all pools are the same. -/
structure SameCommit (s t : State) : Prop where
  journal : t.journal = s.journal
  pools : t.pools.map (fun e => (e.1, e.2.commitView)) = s.pools.map fun e => (e.1, e.2.commitView)

theorem KMap.find?_map (m : KMap α) (f : α → β) (k : Nat) :
    KMap.find? (m.map fun e => (e.1, f e.2)) k = (KMap.find? m k).map f := by
  induction m with
  | nil => rfl
  | cons e m ih =>
      simp only [List.map_cons, KMap.find?]
      split
      · rfl
      · exact ih

theorem SameCommit.view {s t : State} (h : SameCommit s t) (q : Nat) :
    (t.pool? q).map Pool.commitView = (s.pool? q).map Pool.commitView := by
  unfold State.pool?
  rw [← KMap.find?_map, ← KMap.find?_map, h.pools]

theorem SameCommit.count {s t : State} (h : SameCommit s t) : t.pools.length = s.pools.length := by
  have := congrArg List.length h.pools
  simpa using this

/-- Both states share the journal alike. -/
theorem share_congr {s t : State} (h : SameCommit s t) (core : Nat) : t.share core = s.share core := by
  have e (u : State) : u.resident core = (u.pools.map fun e => (e.1, e.2.commitView)).filterMap fun e =>
      if ((e.2.2.2.2.1.map coreOf).dedup.contains core || e.2.2.2.2.2.1.any fun u => decide (coreOf u.1 = core)) = true then
        some e.1 else none := by
    unfold State.resident
    rw [List.filterMap_map]
    rfl
  unfold State.share
  rw [e, e, h.pools]

theorem SameCommit.isSome {s t : State} (h : SameCommit s t) (q : Nat) : (t.pool? q).isSome = (s.pool? q).isSome := by
  have := congrArg Option.isSome (h.view q)
  simpa using this

theorem commitDeps_congr {s t : State} (h : SameCommit s t) (q : Nat) : t.commitDeps q = s.commitDeps q := by
  unfold State.commitDeps; rw [h.journal]

theorem directDeps_congr {s t : State} (h : SameCommit s t) (q : Nat) : t.directDeps q = s.directDeps q := by
  have hv := h.view q
  unfold State.directDeps
  rw [commitDeps_congr h]
  have hi : (fun x => (t.pool? x).isSome) = fun x => (s.pool? x).isSome := funext h.isSome
  rw [hi]
  cases ht : t.pool? q <;> cases hs : s.pool? q <;> rw [ht, hs] at hv <;> simp [Pool.commitView] at hv ⊢
  rw [hv.1]

theorem reachDeps_congr {s t : State} (h : SameCommit s t) (q : Nat) : t.reachDeps q = s.reachDeps q := by
  have hd : t.directDeps = s.directDeps := funext (directDeps_congr h)
  have go (f : Nat) (l : List Nat) : State.reachDeps.go t f l = State.reachDeps.go s f l := by
    induction f generalizing l with
    | zero => rfl
    | succ f ih => unfold State.reachDeps.go; rw [hd]; simp only [ih]
  unfold State.reachDeps
  rw [h.count, go]

theorem commitGroups_congr {s t : State} (h : SameCommit s t) (q : Nat) : t.commitGroups q = s.commitGroups q := by
  have hr : t.reachDeps = s.reachDeps := funext (reachDeps_congr h)
  unfold State.commitGroups
  dsimp only
  rw [hr]
  have go (f : Nat) (l : List Nat) (o : List (List Nat)) (g : Nat → List Nat) :
      State.commitGroups.go t g f l o = State.commitGroups.go s g f l o := by
    induction f generalizing l o with
    | zero => rfl
    | succ f ih => unfold State.commitGroups.go; rw [hr]; simp only [ih]
  rw [go]

theorem uncommitted_congr {s t : State} (h : SameCommit s t) (core : Nat) : t.uncommitted core = s.uncommitted core := by
  unfold State.uncommitted; rw [h.journal]

theorem journalNeed_congr {s t : State} (h : SameCommit s t) (pool : Nat) (es : List Entry) (core : Nat) :
    t.journalNeed pool es core = s.journalNeed pool es core := by
  unfold State.journalNeed State.journalHeld State.journalTotal
  rw [h.journal, share_congr h, uncommitted_congr h]

theorem uncommittedReds_congr {s t : State} (h : SameCommit s t) (core pa n : Nat) :
    t.uncommittedReds core pa n = s.uncommittedReds core pa n := by
  unfold State.uncommittedReds; rw [h.journal]

/-- Two pools that a commit point sees alike. -/
theorem laneCore_congr {p q : Pool} (h : q.parts = p.parts) (o : Op) (l : Lane) : q.laneCore o l = p.laneCore o l := by
  unfold Pool.laneCore Pool.coreOfThread Pool.cpCore Pool.cpPartition
  rw [h]

theorem entries_congr {p q : Pool} (h : q.parts = p.parts) (ha : q.task.asid = p.task.asid) (hr : q.rslice = p.rslice)
    (pid : Nat) (o : Op) (release : Bool) : o.entries pid q release = o.entries pid p release := by
  unfold Op.entries Op.coreFor Pool.coreOfThread Pool.cpCore Pool.cpPartition
  rw [h, ha, hr]

theorem redsReach_congr {s t : State} (h : SameCommit s t) (q : Nat) : t.redsReach q = s.redsReach q := by
  have hd : t.redsAwaited = s.redsAwaited := by
    funext q
    have hv := h.view q
    unfold State.redsAwaited
    cases ht : t.pool? q <;> cases hs : s.pool? q <;> rw [ht, hs] at hv <;> simp [Pool.commitView] at hv ⊢
    obtain ⟨_, ho, _, hp, _⟩ := hv
    simp only [ho, uncommittedReds_congr h, laneCore_congr hp]
  have go (f : Nat) (l : List Nat) : State.redsReach.go t f l = State.redsReach.go s f l := by
    induction f generalizing l with
    | zero => rfl
    | succ f ih => unfold State.redsReach.go; rw [hd]; simp only [ih]
  unfold State.redsReach
  rw [h.count, go]

theorem canCommit_congr {s t : State} (h : SameCommit s t) (pool : Nat) (except : Option Nat) :
    t.canCommit pool except = s.canCommit pool except := by
  unfold State.canCommit
  rw [commitGroups_congr h]
  congr 1
  funext q
  have hv := h.view q
  cases ht : t.pool? q <;> cases hs : s.pool? q <;> rw [ht, hs] at hv <;> simp [Pool.commitView] at hv ⊢
  rename_i p p'
  obtain ⟨_, ho, hc, hp, _, hasid, hr⟩ := hv
  have hf : t.storeForces q p = s.storeForces q p' := by
    funext o
    unfold State.storeForces
    simp only [ho, entries_congr hp hasid hr, journalNeed_congr h, reachDeps_congr h]
  have ha : t.awaitsReds q p = s.awaitsReds q p' := by
    funext o
    unfold State.awaitsReds Pool.ownWrite
    simp only [uncommittedReds_congr h, laneCore_congr hp, redsReach_congr h, ho, hf]
  unfold Pool.settled
  rw [ho, hc, ha]

/-- A commit can be taken exactly when every pool of its groups is settled. -/
theorem commitPool_isSome (s : State) (pool : Nat) (except : Option Nat) (c : Carry) (prep : Nat → State → State) :
    (s.commitPool pool except c prep).isSome = s.canCommit pool except := by
  unfold State.commitPool State.canCommit
  dsimp only
  split
  · rename_i h; simp [h]
  · rename_i h; simpa using h

/-- A change of a pool of which a commit point sees nothing. -/
theorem modPool_view (s : State) (p : Nat) (f : Pool → Pool) (h : ∀ q, (f q).commitView = q.commitView) :
    (s.modPool p f).pools.map (fun e => (e.1, e.2.commitView)) = s.pools.map fun e => (e.1, e.2.commitView) := by
  unfold State.modPool KMap.modify
  rw [List.map_map]
  apply List.map_congr_left
  intro e _
  dsimp only [Function.comp]
  split
  · rw [h]
  · rfl

/-- The passing of an instruction changes no commit point. -/
theorem sameCommit_finish (c : Ctx) (h : Shape) (n : Nat) (s : State) : SameCommit s (c.finish h n s) := by
  rw [Ctx.finish_eq]
  exact ⟨rfl, modPool_view s _ _ fun p => by unfold Ctx.finishPool; split <;> rfl⟩

/-- A change of a CP changes no commit point. -/
theorem sameCommit_modCp (c : Ctx) (s : State) (f : Cp → Cp) : SameCommit s (c.modCp s f) := by
  exact ⟨rfl, modPool_view s _ _ fun _ => rfl⟩

/-- An effect that is a commit point: it commits where it can, and else leaves its CP standing. -/
theorem commitPoint_eq (c : Ctx) (h : Shape) (n : Nat) (s0 s : State) (except : Option Nat) (carry : Carry) (a : After) :
    (s.canCommit c.pid except = true → ∃ t,
      (c.finish h n s).commitPool c.pid except carry (waitFor c a) = some t ∧
      c.commitPoint h n s0 s except carry a = .stay t) ∧
    (s.canCommit c.pid except = false → c.commitPoint h n s0 s except carry a = .stay (s0.standAt c.pid c.cid .stall)) := by
  have e := commitPool_isSome (c.finish h n s) c.pid except carry (waitFor c a)
  rw [canCommit_congr (sameCommit_finish c h n s)] at e
  have u : c.commitPoint h n s0 s except carry a =
      match (c.finish h n s).commitPool c.pid except carry (waitFor c a) with
      | some s' => .stay s' | none => .stay (s0.standAt c.pid c.cid .stall) := rfl
  rw [u]
  constructor
  · intro hc
    rw [hc] at e
    obtain ⟨t, ht⟩ := Option.isSome_iff_exists.1 e
    exact ⟨t, ht, by rw [ht]⟩
  · intro hc
    rw [hc] at e
    rw [Option.isSome_eq_false_iff, Option.isNone_iff_eq_none] at e
    rw [e]

end Sys2Proof.Machine
end

