-- ==== Sys2Proof/Laws/Threads.lean ====
section
/-! SUPPORT. Thread registers after writes to a register or pair of one thread or of several: what was written reads
back, every other register is as it was, and the undo log grows by no more than was written. -/

namespace Sys2Proof.Machine

/-! ### Numbers of registers -/

theorem regKey_inj {t u m n : Nat} (hm : m < 256) (hn : n < 256) : 256 * t + n = 256 * u + m ↔ t = u ∧ n = m := by
  omega

theorem Pool.reg_setReg (p : Pool) (t n u m : Nat) (w : Word) (hn : n < 256) (hm : m < 256) :
    (p.setReg t n w).reg u m = if u = t ∧ m = n then w else p.reg u m := by
  unfold Pool.setReg Pool.reg
  dsimp only
  rw [KMap.get_set]
  by_cases h : u = t ∧ m = n
  · rw [if_pos h, if_pos (by omega)]
  · rw [if_neg h, if_neg (by rw [regKey_inj hn hm]; exact h)]

/-- Nothing but the registers and the undo log of registers differs. -/
def SameButRegs (p q : Pool) : Prop := { q with regs := p.regs, undoRegs := p.undoRegs } = p

theorem SameButRegs.refl (p : Pool) : SameButRegs p p := rfl

theorem SameButRegs.trans {p q r : Pool} (h1 : SameButRegs p q) (h2 : SameButRegs q r) : SameButRegs p r := by
  unfold SameButRegs at *
  rw [← h1, ← h2]

theorem Pool.same_setReg (p : Pool) (t n : Nat) (w : Word) : SameButRegs p (p.setReg t n w) := rfl

theorem Pool.same_setElem (p : Pool) (wide : Bool) (t n : Nat) (x : DWord) : SameButRegs p (p.setElem wide t n x) := by
  unfold Pool.setElem Pool.setReg64
  split
  · exact (Pool.same_setReg _ _ _ _).trans (Pool.same_setReg _ _ _ _)
  · exact Pool.same_setReg _ _ _ _

theorem Pool.same_setElems (p : Pool) (wide : Bool) (n : Nat) (l : List (Nat × DWord)) :
    SameButRegs p (p.setElems wide n l) := by
  unfold Pool.setElems
  induction l generalizing p with
  | nil => exact .refl p
  | cons e l ih => exact (Pool.same_setElem p wide e.1 n e.2).trans (ih _)

theorem Pool.zeroElems_eq (p : Pool) (wide : Bool) (n : Nat) (set : Mask) :
    p.zeroElems wide n set = p.setElems wide n ((Mask.tids set p.threads).map fun t => (t, 0)) := by
  simp [Pool.zeroElems, Pool.setElems, List.foldl_map]

theorem SameButRegs.threads {p q : Pool} (h : SameButRegs p q) : q.threads = p.threads :=
  (congrArg Pool.threads h : _)
theorem SameButRegs.parts {p q : Pool} (h : SameButRegs p q) : q.parts = p.parts :=
  (congrArg Pool.parts h : _)
theorem SameButRegs.cps {p q : Pool} (h : SameButRegs p q) : q.cps = p.cps :=
  (congrArg Pool.cps h : _)

/-! ### Elements -/

/-- A register number that an element of the width can be written to. -/
def FitsPair (wide : Bool) (n : Nat) : Prop := n < 256 ∧ (wide = true → n + 1 < 256)

theorem Pool.reg_setElem (p : Pool) (wide : Bool) (t n u m : Nat) (x : DWord) (hn : FitsPair wide n) (hm : m < 256)
    (h : ¬(u = t ∧ written wide n m)) : (p.setElem wide t n x).reg u m = p.reg u m := by
  unfold Pool.setElem Pool.setReg64
  unfold written at h
  cases wide
  · simp only [Bool.false_eq_true, if_false, false_and, or_false] at h ⊢
    rw [Pool.reg_setReg _ _ _ _ _ _ hn.1 hm, if_neg h]
  · simp only [if_true, true_and] at h ⊢
    rw [Pool.reg_setReg _ _ _ _ _ _ (hn.2 rfl) hm, if_neg (by tauto), Pool.reg_setReg _ _ _ _ _ _ hn.1 hm,
      if_neg (by tauto)]

theorem Pool.getElem_setElem (p : Pool) (wide : Bool) (t n : Nat) (x : DWord) (hn : FitsPair wide n) :
    (p.setElem wide t n x).getElem wide t n = lowPart wide x := by
  unfold Pool.setElem Pool.setReg64 Pool.getElem lowPart Pool.reg64
  cases wide
  · simp only [Bool.false_eq_true, if_false]
    rw [Pool.reg_setReg _ _ _ _ _ _ hn.1 hn.1, if_pos ⟨rfl, rfl⟩]
  · simp only [if_true]
    rw [Pool.reg_setReg _ _ _ _ _ _ (hn.2 rfl) (hn.2 rfl), if_pos ⟨rfl, rfl⟩,
      Pool.reg_setReg _ _ _ _ _ _ (hn.2 rfl) hn.1, if_neg (by omega), Pool.reg_setReg _ _ _ _ _ _ hn.1 hn.1,
      if_pos ⟨rfl, rfl⟩]
    ext i hi
    simp only [BitVec.getElem_append, BitVec.getElem_extractLsb']
    split
    · simp [BitVec.getLsbD_eq_getElem hi]
    · rw [show 32 + (i - 32) = i by omega]; simp [BitVec.getLsbD_eq_getElem hi]

theorem Pool.getElem_congr {p q : Pool} (wide : Bool) (t n : Nat) (h0 : q.reg t n = p.reg t n)
    (h1 : wide = true → q.reg t (n + 1) = p.reg t (n + 1)) : q.getElem wide t n = p.getElem wide t n := by
  unfold Pool.getElem Pool.reg64
  cases wide
  · simp [h0]
  · simp [h0, h1]

/-- A register that no element of the list is written to is as it was. -/
theorem Pool.reg_setElems (p : Pool) (wide : Bool) (n : Nat) (l : List (Nat × DWord)) (u m : Nat)
    (hn : FitsPair wide n) (hm : m < 256) (h : ¬(u ∈ l.map (·.1) ∧ written wide n m)) :
    (p.setElems wide n l).reg u m = p.reg u m := by
  unfold Pool.setElems
  induction l generalizing p with
  | nil => rfl
  | cons e l ih =>
      rw [List.foldl_cons, ih _ (by simp only [List.map_cons, List.mem_cons] at h; tauto),
        Pool.reg_setElem _ _ _ _ _ _ _ hn hm]
      simp only [List.map_cons, List.mem_cons] at h
      tauto

/-- The element of each thread of the list reads back. -/
theorem Pool.getElem_setElems (p : Pool) (wide : Bool) (n : Nat) (l : List (Nat × DWord)) (hn : FitsPair wide n)
    (hd : (l.map (·.1)).Nodup) (e : Nat × DWord) (he : e ∈ l) :
    (p.setElems wide n l).getElem wide e.1 n = lowPart wide e.2 := by
  induction l generalizing p with
  | nil => simp at he
  | cons a l ih =>
      simp only [List.map_cons, List.nodup_cons] at hd
      rcases List.mem_cons.mp he with rfl | he
      · have hs : (p.setElems wide n (e :: l)) = (p.setElem wide e.1 n e.2).setElems wide n l := rfl
        rw [hs, ← Pool.getElem_setElem p wide e.1 n e.2 hn]
        exact Pool.getElem_congr _ _ _ (Pool.reg_setElems _ _ _ _ _ _ hn hn.1 (by tauto))
          fun hw => Pool.reg_setElems _ _ _ _ _ _ hn (hn.2 hw) (by tauto)
      · exact ih _ hd.2 he

/-! ### The undo log -/

theorem KMap.length_filter_insert (m : KMap α) (k : Nat) (a : α) (f : Nat × α → Bool) :
    ((KMap.insert m k a).filter f).length ≤ (m.filter f).length + 1 := by
  induction m with
  | nil => unfold KMap.insert; simp only [List.filter_cons, List.filter_nil]; split <;> simp
  | cons e m ih =>
      obtain ⟨j, b⟩ := e
      by_cases h : k < j
      · simp only [KMap.insert, h, if_true]
        rw [List.filter_cons]
        split <;> simp
      · simp only [KMap.insert, h, if_false, List.filter_cons]
        split
        · simp only [List.length_cons]; omega
        · omega

theorem KMap.length_filter_record (m : KMap α) (k : Nat) (a : α) (f : Nat × α → Bool) :
    ((KMap.record m k a).filter f).length ≤ (m.filter f).length + 1 := by
  unfold KMap.record
  split
  · omega
  · exact KMap.length_filter_insert m k a f

theorem Pool.undoOn_setReg (p : Pool) (t n : Nat) (w : Word) (k : Nat) :
    (p.setReg t n w).undoOn k ≤ p.undoOn k + 4 := by
  have h := KMap.length_filter_record p.undoRegs (256 * t + n) (p.reg t n) fun e => decide (p.coreOfThread (e.1 / 256) = k)
  have e : (p.setReg t n w).undoOn k = 4 * ((KMap.record p.undoRegs (256 * t + n) (p.reg t n)).filter
      fun e => decide (p.coreOfThread (e.1 / 256) = k)).length +
      (if k = p.homeCore then p.undoSpad.length else 0) +
      4224 * (p.undoTiles.filter fun e => coreOf (p.parts.getD (e.1 / 64) 0) = k).length := rfl
  rw [e, Pool.undoOn]
  omega

theorem Pool.undoOn_setElem (p : Pool) (wide : Bool) (t n : Nat) (x : DWord) (k : Nat) :
    (p.setElem wide t n x).undoOn k ≤ p.undoOn k + 8 := by
  unfold Pool.setElem Pool.setReg64
  split
  · have h1 := Pool.undoOn_setReg (p.setReg t n (x.extractLsb' 0 32)) t (n + 1) (x.extractLsb' 32 32) k
    have h2 := Pool.undoOn_setReg p t n (x.extractLsb' 0 32) k
    omega
  · have h2 := Pool.undoOn_setReg p t n (x.extractLsb' 0 32) k
    omega

theorem Pool.undoOn_setElems (p : Pool) (wide : Bool) (n : Nat) (l : List (Nat × DWord)) (k : Nat) :
    (p.setElems wide n l).undoOn k ≤ p.undoOn k + 8 * l.length := by
  unfold Pool.setElems
  induction l generalizing p with
  | nil => simp
  | cons e l ih =>
      have h1 := ih (p.setElem wide e.1 n e.2)
      have h2 := Pool.undoOn_setElem p wide e.1 n e.2 k
      simp only [List.foldl_cons, List.length_cons]
      omega

/-! ### Threads of a set -/

theorem Mask.nodup_tids (m : Mask) (n : Nat) : (Mask.tids m n).Nodup := by
  unfold Mask.tids
  rw [List.nodup_flatMap]
  refine ⟨fun w _ => ?_, ?_⟩
  · dsimp only
    split
    · exact List.nodup_nil
    · exact (List.Nodup.filter _ List.nodup_range).map fun a b h => by simpa using h
  · refine List.Pairwise.imp ?_ (List.nodup_range (n := (n + 31) / 32))
    intro a b hab x hx hy
    dsimp only at hx hy
    split at hx <;> split at hy <;> simp only [List.mem_map, List.mem_filter, List.mem_range, List.not_mem_nil] at hx hy
    obtain ⟨i, ⟨hi, _⟩, rfl⟩ := hx
    obtain ⟨j, ⟨hj, _⟩, he⟩ := hy
    omega

/-- R32: the threads of a set, by their bits. -/
theorem Mask.mem_tids (m : Mask) (n t : Nat) : t ∈ Mask.tids m n ↔ t < 32 * ((n + 31) / 32) ∧ m.getLsbD t = true := by
  have key (w i : Nat) (hi : i < 32) : (bits 31 0 (m.extractLsb' (32 * w) 32)).testBit i = m.getLsbD (32 * w + i) := by
    unfold bits
    rw [Nat.shiftRight_zero, Nat.testBit_mod_two_pow, BitVec.testBit_toNat, BitVec.getLsbD_extractLsb']
    simp [hi]
  unfold Mask.tids
  simp only [List.mem_flatMap, List.mem_range]
  constructor
  · rintro ⟨w, hw, h⟩
    split at h
    · simp at h
    · simp only [List.mem_map, List.mem_filter, List.mem_range] at h
      obtain ⟨i, ⟨hi, hb⟩, rfl⟩ := h
      rw [key w i hi] at hb
      exact ⟨by omega, hb⟩
  · rintro ⟨ht, hb⟩
    have hb' := key (t / 32) (t % 32) (Nat.mod_lt _ (by omega))
    rw [show 32 * (t / 32) + t % 32 = t by omega, hb] at hb'
    refine ⟨t / 32, by omega, ?_⟩
    rw [if_neg]
    · simp only [List.mem_map, List.mem_filter, List.mem_range]
      exact ⟨t % 32, ⟨Nat.mod_lt _ (by omega), hb'⟩, by omega⟩
    · intro h0
      rw [h0] at hb'
      simp at hb'

/-! ### The write of a thread instruction -/

/-- R19, R111: the pool after the zeros of a zero form and the results. -/
def Ctx.afterWrite (c : Ctx) (r : ThreadResult) : Pool :=
  (c.pool.zeroElems r.wide r.d.toNat c.zeroSet).setElems r.wide r.d.toNat r.vals

theorem Ctx.same_afterWrite (c : Ctx) (r : ThreadResult) : SameButRegs c.pool (c.afterWrite r) := by
  unfold Ctx.afterWrite
  rw [Pool.zeroElems_eq]
  exact (Pool.same_setElems _ _ _ _).trans (Pool.same_setElems _ _ _ _)

theorem Ctx.undoOn_afterWrite (c : Ctx) (r : ThreadResult) (k : Nat) :
    (c.afterWrite r).undoOn k ≤
      c.pool.undoOn k + 8 * (r.vals.length + (Mask.tids c.zeroSet c.pool.threads).length) := by
  unfold Ctx.afterWrite
  rw [Pool.zeroElems_eq]
  have h1 := Pool.undoOn_setElems (c.pool.setElems r.wide r.d.toNat
    ((Mask.tids c.zeroSet c.pool.threads).map fun t => (t, 0))) r.wide r.d.toNat r.vals k
  have h2 := Pool.undoOn_setElems c.pool r.wide r.d.toNat
    ((Mask.tids c.zeroSet c.pool.threads).map fun t => (t, 0)) k
  simp only [List.length_map] at h2
  omega

end Sys2Proof.Machine
end

