-- ==== Sys2Proof/Laws/Results.lean ====
section
/-! SUPPORT. Each instruction that writes thread registers, as the table of results gives it: its meaning issues in its
shape, and its own effect is the write of the table's result. -/

namespace Sys2Proof.Machine

theorem write_laneResult (c : Ctx) (s : State) (d : Byte) (w : Nat) (srcs : List Nat) (f : List Nat → Nat × Flags) :
    c.lanewise s w d.toNat srcs f =
      c.write s (c.laneResult d w srcs f).wide (c.laneResult d w srcs f).d.toNat (c.laneResult d w srcs f).vals
        (c.laneResult d w srcs f).flags := by
  unfold Ctx.lanewise Ctx.laneResult allFlags
  simp only [List.map_map, List.foldl_map, Function.comp_def]

/-- The meaning of an instruction is its issue in its own shape, with an effect that in this context writes r. -/
def Writes (i : Instr) (c : Ctx) (s : State) (r : ThreadResult) : Prop :=
  ∃ body, exec i s = issue i (shapeOf i) body s ∧ body c s = c.write s r.wide r.d.toNat r.vals r.flags

theorem writes_typed {i : Instr} {c : Ctx} {s : State} {r : ThreadResult} (cls : Nat → Bool) (d : Byte)
    (srcs : List Nat) (clocks : Ctx → Nat) (fourth : Bool) (f : Ctx → List Nat → Nat × Flags)
    (hs : exec i s = execLanes i cls clocks d srcs fourth f s)
    (hi : shapeOf i = threadShape (d.toNat :: srcs) clocks fourth)
    (h : c.typed cls d (srcs ++ if fourth then [c.x] else []) (f c) = some r) : Writes i c s r := by
  refine ⟨_, hs.trans (by unfold execLanes; rw [hi]), ?_⟩
  unfold Ctx.typed at h
  split at h
  · rename_i hc
    simp only [Option.some.injEq] at h
    subst h
    simp only [hc, Bool.not_true, Bool.false_eq_true, if_false]
    exact write_laneResult c s d _ _ _
  · simp at h

theorem writes_whole {i : Instr} {c : Ctx} {s : State} {r : ThreadResult} (d : Byte) (srcs : List Nat)
    (fourth : Bool) (f : Ctx → List Nat → Nat) (hs : exec i s = execBits i d srcs fourth f s)
    (hi : shapeOf i = threadShape (d.toNat :: srcs) (fun _ => 1) fourth)
    (h : c.whole d (srcs ++ if fourth then [c.x] else []) (f c) = some r) : Writes i c s r := by
  refine ⟨_, hs.trans (by unfold execBits; rw [hi]), ?_⟩
  unfold Ctx.whole at h
  simp only [Option.some.injEq] at h
  subst h
  exact write_laneResult c s d _ _ _

/-- An effect that writes one value for each responder. -/
theorem write_each (c : Ctx) (s : State) (wide : Bool) (d : Byte) (f : Nat → DWord × Flags) :
    c.write s wide d.toNat ((c.tids.map fun t => (t, f t)).map fun e => (e.1, e.2.1))
      ((c.tids.map fun t => (t, f t)).foldl (fun a e => a ||| e.2.2) 0) =
    c.write s (c.each wide d f).wide (c.each wide d f).d.toNat (c.each wide d f).vals (c.each wide d f).flags := by
  unfold Ctx.each allFlags
  simp only [List.map_map, List.foldl_map, Function.comp_def]

theorem writes_vadd (p : Option Prefix) (d a b : Byte) (c : Ctx) (s : State) (r : ThreadResult)
    (h : threadResult (.vadd p d a b) c = some r) : Writes (.vadd p d a b) c s r :=
  writes_typed classNumeric d [a.toNat, b.toNat] (clocksWide 2) false
    (fun c l => arith .add c.ty c.rm c.sat (l.getD 0 0) (l.getD 1 0)) rfl rfl h

theorem writes_vsub (p : Option Prefix) (d a b : Byte) (c : Ctx) (s : State) (r : ThreadResult)
    (h : threadResult (.vsub p d a b) c = some r) : Writes (.vsub p d a b) c s r :=
  writes_typed classNumeric d [a.toNat, b.toNat] (clocksWide 2) false
    (fun c l => arith .sub c.ty c.rm c.sat (l.getD 0 0) (l.getD 1 0)) rfl rfl h

theorem writes_vmul (p : Option Prefix) (d a b : Byte) (c : Ctx) (s : State) (r : ThreadResult)
    (h : threadResult (.vmul p d a b) c = some r) : Writes (.vmul p d a b) c s r :=
  writes_typed classNumeric d [a.toNat, b.toNat] (clocksWide 4) false
    (fun c l => arith .mul c.ty c.rm c.sat (l.getD 0 0) (l.getD 1 0)) rfl rfl h

theorem writes_vmulh (p : Option Prefix) (d a b : Byte) (c : Ctx) (s : State) (r : ThreadResult)
    (h : threadResult (.vmulh p d a b) c = some r) : Writes (.vmulh p d a b) c s r :=
  writes_typed classInteger d [a.toNat, b.toNat] (clocksWide 4) false
    (fun c l => match c.ty with | .int w sg => (mulHigh w sg (l.getD 0 0) (l.getD 1 0), 0) | .flt _ => (0, 0)) rfl rfl h

theorem writes_vfma (p : Option Prefix) (d a b : Byte) (c : Ctx) (s : State) (r : ThreadResult)
    (h : threadResult (.vfma p d a b) c = some r) : Writes (.vfma p d a b) c s r :=
  writes_typed classNumeric d [a.toNat, b.toNat] (clocksWide 4) true
    (fun c l => fma c.ty c.rm c.sat (l.getD 0 0) (l.getD 1 0) (l.getD 2 0)) rfl rfl h

theorem writes_vmin (p : Option Prefix) (d a b : Byte) (c : Ctx) (s : State) (r : ThreadResult)
    (h : threadResult (.vmin p d a b) c = some r) : Writes (.vmin p d a b) c s r :=
  writes_typed classNumeric d [a.toNat, b.toNat] (clocksWide 2) false
    (fun c l => minMax false c.ty (l.getD 0 0) (l.getD 1 0)) rfl rfl h

theorem writes_vmax (p : Option Prefix) (d a b : Byte) (c : Ctx) (s : State) (r : ThreadResult)
    (h : threadResult (.vmax p d a b) c = some r) : Writes (.vmax p d a b) c s r :=
  writes_typed classNumeric d [a.toNat, b.toNat] (clocksWide 2) false
    (fun c l => minMax true c.ty (l.getD 0 0) (l.getD 1 0)) rfl rfl h

theorem writes_vabs (p : Option Prefix) (d a : Byte) (c : Ctx) (s : State) (r : ThreadResult)
    (h : threadResult (.vabs p d a) c = some r) : Writes (.vabs p d a) c s r :=
  writes_typed classNumeric d [a.toNat] (clocksWide 2) false
    (fun c l => absElem c.ty c.sat (l.getD 0 0)) rfl rfl h

theorem writes_vneg (p : Option Prefix) (d a : Byte) (c : Ctx) (s : State) (r : ThreadResult)
    (h : threadResult (.vneg p d a) c = some r) : Writes (.vneg p d a) c s r :=
  writes_typed classNumeric d [a.toNat] (clocksWide 2) false
    (fun c l => negElem c.ty c.sat (l.getD 0 0)) rfl rfl h

theorem writes_vclamp (p : Option Prefix) (d a b : Byte) (c : Ctx) (s : State) (r : ThreadResult)
    (h : threadResult (.vclamp p d a b) c = some r) : Writes (.vclamp p d a b) c s r :=
  writes_typed classNumeric d [a.toNat, b.toNat] (clocksWide 2) true
    (fun c l => clampElem c.ty (l.getD 0 0) (l.getD 1 0) (l.getD 2 0)) rfl rfl h

theorem writes_vand (p : Option Prefix) (d a b : Byte) (c : Ctx) (s : State) (r : ThreadResult)
    (h : threadResult (.vand p d a b) c = some r) : Writes (.vand p d a b) c s r :=
  writes_whole d [a.toNat, b.toNat] false
    (fun _ l => l.getD 0 0 &&& l.getD 1 0) rfl rfl h

theorem writes_vor (p : Option Prefix) (d a b : Byte) (c : Ctx) (s : State) (r : ThreadResult)
    (h : threadResult (.vor p d a b) c = some r) : Writes (.vor p d a b) c s r :=
  writes_whole d [a.toNat, b.toNat] false
    (fun _ l => l.getD 0 0 ||| l.getD 1 0) rfl rfl h

theorem writes_vxor (p : Option Prefix) (d a b : Byte) (c : Ctx) (s : State) (r : ThreadResult)
    (h : threadResult (.vxor p d a b) c = some r) : Writes (.vxor p d a b) c s r :=
  writes_whole d [a.toNat, b.toNat] false
    (fun _ l => l.getD 0 0 ^^^ l.getD 1 0) rfl rfl h

theorem writes_vandn (p : Option Prefix) (d a b : Byte) (c : Ctx) (s : State) (r : ThreadResult)
    (h : threadResult (.vandn p d a b) c = some r) : Writes (.vandn p d a b) c s r :=
  writes_whole d [a.toNat, b.toNat] false
    (fun c l => l.getD 0 0 &&& notBits c.bitWidth (l.getD 1 0)) rfl rfl h

theorem writes_vnot (p : Option Prefix) (d a : Byte) (c : Ctx) (s : State) (r : ThreadResult)
    (h : threadResult (.vnot p d a) c = some r) : Writes (.vnot p d a) c s r :=
  writes_whole d [a.toNat] false
    (fun c l => notBits c.bitWidth (l.getD 0 0)) rfl rfl h

theorem writes_vshl (p : Option Prefix) (d a b : Byte) (c : Ctx) (s : State) (r : ThreadResult)
    (h : threadResult (.vshl p d a b) c = some r) : Writes (.vshl p d a b) c s r :=
  writes_typed anyType d [a.toNat, b.toNat] (fun _ => 1) false
    (fun c l => (shiftElem .shl c.ty.width (l.getD 0 0) (l.getD 1 0), 0)) rfl rfl h

theorem writes_vshr (p : Option Prefix) (d a b : Byte) (c : Ctx) (s : State) (r : ThreadResult)
    (h : threadResult (.vshr p d a b) c = some r) : Writes (.vshr p d a b) c s r :=
  writes_typed anyType d [a.toNat, b.toNat] (fun _ => 1) false
    (fun c l => (shiftElem .shr c.ty.width (l.getD 0 0) (l.getD 1 0), 0)) rfl rfl h

theorem writes_vsar (p : Option Prefix) (d a b : Byte) (c : Ctx) (s : State) (r : ThreadResult)
    (h : threadResult (.vsar p d a b) c = some r) : Writes (.vsar p d a b) c s r :=
  writes_typed anyType d [a.toNat, b.toNat] (fun _ => 1) false
    (fun c l => (shiftElem .sar c.ty.width (l.getD 0 0) (l.getD 1 0), 0)) rfl rfl h

theorem writes_vrot (p : Option Prefix) (d a b : Byte) (c : Ctx) (s : State) (r : ThreadResult)
    (h : threadResult (.vrot p d a b) c = some r) : Writes (.vrot p d a b) c s r :=
  writes_typed anyType d [a.toNat, b.toNat] (fun _ => 1) false
    (fun c l => (shiftElem .rot c.ty.width (l.getD 0 0) (l.getD 1 0), 0)) rfl rfl h

theorem writes_vpopc (p : Option Prefix) (d a : Byte) (c : Ctx) (s : State) (r : ThreadResult)
    (h : threadResult (.vpopc p d a) c = some r) : Writes (.vpopc p d a) c s r :=
  writes_whole d [a.toNat] false
    (fun c l => popcount c.bitWidth (l.getD 0 0)) rfl rfl h

theorem writes_vclz (p : Option Prefix) (d a : Byte) (c : Ctx) (s : State) (r : ThreadResult)
    (h : threadResult (.vclz p d a) c = some r) : Writes (.vclz p d a) c s r :=
  writes_whole d [a.toNat] false
    (fun c l => clz c.bitWidth (l.getD 0 0)) rfl rfl h

theorem writes_vctz (p : Option Prefix) (d a : Byte) (c : Ctx) (s : State) (r : ThreadResult)
    (h : threadResult (.vctz p d a) c = some r) : Writes (.vctz p d a) c s r :=
  writes_whole d [a.toNat] false
    (fun c l => ctz c.bitWidth (l.getD 0 0)) rfl rfl h

theorem writes_vfns (p : Option Prefix) (d a b : Byte) (c : Ctx) (s : State) (r : ThreadResult)
    (h : threadResult (.vfns p d a b) c = some r) : Writes (.vfns p d a b) c s r :=
  writes_whole d [a.toNat, b.toNat] false
    (fun c l => fns c.bitWidth (l.getD 0 0) (l.getD 1 0 % 2 ^ 32)) rfl rfl h

theorem writes_vbrev (p : Option Prefix) (d a : Byte) (c : Ctx) (s : State) (r : ThreadResult)
    (h : threadResult (.vbrev p d a) c = some r) : Writes (.vbrev p d a) c s r :=
  writes_whole d [a.toNat] false
    (fun c l => brev c.bitWidth (l.getD 0 0)) rfl rfl h

theorem writes_vbfx (p : Option Prefix) (d a b : Byte) (c : Ctx) (s : State) (r : ThreadResult)
    (h : threadResult (.vbfx p d a b) c = some r) : Writes (.vbfx p d a b) c s r :=
  writes_whole d [a.toNat, b.toNat] true
    (fun c l => bfx c.bitWidth (c.tyCode = 3 || c.tyCode = 4) (l.getD 0 0) (l.getD 1 0 % 256) (l.getD 2 0 % 256)) rfl rfl h

theorem writes_vcmp (p : Option Prefix) (d a b : Byte) (cond : BitVec 4) (c : Ctx) (s : State) (r : ThreadResult)
    (h : threadResult (.vcmp p d a b cond) c = some r) : Writes (.vcmp p d a b cond) c s r :=
  writes_typed anyType d [a.toNat, b.toNat] (clocksWide 2) false
    (fun c l => let r := compare cond.toNat c.ty (l.getD 0 0) (l.getD 1 0); (if r.1 then 2 ^ c.ty.width - 1 else 0, r.2)) rfl rfl h

theorem writes_vsel (p : Option Prefix) (d a b : Byte) (c : Ctx) (s : State) (r : ThreadResult)
    (h : threadResult (.vsel p d a b) c = some r) : Writes (.vsel p d a b) c s r :=
  writes_whole d [a.toNat, b.toNat] true
    (fun c l => (l.getD 0 0 &&& l.getD 2 0) ||| (l.getD 1 0 &&& notBits c.bitWidth (l.getD 2 0))) rfl rfl h

theorem writes_vmov (p : Option Prefix) (d b : Byte) (c : Ctx) (s : State) (r : ThreadResult)
    (h : threadResult (.vmov p d b) c = some r) : Writes (.vmov p d b) c s r :=
  writes_whole d [b.toNat] false
    (fun _ l => l.getD 0 0) rfl rfl h

theorem writes_vrcp (p : Option Prefix) (d a : Byte) (c : Ctx) (s : State) (r : ThreadResult)
    (h : threadResult (.vrcp p d a) c = some r) : Writes (.vrcp p d a) c s r :=
  writes_typed (· = 11) d [a.toNat] (fun _ => 4) false
    (fun c l => vrcpF c.rm c.sat (Fmt.decode .fp32 (l.getD 0 0))) rfl rfl h

theorem writes_vrsq (p : Option Prefix) (d a : Byte) (c : Ctx) (s : State) (r : ThreadResult)
    (h : threadResult (.vrsq p d a) c = some r) : Writes (.vrsq p d a) c s r :=
  writes_typed (· = 11) d [a.toNat] (fun _ => 4) false
    (fun c l => vrsqF c.rm c.sat (Fmt.decode .fp32 (l.getD 0 0))) rfl rfl h

theorem writes_vsqt (p : Option Prefix) (d a : Byte) (c : Ctx) (s : State) (r : ThreadResult)
    (h : threadResult (.vsqt p d a) c = some r) : Writes (.vsqt p d a) c s r :=
  writes_typed (· = 11) d [a.toNat] (fun _ => 4) false
    (fun c l => vsqtF c.rm c.sat (Fmt.decode .fp32 (l.getD 0 0))) rfl rfl h

theorem writes_vex2 (p : Option Prefix) (d a : Byte) (c : Ctx) (s : State) (r : ThreadResult)
    (h : threadResult (.vex2 p d a) c = some r) : Writes (.vex2 p d a) c s r :=
  writes_typed (· = 11) d [a.toNat] (fun _ => 4) false
    (fun c l => vex2F c.rm c.sat (Fmt.decode .fp32 (l.getD 0 0))) rfl rfl h

theorem writes_vlg2 (p : Option Prefix) (d a : Byte) (c : Ctx) (s : State) (r : ThreadResult)
    (h : threadResult (.vlg2 p d a) c = some r) : Writes (.vlg2 p d a) c s r :=
  writes_typed (· = 11) d [a.toNat] (fun _ => 4) false
    (fun c l => vlg2F c.rm c.sat (Fmt.decode .fp32 (l.getD 0 0))) rfl rfl h

theorem writes_vsin (p : Option Prefix) (d a : Byte) (c : Ctx) (s : State) (r : ThreadResult)
    (h : threadResult (.vsin p d a) c = some r) : Writes (.vsin p d a) c s r :=
  writes_typed (· = 11) d [a.toNat] (fun _ => 4) false
    (fun c l => vsinF c.rm c.sat (Fmt.decode .fp32 (l.getD 0 0))) rfl rfl h

theorem writes_vcos (p : Option Prefix) (d a : Byte) (c : Ctx) (s : State) (r : ThreadResult)
    (h : threadResult (.vcos p d a) c = some r) : Writes (.vcos p d a) c s r :=
  writes_typed (· = 11) d [a.toNat] (fun _ => 4) false
    (fun c l => vcosF c.rm c.sat (Fmt.decode .fp32 (l.getD 0 0))) rfl rfl h

theorem writes_vdot4 (p : Option Prefix) (d a b : Byte) (c : Ctx) (s : State) (r : ThreadResult)
    (h : threadResult (.vdot4 p d a b) c = some r) : Writes (.vdot4 p d a b) c s r := by
  refine ⟨_, Eq.trans (b := execVdot4 p d a b s) rfl (by unfold execVdot4; rfl), ?_⟩
  have h' : c.dot4 d a b = some r := h
  unfold Ctx.dot4 at h'
  dsimp only
  split at h'
  · rename_i e
    simp only [Option.some.injEq] at h'
    subst h'
    try simp only [e]
    exact write_laneResult c s d _ _ _
  · rename_i e
    simp only [Option.some.injEq] at h'
    subst h'
    try simp only [e]
    exact write_laneResult c s d _ _ _
  · rename_i e
    split at h'
    · rename_i fa fb ea eb
      simp only [Option.some.injEq] at h'
      subst h'
      try simp only [e, ea, eb]
      exact write_laneResult c s d _ _ _
    · simp at h'
  · simp at h'

theorem writes_vscal (p : Option Prefix) (d a b : Byte) (c : Ctx) (s : State) (r : ThreadResult)
    (h : threadResult (.vscal p d a b) c = some r) : Writes (.vscal p d a b) c s r := by
  refine ⟨_, Eq.trans (b := execVscal p d a b s) rfl (by unfold execVscal; rfl), ?_⟩
  have h' : (match c.tyCode with
      | 9 => some (c.scaled d a b .fp16)
      | 10 => some (c.scaled d a b .bf16)
      | 11 => some (c.scaled d a b .fp32)
      | _ => none) = some r := h
  split at h' <;> simp only [Option.some.injEq, reduceCtorEq] at h' <;> subst h' <;> rename_i e <;>
    simp only [Ctx.ty, e, Ty.ofCode] <;> exact write_each c s false d _

theorem writes_vbfi (p : Option Prefix) (d a b : Byte) (c : Ctx) (s : State) (r : ThreadResult)
    (h : threadResult (.vbfi p d a b) c = some r) : Writes (.vbfi p d a b) c s r := by
  refine ⟨_, Eq.trans (b := execVbfi p d a b s) rfl (by unfold execVbfi; rfl), ?_⟩
  have h' : some (c.laneResult d c.bitWidth [a.toNat, b.toNat, c.x, d.toNat] _) = some r := h
  simp only [Option.some.injEq] at h'
  subst h'
  exact write_laneResult c s d _ _ _

/-- A move of values that raise no flag. -/
theorem write_move (c : Ctx) (s : State) (wide : Bool) (d : Byte) (f : Nat → DWord) :
    c.write s wide d.toNat (c.tids.map fun t => (t, f t)) 0 =
    c.write s (c.each wide d fun t => (f t, 0)).wide (c.each wide d fun t => (f t, 0)).d.toNat
      (c.each wide d fun t => (f t, 0)).vals (c.each wide d fun t => (f t, 0)).flags := by
  have e (l : List Nat) : allFlags (l.map fun t => (f t, (0 : Flags))) = 0 := by
    unfold allFlags
    induction l with
    | nil => rfl
    | cons _ _ ih => simpa using ih
  unfold Ctx.each
  rw [e]

theorem writes_vmovScalar (p : Option Prefix) (d b : Byte) (c : Ctx) (s : State) (r : ThreadResult)
    (h : threadResult (.vmovScalar p d b) c = some r) : Writes (.vmovScalar p d b) c s r := by
  refine ⟨_, Eq.trans (b := execVmovScalar p d b s) rfl (by unfold execVmovScalar; rfl), ?_⟩
  have h' : some (c.each c.wide d _) = some r := h
  simp only [Option.some.injEq] at h'
  subst h'
  exact write_move c s _ d _

theorem writes_vmovi (p : Option Prefix) (d : Byte) (lit : Word) (c : Ctx) (s : State) (r : ThreadResult)
    (h : threadResult (.vmovi p d lit) c = some r) : Writes (.vmovi p d lit) c s r := by
  refine ⟨_, Eq.trans (b := execVmovi p d lit s) rfl (by unfold execVmovi; rfl), ?_⟩
  have h' : some (c.each c.wide d _) = some r := h
  simp only [Option.some.injEq] at h'
  subst h'
  exact write_move c s _ d _

theorem writes_tid (p : Option Prefix) (d : Byte) (c : Ctx) (s : State) (r : ThreadResult)
    (h : threadResult (.tid p d) c = some r) : Writes (.tid p d) c s r := by
  refine ⟨_, Eq.trans (b := execTid p d s) rfl (by unfold execTid; rfl), ?_⟩
  have h' : some (c.each c.wide d _) = some r := h
  simp only [Option.some.injEq] at h'
  subst h'
  exact write_move c s _ d _

theorem writes_vcvt (p : Option Prefix) (d a : Byte) (e8 : BitVec 1) (src : BitVec 4) (c : Ctx) (s : State)
    (r : ThreadResult) (h : threadResult (.vcvt p d a e8 src) c = some r) : Writes (.vcvt p d a e8 src) c s r := by
  refine ⟨_, Eq.trans (b := execVcvt p d a e8 src s) rfl (by unfold execVcvt; rfl), ?_⟩
  have h' : some (c.converted d a (e8 = 1) (Ty.ofCode src.toNat)) = some r := h
  simp only [Option.some.injEq] at h'
  subst h'
  unfold Ctx.converted
  simp only [decide_eq_true_eq]
  exact write_each c s _ d _

theorem writes_vpack (p : Option Prefix) (d a b : Byte) (c : Ctx) (s : State) (r : ThreadResult)
    (h : threadResult (.vpack p d a b) c = some r) : Writes (.vpack p d a b) c s r := by
  refine ⟨_, Eq.trans (b := execVpack p d a b s) rfl (by unfold execVpack; rfl), ?_⟩
  have h' : (if classNarrow c.tyCode then some (c.packed2 d a b) else none) = some r := h
  split at h'
  · rename_i hc
    simp only [Option.some.injEq] at h'
    subst h'
    simp only [hc, Bool.not_true, Bool.false_eq_true, if_false]
    exact write_each c s false d _
  · simp at h'

theorem writes_vunpk (p : Option Prefix) (d a b : Byte) (c : Ctx) (s : State) (r : ThreadResult)
    (h : threadResult (.vunpk p d a b) c = some r) : Writes (.vunpk p d a b) c s r := by
  refine ⟨_, Eq.trans (b := execVunpk p d a b s) rfl (by unfold execVunpk; rfl), ?_⟩
  have h' : (if classNarrow c.tyCode ∧ b.toNat < 32 / c.ty.width then some (c.unpacked d a b.toNat) else none) =
    some r := h
  split at h'
  · rename_i hc
    simp only [Option.some.injEq] at h'
    subst h'
    simp only [hc.1, Bool.not_true]
    have e := write_each c s false d fun t =>
      let x := (c.elems c.ty.width t a.toNat).getD b.toNat 0
      let r : Nat × Flags := match c.ty with
        | .int w sg => (intBits 32 (intOf w sg x), 0)
        | .flt f => Fmt.convert .fp32 .rne false (f.decode x)
      (BitVec.ofNat 64 r.1, r.2)
    simp only [List.map_map, List.foldl_map, Function.comp_def] at e ⊢
    exact e
  · simp at h'

theorem writes_scan (p : Option Prefix) (d a : Byte) (excl : BitVec 1) (op : BitVec 2) (c : Ctx) (s : State)
    (r : ThreadResult) (h : threadResult (.scan p d a excl op) c = some r) : Writes (.scan p d a excl op) c s r := by
  refine ⟨_, Eq.trans (b := execScan p d a excl op s) rfl (by unfold execScan; rfl), ?_⟩
  have h' : (if op = 3 ∨ classNumeric c.tyCode then _ else none) = some r := h
  split at h'
  · rename_i hc
    simp only [Option.some.injEq] at h'
    subst h'
    have : ¬((op != 3 && !classNumeric c.tyCode) = true) := by
      rcases hc with hc | hc <;> simp [hc]
    simp only [this, Bool.false_eq_true, if_false]
  · simp at h'

theorem writes_match (p : Option Prefix) (d a : Byte) (c : Ctx) (s : State) (r : ThreadResult)
    (h : threadResult (.match_ p d a) c = some r) : Writes (.match_ p d a) c s r := by
  refine ⟨_, Eq.trans (b := execMatch p d a s) rfl (by unfold execMatch; rfl), ?_⟩
  have h' : some (c.each (decide (c.pool.group = 64)) d _) = some r := h
  simp only [Option.some.injEq] at h'
  subst h'
  exact write_move c s _ d _

end Sys2Proof.Machine
end

