-- ==== Sys2Proof/Machine/Images.lean ====
section
/-! DEFINITION. The byte layouts of what the device writes into a pool's save area (08 R191, 10 R233).  The model
keeps a trap record and a tile as fields (log 41, log 42); these are the bytes that stand for them, and the tile
that the bytes of an image give. -/

namespace Sys2Proof.Machine

/-- R191: the 64 bytes of a trap record. -/
def TrapRecord.bytes (r : TrapRecord) : List Byte :=
  toBytes r.pc.toNat 8 ++ [r.cause, BitVec.ofNat 8 r.cpx, 0, 0] ++ toBytes r.detail.toNat 4 ++
    toBytes r.addr.toNat 8 ++ toBytes r.tcount 4 ++ toBytes r.tfirst.toNat 4 ++ List.replicate 32 0

/-- R233: the code of a tile's kind. -/
def TileKind.code : TileKind → Nat
  | .empty => 0
  | .fp => 1
  | .residue => 2

/-- R233: the image of the tile of accumulator `acc` in a pool word, 4,224 bytes. -/
def Tile.image (t : Tile) (word acc : Nat) : List Byte :=
  toBytes (t.count + (if t.capt then 4096 else 0) + 8192 * t.kind.code + (if t.poison then 32768 else 0) +
    65536 * t.owner.getD 0) 4 ++
  toBytes (word + 65536 * acc) 4 ++ toBytes t.corrp 8 ++
  (List.range 32).map (KMap.get t.rsc 0) ++ (List.range 32).map (KMap.get t.csc 0) ++ List.replicate 48 0 ++
  (List.range 1024).flatMap fun n => toBytes (KMap.get t.elem 0 n).toNat 4

/-- The 32-bit words of bytes, lowest first. -/
def wordsOf : List Byte → List Word
  | a :: b :: c :: d :: r => (d ++ c ++ b ++ a) :: wordsOf r
  | _ => []

/-- The entries of a table that lists the elements of a list that are not 0, from key `n` on. -/
def tableOf {w : Nat} (n : Nat) : List (BitVec w) → KMap (BitVec w)
  | [] => []
  | x :: r => if x = 0 then tableOf (n + 1) r else (n, x) :: tableOf (n + 1) r

/-- R233: whether the words of an image, and its words of elements, count as poisoned. -/
def imageBad (head elems : List Word) : Bool :=
  let h := (head.getD 0 0).toNat
  let kind := h / 8192 % 4
  decide (h / 2 ^ 20 ≠ 0 ∨ h / 512 % 8 ≠ 0 ∨ (head.getD 1 0).toNat / 2 ^ 17 ≠ 0 ∨ kind = 3 ∨ 256 < h % 512) ||
    (head.drop 20).any (· != 0) || (kind = 2 && !elems.all residueForm)

/-- R231, R233: the owned tile that the bytes of an image give: one that counts as poisoned has its POISON bit set
and its elements 0: all of them, since none of them is known to be good (log 54). -/
def Tile.ofImage (bs : List Byte) : Tile :=
  let head := wordsOf (bs.take 128)
  let elems := wordsOf (bs.drop 128)
  let h := (head.getD 0 0).toNat
  let bad := imageBad head elems
  { kind := match h / 8192 % 4 with | 1 => .fp | 2 => .residue | _ => .empty
    count := h % 512
    elem := if bad then [] else tableOf 0 elems
    rsc := tableOf 0 ((bs.drop 16).take 32)
    csc := tableOf 0 ((bs.drop 48).take 32)
    capt := h / 4096 % 2 = 1
    owner := some (h / 65536 % 16)
    poison := bad || h / 32768 % 2 = 1
    corrp := (head.getD 2 0).toNat + 2 ^ 32 * (head.getD 3 0).toNat }

end Sys2Proof.Machine
end

