-- ==== Sys2Proof/Safety.lean ====
section
/-! DEFINITION. What counts as a safe state and a safe run: package memory keeps its canonical form, no control
program stands at a trap, and the package is not viral. -/

namespace Sys2Proof.Machine

/-- The canonical form of memory. -/
def State.memOk (s : State) : Prop := Memory.wf s.mem = true

/-- No CP of a pool in place is stopped at a trap (R56). -/
def State.trapFree (s : State) : Bool := s.pools.all fun e => e.2.cps.all fun c => c.2.status != .trapped

def State.safe (s : State) : Bool := Memory.wf s.mem && s.trapFree && s.viral.isNone

/-- Every state of the first `n` steps is safe. -/
def safeRun (n : Nat) (s : State) : Prop :=
  match n with
  | 0 => s.safe = true
  | k + 1 => s.safe = true ∧ (match step s with
    | .next t => safeRun k t
    | _ => False)

end Sys2Proof.Machine
end

