-- ==== Sys2Proof/Tests/Slice0.lean ====
section
/-! SUPPORT. Tests of single steps, of decoding and of well-formedness, and for every statement states and operands that
meet its hypotheses. Expected values come from the manual's tables and from calculation by hand. -/

namespace Sys2Proof.Tests

open Sys2Proof Sys2Proof.Machine

set_option maxRecDepth 100000
set_option Elab.async false

/-! ### Small states -/

/-- A CP of n threads in a clause of six words at word address 0x4001, with the given scalar registers. -/
def cpOf (n : Nat) (regs : KMap DWord) : Cp :=
  { Cp.start n 0x4001 0 with clause := some ⟨0x4000, 0x4007, 0, 1⟩, s := regs }

/-- A pool of n threads with one page of scratchpad and one CP, and the given thread registers. -/
def poolOf (n : Nat) (sregs : KMap DWord) (regs : KMap Word) : Pool :=
  let p := Pool.single 0x4001 6
  ({ p with threads := n, cps := [(0, cpOf n sregs)], regs := regs } : Pool).checkpoint

/-- A running package that holds this pool as number 0, mapped one to one in its first GiB. -/
def stateOf (p : Pool) : State :=
  { State.reset.placeWords [] with pools := [(0, p)] }

/-- The context of an instruction of CP 0 of pool 0. -/
def ctxAt (s : State) (i : Instr) : Ctx :=
  match s.ctxOf 0 0 with
  | some c => { c with pfx := i.pfx }
  | none => ⟨0, 0, Pool.single 0 0, Cp.start 0 0 0, none⟩

/-- `Issues` as a computation. -/
def issuesB (i : Instr) (s : State) : Bool :=
  let c := ctxAt s i
  s.focus = (c.pid, c.cid) && s.pool? c.pid = some c.pool && c.pool.cp? c.cid = some c.cp && c.pfx = i.pfx &&
  s.canIssue c.pid c.cid && c.cp.clause.isSome && (!c.cp.holding || decide (s.now - c.cp.holdSince ≤ 4096)) &&
  (c.cp.nopre.all fun t => decide (s.now - t ≤ 65536)) && i.wellFormed &&
  (shapeOf i).legal c && ((shapeOf i).runs c).all (·.ok c.pool.allot) && c.interlock ((shapeOf i).runs c) (shapeOf i).sregs = none &&
  !c.engineInterlock ((shapeOf i).runs c) ((shapeOf i).mregs ++ c.pfxMask) &&
  (!(shapeOf i).broadcast || !c.heldByOther) && (!((shapeOf i).memory || (shapeOf i).memoryIf c) || c.acquiring.isNone)

theorem issues_of {i : Instr} {s : State} (h : issuesB i s = true) : Issues i (ctxAt s i) s := by
  simp only [issuesB, Bool.and_eq_true, decide_eq_true_eq, Bool.or_eq_true, Bool.not_eq_true', Option.isNone_iff_eq_none] at h
  obtain ⟨⟨⟨⟨⟨⟨⟨⟨⟨⟨⟨⟨⟨⟨h1, h2⟩, h3⟩, h4⟩, h5⟩, h6⟩, h7⟩, h8⟩, h9⟩, hl⟩, ha⟩, hb⟩, hc⟩, hd⟩, he⟩ := h
  refine ⟨h1, h2, h3, h4, h5, h6, fun hh => ?_, fun t ht => ?_, h9, hl, ha, hb, hc, fun hh => ?_, fun hh => ?_⟩
  · simpa [hh] using h7
  · simpa [ht] using h8
  · simpa [hh] using hd
  · rcases he with he | he
    · rcases hh with hh | hh <;> simp [hh] at he
    · exact he

/-- The undo logs of a pool's cores have room for 60,000 bytes. -/
def roomB (c : Ctx) (s : State) : Bool :=
  c.pool.undoHeld = 0 && c.pool.cores.all fun k => decide (c.pool.undoOn k + 60000 + s.undoOthers c.pid k ≤ Config.journalBytes)

theorem room_of {c : Ctx} {s : State} (h : roomB c s = true) : ∀ n ≤ 60000, UndoRoom c s n := by
  intro n hn
  simp only [roomB, Bool.and_eq_true, decide_eq_true_eq, List.all_eq_true] at h
  exact .inr ⟨h.1, fun k hk => by have := h.2 k hk; omega⟩

/-- The instruction issues at a state whose undo log is empty, and P holds there. -/
theorem wit (i : Instr) (s : State) (P : Ctx → State → Prop)
    (h : issuesB i s = true ∧ roomB (ctxAt s i) s = true) (hp : P (ctxAt s i) s) :
    ∃ c s, Issues i c s ∧ (∀ n ≤ 60000, UndoRoom c s n) ∧ P c s :=
  ⟨_, s, issues_of h.1, room_of h.2, hp⟩

/-- The next state of an outcome that is one. -/
def nextOf (x : Host.Outcome State Fault Refusal) : Option State := match x with | .next t => some t | _ => none

theorem next_of {x : Host.Outcome State Fault Refusal} (h : (nextOf x).isSome = true) : ∃ t, x = .next t := by
  cases x with
  | next t => exact ⟨t, rfl⟩
  | _ => simp [nextOf] at h

/-- The word of a fetch and the state after it. -/
def wordOf? (x : Fetched) : Option (Word × State) := match x with | .word w t => some (w, t) | _ => none

theorem word_of {x : Fetched} {w : Word} {t : State} (h : wordOf? x = some (w, t)) : x = .word w t := by
  cases x <;> simp_all [wordOf?]

/-- Words fetched one after the other, and the state after them. -/
def fetchAll (s : State) (core asid placed : Nat) (pc : DWord) : Nat → Option (List Word × State)
  | 0 => some ([], s)
  | n + 1 => (wordOf? (s.fetchWord core asid placed pc)).bind fun (w, t) =>
      (fetchAll t core asid placed (pc + 1) n).map fun (ws, u) => (w :: ws, u)

theorem fetched_of {n : Nat} {s t : State} {core asid placed : Nat} {pc : DWord} {ws : List Word}
    (h : fetchAll s core asid placed pc n = some (ws, t)) : AllFetched s core asid placed pc ws t := by
  induction n generalizing s pc ws with
  | zero => simp only [fetchAll, Option.some.injEq, Prod.mk.injEq] at h; obtain ⟨rfl, rfl⟩ := h; rfl
  | succ n ih =>
      simp only [fetchAll, Option.bind_eq_some_iff, Option.map_eq_some_iff] at h
      obtain ⟨⟨w, u⟩, h1, ⟨r, v⟩, h2, h3⟩ := h
      simp only [Prod.mk.injEq] at h3
      obtain ⟨rfl, rfl⟩ := h3
      exact ⟨u, word_of h1, ih h2⟩

/-- The value of a check and the state after it. -/
def okOf {ε α : Type} (x : Except ε α × State) : Option (α × State) :=
  match x with | (.ok a, t) => some (a, t) | _ => none

theorem ok_of {ε α : Type} {x : Except ε α × State} {a : α} {t : State} (h : okOf x = some (a, t)) : x = (.ok a, t) := by
  obtain ⟨e | b, u⟩ := x <;> simp_all [okOf]

/-- The addresses of checks and the state after them. -/
def pasOf (x : Checked) : Option (List Nat × State) := match x with | .ok a t => some (a, t) | _ => none

theorem pas_of {x : Checked} {a : List Nat} {t : State} (h : pasOf x = some (a, t)) : x = .ok a t := by
  cases x <;> simp_all [pasOf]

def enteredOf (x : Enter) : Option State := match x with | .entered t => some t | _ => none

theorem entered_of {x : Enter} {t : State} (h : enteredOf x = some t) : x = .entered t := by
  cases x <;> simp_all [enteredOf]

/-- An option that is something is something in particular, of which what is decided holds. -/
theorem some_of {α : Type} {x : Option α} (P : α → Prop) [DecidablePred P]
    (h : (x.any fun a => decide (P a)) = true) : ∃ a, x = some a ∧ P a := by
  cases x <;> simp_all

theorem limits_of {c : Ctx} {s : State} (h : c.cp.holdLeft = 0 ∧ c.cp.nopre = none) : InLimits c s :=
  ⟨fun hh => absurd h.1 hh, fun t ht => by rw [h.2] at ht; cases ht⟩

/-! ### Witnesses: reset, steps and decoding -/

/-- A package about to issue a NOP, fetched from memory. -/
def sNop : State := State.reset.withFetchWord 32 0x01000000

theorem reset_inv : Inv State.reset :=
  ⟨by decide +kernel, by decide +kernel, by decide +kernel, by decide +kernel, by decide +kernel, by decide +kernel,
    by decide +kernel⟩

theorem nop_inv : Inv sNop :=
  ⟨by decide +kernel, by decide +kernel, by decide +kernel, by decide +kernel, by decide +kernel, by decide +kernel,
    by decide +kernel⟩

theorem test_witness_step_keeps_invariant : ∃ s t, Inv s ∧ step s = .next t :=
  have ⟨t, h⟩ := next_of (x := step sNop) (by decide +kernel)
  ⟨sNop, t, nop_inv, h⟩

theorem test_witness_memory : (∃ m, Memory.wf m = true ∧ m ≠ [] ∧ Memory.read m 5 = 7) ∧
    ∃ e : Entry, e.kind = .store [1, 2] ∧ e.core = 3 ∧ e.pa = 64 :=
  ⟨⟨[(5, 7)], by decide +kernel⟩, ⟨⟨0, 0, 3, 0, 64, 64, .store [1, 2], false, none, false, false, false⟩, rfl, rfl, rfl⟩⟩

theorem test_witness_decode_encode : ∃ i ws, WellFormed i ∧ encode i = some ws ∧ decode ws = .ok (i, []) ∧ ws.length = 6 :=
  ⟨.rcdef (some ⟨0, 0, 0, 0, 0⟩) 4 0xA ⟨1, 2, 3, 4⟩, _, by decide +kernel, rfl, by decide +kernel, by decide +kernel⟩

theorem test_witness_step_runs_decoded :
    (∃ (s : State) (x : Ctx) (cl : Clause) (ws : List Word) (t : State), s.agenda = [] ∧ s.eventTurn = false ∧
      s.nextCp = some (0, 0) ∧ ({ s with focus := (0, 0), eventTurn := true } : State).ctxOf 0 0 = some x ∧
      x.cp.clause = some cl ∧
      AllFetched { s with focus := (0, 0), eventTurn := true } x.core x.asid x.pool.placed x.cp.pc ws t ∧
      decode ws = .ok (.nop none, []) ∧ ws.length ≤ (cl.stop - x.cp.pc).toNat) ∧
    (∃ (s : State) (x : Ctx), s.agenda = [] ∧ s.eventTurn = false ∧ s.nextCp = some (0, 0) ∧
      s.ctxOf 0 0 = some x ∧ x.cp.clause = none) := by
  refine ⟨?_, ?_⟩
  · obtain ⟨x, hx, h1, h2, h0, h3, h4⟩ := some_of (x := ({ sNop with focus := (0, 0), eventTurn := true } : State).ctxOf 0 0)
      (fun x => x.core = 0 ∧ x.asid = 0 ∧ x.pool.placed = 0 ∧ x.cp.pc = 0x4001 ∧ x.cp.clause = some ⟨0x4000, 0x4007, 15, 15⟩)
      (by decide +kernel)
    obtain ⟨⟨ws, t⟩, h5, h6⟩ := some_of (x := fetchAll { sNop with focus := (0, 0), eventTurn := true } 0 0 0 0x4001 1)
      (fun r => r.1 = [0x01000000]) (by decide +kernel)
    subst h6
    refine ⟨sNop, x, _, [0x01000000], t, rfl, rfl, by decide +kernel, hx, h4, ?_, by decide +kernel, ?_⟩
    · rw [h1, h2, h0, h3]; exact fetched_of h5
    · rw [h3]; decide +kernel
  · let s : State := stateOf { poolOf 2 [] [] with cps := [(0, { cpOf 2 [] with clause := none, pc := 0x4000 })] }
    exact ⟨s, ⟨0, 0, _, _, none⟩, by decide +kernel, by decide +kernel, by decide +kernel, rfl, by decide +kernel⟩

theorem test_witness_fetch_word : ∃ (s s1 : State) (pc : DWord) (pa : Nat),
    s.translate 0 0 (4 * pc.toNat) .fetch = (.ok pa, s1) ∧ portSpace pa = false ∧ s1.droppedAt 0 (4 * pc.toNat) = none ∧
    pa % 4 = 0 ∧ s1.cachedCopy 0 (s1.keyFor 0) (pa / 64) = none ∧ s1.lineHeld (pa / 64) = false ∧ s1.keyMatches (some (s1.keyFor 0)) (pa / 64) = true := by
  obtain ⟨⟨pa, t⟩, h1, h2⟩ := some_of (x := okOf (sNop.translate 0 0 (4 * (0x4001 : DWord).toNat) .fetch))
    (fun r => portSpace r.1 = false ∧ r.2.droppedAt 0 (4 * (0x4001 : DWord).toNat) = none ∧ r.1 % 4 = 0 ∧
      r.2.cachedCopy 0 (r.2.keyFor 0) (r.1 / 64) = none ∧ r.2.lineHeld (r.1 / 64) = false ∧ r.2.keyMatches (some (r.2.keyFor 0)) (r.1 / 64) = true) (by decide +kernel)
  exact ⟨sNop, t, 0x4001, pa, ok_of h1, h2⟩

/-- CP 0 between clauses, at a word of code that is w. -/
def sClause (w : Nat) (ops : List Op) : State :=
  { State.reset.placeWords [] with
    mem := Memory.writeBytes (State.reset.placeWords []).mem 0x10000 (Word.bytes (BitVec.ofNat 32 w))
    pools := [(0, { poolOf 2 [] [] with
      cps := [(0, { cpOf 2 [] with clause := none, pc := 0x4000 })], ops := ops })] }

/-- An operation of CP 0 bound to a flag. -/
def opOf (kind : OpKind) (flag dest : Nat) (park : Option Park) : Op :=
  { (ctxAt (stateOf (poolOf 2 [] [])) (.nop none)).newOp kind with id := 9, flag := flag, dest := dest, park := park }

theorem test_witness_clauses_begin : ∀ w ∈ [0xF0000001, 0xF003FFFF, 0xF0000000, 0xF0003001, 0x01000000],
    ∃ (s s1 : State) (p : Pool) (x : Cp) (v : Word), s.canIssue 0 0 = true ∧ s.pool? 0 = some p ∧ p.cp? 0 = some x ∧
      x.clause = none ∧ s.fetchWord (p.cpCore 0) p.task.asid p.placed x.pc = .word v s1 ∧ v.toNat = w := by
  intro w hw
  have h : ∀ w ∈ [0xF0000001, 0xF003FFFF, 0xF0000000, 0xF0003001, 0x01000000],
      (wordOf? ((sClause w []).fetchWord 0 0 0 0x4000)).any (fun (r : Word × State) => decide (r.1.toNat = w)) = true := by decide +kernel
  obtain ⟨⟨v, t⟩, h1, h2⟩ := some_of (fun (r : Word × State) => r.1.toNat = w) (h w hw)
  exact ⟨sClause w [], t, _, _, v, rfl, rfl, rfl, rfl, word_of h1, h2⟩

/-! ### Well-formedness: a term that each check refuses, and its legal neighbour -/

/-- A prefix with mask m1 and nothing else; with a rounding mode; with a type; with a fourth operand. -/
def pMask : Prefix := ⟨1, 0, 0, 0, 0⟩
def pZero : Prefix := ⟨0, 1, 0, 0, 0⟩
def pRnd (r : BitVec 3) : Prefix := ⟨0, 0, r, 0, 0⟩
def pType (t : BitVec 4) : Prefix := ⟨0, 0, 0, t, 0⟩
def pX (x : Byte) : Prefix := ⟨0, 0, 0, 0, x⟩

/-- R92, R93, R95: prefix fields. -/
theorem test_illformed_prefixes : ∀ i ∈ [Instr.sadd (some pMask) 1 2 3, .vst (some pZero) 1 2 0 ⟨0, 0, 0, 0⟩,
    .rmin (some (pRnd 1)) 1 2, .br (some (pType 3)) 0, .vadd (some (pX 1)) 1 2 3, .vadd (some (pRnd 5)) 1 2 3,
    .srca (some pMask) 0 1 2, .vfma none 1 2 3, .vsel none 1 2 3,
    .vatomGlobal none 1 2 0 ⟨0, 7, 0, 0⟩, .vatomGlobal (some (pX 1)) 1 2 0 ⟨0, 0, 0, 0⟩], ¬WellFormed i := by decide

theorem test_wellformed_prefixes : ∀ i ∈ [Instr.sadd (some ⟨0, 0, 0, 0, 0⟩) 1 2 3, .vst (some pMask) 1 2 0 ⟨0, 0, 0, 0⟩,
    .rsum (some (pRnd 4)) 1 2, .vadd (some pZero) 1 2 3, .vfma (some (pX 255)) 1 2 3, .srca (some (pType 9)) 0 1 2,
    .vatomGlobal (some (pX 1)) 1 2 0 ⟨0, 7, 0, 0⟩], WellFormed i := by decide

/-- R88: scalar registers go up to s95; immediates and codes within their ranges. -/
theorem test_illformed_fields : ∀ i ∈ [Instr.sadd none 96 2 3, .sadd none 1 96 3, .sadd none 1 2 96, .brc none 96 0,
    .ret none 96, .smov none 96 0, .smov none 0 96, .sli none 96 0 0, .sld none 96 0 0, .getst none 1 12,
    .clrst none 4, .setm none 96, .getm none 96, .srch none 11 0 1, .srch none 8 0 95, .srca none 0 0 96,
    .maskop none 0 1 1 4, .maskop none 0 1 0 5, .rget none 96 0, .rput none 0 96, .hold none 0, .hold none 17,
    .waitc none 4 0, .waitc none 0 64, .watch none 2 0 0 1, .watch none 0 6 0 1, .ginit none 96 0, .garr none 0 96,
    .fence none 0 0, .fence none 1 7, .vcmp none 0 1 2 8, .vmovScalar none 0 96, .vcvt none 0 1 0 0, .vcvt none 0 1 1 3],
    ¬WellFormed i := by decide

theorem test_wellformed_fields : ∀ i ∈ [Instr.sadd none 95 95 95, .getst none 1 11, .clrst none 5, .clrst none 6,
    .srch none 8 0 94, .srch none 9 0 95, .maskop none 0 1 1 3, .maskop none 0 0 0 6, .hold none 1, .hold none 16,
    .waitc none 3 63, .watch none 1 5 95 95, .fence none 3 5, .vcmp none 0 1 2 7, .vcvt none 0 1 1 11], WellFormed i := by
  decide

/-- R99, R100, R257, and the entries: access words, engine and work instructions. -/
theorem test_illformed_accesses : ∀ i ∈ [Instr.vld none 1 96 0 ⟨0, 0, 0, 0⟩, .vld none 1 5 1 ⟨0, 0, 0, 0⟩,
    .vld none 1 5 0 ⟨0, 0, 2, 0⟩, .vld none 1 5 0 ⟨0, 1, 0, 0⟩, .vld none 1 5 0 ⟨0, 0, 0, 6⟩,
    .vst none 1 5 0 ⟨0, 0, 1, 0⟩, .pref none 1 5 0 ⟨0, 0, 0, 0⟩, .pref none 0 5 0 ⟨0, 0, 1, 0⟩,
    .vredGlobal none 1 5 0 ⟨0, 6, 0, 0⟩, .vredGlobal none 1 5 0 ⟨0, 0, 1, 0⟩, .vatomSpad none 1 2 3 ⟨0, 0, 0, 2⟩,
    .vredSpad none 1 2 1 ⟨0, 0, 0, 0⟩, .vlds none 1 2 0 1 0, .flush none 6, .inv none 96 0 0, .vshfl none 0 1 64 0,
    .vbcst none 0 1 96, .cpy none 1 2 3 0 ⟨1, 1, 0, 0⟩, .cpy none 1 2 0 0 ⟨1, 0x10000, 0, 0⟩,
    .cpy none 1 2 0 1 ⟨96, 1, 0, 0⟩, .gthr none 0 1 8, .gdesc none 8 0, .gdesc none 0 93, .mrg none 1 2 2 0 ⟨1, 4, 0, 0⟩,
    .mrg none 1 2 0 0 ⟨1, 0x84, 0, 0⟩, .mma none 2 0 0, .mmas none 0 0 2 0 ⟨0, 0, 0, 0⟩, .mmas none 0 0 0 0 ⟨0, 0, 0, 1⟩,
    .mdrn none 0 2, .mzero none 2, .launch none 96 0, .cpstop none 96, .rcdef none 96 0 ⟨0, 0, 0, 0⟩,
    .sysc none 0 0 9 1, .sysc none 0 1 0 1], ¬WellFormed i := by decide

/-! ### Decoding: words written out from the encoding tables, one family after the other -/

/-- Opcode, d, a, b, as R88 lays them out. -/
theorem test_decode_control_flow :
    decode [0b00000100000001011111111111111110] = .ok (.brc none 5 0xFFFE, []) ∧
    decode [0b00000111010111110000000000000011] = .ok (.loop none 95 3, []) ∧
    decode [0b00001001000000000000011100000000] = .ok (.ret none 7, []) ∧
    decode [0b00001010000000000000011000000000, 0xFFFFFFF0] = .ok (.bri none 6 0xFFFFFFF0, []) ∧
    decode [0b00000010000000000000000000000000] = .ok (.end_ none, []) := by decide

theorem test_decode_scalar :
    decode [0b00010011000000010000001000000011] = .ok (.smulh none 1 2 3, []) ∧
    decode [0b00011110000000010000001000000000] = .ok (.smov none 1 2, []) ∧
    decode [0b00011110000000010000001000000011] = .error .reservedBits ∧
    decode [0b00100010000001000000010100000110] = .ok (.sfns none 4 5 6, []) := by decide

theorem test_decode_status_and_mode :
    decode [0b00100110000000110000101100000000] = .ok (.getst none 3 11, []) ∧
    decode [0b00101001000000000000000000000000, 0x13] = .ok (.setmLiteral none 0x13, []) ∧
    decode [0b00101010000000000000100100000000] = .ok (.setf none 9, []) := by decide

/-- `srch.eq v2, s3 | mask=m1` and `scan.maxx v4, v5`, `maskop.first m2, m3`. -/
theorem test_decode_responders :
    decode [0xF4800000, 0b00110000000000000000001000000011] = .ok (.srch (some pMask) 0 2 3, []) ∧
    decode [0b01000110000001000000010100000110] = .ok (.scan none 4 5 1 2, []) ∧
    decode [0b00110110000000100000001100000000, 7] = .ok (.maskop none 2 3 0 7, []) ∧
    decode [0b01000011000010100000001000000000] = .ok (.argmx none 10 2, []) := by decide

theorem test_decode_thread :
    decode [0b01100011000000010000001000000011] = .ok (.vmulh none 1 2 3, []) ∧
    decode [0b01111000000000010000001000000011] = .ok (.vrot none 1 2 3, []) ∧
    decode [0xF4000280, 0b10000101000000010000001000000011] = .ok (.vbfx (some (pX 5)) 1 2 3, []) ∧
    decode [0b10010000000000010000001000000011, 6] = .ok (.vcmp none 1 2 3 6, []) ∧
    decode [0b10100001000000010000001000000000] = .ok (.vrsq none 1 2, []) := by decide

/-- The sample encodings of R193. -/
theorem test_decode_scratchpad_samples :
    decode [0x50000000] = .ok (.waitc none 0 0, []) ∧ decode [0x50010002] = .ok (.waitc none 1 2, []) ∧
    decode [0xB2030100] = .ok (.vlds none 3 1 0 0 0, []) ∧ decode [0xB3030100] = .ok (.vsts none 3 1 0 0, []) ∧
    decode [0xC0050401, 7, 1, 0, 0] = .ok (.cpy none 5 4 0 1 ⟨7, 1, 0, 0⟩, []) ∧
    decode [0xBC050400, 0x102] = .ok (.vshfl none 5 4 1 2, []) := by decide

/-- The sample encodings of R256. -/
theorem test_decode_global_samples :
    decode [0xB0030400, 0x0B] = .ok (.vld none 3 4 0 ⟨0, 0, 1, 3⟩, []) ∧
    decode [0xB1038402, 0x00100014] = .ok (.vst none 3 0x84 2 ⟨16, 0, 2, 4⟩, []) ∧
    decode [0xB7028601, 4] = .ok (.vredGlobal none 2 0x86 1 ⟨0, 0, 0, 4⟩, []) ∧
    decode [0xF4000280, 0xB6048601, 0xEC] = .ok (.vatomGlobal (some (pX 5)) 4 0x86 1 ⟨0, 7, 1, 4⟩, []) ∧
    decode [0xB9000004] = .ok (.flush none 4, []) ∧ decode [0xBA090803] = .ok (.inv none 9 8 3, []) := by decide

/-- The sample encodings of R220, R265 and R322. -/
theorem test_decode_engine_samples :
    decode [0xC5000820] = .ok (.mmaq none 0 8 32, []) ∧ decode [0xC7380000] = .ok (.mdrn none 56 0, []) ∧
    decode [0xC8010000] = .ok (.mzero none 1, []) ∧
    decode [0xC6081011, 0x14, 0x10, 0x80, 0] = .ok (.mmas none 8 16 1 1 ⟨0x14, 0x10, 0x80, 0⟩, []) ∧
    decode [0xC1030501] = .ok (.gthr none 3 5 1, []) := by decide

theorem test_decode_work_samples :
    decode [0xD00A0B00] = .ok (.launch none 10 11, []) ∧ decode [0xD1000400] = .ok (.spawn none 4, []) ∧
    decode [0xD2000000] = .ok (.succ none, []) ∧ decode [0xD3141500] = .ok (.cpstart none 20 21, []) ∧
    decode [0xD4000300] = .ok (.cpstop none 3, []) ∧
    decode [0xD50A0001, 12, 0x1000, 0, 0] = .ok (.rcdef none 10 1 ⟨12, 0x1000, 0, 0⟩, []) ∧
    decode [0xD6050600] = .ok (.rcret none 5 6, []) := by decide

theorem test_decode_system :
    decode [0b11100001000000000000000000000111] = .ok (.trap none 7, []) ∧
    decode [0b11100010000010100000000000000000] = .ok (.chke none 10, []) ∧
    decode [0b01010100000000000000000000000000] = .ok (.pre none, []) ∧
    decode [0xF8000000] = .error .unassigned ∧ decode [0xF4000001] = .error .prefixBits := by decide

/-! ### One step of single instructions; expected values by hand from the entries -/

/-- The state after an instruction of the CP of two threads with these scalar and thread registers. -/
def after (i : Instr) (sregs : KMap DWord) (regs : KMap Word) : Option State :=
  nextOf (exec i (stateOf (poolOf 2 sregs regs)))

/-- s_n after it; v_n of thread t after it; FSTAT, the trap cause, and the pc of its CP. -/
def sAfter (i : Instr) (sregs : KMap DWord) (regs : KMap Word) (n : Nat) : Option DWord :=
  (after i sregs regs).bind fun t => (t.cp? 0 0).map (·.sreg n)
def vAfter (i : Instr) (regs : KMap Word) (t n : Nat) : Option Word :=
  (after i [] regs).bind fun u => (u.pool? 0).map fun p => p.reg t n
def cpAfter (i : Instr) (sregs : KMap DWord) (regs : KMap Word) : Option Cp :=
  (after i sregs regs).bind fun t => t.cp? 0 0

theorem test_scalar_arithmetic :
    sAfter (.sadd none 1 2 3) [(2, -1), (3, 2)] [] 1 = some 1 ∧ sAfter (.ssub none 1 2 3) [(2, 1), (3, 2)] [] 1 = some (-1) ∧
    sAfter (.smulh none 1 2 3) [(2, -1), (3, 2)] [] 1 = some (-1) ∧
    sAfter (.sshl none 1 2 3) [(2, 1), (3, 65)] [] 1 = some 2 ∧ sAfter (.ssar none 1 2 3) [(2, -8), (3, 1)] [] 1 = some (-4) ∧
    sAfter (.sshr none 1 2 3) [(2, -1), (3, 63)] [] 1 = some 1 ∧ sAfter (.smin none 1 2 3) [(2, -1), (3, 1)] [] 1 = some (-1) ∧
    sAfter (.smax none 1 2 3) [(2, -1), (3, 1)] [] 1 = some 1 ∧ sAfter (.smul none 2 2 2) [(2, 3)] [] 2 = some 9 := by
  decide +kernel

/-- R138: for −1 and 1 the codes ne, lt, le and geu hold. -/
theorem test_scalar_compare_and_select :
    sAfter (.scmp none 1 2 3) [(2, -1), (3, 1)] [] 1 = some 0x8E ∧
    sAfter (.ssel none 1 2 3) [(1, 0), (2, 5), (3, 7)] [] 1 = some 7 ∧
    sAfter (.ssel none 1 2 3) [(1, 4), (2, 5), (3, 7)] [] 1 = some 5 := by decide +kernel

theorem test_scalar_bits :
    sAfter (.spopc none 1 2) [(2, 0xF1)] [] 1 = some 5 ∧ sAfter (.sclz none 1 2) [(2, 0)] [] 1 = some 64 ∧
    sAfter (.sfns none 1 2 3) [(2, 0xA), (3, 1)] [] 1 = some 3 ∧ sAfter (.sfns none 1 2 3) [(2, 0xA), (3, 2)] [] 1 = some (-1) ∧
    sAfter (.sbrev none 1 2) [(2, 1)] [] 1 = some 0x8000000000000000 ∧
    sAfter (.sli none 1 0x89ABCDEF 0x01234567) [] [] 1 = some 0x0123456789ABCDEF := by decide +kernel

/-- An instruction of one word goes on at the next; at the clause's end its CP is out of the clause. -/
theorem test_next_pc : (cpAfter (.nop none) [] []).map (fun x => (x.pc, x.clause.isSome)) = some (0x4002, true) ∧
    ((nextOf (exec (.sli none 1 0 0) (stateOf { poolOf 2 [] [] with cps := [(0, { cpOf 2 [] with pc := 0x4004 })] }))).bind
      fun t => (t.cp? 0 0).map fun x => (x.pc, x.clause)) = some (0x4007, none) := by decide +kernel

/-- R22, R145: LOOP falls through at 0; CALL leaves the byte address after it. -/
theorem test_loop_falls_through : (cpAfter (.loop none 1 0) [(1, 1)] []).map (fun x => (x.pc, x.sreg 1)) = some (0x4002, 0) := by
  decide +kernel

/-- R20, R88, R104: an illegal instruction traps at its own pc with cause 0x01 and changes nothing else. -/
theorem test_illegal_traps : (cpAfter (.sadd none 96 2 3) [(2, 1)] []).map (fun x => (x.status, x.pc, x.trap.map (·.cause))) =
    some (.trapped, 0x4001, some 0x01) := by decide +kernel

theorem test_integer_lanes :
    vAfter (.vadd none 1 2 3) [(2, 0xFFFFFFFF), (3, 2)] 0 1 = some 1 ∧
    vAfter (.vadd (some (pType 5)) 1 2 3) [(2, 0x00FF01FF), (3, 0x01010101)] 0 1 = some 0x01000200 ∧
    vAfter (.vmulh none 1 2 3) [(2, 0x80000000), (3, 2)] 0 1 = some 0xFFFFFFFF ∧
    vAfter (.vmin (some (pType 1)) 1 2 3) [(2, 0x80017F00), (3, 0x00010180)] 0 1 = some 0x80010180 ∧
    vAfter (.vsar none 1 2 3) [(2, 0x80000000), (3, 4)] 0 1 = some 0xF8000000 := by decide +kernel

/-- 1.5 + 2.25 = 3.75; 1 · 3 + (−1) = 2; −0 is not below +0 for a comparison. -/
theorem test_float_elements :
    vAfter (.vadd (some (pType 11)) 1 2 3) [(2, 0x3FC00000), (3, 0x40100000)] 0 1 = some 0x40700000 ∧
    vAfter (.vfma (some ⟨0, 0, 0, 11, 4⟩) 1 2 3) [(2, 0x3F800000), (3, 0x40400000), (4, 0xBF800000)] 0 1 = some 0x40000000 ∧
    vAfter (.vcmp (some (pType 11)) 1 2 3 2) [(2, 0x80000000), (3, 0)] 0 1 = some 0 ∧
    vAfter (.vmul (some (pType 10)) 1 2 3) [(2, 0x3F804000), (3, 0x40004040)] 0 1 = some 0x400040C0 := by decide +kernel

theorem test_bits_and_moves :
    vAfter (.vpopc none 1 2) [(2, 0xFF)] 0 1 = some 8 ∧ vAfter (.vclz none 1 2) [(2, 1)] 0 1 = some 31 ∧
    vAfter (.vctz none 1 2) [(2, 0)] 0 1 = some 32 ∧ vAfter (.vbrev none 1 2) [(2, 1)] 0 1 = some 0x80000000 ∧
    vAfter (.vmovi none 1 7) [] 1 1 = some 7 ∧ vAfter (.tid none 1) [] 1 1 = some 1 ∧
    vAfter (.vbfx (some (pX 4)) 1 2 3) [(2, 0xF0), (3, 4), (4, 4)] 0 1 = some 0xFFFFFFFF ∧
    vAfter (.vsel (some (pX 4)) 1 2 3) [(2, 0xFF00), (3, 0x00FF), (4, 0xF0F0)] 0 1 = some 0xF00F := by decide +kernel

/-- R131: −1 to FP32 is 0xBF800000; 2.5 to I32 under RNE is 2. -/
theorem test_conversions :
    vAfter (.vcvt (some (pType 11)) 1 2 0 3) [(2, 0xFFFFFFFF)] 0 1 = some 0xBF800000 ∧
    vAfter (.vcvt none 1 2 0 11) [(2, 0x40200000)] 0 1 = some 2 := by decide +kernel

/-- R19: under the zero form the non-responder's register is cleared. -/
theorem test_zero_form : vAfter (.tid (some ⟨2, 1, 0, 0, 0⟩) 1) [(1, 5), (257, 5)] 0 1 = some 0 := by decide +kernel

theorem test_search_and_reduce :
    (cpAfter (.srch none 0 2 3) [(3, 7)] [(2, 7), (258, 8)]).map (fun x => (x.stack.length, x.topLevel.mask)) = some (2, 1) ∧
    sAfter (.rsum none 1 2) [] [(2, 0xFFFFFFFF), (258, 3)] 1 = some 2 ∧
    sAfter (.rmin none 1 2) [] [(2, 0xFFFFFFFF), (258, 3)] 1 = some (-1) ∧
    sAfter (.argmx none 1 2) [] [(2, 5), (258, 9)] 1 = some 0x200000001 ∧
    sAfter (.rget none 1 2) [] [(2, 5), (258, 9)] 1 = some 5 ∧
    vAfter (.scan none 1 2 0 0) [(2, 5), (258, 9)] 1 1 = some 14 := by decide +kernel

/-- R37, R38: POPR at level 0 underflows; DROPF at level 0 is illegal. -/
theorem test_stack_traps : (cpAfter (.popr none) [] []).map (fun x => x.trap.map (·.cause)) = some (some 0x03) ∧
    (cpAfter (.dropf none) [] []).map (fun x => x.trap.map (·.cause)) = some (some 0x01) := by decide +kernel

theorem test_mode_and_holds :
    (cpAfter (.setmLiteral none 0x21) [] []).map (·.topLevel.mode) = some 0x21 ∧
    (cpAfter (.setmLiteral none 0x50) [] []).map (fun x => (x.topLevel.mode, x.trap.map (·.cause))) = some (0x13, some 0x01) ∧
    (cpAfter (.hold none 3) [] []).map (·.holdLeft) = some 3 ∧ sAfter (.getm none 1) [] [] 1 = some 0x13 := by decide +kernel

/-- R163: TRAP stops its CP past itself with its code in DETAIL. -/
theorem test_trap : (cpAfter (.trap none 7) [] []).map (fun x => (x.pc, x.trap.map fun r => (r.cause, r.detail))) =
    some (0x4002, some (0x20, 7)) := by decide +kernel

/-- R195, R199: VSTS writes little-endian bytes; a scratchpad VRED adds. -/
theorem test_scratchpad :
    ((after (.vsts none 2 1 0 0) [] [(1, 8), (2, 0x11223344), (257, 12)]).bind fun t => (t.pool? 0).map fun p =>
      (p.spadByte 8, p.spadByte 11)) = some (0x44, 0x11) ∧
    ((after (.vredSpad none 2 1 0 ⟨0, 0, 0, 0⟩) [] [(1, 8), (2, 3), (257, 8), (258, 4)]).bind fun t => (t.pool? 0).map fun p =>
      p.spadRead 8 4) = some 7 ∧
    (cpAfter (.vlds none 2 1 0 0 0) [] [(1, 2), (257, 0)]).map (fun x => x.trap.map fun r => (r.cause, r.tfirst)) =
      some (some (0x09, 0)) := by decide +kernel

/-- R211, R212: GINIT with an expected count of 2, and its traps for 0. -/
theorem test_gongs :
    ((after (.ginit none 1 2) [(1, 16), (2, 2)] []).bind fun t => (t.pool? 0).map fun p => p.spadRead 16 8) =
      some (2 * 2 ^ 45) ∧
    (cpAfter (.ginit none 1 2) [(1, 16)] []).map (fun x => x.trap.map fun r => (r.cause, r.detail)) = some (some (1, 3)) := by
  decide +kernel

/-- R326: CPSTART is CP 0's, and needs a free CP. -/
theorem test_cpstart_traps : (cpAfter (.cpstart none 1 2) [] []).map (fun x => x.trap.map fun r => (r.cause, r.detail)) =
    some (some (0x01, 0x30)) := by decide +kernel

/-- R357: a sample over the limit lowers the clock by 25 MHz. -/
theorem test_power_sample :
    (nextOf (exec (.powerSample 3300) { stateOf (poolOf 2 [] []) with time := micros 100 })).map (·.clockMHz) = some 1475 := by
  decide +kernel

/-! ### Witnesses: issue, scalar instructions and control flow -/

theorem test_witness_clause_waits : ∃ (s s1 : State) (p : Pool) (x : Cp) (v : Word), s.canIssue 0 0 = true ∧
    s.pool? 0 = some p ∧ p.cp? 0 = some x ∧ x.clause = none ∧ s.fetchWord (p.cpCore 0) p.task.asid p.placed x.pc = .word v s1 ∧
    v.toNat = 0xF0004001 ∧ ∃ o ∈ p.ops, o.cp = 0 ∧ o.kind ≠ .sysc ∧ o.flag = 0 ∧ o.park = none := by
  obtain ⟨⟨v, t⟩, h1, h2⟩ := some_of (x := wordOf? ((sClause 0xF0004001 [opOf .known 0 3 none]).fetchWord 0 0 0 0x4000))
    (fun r => r.1.toNat = 0xF0004001) (by decide +kernel)
  exact ⟨sClause 0xF0004001 [opOf .known 0 3 none], t, _, _, v, by decide +kernel, rfl, rfl, rfl, word_of h1, h2, by decide +kernel⟩

/-- The pool of two threads with its CP changed, and with these operations and commands. -/
def sCp (f : Cp → Cp) (ops : List Op) (cmds : List Cmd) : State :=
  stateOf { poolOf 2 [(1, 0), (2, 6), (3, 5)] [(2, 7), (258, 8)] with
    cps := [(0, f (cpOf 2 [(1, 0), (2, 6), (3, 5)]))], ops := ops, cmds := cmds }

theorem test_witness_issue_checks : ∀ s ∈ [sCp (fun x => { x with holdLeft := 1 }) [] [] |> fun s => { s with now := 4097 },
      sCp (fun x => { x with nopre := some 0 }) [] [] |> fun s => { s with now := 65537 },
      sCp id [opOf .known 0 1 none] [], sCp id [] []],
    ∃ c, AtIssue c s ∧ c.pfx = none := by
  intro s hs
  have h : ∀ s ∈ [sCp (fun x => { x with holdLeft := 1 }) [] [] |> fun s => { s with now := 4097 },
      sCp (fun x => { x with nopre := some 0 }) [] [] |> fun s => { s with now := 65537 },
      sCp id [opOf .known 0 1 none] [], sCp id [] []],
      let c := ctxAt s (.nop none)
      s.focus = (c.pid, c.cid) ∧ s.pool? c.pid = some c.pool ∧ c.pool.cp? c.cid = some c.cp ∧ s.canIssue c.pid c.cid = true ∧
        c.cp.clause.isSome = true ∧ c.pfx = none := by decide +kernel
  obtain ⟨h1, h2, h3, h4, h5, h6⟩ := h s hs
  exact ⟨_, ⟨h1, h2, h3, h4, h5⟩, h6⟩

theorem test_witness_interlocks :
    ((ctxAt (sCp id [opOf .known 0 1 none] []) (.nop none)).interlock [run32 1] []).isSome = true ∧
    (ctxAt (sCp id [opOf .known 0 1 none] []) (.nop none)).interlock [run32 2] [] = none ∧
    ¬WellFormed (.sadd none 96 0 0) ∧ (shapeOf (.vadd none 0 0 0)).broadcast = true := by decide +kernel

/-- A CP whose clause's words are these, in memory. -/
def sCode (ws : List Word) : State := State.reset.placeWords ws

theorem test_witness_illegal_instruction : ∃ (c : Ctx) (s : State) (cl : Clause) (pc : DWord), AtIssue c s ∧ InLimits c s ∧
    c.pfx = none ∧ c.cp.clause = some cl ∧ s.instrAt c.core c.asid c.pool.placed c.cp.pc cl.header cl.stop = .trap 0x01 pc := by
  have h : (match (sCode [0xFF000000]).instrAt 0 0 0 0x4001 0x4000 0x4002 with
    | .trap k p => decide (k = 0x01 ∧ p = 0x4001) | _ => false) = true := by decide +kernel
  refine ⟨ctxAt (sCode [0xFF000000]) (.nop none), sCode [0xFF000000], ⟨0x4000, 0x4002, 15, 15⟩, 0x4001,
    ⟨by decide +kernel, by decide +kernel, by decide +kernel, by decide +kernel, by decide +kernel⟩,
    limits_of (by decide +kernel), by decide +kernel, by decide +kernel, ?_⟩
  have e : (ctxAt (sCode [0xFF000000]) (.nop none)).core = 0 ∧ (ctxAt (sCode [0xFF000000]) (.nop none)).asid = 0 ∧
    (ctxAt (sCode [0xFF000000]) (.nop none)).cp.pc = 0x4001 := by decide +kernel
  rw [e.1, e.2.1, e.2.2]
  split at h
  · next k p hp => obtain ⟨rfl, rfl⟩ := of_decide_eq_true h; exact hp
  · cases h

theorem test_witness_scalar_results : ∃ c s, Issues (.sadd none 1 2 3) c s ∧ (∀ n ≤ 60000, UndoRoom c s n) ∧
    scalarResult (.sadd none 1 2 3) c = some (1, 11) := wit _ (sCp id [] []) _ (by decide +kernel) (by decide +kernel)

theorem test_witness_status : (∃ c s, Issues (.getst none 1 11) c s ∧ (∀ n ≤ 60000, UndoRoom c s n) ∧
      (c.pool.rslice = false ∧ (statusValues c s)[11]? = some 0)) ∧
    (∃ c s, Issues (.getst none 1 0) c s ∧ (∀ n ≤ 60000, UndoRoom c s n) ∧ (c.pool.rslice = false ∧ (statusValues c s)[0]? = some 2)) ∧
    (∃ c s, Issues (.clrst none 6) c s ∧ (∀ n ≤ 60000, UndoRoom c s n) ∧ True) :=
  ⟨wit _ (sCp id [] []) _ (by decide +kernel) (by decide +kernel), wit _ (sCp id [] []) _ (by decide +kernel) (by decide +kernel),
    wit _ (sCp id [] []) _ (by decide +kernel) trivial⟩

theorem test_witness_slice_status : ∃ c s, Issues (.getst none 1 4) c s ∧ (∀ n ≤ 60000, UndoRoom c s n) ∧ c.pool.rslice = true :=
  wit _ (stateOf { poolOf 2 [] [] with rslice := true }) _ (by decide +kernel) (by decide +kernel)

theorem test_witness_mode : (∃ c s, Issues (.setmLiteral none 0xCF) c s ∧ (∀ n ≤ 60000, UndoRoom c s n) ∧
      (formatValue (.setmLiteral none 0xCF) c = some (true, 0xCF) ∧ ModeLegal 0xCF ∧ c.cp.stack = [c.cp.topLevel])) ∧
    (∃ c s, Issues (.setmLiteral none 0x53) c s ∧ (∀ n ≤ 60000, UndoRoom c s n) ∧
      (formatValue (.setmLiteral none 0x53) c = some (true, 0x53) ∧ ¬ModeLegal 0x53)) ∧
    (∃ c s, Issues (.setfLiteral none 0x12CD) c s ∧ (∀ n ≤ 60000, UndoRoom c s n) ∧
      (formatValue (.setfLiteral none 0x12CD) c = some (false, 0x12CD) ∧ FmtLegal 0x12CD)) ∧
    (∃ c s, Issues (.setfLiteral none 0x4FE) c s ∧ (∀ n ≤ 60000, UndoRoom c s n) ∧
      (formatValue (.setfLiteral none 0x4FE) c = some (false, 0x4FE) ∧ ¬FmtLegal 0x4FE)) :=
  ⟨wit _ (sCp id [] []) _ (by decide +kernel) (by unfold ModeLegal; decide +kernel),
    wit _ (sCp id [] []) _ (by decide +kernel) (by unfold ModeLegal; decide +kernel),
    wit _ (sCp id [] []) _ (by decide +kernel) (by unfold FmtLegal; decide +kernel),
    wit _ (sCp id [] []) _ (by decide +kernel) (by unfold FmtLegal; decide +kernel)⟩

theorem test_witness_chke : (∃ c s, Issues (.chke none 1) c s ∧ (∀ n ≤ 60000, UndoRoom c s n) ∧
      ∃ o ∈ c.pool.ops, o.cp = c.cid ∧ o.kind ≠ .sysc ∧ o.park = none) ∧
    (∃ c s, Issues (.chke none 1) c s ∧ (∀ n ≤ 60000, UndoRoom c s n) ∧ ((∃ o ∈ c.pool.ops, o.cp = c.cid ∧ o.kind ≠ .sysc) ∧
      ∀ o ∈ c.pool.ops, o.cp = c.cid → o.park ≠ none)) ∧
    (∃ c s, Issues (.chke none 1) c s ∧ (∀ n ≤ 60000, UndoRoom c s n) ∧ (c.pool.ops = [] ∧ c.cp.cki.getLsbD 31 = true)) ∧
    (∃ c s, Issues (.chke none 1) c s ∧ (∀ n ≤ 60000, UndoRoom c s n) ∧ (c.pool.ops = [] ∧ c.cp.cki.getLsbD 31 = false)) :=
  ⟨wit _ (sCp id [opOf .known 0 9 none] []) _ (by decide +kernel) (by decide +kernel),
    wit _ (sCp id [opOf .load 0 9 (some (.page 0 3))] []) _ (by decide +kernel) (by decide +kernel),
    wit _ (sCp (fun x => { x with cki := 0x80000000 }) [] []) _ (by decide +kernel) (by decide +kernel),
    wit _ (sCp id [] []) _ (by decide +kernel) (by decide +kernel)⟩

/-- A branch back to the clause header at 0x4000, one to the word after it, and one that falls through. -/
theorem test_witness_branches :
    (∃ c s, Issues (.br none 0xFFFF) c s ∧ (∀ n ≤ 60000, UndoRoom c s n) ∧ (∃ y, branchOf (.br none 0xFFFF) c = some (true, 0x4000, y))) ∧
    (∃ c s, Issues (.brc none 2 0) c s ∧ (∀ n ≤ 60000, UndoRoom c s n) ∧ (∃ y, branchOf (.brc none 2 0) c = some (true, 0x4001, y))) ∧
    (∃ c s, Issues (.brc none 1 0) c s ∧ (∀ n ≤ 60000, UndoRoom c s n) ∧ (∃ y, branchOf (.brc none 1 0) c = some (false, 0x4001, y))) ∧
    (∃ c s, Issues (.ret none 3) c s ∧ (∀ n ≤ 60000, UndoRoom c s n) ∧ ((c.s 3).toNat < 2 ^ 56 ∧ (c.s 3).toNat % 4 ≠ 0)) ∧
    (∃ c s, Issues (.ret none 4) c s ∧ (∀ n ≤ 60000, UndoRoom c s n) ∧ 2 ^ 56 ≤ (c.s 4).toNat) :=
  ⟨wit _ (sCp id [] []) _ (by decide +kernel) ⟨_, rfl⟩, wit _ (sCp id [] []) _ (by decide +kernel) ⟨_, rfl⟩,
    wit _ (sCp id [] []) _ (by decide +kernel) ⟨_, rfl⟩, wit _ (sCp id [] []) _ (by decide +kernel) (by decide +kernel),
    wit _ (stateOf (poolOf 2 [(4, 0x100000000000000)] [])) _ (by decide +kernel) (by decide +kernel)⟩

/-- A table of two targets after the clause, its second back at the clause header. -/
def sTable : State :=
  let s := sCode [0, 0, 0, 0, 0, 0, 2, 5, 0xFFFFFFF9]
  { s with pools := [(0, { poolOf 2 [(3, 1), (4, 2)] [] with parts := [0] })] }

theorem test_witness_indirect_branch : ∃ (c : Ctx) (s s1 s2 s3 : State) (n dist w : Word),
    Issues (.bri none 3 6) c s ∧ s.fetchWord c.core c.asid c.pool.placed 0x4007 = .word n s1 ∧ (c.s 3).toNat < n.toNat ∧
    n.toNat ≤ (c.s 4).toNat ∧ s1.fetchWord c.core c.asid c.pool.placed 0x4009 = .word dist s2 ∧
    s2.fetchWord c.core c.asid c.pool.placed (0x4007 + dist.signExtend 64) = .word w s3 ∧ w.toNat / 2 ^ 26 = 0x3C := by
  have e : (ctxAt sTable (.bri none 3 6)).core = 0 ∧ (ctxAt sTable (.bri none 3 6)).asid = 0 ∧
    (ctxAt sTable (.bri none 3 6)).s 3 = 1 ∧ (ctxAt sTable (.bri none 3 6)).s 4 = 2 := by decide +kernel
  obtain ⟨⟨n, s1⟩, h1, h2⟩ := some_of (x := wordOf? (sTable.fetchWord 0 0 0 0x4007)) (fun r => r.1 = 2 ∧
    (wordOf? (r.2.fetchWord 0 0 0 0x4009)).any (fun q => decide (q.1 = 0xFFFFFFF9 ∧
      (wordOf? (q.2.fetchWord 0 0 0 0x4000)).any (fun z => decide (z.1.toNat / 2 ^ 26 = 0x3C)) = true)) = true) (by decide +kernel)
  obtain ⟨⟨d, s2⟩, h3, h4⟩ := some_of _ h2.2
  obtain ⟨⟨w, s3⟩, h5, h6⟩ := some_of _ h4.2
  obtain ⟨rfl, -⟩ := h2
  obtain ⟨rfl, -⟩ := h4
  refine ⟨ctxAt sTable (.bri none 3 6), sTable, s1, s2, s3, 2, 0xFFFFFFF9, w, issues_of (by decide +kernel), ?_, ?_, ?_, ?_, ?_, h6⟩
  · rw [e.1, e.2.1]; exact word_of h1
  · rw [e.2.2.1]; decide
  · rw [e.2.2.2]; decide
  · rw [e.1, e.2.1]; exact word_of h3
  · rw [e.1, e.2.1]; exact word_of h5

theorem test_witness_holds : (∃ c s, Issues (.hold none 16) c s ∧ (∀ n ≤ 60000, UndoRoom c s n) ∧ c.cp.holdLeft = 0) ∧
    (∃ c s, Issues (.hold none 1) c s ∧ (∀ n ≤ 60000, UndoRoom c s n) ∧ c.cp.holdLeft = 1) ∧
    (∃ c s, Issues (.nopre none) c s ∧ (∀ n ≤ 60000, UndoRoom c s n) ∧ c.cp.nopre = none) ∧
    (∃ c s, Issues (.nopre none) c s ∧ (∀ n ≤ 60000, UndoRoom c s n) ∧ c.cp.nopre = some 0) :=
  ⟨wit _ (sCp id [] []) _ (by decide +kernel) (by decide +kernel),
    wit _ (sCp (fun x => { x with holdLeft := 1 }) [] []) _ (by decide +kernel) (by decide +kernel),
    wit _ (sCp id [] []) _ (by decide +kernel) (by decide +kernel),
    wit _ (sCp (fun x => { x with nopre := some 0 }) [] []) _ (by decide +kernel) (by decide +kernel)⟩

/-! ### Witnesses: the responder stack and thread instructions -/

/-- n levels on the stack, the lowest of both threads. -/
def levels (n : Nat) (x : Cp) : Cp := { x with stack := List.replicate (n - 1) ⟨1, 0x13, 0xAA⟩ ++ [⟨3, 0x13, 0xAA⟩] }

theorem test_witness_pushes : (∃ c s, Issues (.srch none 0 2 3) c s ∧ (∀ n ≤ 60000, UndoRoom c s n) ∧
      (searchOf (.srch none 0 2 3) c = some (3, 0, 2, 3) ∧ c.cp.stack.length ≤ 15)) ∧
    (∃ c s, Issues (.pushm none 0) c s ∧ (∀ n ≤ 60000, UndoRoom c s n) ∧ c.cp.stack.length = 15) ∧
    (∃ c s, Issues (.pushm none 0) c s ∧ (∀ n ≤ 60000, UndoRoom c s n) ∧ c.cp.stack.length = 16) ∧
    (∃ c s, Issues (.popr none) c s ∧ (∀ n ≤ 60000, UndoRoom c s n) ∧ c.cp.stack.length = 1) ∧
    (∃ c s, Issues (.srcx none) c s ∧ (∀ n ≤ 60000, UndoRoom c s n) ∧ (∃ k j, c.cp.stack = [k, j])) ∧
    (∃ c s, Issues (.maskop none 1 0 0 7) c s ∧ (∀ n ≤ 60000, UndoRoom c s n) ∧ True) :=
  ⟨wit _ (sCp id [] []) _ (by decide +kernel) (by decide +kernel),
    wit _ (sCp (levels 15) [] []) _ (by decide +kernel) (by decide +kernel),
    wit _ (sCp (levels 16) [] []) _ (by decide +kernel) (by decide +kernel),
    wit _ (sCp id [] []) _ (by decide +kernel) (by decide +kernel),
    wit _ (sCp (levels 2) [] []) _ (by decide +kernel) ⟨_, _, rfl⟩,
    wit _ (sCp id [] []) _ (by decide +kernel) trivial⟩

theorem test_witness_one_responder : (∃ c s, Issues (.rget none 1 2) c s ∧ (∀ n ≤ 60000, UndoRoom c s n) ∧ c.tids = [0, 1]) ∧
    (∃ c s, Issues (.rput (some ⟨1, 1, 0, 0, 0⟩) 2 3) c s ∧ (∀ n ≤ 60000, UndoRoom c s n) ∧ (c.tids = [] ∧ c.zeroForm = true)) :=
  ⟨wit _ (sCp id [] []) _ (by decide +kernel) (by decide +kernel),
    wit _ (sCp id [] []) _ (by decide +kernel) (by decide +kernel)⟩

theorem test_witness_reductions : ∃ c s, Issues (.rsum none 1 2) c s ∧ (∀ n ≤ 60000, UndoRoom c s n) ∧
    reduceResult (.rsum none 1 2) c = some (1, 15, 0) := wit _ (sCp id [] []) _ (by decide +kernel) (by decide +kernel)

theorem test_witness_logic : (∃ c s, Issues (.vandn (some ⟨0, 1, 0, 4, 0⟩) 4 2 6) c s ∧ (∀ n ≤ 60000, UndoRoom c s n) ∧ c.wide = true) ∧
    (∃ c s, AtIssue c s ∧ c.pfx = none ∧ InLimits c s) :=
  ⟨wit _ (sCp id [] []) _ (by decide +kernel) (by decide +kernel), ctxAt (sCp id [] []) (.nop none), sCp id [] [],
    ⟨by decide +kernel, by decide +kernel, by decide +kernel, by decide +kernel, by decide +kernel⟩, by decide +kernel,
    limits_of (by decide +kernel)⟩

theorem test_witness_thread_results : (∃ c s, Issues (.vadd none 4 2 3) c s ∧ (∀ n ≤ 60000, UndoRoom c s n) ∧
      ∃ r, threadResult (.vadd none 4 2 3) c = some r) ∧
    (∃ c s, Issues (.vadd (some (pType 12)) 4 2 3) c s ∧ (∀ n ≤ 60000, UndoRoom c s n) ∧
      ∃ l, typeClass (.vadd (some (pType 12)) 4 2 3) = some l ∧ c.tyCode ∉ l) :=
  ⟨wit _ (sCp id [] []) _ (by decide +kernel) ⟨_, rfl⟩, wit _ (sCp id [] []) _ (by decide +kernel) ⟨_, rfl, by decide +kernel⟩⟩

/-! ### Witnesses: scratchpad and global memory -/

/-- Two threads with offsets 8 and 12 in v1, and 6 and −1 in v2; s4 to s6 hold offsets. -/
def sSpad : State := stateOf (poolOf 2 [(2, 8), (3, 1), (4, 16376), (5, 16384), (6, 12)]
  [(1, 8), (2, 6), (3, 5), (4, 1), (257, 12), (258, 0xFFFFFFFF), (259, 9)])

theorem test_witness_offset_traps :
    (∃ c s, Issues (.vlds none 3 2 0 0 0) c s ∧ (∀ n ≤ 60000, UndoRoom c s n) ∧ ∃ l z b e r, spadAccess (.vlds none 3 2 0 0 0) c = some (l, z, b) ∧
      (l.filter fun e => e.2 % (z : Int) ≠ 0) = e :: r) ∧
    (∃ c s, Issues (.sst none 3 5 1) c s ∧ (∀ n ≤ 60000, UndoRoom c s n) ∧ ∃ l z b e r, spadAccess (.sst none 3 5 1) c = some (l, z, b) ∧
      (∀ x ∈ l, x.2 % (z : Int) = 0) ∧ (l.filter fun e => e.2 < 0 ∨ (c.pool.spadSize : Int) < e.2 + z) = e :: r) ∧
    (∃ c s, Issues (.vldw none 3 2 0 0) c s ∧ (∀ n ≤ 60000, UndoRoom c s n) ∧ ∃ t r,
      (c.tids.filter fun t => (c.pool.reg t 2).toNat % 4 ≠ 0) = t :: r) ∧
    (∃ c s, Issues (.vldw none 3 1 0 1) c s ∧ (∀ n ≤ 60000, UndoRoom c s n) ∧ (c.tids.filter fun t =>
      c.pool.allot ≤ (windowAt true t (c.pool.reg t 1).toNat).2 ∨ c.pool.threads ≤ (windowAt true t (c.pool.reg t 1).toNat).1) = []) ∧
    (∃ c s, Issues (.vshfl none 3 1 63 0) c s ∧ (∀ n ≤ 60000, UndoRoom c s n) ∧ c.pool.group ≤ 63) ∧
    (∃ c s, Issues (.vbcst none 3 1 2) c s ∧ (∀ n ≤ 60000, UndoRoom c s n) ∧ c.pool.threads ≤ (c.s 2).toNat % 2 ^ 32) :=
  ⟨wit _ sSpad _ (by decide +kernel) ⟨[(0, 6), (1, 4294967295)], 4, true, (0, 6), [(1, 4294967295)], by decide +kernel, by decide +kernel⟩,
    wit _ sSpad _ (by decide +kernel) ⟨[(0, 16384)], 8, false, (0, 16384), [], by decide +kernel, by decide +kernel, by decide +kernel⟩,
    wit _ sSpad _ (by decide +kernel) ⟨0, [1], by decide +kernel⟩, wit _ sSpad _ (by decide +kernel) (by decide +kernel),
    wit _ sSpad _ (by decide +kernel) (by decide +kernel), wit _ sSpad _ (by decide +kernel) (by decide +kernel)⟩

theorem test_witness_window_beyond : ∃ c s, Issues (.vldw none 3 1 0 0) c s ∧ (∀ n ≤ 60000, UndoRoom c s n) ∧ ∃ t r,
    (c.tids.filter fun t => c.pool.allot ≤ (windowAt false t (c.pool.reg t 1).toNat).2 ∨
      c.pool.threads ≤ (windowAt false t (c.pool.reg t 1).toNat).1) = t :: r :=
  wit _ (stateOf (poolOf 2 [] [(257, 1024)])) _ (by decide +kernel) ⟨1, [], by decide +kernel⟩

theorem test_witness_results_known : (∃ c s, Issues (.vlds none 3 1 0 0 0) c s ∧ (∀ n ≤ 60000, UndoRoom c s n) ∧
      ∃ l z b, spadAccess (.vlds none 3 1 0 0 0) c = some (l, z, b) ∧ Fits c l z ∧ (s.met c l z).pool? c.pid = some c.pool ∧
        (knownValues (.vlds none 3 1 0 0 0) c c.pool).isSome = true) ∧
    (∃ c s, Issues (.vldw none 3 1 0 0) c s ∧ (∀ n ≤ 60000, UndoRoom c s n) ∧ (WindowFits c 1 false false ∧
      (knownValues (.vldw none 3 1 0 0) c c.pool).isSome = true)) ∧
    (∃ c s, Issues (.vbcst none 3 1 3) c s ∧ (∀ n ≤ 60000, UndoRoom c s n) ∧ (knownValues (.vbcst none 3 1 3) c c.pool).isSome = true) :=
  ⟨wit _ sSpad _ (by decide +kernel) ⟨[(0, 8), (1, 12)], 4, true, by decide +kernel, by unfold Fits; decide +kernel,
      by decide +kernel, by decide +kernel⟩,
    wit _ sSpad _ (by decide +kernel) ⟨by unfold WindowFits; decide +kernel, by decide +kernel⟩,
    wit _ sSpad _ (by decide +kernel) (by decide +kernel)⟩

theorem test_witness_spad_stores :
    (∃ c s, Issues (.sst none 3 4 1) c s ∧ (∀ n ≤ 60000, UndoRoom c s n) ∧ ∃ w, Fits c [(0, 16376)] 8 ∧
      spadAccess (.sst none 3 4 1) c = some ([(0, 16376)], 8, false) ∧ spadBytes (.sst none 3 4 1) c = some w ∧
      (s.met c [(0, 16376)] 8).pool? c.pid = some c.pool) ∧
    (∃ c s, Issues (.vsts none 3 1 0 0) c s ∧ (∀ n ≤ 60000, UndoRoom c s n) ∧ ∃ w, Fits c [(0, 8), (1, 12)] 4 ∧
      spadAccess (.vsts none 3 1 0 0) c = some ([(0, 8), (1, 12)], 4, true) ∧ spadBytes (.vsts none 3 1 0 0) c = some w ∧
      (s.met c [(0, 8), (1, 12)] 4).pool? c.pid = some c.pool) ∧
    (∃ c s, Issues (.vatomSpad none 3 1 4 ⟨0, 0, 3, 0⟩) c s ∧ (∀ n ≤ 60000, UndoRoom c s n) ∧ (Fits c [(0, 8), (1, 12)] 4 ∧
      spadAccess (.vatomSpad none 3 1 4 ⟨0, 0, 3, 0⟩) c = some ([(0, 8), (1, 12)], 4, true) ∧ c.earlier = none ∧
      (s.met c [(0, 8), (1, 12)] 4).pool? c.pid = some c.pool)) ∧
    (∃ c s, Issues (.vredSpad none 3 1 0 ⟨0, 0, 0, 0⟩) c s ∧ (∀ n ≤ 60000, UndoRoom c s n) ∧
      spadAccess (.vredSpad none 3 1 0 ⟨0, 0, 0, 0⟩) c = some ([(0, 8), (1, 12)], 4, true)) ∧
    (∃ c s, Issues (.sld none 3 4 1) c s ∧ (∀ n ≤ 60000, UndoRoom c s n) ∧ (Fits c [(0, ((c.s 4).toNat : Int))] 8 ∧
      (s.met c [(0, ((c.s 4).toNat : Int))] 8).pool? c.pid = some c.pool)) ∧
    (∃ c s, Issues (.vstw none 3 1 0 0) c s ∧ (∀ n ≤ 60000, UndoRoom c s n) ∧ WindowFits c 1 false false) :=
  ⟨wit _ sSpad _ (by decide +kernel) ⟨_, by unfold Fits; decide +kernel, by decide +kernel, rfl, by decide +kernel⟩,
    wit _ sSpad _ (by decide +kernel) ⟨_, by unfold Fits; decide +kernel, by decide +kernel, rfl, by decide +kernel⟩,
    wit _ sSpad _ (by decide +kernel) ⟨by unfold Fits; decide +kernel, by decide +kernel, by decide +kernel, by decide +kernel⟩,
    wit _ sSpad _ (by decide +kernel) (by decide +kernel),
    wit _ sSpad _ (by decide +kernel) ⟨by unfold Fits; decide +kernel, by decide +kernel⟩,
    wit _ sSpad _ (by decide +kernel) (by unfold WindowFits; decide +kernel)⟩

/-- Two threads with addresses 0x8000 and 0x8004 from s2 and v1; s3 is misaligned, s4 at 2^56, s5 not mapped. -/
def sMem : State := stateOf (poolOf 2 [(2, 0x8000), (3, 0x8002), (4, 0x100000000000000), (5, 0x40000000), (6, 64)]
  [(257, 4), (2, 5), (258, 6)])

/-- A global access at s2 + v1, plain or with an ordering and scope. -/
def w0 (ord : BitVec 2) (scope : BitVec 3) : Access := ⟨0, 0, ord, scope⟩

theorem test_witness_access_order :
    (∃ e r, (([(0, 0x8002), (1, 4)] : List (Nat × Int)).filter fun e => e.2 % ((4 : Nat) : Int) ≠ 0) = e :: r) ∧
    (∃ e r, (([(0, 4), (1, 2 ^ 56)] : List (Nat × Int)).filter fun e => e.2 < 0 ∨ 2 ^ 56 ≤ e.2) = e :: r) ∧
    (∃ (c : Ctx) (s t : State) (pa : Nat), c.checkOne s 0x8000 8 .load = (.ok pa, t)) ∧
    (∃ (c : Ctx) (s t : State) (pa : Nat), c.checkOne s 0x8000 8 .store = (.ok pa, t)) := by
  refine ⟨⟨_, _, rfl⟩, ⟨_, _, rfl⟩, ?_, ?_⟩
  · obtain ⟨⟨a, t⟩, h, -⟩ := some_of (x := okOf ((ctxAt sMem (.nop none)).checkOne sMem 0x8000 8 .load)) (fun _ => True) (by decide +kernel)
    exact ⟨_, _, t, a, ok_of h⟩
  · obtain ⟨⟨a, t⟩, h, -⟩ := some_of (x := okOf ((ctxAt sMem (.nop none)).checkOne sMem 0x8000 8 .store)) (fun _ => True) (by decide +kernel)
    exact ⟨_, _, t, a, ok_of h⟩

/-- The cause of a trap, and what a parked check waits for. -/
def trapOf (x : Checked) : Option (Byte × Mask × Word × DWord) := match x with | .trap a b c d => some (a, b, c, d) | _ => none
def parkOf (x : Checked) : Option (Park × State) := match x with | .park k t => some (k, t) | _ => none

theorem trap_of {x : Checked} {a : Byte} {b : Mask} {c : Word} {d : DWord} (h : trapOf x = some (a, b, c, d)) : x = .trap a b c d := by
  cases x <;> simp_all [trapOf]
theorem park_of {x : Checked} {k : Park} {t : State} (h : parkOf x = some (k, t)) : x = .park k t := by
  cases x <;> simp_all [parkOf]

/-- The second GiB has a recoverable entry with no page. -/
def sAbsent : State := { sMem with mem := Memory.writeBytes sMem.mem (tableAddr + 0x2008) (toBytes 0x40 8) }

theorem test_witness_access_failures : (∃ c s, Issues (.vld none 4 5 0 (w0 0 0)) c s ∧ (∀ n ≤ 60000, UndoRoom c s n) ∧
      ∃ l z k b cause tm detail addr, globalAccess (.vld none 4 5 0 (w0 0 0)) c = some (l, z, k, b) ∧
        c.checkAll s l z k b = .trap cause tm detail addr) := by
  refine wit _ sMem _ (by decide +kernel) ⟨[(0, 0x40000000), (1, 0x40000000)], 4, .load, true, ?_⟩
  obtain ⟨⟨a, b, c, d⟩, h, -⟩ := some_of (x := trapOf ((ctxAt sMem (.vld none 4 5 0 (w0 0 0))).checkAll sMem
    [(0, 0x40000000), (1, 0x40000000)] 4 .load true)) (fun _ => True) (by decide +kernel)
  exact ⟨a, b, c, d, by decide +kernel, trap_of h⟩

theorem test_witness_parked_load : ∃ c s, Issues (.vld none 4 5 0 (w0 0 0)) c s ∧ (∀ n ≤ 60000, UndoRoom c s n) ∧
    ∃ park s1 q, c.checkAll s [(0, 0x40000000), (1, 0x40000000)] 4 .load true = .park park s1 ∧ c.cp.holdLeft = 0 ∧
      s1.pool? c.pid = some q ∧ q.cp? c.cid = some c.cp := by
  refine wit _ sAbsent _ (by decide +kernel) ?_
  obtain ⟨⟨k, t⟩, h, h2⟩ := some_of (x := parkOf ((ctxAt sAbsent (.vld none 4 5 0 (w0 0 0))).checkAll sAbsent
    [(0, 0x40000000), (1, 0x40000000)] 4 .load true)) (fun r => r.2.pool? 0 = some (ctxAt sAbsent (.nop none)).pool)
    (by decide +kernel)
  exact ⟨k, t, _, park_of h, by decide +kernel, h2, by decide +kernel⟩

/-- An instruction whose checks pass at sMem, with the pool unchanged by them, and more. -/
theorem passes (i : Instr) (s : State) (l : List (Nat × Int)) (z : Nat) (k : XKind) (b : Bool)
    (P : List Nat → State → Prop) [∀ a t, Decidable (P a t)]
    (h : (pasOf ((ctxAt s i).checkAll s l z k b)).any (fun r => decide (r.2.pool? 0 = some (ctxAt s i).pool ∧ P r.1 r.2)) = true) :
    ∃ pas s1, (ctxAt s i).checkAll s l z k b = .ok pas s1 ∧ s1.pool? 0 = some (ctxAt s i).pool ∧ P pas s1 := by
  obtain ⟨⟨a, t⟩, h1, h2⟩ := some_of _ h
  exact ⟨a, t, pas_of h1, h2⟩

theorem test_witness_accesses_outstanding : (∃ c s, Issues (.vst none 2 0x82 1 (w0 0 0)) c s ∧ (∀ n ≤ 60000, UndoRoom c s n) ∧
      (globalAccess (.vst none 2 0x82 1 (w0 0 0)) c = some ([(0, 0x8000), (1, 0x8004)], 4, .store, true) ∧
      ∃ pas s1, c.checkAll s [(0, 0x8000), (1, 0x8004)] 4 .store true = .ok pas s1 ∧ s1.pool? 0 = some c.pool ∧
        (globalOp (.vst none 2 0x82 1 (w0 0 0)) c [(0, 0x8000), (1, 0x8004)] pas s1.nextId none).isSome = true)) ∧
    (∃ c s, Issues (.sld none 1 2 0) c s ∧ (∀ n ≤ 60000, UndoRoom c s n) ∧
      (globalAccess (.sld none 1 2 0) c = some ([(0, 0x8000)], 8, .load, false) ∧
      ∃ pas s1, c.checkAll s [(0, 0x8000)] 8 .load false = .ok pas s1 ∧ s1.pool? 0 = some c.pool ∧
        (globalOp (.sld none 1 2 0) c [(0, 0x8000)] pas s1.nextId none).isSome = true)) ∧
    (∃ c s, Issues (.vld none 4 0x82 1 (w0 3 1)) c s ∧ (∀ n ≤ 60000, UndoRoom c s n) ∧ (c.earlier = none ∧
      ∃ pas s1, c.checkAll s [(0, 0x8000), (1, 0x8004)] 4 .load true = .ok pas s1 ∧ s1.pool? 0 = some c.pool ∧
        (globalOp (.vld none 4 0x82 1 (w0 3 1)) c [(0, 0x8000), (1, 0x8004)] pas s1.nextId (some 1)).isSome = true)) :=
  ⟨wit _ sMem _ (by decide +kernel) ⟨by decide +kernel, passes _ _ _ _ _ _ _ (by decide +kernel)⟩,
    wit _ sMem _ (by decide +kernel) ⟨by decide +kernel, passes _ _ _ _ _ _ _ (by decide +kernel)⟩,
    wit _ sMem _ (by decide +kernel) ⟨by decide +kernel, passes _ _ _ _ _ _ _ (by decide +kernel)⟩⟩

theorem test_witness_ordered_accesses : (∃ c s, Issues (.vld none 4 0x82 1 (w0 3 4)) c s ∧ (∀ n ≤ 60000, UndoRoom c s n) ∧ (c.earlier = none ∧
      ∃ pas s1, c.checkAll s [(0, 0x8000), (1, 0x8004)] 4 .load true = .ok pas s1 ∧ s1.pool? 0 = some c.pool ∧
        (globalOp (.vld none 4 0x82 1 (w0 3 4)) c [(0, 0x8000), (1, 0x8004)] pas s1.nextId (some 1)).isSome = true ∧
        s1.canCommit 0 none = true)) ∧
    (∃ c s, Issues (.vst none 2 0x82 1 (w0 2 4)) c s ∧ (∀ n ≤ 60000, UndoRoom c s n) ∧ (c.earlier = none ∧
      ∃ pas s1, c.checkAll s [(0, 0x8000), (1, 0x8004)] 4 .store true = .ok pas s1 ∧ s1.pool? 0 = some c.pool ∧
        (globalOp (.vst none 2 0x82 1 (w0 2 4)) c [(0, 0x8000), (1, 0x8004)] pas 0 none).any (fun o =>
          (enteredOf (s1.enterJournal 0 (o.entries 0 c.pool true))).any fun s3 => s3.canCommit 0 none) = true)) ∧
    (∃ c s, Issues (.vatomGlobal none 2 0x82 1 ⟨0, 0, 3, 3⟩) c s ∧ (∀ n ≤ 60000, UndoRoom c s n) ∧ (c.earlier = none ∧
      globalAccess (.vatomGlobal none 2 0x82 1 ⟨0, 0, 3, 3⟩) c = some ([(0, 0x8000), (1, 0x8004)], 4, .store, true) ∧
      ∃ pas s1, c.checkAll s [(0, 0x8000), (1, 0x8004)] 4 .store true = .ok pas s1 ∧ s1.pool? 0 = some c.pool ∧
        s1.canCommit 0 none = true)) :=
  ⟨wit _ sMem _ (by decide +kernel) ⟨by decide +kernel, passes _ _ _ _ _ _ _ (by decide +kernel)⟩,
    wit _ sMem _ (by decide +kernel) ⟨by decide +kernel, passes _ _ _ _ _ _ _ (by decide +kernel)⟩,
    wit _ sMem _ (by decide +kernel) ⟨by decide +kernel, by decide +kernel, passes _ _ _ _ _ _ _ (by decide +kernel)⟩⟩

theorem test_witness_cache_instructions : (∃ c s, Issues (.pref none 0 0x82 1 (w0 0 3)) c s ∧ (∀ n ≤ 60000, UndoRoom c s n) ∧ True) ∧
    (∃ c s, Issues (.flush none 1) c s ∧ (∀ n ≤ 60000, UndoRoom c s n) ∧ True) ∧
    (∃ c s, Issues (.flush none 2) c s ∧ (∀ n ≤ 60000, UndoRoom c s n) ∧ s.canCommit c.pid none = true) ∧
    (∃ c s, Issues (.inv none 0 2 3) c s ∧ (∀ n ≤ 60000, UndoRoom c s n) ∧ c.s 0 = 0) ∧
    (∃ c s, Issues (.inv none 6 2 3) c s ∧ (∀ n ≤ 60000, UndoRoom c s n) ∧ (c.s 6 ≠ 0 ∧ (c.s 2).toNat + (c.s 6).toNat ≤ 2 ^ 56)) ∧
    (∃ c s, Issues (.inv none 6 4 3) c s ∧ (∀ n ≤ 60000, UndoRoom c s n) ∧ (c.s 6 ≠ 0 ∧ 2 ^ 56 < (c.s 4).toNat + (c.s 6).toNat)) :=
  ⟨wit _ sMem _ (by decide +kernel) trivial, wit _ sMem _ (by decide +kernel) trivial,
    wit _ sMem _ (by decide +kernel) (by decide +kernel), wit _ sMem _ (by decide +kernel) (by decide +kernel),
    wit _ sMem _ (by decide +kernel) (by decide +kernel), wit _ sMem _ (by decide +kernel) (by decide +kernel)⟩

/-- A store of four bytes of pool 0 in the journal of core 0. -/
def eStore (pa : Nat) : Entry := ⟨0, 0, 0, 0, pa, pa, .store [1, 2, 3, 4], false, none, false, false, false⟩

/-- Entries of 64 bytes each. -/
def launches (n : Nat) : List Entry := List.replicate n { eStore 64 with kind := .launch [] }

theorem test_witness_journal : (∀ k ∈ [eStore 64].map (·.core),
      sMem.journalHeld 0 k + (([eStore 64].filter fun e => e.core = k).map Entry.size).sum ≤ sMem.share k) ∧
    ∃ s : State, ∃ es : List Entry, ∀ k ∈ es.map (·.core), s.journalHeld 0 k ≠ 0 ∧
      s.share k < s.journalHeld 0 k + ((es.filter fun e => e.core = k).map Entry.size).sum :=
  ⟨by decide +kernel, { sMem with journal := [eStore 64] }, launches 1025,
    by decide +kernel⟩

/-! ### Witnesses: gongs, waits, commit points and engine commands -/

/-- The bytes of a 64-bit word of the scratchpad, as it is listed. -/
def spadOf (o w : Nat) : KMap Byte :=
  ((List.range 8).map fun i => (o + i, (toBytes w 8).getD i 0)).filter fun e => e.2 != 0

/-- A gong at 16: two expected, phase 0, `arr` arrived; s1 is its offset, s2 to s5 are 2, 1, 65535 and 2^32. -/
def sGong (arr : Nat) (f : Cp → Cp) : State := stateOf { poolOf 2 [] [] with
  spad := spadOf 16 (gongWord 2 0 0 arr)
  cps := [(0, f (cpOf 2 [(1, 16), (2, 2), (3, 1), (4, 65535), (5, 0x100000000)]))] }

theorem gong_at (arr : Nat) (h : arr < 3) : let s := sGong arr id
    ∀ i : Instr, i.pfx = none → GongAt (ctxAt s i) s 1 s (ctxAt s i).pool 16 (gongWord 2 0 0 arr) := by
  intro s i hi
  have e : ctxAt s i = ctxAt s (.nop none) := by unfold ctxAt; rw [hi]; rfl
  rw [e]
  have : arr ∈ List.range 3 := List.mem_range.mpr h
  have all : ∀ arr ∈ List.range 3, let s := sGong arr id
      let c := ctxAt s (.nop none)
      (c.s 1).toNat = 16 ∧ (∀ e ∈ [((0 : Nat), (16 : Int))], e.2 % 8 = 0 ∧ 0 ≤ e.2 ∧ e.2 + 8 ≤ c.pool.spadSize) ∧
        s = s.met c [(0, 16)] 8 ∧ s.pool? c.pid = some c.pool ∧ c.pool.cp? c.cid = some c.cp ∧
        gongWord 2 0 0 arr = c.pool.spadRead 16 8 := by decide +kernel
  obtain ⟨h1, h2, h3, h4, h5, h6⟩ := all arr this
  exact ⟨h1.symm, by decide, h2, h3, h4, h5, h6⟩

theorem gong_is (arr : Nat) (h : arr ≤ 2) : GongIs (gongWord 2 0 0 arr) 2 0 0 arr :=
  ⟨rfl, by decide, by decide, by decide, by decide, h⟩

theorem test_witness_gongs : (∃ c s s1 q, Issues (.ginit none 1 4) c s ∧ GongAt c s 1 s1 q 16 (gongWord 2 0 0 0) ∧ (c.s 4).toNat = 65535) ∧
    (∃ c s s1 q, Issues (.garr none 9 1) c s ∧ GongAt c s 1 s1 q 16 (gongWord 2 0 0 0) ∧ GongIs (gongWord 2 0 0 0) 2 0 0 0 ∧ NoneEarlier c) ∧
    (∃ c s s1 q, Issues (.garr none 9 1) c s ∧ GongAt c s 1 s1 q 16 (gongWord 2 0 0 1) ∧ GongIs (gongWord 2 0 0 1) 2 0 0 1 ∧
      NoneEarlier c ∧ s1.canCommit c.pid none = true) ∧
    (∃ c s s1 q, Issues (.gexp none 1 3) c s ∧ GongAt c s 1 s1 q 16 (gongWord 2 0 0 1) ∧ GongIs (gongWord 2 0 0 1) 2 0 0 1 ∧
      (c.s 3).toNat = 1 ∧ s1.canCommit c.pid none = true) ∧
    (∃ c s s1 q, Issues (.garr none 9 1) c s ∧ GongAt c s 1 s1 q 16 (gongWord 2 0 0 2) ∧ GongIs (gongWord 2 0 0 2) 2 0 0 2) :=
  ⟨⟨_, sGong 0 id, _, _, issues_of (by decide +kernel), gong_at 0 (by decide) _ rfl, by decide +kernel⟩,
    ⟨_, sGong 0 id, _, _, issues_of (by decide +kernel), gong_at 0 (by decide) _ rfl, gong_is 0 (by decide),
      by unfold NoneEarlier; decide +kernel⟩,
    ⟨_, sGong 1 id, _, _, issues_of (by decide +kernel), gong_at 1 (by decide) _ rfl, gong_is 1 (by decide),
      by unfold NoneEarlier; decide +kernel, by decide +kernel⟩,
    ⟨_, sGong 1 id, _, _, issues_of (by decide +kernel), gong_at 1 (by decide) _ rfl, gong_is 1 (by decide), by decide +kernel,
      by decide +kernel⟩,
    ⟨_, sGong 2 id, _, _, issues_of (by decide +kernel), gong_at 2 (by decide) _ rfl, gong_is 2 (by decide)⟩⟩

theorem test_witness_gong_traps : (∃ c s, Issues (.garr none 9 5) c s ∧ (∀ n ≤ 60000, UndoRoom c s n) ∧ 2 ^ 32 ≤ (c.s 5).toNat) ∧
    (∃ c s, Issues (.ginit none 1 9) c s ∧ (∀ n ≤ 60000, UndoRoom c s n) ∧ (c.s 9).toNat = 0) ∧
    (∀ e h n r, ¬GongIs 0 e h n r) := by
  refine ⟨wit _ (sGong 0 id) _ (by decide +kernel) (by decide +kernel), wit _ (sGong 0 id) _ (by decide +kernel) (by decide +kernel),
    fun e h n r g => ?_⟩
  have := g.word
  have := g.exp1
  unfold gongWord at *
  omega

theorem test_witness_blocking : (∃ c s s1 q, Issues (.gwait none 1 3) c s ∧ GongAt c s 1 s1 q 16 (gongWord 2 0 0 0) ∧
      GongIs (gongWord 2 0 0 0) 2 0 0 0 ∧ c.cp.holdLeft = 0 ∧ 0 ≠ (c.s 3).toNat % 2 ∧ s1.records = []) ∧
    (∃ c s s1 q, Issues (.gwait none 1 2) c s ∧ GongAt c s 1 s1 q 16 (gongWord 2 0 0 0) ∧ 0 = (c.s 2).toNat % 2) ∧
    (∃ c s, Issues (.gwait none 1 2) c s ∧ (∀ n ≤ 60000, UndoRoom c s n) ∧ c.cp.holdLeft ≠ 0) ∧
    (∃ c s, Issues (.waitc none 1 0) c s ∧ (∀ n ≤ 60000, UndoRoom c s n) ∧ (c.cp.holdLeft = 0 ∧ NoFault c 1 ∧ c.cp.outstandingOf 1 ≤ 0)) ∧
    (∃ c s, Issues (.waitc none 0 0) c s ∧ (∀ n ≤ 60000, UndoRoom c s n) ∧ (NoFault c 0 ∧ 0 < c.cp.outstandingOf 0)) ∧
    (∃ c s, Issues (.yield_ none) c s ∧ (∀ n ≤ 60000, UndoRoom c s n) ∧ c.cp.holdLeft = 0) :=
  ⟨⟨_, sGong 0 id, _, _, issues_of (by decide +kernel), gong_at 0 (by decide) _ rfl, gong_is 0 (by decide), by decide +kernel,
      by decide +kernel, by decide +kernel⟩,
    ⟨_, sGong 0 id, _, _, issues_of (by decide +kernel), gong_at 0 (by decide) _ rfl, by decide +kernel⟩,
    wit _ (sGong 0 fun x => { x with holdLeft := 2 }) _ (by decide +kernel) (by decide +kernel),
    wit _ (sGong 0 id) _ (by decide +kernel) ⟨by decide +kernel, by unfold NoFault; decide +kernel, by decide +kernel⟩,
    wit _ (sGong 0 fun x => { x with cpy := 1 }) _ (by decide +kernel) ⟨by unfold NoFault; decide +kernel, by decide +kernel⟩,
    wit _ (sGong 0 id) _ (by decide +kernel) (by decide +kernel)⟩

/-- WATCH of the word at 0x8000, which reads 0, for another value and for 0. -/
theorem test_witness_watch : (∃ c s, Issues (.watch none 1 3 2 6) c s ∧ (∀ n ≤ 60000, UndoRoom c s n) ∧ (c.pool.rslice = false ∧ c.cp.holdLeft = 0 ∧
      ∃ pas s1, c.checkAll s [(0, 0x8000)] 8 .load false = .ok pas s1 ∧ s1.pool? 0 = some c.pool ∧ (pas = [0x8000] ∧
        c.pool.ownWrite 0 none 0x8000 8 = none ∧ s1.pendingReds 0 0x8000 8 = [] ∧
        (s1.readFor 0 0 0 0x8000 8 true).2.pool? 0 = some c.pool ∧ ofBytes (s1.readFor 0 0 0 0x8000 8 true).1.bytes ≠ (c.s 6).toNat))) ∧
    (∃ c s, Issues (.watch none 1 3 2 7) c s ∧ (∀ n ≤ 60000, UndoRoom c s n) ∧ (c.pool.rslice = false ∧ c.cp.holdLeft = 0 ∧
      ∃ pas s1, c.checkAll s [(0, 0x8000)] 8 .load false = .ok pas s1 ∧ s1.pool? 0 = some c.pool ∧ (pas = [0x8000] ∧
        c.pool.ownWrite 0 none 0x8000 8 = none ∧ s1.pendingReds 0 0x8000 8 = [] ∧
        (s1.readFor 0 0 0 0x8000 8 true).2.pool? 0 = some c.pool ∧ ofBytes (s1.readFor 0 0 0 0x8000 8 true).1.bytes = (c.s 7).toNat))) :=
  ⟨wit _ sMem _ (by decide +kernel) ⟨by decide +kernel, by decide +kernel, passes _ _ _ _ _ _ _ (by decide +kernel)⟩,
    wit _ sMem _ (by decide +kernel) ⟨by decide +kernel, by decide +kernel, passes _ _ _ _ _ _ _ (by decide +kernel)⟩⟩

theorem test_witness_fence_and_succ : (∃ c s, Issues (.fence none 3 4) c s ∧ (∀ n ≤ 60000, UndoRoom c s n) ∧ (NoneEarlier c ∧ s.canCommit c.pid none = true)) ∧
    (∃ c s, Issues (.fence none 1 5) c s ∧ (∀ n ≤ 60000, UndoRoom c s n) ∧ NoneEarlier c) ∧
    (∃ c s, Issues (.fence none 2 1) c s ∧ (∀ n ≤ 60000, UndoRoom c s n) ∧ c.earlier.isSome = true) ∧
    (∃ c s, Issues (.succ none) c s ∧ (∀ n ≤ 60000, UndoRoom c s n) ∧ (c.pool.rslice = false ∧ s.canCommit c.pid none = true)) ∧
    (∃ c s, Issues (.succ none) c s ∧ (∀ n ≤ 60000, UndoRoom c s n) ∧ c.pool.rslice = true) :=
  ⟨wit _ sMem _ (by decide +kernel) ⟨by unfold NoneEarlier; decide +kernel, by decide +kernel⟩,
    wit _ sMem _ (by decide +kernel) (by unfold NoneEarlier; decide +kernel),
    wit _ (sCp id [opOf .load 0 9 none] []) _ (by decide +kernel) (by decide +kernel),
    wit _ sMem _ (by decide +kernel) (by decide +kernel),
    wit _ (stateOf { poolOf 2 [] [] with rslice := true }) _ (by decide +kernel) (by decide +kernel)⟩

theorem test_witness_end_and_system_call : (∃ c s, Issues (.end_ none) c s ∧ (∀ n ≤ 60000, UndoRoom c s n) ∧ (c.pool.ops = [] ∧
      (∀ k, k ≤ 3 → c.cp.outstandingOf k = 0) ∧ c.cp.faults = [] ∧ s.canCommit c.pid none = true)) ∧
    (∃ (s : State) (q : Pool) (cp : Cp), s.pool? 0 = some q ∧ q.cp? 0 = some cp ∧ cp.wait = some (7, .endCp)) ∧
    (∃ c s, Issues (.sysc none 2 4 2 0x40) c s ∧ (∀ n ≤ 60000, UndoRoom c s n) ∧ (c.pool.rslice = false ∧ c.cp.holdLeft = 0 ∧ c.tids = [0, 1] ∧
      s.canCommit c.pid none = true)) ∧
    (∃ c s, Issues (.sysc (some pMask) 2 4 2 0x40) c s ∧ (∀ n ≤ 60000, UndoRoom c s n) ∧ c.tids = []) :=
  ⟨wit _ sMem _ (by decide +kernel) (by decide +kernel), ⟨sCp (fun x => { x with wait := some (7, .endCp) }) [] [], _, _, rfl, rfl, rfl⟩,
    wit _ sMem _ (by decide +kernel) (by decide +kernel), wit _ sMem _ (by decide +kernel) (by decide +kernel)⟩

/-! ### Witnesses: engine commands, work and recipes -/

/-- s1: 0; s2: 0x8000; s3: 2^56 − 8; s4: a gong at 16. -/
def sEng (f : Cp → Cp) : State := stateOf { poolOf 2 [] [] with
  spad := spadOf 16 (gongWord 2 0 0 0)
  cps := [(0, f (cpOf 2 [(2, 0x8000), (3, 0xFFFFFFFFFFFFF8), (4, 16)]))] }

theorem test_witness_copies :
    (∃ c s, Issues (.cpy none 1 2 0 0 ⟨64, 1, 128, 0⟩) c s ∧ (∀ n ≤ 60000, UndoRoom c s n) ∧ (c.cp.cpy < 63 ∧ ∃ k,
      k = copyOf c 1 2 0 0 ⟨64, 1, 128, 0⟩ ∧ CopyFits c k (wordOf c 0 1 1) (wordOf c 0 3 0) ∧ CopyReaches k ∧ k.gong = none ∧
      (c.copySnap s k).2.pool? c.pid = some c.pool)) ∧
    (∃ c s, Issues (.cpy none 1 2 2 0 ⟨16384, 1, 0, 0⟩) c s ∧ (∀ n ≤ 60000, UndoRoom c s n) ∧ (∃ k,
      k = copyOf c 1 2 2 0 ⟨16384, 1, 0, 0⟩ ∧ ¬CopyFits c k (wordOf c 0 1 1) (wordOf c 0 3 0))) ∧
    (∃ c s, Issues (.cpy none 1 3 0 0 ⟨8, 2, 8, 0⟩) c s ∧ (∀ n ≤ 60000, UndoRoom c s n) ∧ (∃ k,
      k = copyOf c 1 3 0 0 ⟨8, 2, 8, 0⟩ ∧ CopyFits c k (wordOf c 0 1 2) (wordOf c 0 3 0) ∧ ¬CopyReaches k)) ∧
    (∃ c s, Issues (.cpy none 1 2 0 0 ⟨64, 2, 128, 0x80000002⟩) c s ∧ (∀ n ≤ 60000, UndoRoom c s n) ∧ (∃ k,
      k = copyOf c 1 2 0 0 ⟨64, 2, 128, 0x80000002⟩ ∧ CopyFits c k (wordOf c 0 1 2) (wordOf c 0 3 0x80000002) ∧ CopyReaches k ∧
      k.gong = some 16 ∧ (s.met c [(0, 16)] 8).pool? c.pid = some c.pool ∧ GongIs (c.pool.spadRead 16 8) 2 0 0 0)) ∧
    (∃ c s, Issues (.cpy none 1 2 0 0 ⟨64, 2, 128, 0⟩) c s ∧ (∀ n ≤ 60000, UndoRoom c s n) ∧ 63 ≤ c.cp.cpy) := by
  refine ⟨wit _ (sEng id) _ (by decide +kernel) ⟨by decide +kernel, _, rfl, by unfold CopyFits; decide +kernel, ?_, by decide +kernel, by decide +kernel⟩,
    wit _ (sEng id) _ (by decide +kernel) ⟨_, rfl, by unfold CopyFits; decide +kernel⟩,
    wit _ (sEng id) _ (by decide +kernel) ⟨_, rfl, by unfold CopyFits; decide +kernel, ?_⟩,
    wit _ (sEng id) _ (by decide +kernel) ⟨_, rfl, by unfold CopyFits; decide +kernel, ?_, by decide +kernel, by decide +kernel,
      ⟨by decide +kernel, by decide +kernel, by decide +kernel, by decide +kernel, by decide +kernel, by decide +kernel⟩⟩,
    wit _ (sEng fun x => { x with cpy := 63 }) _ (by decide +kernel) (by decide +kernel)⟩
  · right; decide +kernel
  · rintro (h | h)
    · exact absurd h (by decide +kernel)
    · exact absurd (h 1 (by decide +kernel)) (by decide +kernel)
  · right; decide +kernel

/-- A descriptor of rows of four FP32 elements at 0x8000, kept as they are in 16 bytes each from offset 64. -/
def hDesc : Handle := ⟨0x8000, 0x1000000002, 0x4BB, 0x1000000040⟩

theorem test_witness_gathers : (∃ c s, Issues (.gdesc none 0 4) c s ∧ (∀ n ≤ 60000, UndoRoom c s n) ∧ HandleFits (handleOf c 4)) ∧
    (∃ c s, Issues (.gdesc none 7 8) c s ∧ (∀ n ≤ 60000, UndoRoom c s n) ∧ ¬HandleFits (handleOf c 8)) ∧
    (∃ c s, Issues (.gthr none 1 9 0) c s ∧ (∀ n ≤ 60000, UndoRoom c s n) ∧ (c.cp.gth < 63 ∧ ∃ h n r s1,
      KMap.find? c.cp.handles 0 = some h ∧ gatherRowsOf c 9 = (0, n) :: r ∧ h.doff + r.length * h.dpitch + h.dstBytes ≤ c.pool.spadSize ∧
      n < h.count ∧ c.checkRow (lineChunks (h.rowAt n) h.srcBytes) s = (.ok (), s1) ∧ s1.pool? c.pid = some c.pool)) ∧
    (∃ c s, Issues (.gthr none 1 9 1) c s ∧ (∀ n ≤ 60000, UndoRoom c s n) ∧ KMap.find? c.cp.handles 1 = none) := by
  let s : State := stateOf { poolOf 2 [] [(265, 1)] with
    cps := [(0, { cpOf 2 [(4, hDesc.q0), (5, hDesc.q1), (6, hDesc.q2), (7, hDesc.q3)] with handles := [(0, hDesc)] })] }
  refine ⟨wit _ s _ (by decide +kernel) (by unfold HandleFits; decide +kernel), wit _ s _ (by decide +kernel) (by unfold HandleFits; decide +kernel),
    wit _ s _ (by decide +kernel) ⟨by decide +kernel, hDesc, 0, [(1, 1)], ?_⟩, wit _ s _ (by decide +kernel) (by decide +kernel)⟩
  obtain ⟨⟨u, t⟩, h1, h2⟩ := some_of (x := okOf ((ctxAt s (.gthr none 1 9 0)).checkRow (lineChunks (hDesc.rowAt 0) hDesc.srcBytes) s))
    (fun r => r.2.pool? 0 = some (ctxAt s (.gthr none 1 9 0)).pool) (by decide +kernel)
  exact ⟨t, by decide +kernel, by decide +kernel, by decide +kernel, by decide +kernel, ok_of h1, h2⟩

theorem test_witness_merges :
    (∃ c s, Issues (.mrg none 2 1 1 0 ⟨1, 0, 4, 2⟩) c s ∧ (∀ n ≤ 60000, UndoRoom c s n) ∧ (c.cp.mrg < 63 ∧ ∃ k, k = mergeOf c 2 1 1 0 ⟨1, 0, 4, 2⟩ ∧
      MergeFits c 1 k (wordOf c 0 0 1) (wordOf c 0 1 0) ∧ k.block % 64 = 0 ∧ k.block < 2 ^ 56)) ∧
    (∃ c s, Issues (.mrg none 2 1 0 0 ⟨1, 0x3B, 4, 2⟩) c s ∧ (∀ n ≤ 60000, UndoRoom c s n) ∧ (∃ k, k = mergeOf c 2 1 0 0 ⟨1, 0x3B, 4, 2⟩ ∧
      ¬MergeFits c 1 k (wordOf c 0 0 1) (wordOf c 0 1 0x3B))) ∧
    (∃ c s, Issues (.mrg none 4 1 0 0 ⟨1, 0xB, 4, 2⟩) c s ∧ (∀ n ≤ 60000, UndoRoom c s n) ∧ (∃ k, k = mergeOf c 4 1 0 0 ⟨1, 0xB, 4, 2⟩ ∧
      MergeFits c 1 k (wordOf c 0 0 1) (wordOf c 0 1 0xB) ∧ k.block % 64 ≠ 0)) :=
  ⟨wit _ (sEng id) _ (by decide +kernel) ⟨by decide +kernel, _, rfl, by unfold MergeFits; decide +kernel, by decide +kernel, by decide +kernel⟩,
    wit _ (sEng id) _ (by decide +kernel) ⟨_, rfl, by unfold MergeFits; decide +kernel⟩,
    wit _ (sEng id) _ (by decide +kernel) ⟨_, rfl, by unfold MergeFits; decide +kernel, by decide +kernel⟩⟩

/-- 32 threads, whose word is whole, with tile 0 of the given owner. -/
def sTile (o : Option Nat) (f : Cp → Cp) : State := stateOf { poolOf 32 [] [] with
  tiles := [(0, { Tile.empty with owner := o })], cps := [(0, f (cpOf 32 []))] }

theorem test_witness_matrix : (∃ c s, Issues (.mma none 0 8 16) c s ∧ (∀ n ≤ 60000, UndoRoom c s n) ∧ (c.cp.mtx < 63 ∧
      (∀ t ∈ c.tids, t / 32 ∈ c.wholeWords) ∧ c.tileFault (setOf (.mma none 0 8 16) c) = none ∧
      c.scaleOffsets (setOf (.mma none 0 8 16) c) = [] ∧ c.scaleFault (c.capture s (setOf (.mma none 0 8 16) c)) = none)) ∧
    (∃ c s, Issues (.mzero none 1) c s ∧ (∀ n ≤ 60000, UndoRoom c s n) ∧ ((∀ t ∈ c.tids, t / 32 ∈ c.wholeWords) ∧
      c.tileFault (setOf (.mzero none 1) c) = none)) ∧
    (∃ c s, Issues (.mdrn none 8 0) c s ∧ (∀ n ≤ 60000, UndoRoom c s n) ∧ ((∀ t ∈ c.tids, t / 32 ∈ c.wholeWords) ∧
      c.tileFault (setOf (.mdrn none 8 0) c) = none)) ∧
    (∃ c s, Issues (.mma none 0 8 16) c s ∧ (∀ n ≤ 60000, UndoRoom c s n) ∧ ((∀ t ∈ c.tids, t / 32 ∈ c.wholeWords) ∧ c.wholeWords ≠ [] ∧
      ((setOf (.mma none 0 8 16) c).words.filter fun w => (tileOf c (setOf (.mma none 0 8 16) c) w).owner.isNone) ≠ [])) ∧
    (∃ c s, Issues (.mma none 0 8 16) c s ∧ (∀ n ≤ 60000, UndoRoom c s n) ∧ ∃ t r, (c.tids.filter fun t => t / 32 ∉ c.wholeWords) = t :: r) :=
  ⟨wit _ (sTile (some 0) id) _ (by decide +kernel) (by decide +kernel), wit _ (sTile none id) _ (by decide +kernel) (by decide +kernel),
    wit _ (sTile (some 0) id) _ (by decide +kernel) (by decide +kernel), wit _ (sTile none id) _ (by decide +kernel) (by decide +kernel),
    wit _ (sCp id [] []) _ (by decide +kernel) ⟨0, [1], by decide +kernel⟩⟩

/-- s2 names a line of records, s4 a header, s6 a recipe record; the ASID has one entry. -/
def sWork (f : Pool → Pool) : State :=
  let s := stateOf (f (poolOf 2 [(1, 3), (2, 0x8000), (4, 0x8040), (6, 0x8080), (7, 0x100000000000000)] []))
  { s with asids := KMap.put s.asids 0 ⟨tableAddr, 0, 1, 0⟩ }

theorem test_witness_launch : ∃ (c : Ctx) (s s1 s2 s3 s4 : State) (pa ph : Nat) (r : ReadResult), Issues (.launch none 4 2) c s ∧
    c.pool.rslice = false ∧ (c.s 4).toNat % 64 = 0 ∧ (c.s 2).toNat % 64 = 0 ∧
    c.checkOne s ((c.s 2).toNat : Int) 64 .load = (.ok pa, s1) ∧ c.checkOne s1 ((c.s 4).toNat : Int) 64 .store = (.ok ph, s2) ∧
    ReadsLine c s2 (c.s 2).toNat pa r s3 ∧ s3.enterJournal c.pid [c.entry (c.s 4).toNat ph (.launch r.bytes)] = .entered s4 ∧
    s4.pool? c.pid = some c.pool := by
  let s := sWork id
  let c := ctxAt s (.launch none 4 2)
  obtain ⟨⟨pa, s1⟩, h1, h2⟩ := some_of (x := okOf (c.checkOne s ((c.s 2).toNat : Int) 64 .load)) (fun r =>
    (okOf (c.checkOne r.2 ((c.s 4).toNat : Int) 64 .store)).any (fun q => decide (c.pool.ownWrite c.cid none r.1 64 = none ∧
      q.2.droppedAt c.asid (c.s 2).toNat = none ∧ q.2.lineHeld (r.1 / 64) = false ∧ q.2.pendingReds c.core r.1 64 = [] ∧ (enteredOf (((q.2.readFor c.pid c.core c.asid r.1 64 false).2.readAgain c.pid c.cid r.1 64).enterJournal c.pid
        [c.entry (c.s 4).toNat q.1 (.launch (q.2.readFor c.pid c.core c.asid r.1 64 false).1.bytes)])).any
          (fun u => decide (u.pool? c.pid = some c.pool)) = true)) = true) (by decide +kernel)
  obtain ⟨⟨ph, s2⟩, h3, h4, hd, hl, h5, h6⟩ := some_of _ h2
  obtain ⟨s4, h7, h8⟩ := some_of _ h6
  have hi : Issues (.launch none 4 2) c s := issues_of (by decide +kernel)
  have hc : c.pool.rslice = false ∧ (c.s 4).toNat % 64 = 0 ∧ (c.s 2).toNat % 64 = 0 := by decide +kernel
  clear_value c s
  exact ⟨c, s, s1, s2, _, s4, pa, ph, _, hi, hc.1, hc.2.1, hc.2.2, ok_of h1, ok_of h3, ⟨h4, hd, hl, h5, _, rfl, rfl⟩, entered_of h7, h8⟩

theorem test_witness_define : ∃ (c : Ctx) (s s1 s2 s3 s4 : State) (pa pb : Nat) (r1 r2 : ReadResult),
    Issues (.rcdef none 6 0 ⟨0, 0, 0, 0⟩) c s ∧ c.pool.rslice = false ∧ (c.s 6).toNat % 128 = 0 ∧
    c.checkOne s ((c.s 6).toNat : Int) 128 .load = (.ok pa, s1) ∧ c.checkOne s1 ((c.s 6).toNat : Int) 128 .store = (.ok pb, s2) ∧
    ReadsLine c s2 (c.s 6).toNat pa r1 s3 ∧ ReadsLine c s3 ((c.s 6).toNat + 64) (pa + 64) r2 s4 := by
  let s := sWork id
  let c := ctxAt s (.rcdef none 6 0 ⟨0, 0, 0, 0⟩)
  let mid (pa : Nat) (u : State) : State := (u.readFor c.pid c.core c.asid pa 64 false).2.readAgain c.pid c.cid pa 64
  have hp : ∀ (pa va : Nat) (u : State), c.pool.ownWrite c.cid none pa 64 = none ∧ u.droppedAt c.asid va = none ∧
      u.lineHeld (pa / 64) = false ∧ u.pendingReds c.core pa 64 = [] → ∃ r, ReadsLine c u va pa r (mid pa u) :=
    fun pa va u h => ⟨_, h.1, h.2.1, h.2.2.1, h.2.2.2, _, rfl, rfl⟩
  obtain ⟨⟨pa, s1⟩, h1, h2⟩ := some_of (x := okOf (c.checkOne s ((c.s 6).toNat : Int) 128 .load)) (fun r =>
    (okOf (c.checkOne r.2 ((c.s 6).toNat : Int) 128 .store)).any (fun q => decide ((c.pool.ownWrite c.cid none r.1 64 = none ∧
      q.2.droppedAt c.asid (c.s 6).toNat = none ∧ q.2.lineHeld (r.1 / 64) = false ∧ q.2.pendingReds c.core r.1 64 = []) ∧
      c.pool.ownWrite c.cid none (r.1 + 64) 64 = none ∧ (mid r.1 q.2).droppedAt c.asid ((c.s 6).toNat + 64) = none ∧
      (mid r.1 q.2).lineHeld ((r.1 + 64) / 64) = false ∧ (mid r.1 q.2).pendingReds c.core (r.1 + 64) 64 = [])) = true)
    (by decide +kernel)
  obtain ⟨⟨pb, s2⟩, h3, h4, h5⟩ := some_of _ h2
  obtain ⟨r1, h6⟩ := hp _ _ _ h4
  obtain ⟨r2, h7⟩ := hp _ _ _ h5
  have hi : Issues (.rcdef none 6 0 ⟨0, 0, 0, 0⟩) c s := issues_of (by decide +kernel)
  have hc : c.pool.rslice = false ∧ (c.s 6).toNat % 128 = 0 := by decide +kernel
  exact ⟨c, s, s1, s2, _, _, pa, pb, r1, r2, hi, hc.1, hc.2, ok_of h1, ok_of h3, h6, h7⟩

theorem test_witness_work_traps : (∃ c s, Issues (.launch none 4 1) c s ∧ (∀ n ≤ 60000, UndoRoom c s n) ∧ ((c.s 4).toNat % 64 = 0 ∧ (c.s 1).toNat % 64 ≠ 0)) ∧
    (∃ c s, Issues (.launch none 4 2) c s ∧ (∀ n ≤ 60000, UndoRoom c s n) ∧ c.pool.rslice = true) ∧
    (∃ c s, Issues (.rcdef none 4 0 ⟨0, 0, 0, 0⟩) c s ∧ (∀ n ≤ 60000, UndoRoom c s n) ∧ (c.s 4).toNat % 128 ≠ 0) ∧
    (∃ c s, Issues (.rcqry none 5 7) c s ∧ (∀ n ≤ 60000, UndoRoom c s n) ∧ 2 ^ 56 ≤ (c.s 7).toNat) :=
  ⟨wit _ (sWork id) _ (by decide +kernel) (by decide +kernel),
    wit _ (sWork fun p => { p with rslice := true }) _ (by decide +kernel) (by decide +kernel),
    wit _ (sWork id) _ (by decide +kernel) (by decide +kernel), wit _ (sWork id) _ (by decide +kernel) (by decide +kernel)⟩

theorem test_witness_spawn : (∃ c s, Issues (.spawn none 4) c s ∧ (∀ n ≤ 60000, UndoRoom c s n) ∧ (c.pool.rslice = false ∧
      (∀ t ∈ c.tids, itemLegal c s 4 t = true) ∧ s.packed c.core + c.tids.length ≤ 4096 ∧
      ((c.tids.map fun t => (c.pool.reg t 4, c.pool.reg t 5, c.pool.reg t 6, c.pool.reg t 7)).foldl
        (fun s it => s.joinItem c.core c.asid c.pid c.pool.task.queue it) s).pool? c.pid = some c.pool)) ∧
    (∃ c s, Issues (.spawn none 4) c s ∧ (∀ n ≤ 60000, UndoRoom c s n) ∧ ∃ t r, (c.tids.filter fun t => !itemLegal c s 4 t) = t :: r) ∧
    (∃ (s : State) (u : Pending), (s.packing.filter fun p => p.core = 0 ∧ p.asid = 0 ∧ p.entry = 0) = [u] ∧ u.items.length < 1023) :=
  ⟨wit _ (sWork id) _ (by decide +kernel) (by decide +kernel),
    wit _ (sWork fun p => { p with regs := [(4, 0), (260, 0x20000)] }) _ (by decide +kernel) ⟨1, [], by decide +kernel⟩,
    { sWork id with packing := [⟨0, 0, 0, none, [], [], 0⟩] }, ⟨0, 0, 0, none, [], [], 0⟩, by decide +kernel, by decide +kernel⟩

theorem test_witness_cps : (∃ c s, Issues (.cpstart none 2 4) c s ∧ (∀ n ≤ 60000, UndoRoom c s n) ∧ (c.pool.rslice = false ∧ c.cid = 0 ∧
      c.pool.started + 1 < c.pool.cpsMax ∧ c.beforeStart = none ∧ c.unseenStores s (c.pool.started + 1) = [] ∧
      (c.s 2).toNat % 4 = 0)) ∧
    (∃ c s, Issues (.cpstart none 1 4) c s ∧ (∀ n ≤ 60000, UndoRoom c s n) ∧ (c.pool.started + 1 < c.pool.cpsMax ∧ c.beforeStart = none ∧
      c.unseenStores s (c.pool.started + 1) = [] ∧ (c.s 1).toNat % 4 ≠ 0)) ∧
    (∃ c s, Issues (.cpstart none 1 4) c s ∧ (∀ n ≤ 60000, UndoRoom c s n) ∧ c.pool.cpsMax ≤ c.pool.started + 1) ∧
    (∃ c s, Issues (.cpstop none 1) c s ∧ (∀ n ≤ 60000, UndoRoom c s n) ∧ ((c.s 1).toNat = 3 ∧ ∃ x, c.pool.cp? 3 = some x ∧ x.status = .running)) ∧
    (∃ c s, Issues (.cpstop none 1) c s ∧ (∀ n ≤ 60000, UndoRoom c s n) ∧ c.pool.cp? (c.s 1).toNat = none) ∧
    (∃ c s, Issues (.cpstop none 2) c s ∧ (∀ n ≤ 60000, UndoRoom c s n) ∧ 8 ≤ (c.s 2).toNat) :=
  ⟨wit _ (sWork fun p => { p with cpsMax := 2 }) _ (by decide +kernel) (by decide +kernel),
    wit _ (sWork fun p => { p with cpsMax := 8, started := 6 }) _ (by decide +kernel) (by decide +kernel),
    wit _ (sWork id) _ (by decide +kernel) (by decide +kernel),
    wit _ (sWork fun p => { p with cps := p.cps ++ [(3, cpOf 2 [])] }) _ (by decide +kernel) ⟨by decide +kernel, cpOf 2 [], by decide +kernel, by decide +kernel⟩,
    wit _ (sWork id) _ (by decide +kernel) (by decide +kernel), wit _ (sWork id) _ (by decide +kernel) (by decide +kernel)⟩

/-- A live recipe whose tile of two KiB stands at 0x8000, in this state. -/
def recipe (st : RState) : Recipe where
  id := 5
  tenant := 0
  asid := 0
  record := 0x9000
  tbase := 0x8000
  tsize := 2048
  entry := 0
  began := 0
  args := 0
  sources := []
  sizes := []
  tiles := []
  state := st
  err := 0
  digest := 0
  gen := 1
  depth := 0
  holdUntil := none
  holders := []
  chain := 0
  requested := 0
  root := 5
  admitted := false
  shape := 0
  slice := none
  ended := false
  staging := []
  mismatches := 0
  lastCluster := none
  lost := false
  silent := 0

theorem test_witness_recipe_instructions :
    (∃ c s, Issues (.rcret none 5 2) c s ∧ (∀ n ≤ 60000, UndoRoom c s n) ∧ recipeAnswer (.rcret none 5 2) s (recipeOf s c.asid (c.s 2).toNat) = none) ∧
    (∃ c s, Issues (.rcdrop none 5 2) c s ∧ (∀ n ≤ 60000, UndoRoom c s n) ∧ (∃ s1, recipeAnswer (.rcdrop none 5 2) s (recipeOf s c.asid (c.s 2).toNat) = some (3, s1) ∧
      s1.pool? c.pid = some c.pool)) ∧
    (∃ c s, Issues (.rcqry none 5 4) c s ∧ (∀ n ≤ 60000, UndoRoom c s n) ∧ recipeAnswer (.rcqry none 5 4) s (recipeOf s c.asid (c.s 4).toNat) = some (0, s)) := by
  let s (x : RState) : State := { sWork id with recipes := [(5, recipe x)] }
  refine ⟨wit _ (s .regenerating) _ (by decide +kernel) (by decide +kernel), wit _ (s .anchored) _ (by decide +kernel) ⟨s .anchored, by decide +kernel, by decide +kernel⟩,
    wit _ (s .resident) _ (by decide +kernel) (by decide +kernel)⟩

/-! ### Witnesses: completions, traps and waits -/

/-- A pool whose undo log is past its share. -/
def fullPool : Pool := { poolOf 2 [] [] with undoTiles := (List.range 16).map fun k => (k, Tile.empty) }

/-- A load of thread 0 from 0x8000, and a store, of CP 0. -/
def oLoad : Op := { opOf .load 0 3 none with lanes := [⟨0, 0x8000, 0x8000, 0, 0⟩] }
def oStore : Op := { opOf .store 1 0 none with lanes := [⟨0, 0x8000, 0x8000, 7, 0⟩] }
def oKnown : Op := { opOf .known 0 3 none with lanes := [⟨0, 0, 0, 0, 0⟩], got := some [5] }

theorem test_witness_results_delivered :
    (∃ (s : State) (p : Pool) (y : Cp), s.pool? 0 = some p ∧ p.cp? 0 = some y ∧ p.ops.find? (fun x => x.id = 9) = some oKnown ∧
      oKnown.kind = .known ∧ oKnown.dest + 0 < 256 ∧ (oKnown.lanes.map (·.tid)).Nodup ∧ oKnown.park = none ∧ s.viral = none ∧
      s.held = [] ∧ (∀ e ∈ p.cps, e.1 ≠ oKnown.cp → e.2.holdLeft = 0) ∧ s.undoNeed (s.finishOp 0 oKnown [5]) 0 = []) ∧
    (∃ (s : State) (p : Pool), s.pool? 0 = some p ∧ p.ops.find? (fun x => x.id = 9) = some oKnown ∧
      s.undoNeed (s.finishOp 0 oKnown [5]) 0 = [0]) ∧
    (∃ (s : State) (p : Pool), s.pool? 0 = some p ∧ p.ops.find? (fun x => x.id = 9) = some oKnown ∧ s.held = [] ∧
      ∃ e ∈ p.cps, e.1 ≠ oKnown.cp ∧ e.2.holdLeft ≠ 0 ∧ e.2.begun = true) ∧
    (∃ (s : State) (p : Pool), s.pool? 0 = some p ∧ p.ops.find? (fun x => x.id = 9) = some oLoad ∧ s.redLanes p oLoad = [] ∧
      ((s.sampleLanes 0 p oLoad oLoad.atHome false oLoad.lanes).2.2.pool? 0).map (·.ops) = some p.ops) :=
  ⟨⟨sCp id [oKnown] [], _, _, rfl, rfl, rfl, rfl, by decide, by decide, rfl, rfl, rfl, by decide +kernel, by decide +kernel⟩,
    ⟨stateOf { fullPool with ops := [oKnown] }, _, rfl, rfl, by decide +kernel⟩,
    ⟨stateOf { poolOf 2 [] [] with ops := [oKnown], cps := [(0, cpOf 2 []), (1, { cpOf 2 [] with holdLeft := 1, begun := true })] }, _, rfl,
      rfl, rfl, by decide +kernel⟩,
    ⟨sCp id [oLoad] [], _, rfl, rfl, by decide +kernel, by decide +kernel⟩⟩

theorem test_witness_operations_performed :
    (∃ (s : State) (p : Pool), s.viral = none ∧ s.pool? 0 = some p ∧ p.ops.find? (fun x => x.id = 9) = some oStore ∧
      p.ops.find? (fun x => x.cp = 0 && (x.kind == .store || x.kind == .red)) = some oStore ∧
      (enteredOf (s.enterJournal 0 (oStore.entries 0 p false))).isSome = true) ∧
    (∃ (s : State) (p : Pool), s.pool? 0 = some p ∧ p.ops.find? (fun x => x.id = 9) = some (opOf (.flush 3) 1 0 none) ∧
      ∀ x ∈ s.records, x.id ≠ 3) :=
  ⟨⟨sCp id [oStore] [], _, rfl, rfl, rfl, rfl, by decide +kernel⟩, ⟨sCp id [opOf (.flush 3) 1 0 none] [], _, rfl, rfl, by decide +kernel⟩⟩

/-- The load stands parked for a page whose fault record is there, or is gone. -/
def sParked (f : List (Nat × Nat)) : State :=
  { sCp (fun x => { x with stand := .load 9 0x4001 (some ⟨0x4000, 0x4007, 0, 1⟩) }) [{ oLoad with park := some (.page 0 8) }] [] with faults := f }

theorem test_witness_parked_loads : (∃ c, (sParked [(0, 8)]).ctxOf 0 0 = some c) ∧ (sParked [(0, 8)]).parkOver (.page 0 8) = false ∧
    (sParked []).parkOver (.page 0 8) = true ∧
    (pasOf ((ctxAt (sParked []) (.nop none)).checkAll (sParked []) [(0, 0x8000)] 4 .load true)).isSome = true :=
  ⟨⟨_, rfl⟩, by decide +kernel, by decide +kernel, by decide +kernel⟩

/-- A copy inside the scratchpad, outstanding. -/
def kCopy : CopyCmd := ⟨2, 0, 64, 16, 1, 0, none⟩
def cmdOf (k : CmdKind) : Cmd := { (ctxAt (sEng id) (.nop none)).command 4 k (List.replicate 16 (some 0)) with cp := 0 }

theorem test_witness_commands_complete :
    (∃ (s : State) (c : Ctx) (pl : Plan) (s1 : State), Completable s c (cmdOf (.copy kCopy)) 0 ∧
      c.plan s { cmdOf (.copy kCopy) with park := none } = .ok pl s1 ∧ pl.park = none ∧ pl.writes = [] ∧ kCopy.gong = none) := by
  let s := sCp (fun x => { x with cpy := 1 }) [] [cmdOf (.copy kCopy)]
  have h : (match (ctxAt s (.nop none)).plan s { cmdOf (.copy kCopy) with park := none } with
    | .ok pl _ => decide (pl.park = none ∧ pl.writes = []) | _ => false) = true := by decide +kernel
  split at h
  · next pl s1 hp =>
      have h := of_decide_eq_true h
      exact ⟨s, ctxAt s (.nop none), pl, s1, ⟨rfl, by decide +kernel, by decide +kernel, rfl, by decide +kernel,
        fun k hk => absurd (show (none : Option Park) = some k from hk) (by simp), by decide +kernel⟩, hp, h.1, h.2, rfl⟩
  · cases h

/-- A matrix command on tile 0 of word 0. -/
def mOf (op : MatrixOp) : MatrixCmd := ⟨op, 0, [0], 0xAA, 8, 0, 0, 0, 0, 0, [], []⟩
def sMatrix (op : MatrixOp) (cps : KMap Cp) : State := stateOf { poolOf 32 [] [] with
  tiles := [(0, { Tile.empty with owner := some 0 })], cps := (0, { cpOf 32 [] with mtx := 1 }) :: cps
  cmds := [{ cmdOf (.matrix (mOf op)) with snap := [] }] }

theorem test_witness_matrix_execute : ∀ op ∈ [MatrixOp.mzero, .mdrn, .mma], ∃ (p : Pool) (cmd : Cmd) (y : Cp),
    (sMatrix op []).viral = none ∧ (sMatrix op []).pool? 0 = some p ∧ p.matrix? cmd.id = some (cmd, mOf op) ∧ p.cp? cmd.cp = some y ∧
      p.matrixFirst cmd (mOf op) = true ∧ ((mOf op).words.Nodup ∧ (mOf op).d + 32 ≤ 256) ∧
      (∀ e ∈ p.cps, e.1 ≠ cmd.cp → e.2.holdLeft = 0) ∧
      (op = .mma → ((mOf op).run [] (mOf op).words p 0).isSome = true) := by
  intro op hop
  refine ⟨_, { cmdOf (.matrix (mOf op)) with snap := [] }, _, rfl, rfl, by simp [Pool.matrix?, cmdOf, Ctx.command], rfl, ?_⟩
  have h : ∀ op ∈ [MatrixOp.mzero, .mdrn, .mma], ((sMatrix op []).pool? 0).any (fun p => decide (
      p.matrixFirst { cmdOf (.matrix (mOf op)) with snap := [] } (mOf op) = true ∧
      ((mOf op).words.Nodup ∧ (mOf op).d + 32 ≤ 256) ∧ (∀ e ∈ p.cps, e.1 ≠ 0 → e.2.holdLeft = 0) ∧
      (op = .mma → ((mOf op).run [] (mOf op).words p 0).isSome = true))) = true := by decide +kernel
  obtain ⟨p, hp, h1⟩ := some_of _ (h op hop)
  cases hp
  exact h1

theorem test_witness_traps : (∃ (p : Pool) (x : Cp), sMem.pool? 0 = some p ∧ p.cp? 0 = some x) ∧
    (∃ c s, Issues (.trap none 255) c s ∧ (∀ n ≤ 60000, UndoRoom c s n) ∧ True) ∧
    (∃ (s : State) (p : Pool) (x : Cp), s.viral = none ∧ s.pool? 0 = some p ∧ p.cp? 0 = some x ∧ x.status = .trapped ∧
      p.rslice = false ∧ ∀ e ∈ s.pools, 0 ∉ e.2.deps) ∧
    (∃ (s : State) (p : Pool) (x : Cp), s.pool? 0 = some p ∧ p.cp? 0 = some x ∧ x.status = .trapped ∧ p.rslice = true) :=
  ⟨⟨_, _, rfl, rfl⟩, wit _ sMem _ (by decide +kernel) trivial,
    ⟨sCp (fun x => { x with status := .trapped }) [] [], _, _, rfl, rfl, rfl, rfl, rfl, by decide +kernel⟩,
    ⟨stateOf { poolOf 2 [] [] with rslice := true, cps := [(0, { cpOf 2 [] with status := .trapped })] }, _, _, rfl, rfl, rfl, rfl⟩⟩

theorem gong_waits : ∀ ph ∈ [false, true], let s := sGong 0 fun x => { x with stand := .gong 16 ph 1 }
    let c := ctxAt s (.nop none)
    s.canIssue c.pid c.cid = true ∧ s.ctxOf c.pid c.cid = some c ∧ c.cp.stand = .gong 16 ph 1 ∧
      (s.touchSpad c.pid 16 8).pool? c.pid = some c.pool ∧ c.pool.cp? c.cid = some c.cp ∧ s.records = [] := by decide +kernel

theorem test_witness_waits_end :
    (∀ ph ∈ [false, true], ∃ c, let s := sGong 0 fun x => { x with stand := .gong 16 ph 1 }
      s.canIssue c.pid c.cid = true ∧ s.ctxOf c.pid c.cid = some c ∧ c.cp.stand = .gong 16 ph 1 ∧
      (s.touchSpad c.pid 16 8).pool? c.pid = some c.pool ∧ c.pool.cp? c.cid = some c.cp ∧ s.records = []) ∧
    (∃ c, let s := sCp (fun x => { x with stand := .watch 0x8000 6 1 3 1 }) [] []
      s.canIssue c.pid c.cid = true ∧ s.ctxOf c.pid c.cid = some c ∧ c.cp.stand = .watch 0x8000 6 1 3 1 ∧
      (pasOf (c.checkAll s [(0, 0x8000)] 8 .load false)).any (fun r => decide (r.1 = [0x8000] ∧
        (r.2.readFor 0 0 0 0x8000 8 true).1.bytes.length = 8 ∧ ofBytes (r.2.readFor 0 0 0 0x8000 8 true).1.bytes = 0)) = true) ∧
    (∃ (s : State) (p : Pool) (x : Cp), s.viral = none ∧ s.pool? 0 = some p ∧ p.cp? 0 = some x ∧ x.status = .running ∧ x.wait = none ∧
      x.holdLeft ≠ 0 ∧ s.now - x.holdSince = 4097) ∧
    (∃ (s : State) (p : Pool) (x : Cp), s.viral = none ∧ s.pool? 0 = some p ∧ p.cp? 0 = some x ∧ x.status = .running ∧ x.wait = none ∧
      x.nopre = some 0 ∧ s.now = 65536) :=
  ⟨fun ph hp => ⟨_, gong_waits ph hp⟩,
    ⟨ctxAt (sCp (fun x => { x with stand := .watch 0x8000 6 1 3 1 }) [] []) (.nop none), by decide +kernel⟩,
    ⟨{ sCp (fun x => { x with holdLeft := 1 }) [] [] with now := 4097 }, _, _, rfl, rfl, rfl, rfl, rfl, by decide +kernel, by decide +kernel⟩,
    ⟨{ sCp (fun x => { x with nopre := some 0 }) [] [] with now := 65536 }, _, _, rfl, rfl, rfl, rfl, rfl, rfl, rfl⟩⟩

/-! ### Witnesses: records, tasks and queues -/

/-- A record of pool 0 with one store at physical address 64. -/
def recordOf (accepted : Bool) (left : List Nat) : Record :=
  { id := 3, pools := [0], cluster := some 0, cores := [0], asid := some 0, entries := [{ eStore 64 with record := some 3 }], atoms := [], images := [],
    signals := [], clock := 0, accepted := accepted, seq := 4, left := left, stamp := none, sys := false, marks := true, raised := [] }

/-- A package with this record, whose store is in the journal. -/
def sRecord (accepted : Bool) (left : List Nat) : State :=
  { stateOf { poolOf 2 [] [] with durable := false } with records := [recordOf accepted left], journal := [{ eStore 64 with record := some 3 }], nextId := 10 }

theorem test_witness_commit_engine :
    (∃ r, (sRecord false []).viral = none ∧ (sRecord false []).recordOf 3 = some r ∧ r.accepted = false ∧ (sRecord false []).mayArrive r = true ∧
      ∃ p, (sRecord false []).pool? 0 = some p ∧ 0 ∈ r.pools ∧ r.marks = true ∧ p.durable = false ∧ p.rslice = false) ∧
    (∃ r, (sRecord true [homeSlice 64]).recordOf 3 = some r ∧ (sRecord true [homeSlice 64]).mayApply r (homeSlice 64) = true ∧
      (sRecord true [homeSlice 64]).recipes = []) ∧
    (∃ r, (sRecord true [homeSlice 64]).recordOf 3 = some r ∧ (sRecord true [homeSlice 64]).mayApply r (homeSlice 64 + 1) = false) ∧
    (∃ r, (sRecord true []).recordOf 3 = some r ∧ r.accepted = true ∧ r.left = []) :=
  ⟨⟨_, rfl, rfl, rfl, by decide +kernel, _, rfl, by decide +kernel, rfl, by decide +kernel, rfl⟩, ⟨_, rfl, by decide +kernel, by decide +kernel⟩,
    ⟨_, rfl, by decide +kernel⟩, ⟨_, rfl, rfl, rfl⟩⟩

theorem test_witness_entries_applied : ∃ (s : State) (r : Record) (e : Entry) (bs : List Byte), e.kind = .store bs ∧ bs.length ≤ 64 - e.pa % 64 ∧
    (∀ k, r.asid.map s.keyFor = some k → s.keyMatches k (e.pa / 64) = true) ∧ e.pa % 4 = 0 :=
  ⟨sMem, recordOf true [], eStore 60, [1, 2, 3, 4], rfl, by decide, fun k hk => by
    obtain rfl : sMem.keyFor 0 = k := Option.some.inj hk
    decide +kernel, by decide⟩

theorem test_witness_sc_clocks : sMem.viral = none ∧ sMem.coreLive 255 = true ∧
    ∃ (s : State) (h : Held) (p : Pool) (o : Op) (y : Cp), s.held[0]? = some h ∧ s.pool? h.pool = some p ∧
      p.ops.find? (fun x => x.id = h.op) = some o ∧ p.cp? o.cp = some y ∧ y.wait = none ∧ s.reported h.stamp = false :=
  ⟨rfl, by decide +kernel, { sCp id [{ oLoad with stamp := some 1 }] [] with held := [⟨0, 9, 0, 1⟩] }, _, _, _, _, rfl, rfl, rfl, rfl, rfl,
    by decide +kernel⟩

/-- A task of queue 5 that has a block at 0x8000 and ended without a failure. -/
def taskOf (succb : DWord) : Task := { Task.ofRecord ⟨0x10000, 0, 0, succb, 0x1004020, 0, 0⟩ 0 (some 5) none with status := 0 }
def sQueue : State := { sMem with
  queues := [(5, { Queue.fresh 0 0x8100 4 2 0 [] with running := [7] })]
  signals := [⟨taskOf 0x8000, 7, 0, none⟩], completions := [⟨taskOf 0, 8⟩] }

theorem test_witness_signals : sQueue.viral = none ∧ (∃ g, sQueue.signals[0]? = some g ∧ g.park = none) ∧ sQueue.records = [] ∧
    (∃ pa, sQueue.outsideTranslate 0 0x8000 true = .ok pa ∧ sQueue.sliceClear pa = true ∧ sQueue.recipeAt 0 0x8000 = none ∧ sQueue.word32 0 pa = 0) ∧
    (∃ c, sQueue.completions[0]? = some c ∧ ∀ g ∈ sQueue.signals, g.pool ≠ c.pool) ∧
    (∃ x pa, KMap.find? sQueue.queues 5 = some x ∧ sQueue.headerPa x = some pa) ∧
    (∃ bs, sQueue.outsideRead 0 0x9000 64 = some bs) := by
  have h : (match sQueue.outsideTranslate 0 0x8000 true with
    | .ok pa => decide (sQueue.sliceClear pa = true ∧ sQueue.recipeAt 0 0x8000 = none ∧ sQueue.word32 0 pa = 0) | _ => false) = true := by decide +kernel
  refine ⟨rfl, ⟨_, rfl, rfl⟩, rfl, ?_, ⟨_, rfl, by decide +kernel⟩, ?_, ?_⟩
  · split at h
    · next pa hp => exact ⟨pa, hp, of_decide_eq_true h⟩
    · cases h
  · obtain ⟨pa, h1, -⟩ := some_of (x := sQueue.headerPa { Queue.fresh 0 0x8100 4 2 0 [] with running := [7] }) (fun _ => True) (by decide +kernel)
    exact ⟨_, pa, rfl, h1⟩
  · obtain ⟨bs, h1, -⟩ := some_of (x := sQueue.outsideRead 0 0x9000 64) (fun _ => True) (by decide +kernel)
    exact ⟨bs, h1⟩

def oSysc : Op := { opOf .sysc 15 2 none with wide := true, aop := 0x40, lanes := [⟨0, 0, 0, 0, 0⟩], args := [[1, 2]] }

theorem test_witness_services : ∃ (s : State) (p : Pool) (y : Cp), s.viral = none ∧ s.pool? 0 = some p ∧
    p.ops.find? (fun x => x.id = oSysc.id && x.kind == .sysc) = some oSysc ∧ p.cp? oSysc.cp = some y ∧ y.wait = none ∧
    (∀ e ∈ p.cps, e.1 ≠ oSysc.cp → e.2.holdLeft = 0) ∧ oSysc.args.length = oSysc.lanes.length ∧ oSysc.dest < 255 ∧
    (oSysc.lanes.map (·.tid)).Nodup ∧ serviceArgs 0xFFFF = none ∧ (serviceArgs 0x40).isSome = true :=
  ⟨sCp id [oSysc] [], _, _, rfl, rfl, rfl, rfl, rfl, by decide +kernel, rfl, by decide, by decide, by decide +kernel, by decide +kernel⟩

/-- One queue with a slot and a head of its own: a task of one thread, 8 registers, one scratchpad unit and one CP. -/
def tHead : Task := Task.ofRecord ⟨0x10000, 5, 0, 0, 0x10001010001, 0, 0⟩ 0 (some 5) none
def sHead : State := { sMem with
  pools := [], queues := [(5, { Queue.fresh 0 0x8100 4 2 0 [] with heads := [tHead], slot := some ⟨2, false, false, true, false, 0⟩ })] }

theorem test_witness_dispatch : Running sHead ∧ sHead.noteReady.first.cand = some (.head 5) ∧
    (let s2 := sHead.noteReady.keepDies sHead.noteReady.first
     ∃ x, KMap.find? s2.queues 5 = some x ∧ s2.ready 5 x = some tHead ∧ s2.front x = some (tHead, false) ∧ s2.badTask tHead = none ∧
      s2.fits tHead.need ⟨[0], [(0, 1)]⟩ = true ∧
      s2.candAllows sHead.noteReady.first.blocked (.head 5) (placedCluster ⟨[0], [(0, 1)]⟩) = true ∧
      (s2.makeRoom ⟨[0], [(0, 1)]⟩).1 = true ∧ sHead.dispatchAt ≤ sHead.time) :=
  ⟨⟨rfl, rfl⟩, by decide +kernel, _, rfl, by decide +kernel, by decide +kernel, by decide +kernel, by decide +kernel, by decide +kernel,
    by decide +kernel, by decide +kernel⟩

/-- Pool 0 stands at a gong whose phase has not turned, and the test of its cluster waits for it. -/
def sStands : State :=
  { sGong 0 fun x => { x with stand := .gong 16 false 1 } with tests := [(0, ⟨0, some 0, true, false, false, 0, false⟩)] }

theorem test_witness_preemption : (Running sStands ∧ ∃ p, sStands.pool? 0 = some p ∧ sStands.noteReady.mayPreempt 0 p = true ∧
      (sStands.noteReady.commitPool 0 none {} (fun _ u => u)).any (fun s1 => (s1.pool? 0).isSome) = true) ∧
    (∃ p, sMem.pool? 0 = some p ∧ ∃ e ∈ p.cps, e.2.status = .running ∧ e.2.stand = .no) ∧
    (∃ p, (sCp (fun x => { x with stand := .gong 16 false 1 }) [oLoad] []).pool? 0 = some p ∧ ∃ o ∈ p.ops, o.isParked = false ∧ o.kind ≠ .sysc) :=
  ⟨⟨⟨rfl, rfl⟩, _, rfl, by decide +kernel, by decide +kernel⟩, ⟨_, rfl, by decide +kernel⟩, ⟨_, rfl, by decide +kernel⟩⟩

def sOut : State := { sMem with pools := [], out := [⟨4, poolOf 2 [] [], .preempted, none⟩] }

theorem test_witness_resume : Running sOut ∧ sOut.noteReady.first.cand = some (.resume 4) ∧
    (let s2 := sOut.noteReady.keepDies sOut.noteReady.first
     ∃ o, s2.out.find? (fun x => x.id = 4) = some o ∧ o.why = .preempted ∧ o.pool.tiles = [] ∧
      s2.fits o.pool.need ⟨[0], [(0, 4)]⟩ = true ∧
      s2.candAllows sOut.noteReady.first.blocked (.resume 4) (placedCluster ⟨[0], [(0, 4)]⟩) = true ∧
      (s2.makeRoom ⟨[0], [(0, 4)]⟩).1 = true) :=
  ⟨⟨rfl, rfl⟩, by decide +kernel, _, rfl, by decide +kernel, by decide +kernel, by decide +kernel, by decide +kernel, by decide +kernel⟩

theorem test_witness_queue_intervals : (∃ s : State, Running s ∧ s.tollAt + micros s.toll = s.time ∧ (KMap.find? s.queues 5).isSome = true) ∧
    (∃ s : State, Running s ∧ s.quantumAt + micros (s.toll * s.quantum) = s.time ∧ (KMap.find? s.queues 5).isSome = true) ∧
    (∃ (s : State) (p : Pending), s.viral = none ∧ s.packing = [] ++ p :: [] ∧ p.core = 0 ∧ p.entry = 0 ∧ p.since + micros 2 = s.time ∧
      p.queue = some 5 ∧ (KMap.find? s.queues 5).isSome = true) :=
  ⟨⟨{ sHead with time := micros 1000 }, ⟨rfl, rfl⟩, by decide +kernel, rfl⟩,
    ⟨{ sHead with time := micros 8000 }, ⟨rfl, rfl⟩, by decide +kernel, rfl⟩,
    { sHead with packing := [⟨0, 0, 0, some 5, [], [], 0⟩], time := micros 2 }, _, rfl, rfl, rfl, rfl, by decide +kernel, rfl, rfl⟩

/-! ### Witnesses: failures, recipes, management and devices -/

theorem test_witness_rollback : (∃ p, sMem.viral = none ∧ sMem.pool? 0 = some p ∧ (∀ e ∈ sMem.pools, 0 ∉ e.2.deps) ∧ p.rollbacks < 3 ∧
      (p.undoRegs.map (·.1)).Nodup) ∧
    (∃ p, (stateOf { poolOf 2 [] [] with rollbacks := 3 }).pool? 0 = some p ∧ 3 ≤ p.rollbacks) :=
  ⟨⟨_, rfl, rfl, by decide +kernel, by decide +kernel, by decide +kernel⟩, ⟨_, rfl, by decide +kernel⟩⟩

theorem test_witness_fences : sMem.viral = none ∧ sMem.coreLive 255 = true ∧ sMem.clusterLive 63 = true ∧ 7 ∉ sMem.fencedDies ∧
    (∃ p, sMem.pool? 0 = some p ∧ 0 ∈ p.cores ∧ p.willEnd [] = false) ∧
    ({ sMem with fencedCores := [255] } : State).coreLive 255 = false := by
  refine ⟨rfl, by decide +kernel, by decide +kernel, by decide +kernel, ⟨_, rfl, by decide +kernel, by decide +kernel⟩, by decide +kernel⟩

theorem test_witness_lost_pools : ∃ p q : Pool, ∃ (s : State) (i : Image), p.durable = false ∧ p.task.recipe = none ∧ p.task.nonReplay = false ∧
    q.durable = true ∧ s.lastImage 0 q = some i :=
  ⟨{ poolOf 2 [] [] with durable := false }, { poolOf 2 [] [] with durable := true, image := some (poolOf 2 [] []).toImage }, sMem, _, rfl, rfl, rfl, rfl, rfl⟩

theorem test_witness_errors_and_boot : sMem.residentTile 512 = none ∧ State.reset.phase = .off ∧ State.reset.viral = none ∧
    (∃ s : State, s.viral = some 3) ∧ ∃ l : List BootImage, l.length = 4 :=
  ⟨by decide +kernel, rfl, rfl, ⟨{ sMem with viral := some 3 }, rfl⟩, List.replicate 4 ⟨0, true, true, 0⟩, rfl⟩

theorem test_witness_recipe_events :
    (∃ s : State, ∃ r, s.viral = none ∧ KMap.find? s.recipes 5 = some r ∧ r.id = 5 ∧ r.state = .regenerating ∧ r.admitted = false ∧
      (∀ q ∈ s.sourceTiles r, q.state ≠ .dropped ∧ q.state ≠ .regenerating) ∧ (∀ e ∈ s.recipes, e.2.id = e.1)) ∧
    (∃ r : Recipe, r.ended = true ∧ r.state = .regenerating ∧ r.gen = 0) ∧
    (∃ r : Recipe, r.ended = true ∧ r.state = .regenerating ∧ r.gen ≠ 0 ∧ crc64 r.stagedBytes ≠ r.digest) ∧
    (∃ r : Recipe, r.state = .resident ∧ r.holders = [] ∧ r.holdUntil = none) :=
  ⟨⟨{ sMem with recipes := [(5, recipe .regenerating)] }, _, rfl, rfl, rfl, rfl, rfl, by decide +kernel, by decide +kernel⟩,
    ⟨{ recipe .regenerating with ended := true, gen := 0 }, rfl, rfl, rfl⟩,
    ⟨{ recipe .regenerating with ended := true, tsize := 8, staging := [(0, 1)] }, rfl, rfl, by decide, by decide +kernel⟩,
    ⟨recipe .resident, rfl, rfl, rfl⟩⟩

theorem test_witness_tests_and_commands : Running sMem ∧ sMem.clusterLive 63 = true ∧ (sMem.test 63).due = none ∧ (sMem.test 63).running = false ∧
    (∃ s : State, s.poolsOn 63 = [] ∧ (s.test 63).due = some 7) ∧ (∃ s : State, (s.test 63).running = true) ∧
    (∃ b, KMap.find? sMem.asids 0 = some b) ∧ KMap.find? sMem.asids 65535 = none ∧ sMem.asidBusy 0 = true ∧ sMem.asidBusy 65535 = false ∧
    sMem.queueAt 0 0x8100 = none ∧ (∀ w ∈ sMem.windows, w.1 = 0) := by
  refine ⟨⟨rfl, rfl⟩, by decide +kernel, by decide +kernel, by decide +kernel, ⟨{ sMem with tests := [(63, ⟨0, some 7, false, false, false, 0, false⟩)] }, by decide +kernel,
    by decide +kernel⟩, ⟨{ sMem with tests := [(63, ⟨0, none, false, false, true, 0, false⟩)] }, by decide +kernel⟩, ⟨_, rfl⟩, by decide +kernel, by decide +kernel,
    by decide +kernel, by decide +kernel, by decide +kernel⟩

theorem test_witness_outside_requests : Running sMem ∧ (∀ a, sMem.deviceAsid 0 0 ≠ some a) ∧
    (∃ s : State, Running s ∧ s.deviceAsid 3 0xFFFF = some 0 ∧ (s.outsideBytes 0 0x8000 8).isSome = true ∧
      (s.outsideWrite 3 0 0x8000 [1, 2]).isSome = true) ∧
    (KMap.get sMem.links Link.fresh 7).fenced = false ∧ sMem.isMemory 0x8000 = true := by
  refine ⟨⟨rfl, rfl⟩, fun a h => ?_, ⟨{ sMem with devices := [(3, 0xFFFF, 0)] }, ⟨rfl, rfl⟩, by decide +kernel, by decide +kernel, by decide +kernel⟩,
    by decide +kernel, by decide +kernel⟩
  have : sMem.deviceAsid 0 0 = none := by decide +kernel
  rw [this] at h
  cases h

/-! ### Witnesses: turns, fetches, and the further forms of the checks -/

/-- Whether a fetch gives a fault, and whether it parks. -/
def faults? (x : Fetched) : Bool := match x with | .fault _ => true | _ => false
def parks? (x : Fetched) : Bool := match x with | .park _ _ => true | _ => false

/-- The CP begins a clause at the second GiB, which has no page there; and in a tile that is down. -/
def sFar : State := { sMem with pools := [(0, { poolOf 2 [] [] with cps := [(0, { cpOf 2 [] with clause := none, pc := 0x10000000 })] })] }
def sDown : State := { sClause 0xF0000001 [] with recipes := [(5, { recipe .dropped with tbase := 0x10000 })] }

theorem test_witness_turns :
    (let s : State := { sCode [0x01000000] with agenda := [.issue 0 0] }
     s.mayTurn 0 0 = true ∧ s.wants 0 0 = some false ∧ s.mayTurn 0 5 = false) ∧
    (let s : State := { State.reset with agenda := [.pass 1] }; s.nextCp = none) ∧
    (let s := sCode [0x01000000]; s.agenda = [] ∧ s.eventTurn = false ∧ s.nextCp = some (0, 0)) := by decide +kernel

theorem test_witness_headers_not_fetched :
    (∀ s ∈ [sFar, sDown], s.canIssue 0 0 = true ∧ ((s.pool? 0).bind (·.cp? 0)).any (fun x => x.clause.isNone) = true) ∧
    faults? (sFar.fetchWord 0 0 0 0x10000000) = true ∧ parks? (sDown.fetchWord 0 0 0 0x4000) = true := by decide +kernel

theorem test_witness_clause_waits_parked : ((sClause 0xF0004001 [opOf .load 0 3 (some (.page 0 8))]).pool? 0).any (fun p =>
    decide ((∃ o ∈ p.ops, o.flag = 0) ∧ ∀ o ∈ p.ops, o.park ≠ none)) = true := by decide +kernel

theorem test_witness_checks_at_issue :
    (shapeOf (.vadd none 0 0 0)).memory = false ∧ (shapeOf (.vld none 0 0 0 (w0 0 0))).memory = true ∧
    ((ctxAt (sCp id [{ opOf .vatom 15 9 none with ord := 1 }] []) (.nop none)).acquiring).isSome = true ∧
    (ctxAt (stateOf { poolOf 2 [] [] with cps := [(0, cpOf 2 []), (1, { cpOf 2 [] with holdLeft := 1, begun := true })] })
      (.nop none)).heldByOther = true := by decide +kernel

/-- An instruction of two words whose second is past the first GiB. -/
def sEdge : State :=
  { stateOf { poolOf 2 [] [] with cps := [(0, { cpOf 2 [] with pc := 0x0FFFFFFF, clause := some ⟨0x0FFFFFFE, 0x10000006, 15, 15⟩ })] } with
    mem := Memory.writeBytes sMem.mem 0x3FFFFFFC (Word.bytes 0x1F070000) }

theorem test_witness_fetch_fault : ∃ (c : Ctx) (cl : Clause) (pc a : DWord), AtIssue c sEdge ∧ InLimits c sEdge ∧ c.pfx = none ∧
    c.cp.clause = some cl ∧ sEdge.instrAt c.core c.asid c.pool.placed c.cp.pc cl.header cl.stop = .trap 0x08 pc ∧
    (∀ b, sEdge.fetchWord c.core c.asid c.pool.placed (c.cp.pc + BitVec.ofNat 64 0) ≠ .fault b) ∧
    sEdge.fetchWord c.core c.asid c.pool.placed (c.cp.pc + BitVec.ofNat 64 1) = .fault a := by
  have h : (match sEdge.instrAt 0 0 0 0x0FFFFFFF 0x0FFFFFFE 0x10000006, sEdge.fetchWord 0 0 0 0x0FFFFFFF, sEdge.fetchWord 0 0 0 0x10000000 with
    | .trap k p, .word _ _, .fault a => decide (k = 0x08 ∧ p = 0x0FFFFFFF ∧ a = 0x40000000) | _, _, _ => false) = true := by decide +kernel
  have e : (ctxAt sEdge (.nop none)).core = 0 ∧ (ctxAt sEdge (.nop none)).asid = 0 ∧
      (ctxAt sEdge (.nop none)).pool.placed = 0 ∧ (ctxAt sEdge (.nop none)).cp.pc = 0x0FFFFFFF := by
    decide +kernel
  refine ⟨ctxAt sEdge (.nop none), ⟨0x0FFFFFFE, 0x10000006, 15, 15⟩, 0x0FFFFFFF, 0x40000000,
    ⟨by decide +kernel, by decide +kernel, by decide +kernel, by decide +kernel, by decide +kernel⟩, limits_of (by decide +kernel),
    by decide +kernel, by decide +kernel, ?_⟩
  rw [e.1, e.2.1, e.2.2.1, e.2.2.2]
  split at h
  · next k p _ _ a h1 h2 h3 =>
      obtain ⟨rfl, rfl, rfl⟩ := of_decide_eq_true h
      refine ⟨h1, fun b hb => ?_, h3⟩
      rw [show (0x0FFFFFFF : DWord) + BitVec.ofNat 64 0 = 0x0FFFFFFF from rfl, h2] at hb
      cases hb
  · cases h

theorem test_witness_thread_results_held : (∃ c s, Issues (.vadd none 4 2 3) c s ∧ (∃ r, threadResult (.vadd none 4 2 3) c = some r) ∧
      0 ∈ c.pool.cores ∧ c.pool.undoHeld ≠ 0 ∧ s.share 0 < c.pool.undoOn 0 + 4 * (c.tids.filter fun u =>
        c.pool.coreOfThread u = 0 ∧ KMap.find? c.pool.undoRegs (regKey (u, 4)) = none).length) ∧
    (∃ c s, Issues (.vatomGlobal (some (pType 9)) 2 0x82 1 ⟨0, 0, 0, 0⟩) c s ∧ c.earlier = none ∧
      ∃ l, typeClass (.vatomGlobal (some (pType 9)) 2 0x82 1 ⟨0, 0, 0, 0⟩) = some l ∧ c.tyCode ∉ l) ∧
    (∃ c s, Issues (.vredGlobal none 2 0x82 1 ⟨0, 0, 0, 0⟩) c s ∧ c.tyCode ∈ [3, 4, 7, 8, 11] ∧ c.pool.rslice = true) ∧
    (∃ c s, AtIssue c s ∧ InLimits c s ∧ c.pfx = some (pType 1) ∧ classNarrow c.tyCode = true ∧ 32 / c.ty.width ≤ 4) := by
  refine ⟨⟨_, stateOf fullPool, issues_of (by decide +kernel), ⟨_, rfl⟩, by decide +kernel, by decide +kernel, by decide +kernel⟩,
    ⟨_, sMem, issues_of (by decide +kernel), by decide +kernel, _, rfl, by decide +kernel⟩,
    ⟨_, stateOf { poolOf 2 [] [] with rslice := true }, issues_of (by decide +kernel), by decide +kernel, by decide +kernel⟩,
    ctxAt (sCp id [] []) (.vunpk (some (pType 1)) 1 2 4), sCp id [] [], ⟨by decide +kernel, by decide +kernel, by decide +kernel, by decide +kernel,
      by decide +kernel⟩, limits_of (by decide +kernel), by decide +kernel, by decide +kernel, by decide +kernel⟩

/-- A translation cache that has the leaf of the first GiB, for reads and for writes. -/
theorem test_witness_leaf_cached :
    (okOf (sMem.leafFor 0 0 0x8000 true)).isSome = true ∧
    (okOf (({ sMem with tlb := [⟨0, 0, 0, 30, 0x19F⟩] } : State).leafFor 0 0 0x8000 true)).any (fun r => r.1.2 = 30) = true := by decide +kernel

theorem test_witness_parked_load_under_hold : ∃ c s, Issues (.vld none 4 5 0 (w0 0 0)) c s ∧ c.cp.holdLeft ≠ 0 ∧
    (parkOf (c.checkAll s [(0, 0x40000000), (1, 0x40000000)] 4 .load true)).isSome = true := by
  let s : State := { sAbsent with pools := [(0, { poolOf 2 [(5, 0x40000000)] [] with cps := [(0, { cpOf 2 [(5, 0x40000000)] with holdLeft := 1 })] })] }
  exact ⟨_, s, issues_of (by decide +kernel), by decide +kernel, by decide +kernel⟩

/-- An `.sc` load of the word at 0x8000 is held at its slice. -/
def sHeld : State :=
  { sMem with pools := [(0, { poolOf 2 [(2, 0x8000)] [(257, 4)] with ops := [{ oLoad with stamp := some 1 }] })], held := [⟨0, 9, 0, 1⟩] }

/-- A later store of the same cores waits for it; so does a load of an earlier store or atomic (R288). -/
theorem test_witness_store_waits_sc :
    (let o : Op := { oStore with id := 8, stamp := some 2 }
     (sHeld.pool? 0).any (fun p => sHeld.storeWaits { p with ops := p.ops ++ [o] } o)) = true ∧
    (let a : Op := { oStore with id := 8, kind := .vatom, stamp := some 0 }
     let s : State := { sHeld with pools := sHeld.pools.map fun e => (e.1, { e.2 with ops := e.2.ops ++ [a] }) }
     (s.pool? 0).any (fun p => s.laneWaits p { oLoad with stamp := some 1 } ⟨0, 0x8000, 0x8000, 0, 0⟩)) = true := by
  decide +kernel

/-- A release whose entries do not fit beside those that its pool holds; another whose pool cannot commit. -/
theorem test_witness_commit_first :
    (let s : State := { sMem with journal := launches 1025 }
     (match s.enterJournal 0 [eStore 128] with | .commitFirst ps => decide (ps = [0]) | _ => false) = true ∧ s.canCommit 0 none = true) ∧
    (sCp id [] [{ cmdOf (.matrix (mOf .mma)) with snap := [] }]).canCommit 0 none = false := by decide +kernel

/-! ### Witnesses: records under way, ends, gathers and completions -/

/-- A record of pool 0 is under way, whose bytes its pool has read; its store at 64 is applied or still to be
applied. -/
def sUnder (left : List Nat) (ops : List Op) : State :=
  let p : Pool := { poolOf 2 [(2, 0x8000), (3, 64)] [(257, 4)] with ops := ops, seen := [3] }
  { stateOf p with records := [recordOf true left], journal := [{ eStore 64 with record := some 3 }], nextId := 10 }

theorem test_witness_reads_under_records :
    (∃ c s, Issues (.watch none 1 2 3 2) c s ∧ c.pool.rslice = false ∧ c.cp.holdLeft = 0 ∧ s.lineHeld 1 = false ∧
      (s.readFor c.pid c.core c.asid 64 8 false).1.recs ≠ [] ∧ ofBytes (s.readFor c.pid c.core c.asid 64 8 false).1.bytes ≠ (c.s 2).toNat) ∧
    (∃ c s, Issues (.fence none 1 2) c s ∧ NoneEarlier c ∧ ∃ r ∈ s.records, r.id ∈ c.pool.seen) ∧
    (∃ c s, Issues (.watch none 1 3 2 6) c s ∧ c.pool.rslice = true ∧ c.cp.holdLeft ≠ 0) ∧
    (∃ c s, Issues (.watch none 0 0 2 6) c s ∧ c.pool.rslice = false ∧ c.cp.holdLeft ≠ 0) :=
  ⟨⟨_, sUnder [] [], issues_of (by decide +kernel), by decide +kernel, by decide +kernel, by decide +kernel, by decide +kernel, by decide +kernel⟩,
    ⟨_, sUnder [] [], issues_of (by decide +kernel), by unfold NoneEarlier; decide +kernel, by decide +kernel⟩,
    ⟨_, stateOf { poolOf 2 [] [] with rslice := true, cps := [(0, { cpOf 2 [] with holdLeft := 1 })] }, issues_of (by decide +kernel),
      by decide +kernel, by decide +kernel⟩,
    ⟨_, sCp (fun x => { x with holdLeft := 1 }) [] [], issues_of (by decide +kernel), by decide +kernel, by decide +kernel⟩⟩

/-- A gather of CP 0 that waits for a page. -/
def gParked : Cmd := { cmdOf (.gather ⟨1, hDesc, [(0, 0)]⟩) with park := some (.page 0 8) }

theorem test_witness_end_waits : (∃ c s, Issues (.end_ none) c s ∧ c.outstanding.isSome = true) ∧
    (∃ c s, Issues (.end_ none) c s ∧ c.pool.ops = [] ∧ c.cp.outstandingOf 3 ≠ 0 ∧ c.pool.cmds = []) ∧
    (∃ c s, Issues (.end_ none) c s ∧ c.pool.ops = [] ∧ c.cp.outstandingOf 1 ≠ 0 ∧ c.cp.holdLeft ≠ 0 ∧
      ∃ k ∈ c.pool.cmds, k.cp = c.cid ∧ classOf k.kind = 1 ∧ k.park ≠ none) ∧
    (∃ c s, Issues (.end_ none) c s ∧ c.pool.ops = [] ∧ c.cp.outstandingOf 1 ≠ 0 ∧ c.cp.holdLeft = 0 ∧
      ∃ k ∈ c.pool.cmds, k.cp = c.cid ∧ classOf k.kind = 1 ∧ k.park ≠ none) ∧
    (∃ c s, Issues (.end_ none) c s ∧ c.pool.ops = [] ∧ (∀ k, k ≤ 3 → c.cp.outstandingOf k = 0) ∧ c.cp.faults ≠ []) ∧
    (∃ c s, Issues (.sysc none 2 4 2 0x40) c s ∧ c.pool.rslice = false ∧ c.cp.holdLeft ≠ 0) ∧
    (∃ c s, Issues (.sysc none 2 4 2 0x40) c s ∧ c.pool.rslice = true) :=
  ⟨⟨_, sCp id [opOf .spad 15 0 none] [], issues_of (by decide +kernel), by decide +kernel⟩,
    ⟨_, sCp (fun x => { x with mtx := 1 }) [] [], issues_of (by decide +kernel), by decide +kernel, by decide +kernel, by decide +kernel⟩,
    ⟨_, sCp (fun x => { x with gth := 1, holdLeft := 1 }) [] [gParked], issues_of (by decide +kernel), by decide +kernel, by decide +kernel,
      by decide +kernel, by decide +kernel⟩,
    ⟨_, sCp (fun x => { x with gth := 1 }) [] [gParked], issues_of (by decide +kernel), by decide +kernel, by decide +kernel, by decide +kernel,
      by decide +kernel⟩,
    ⟨_, sCp (fun x => { x with faults := [⟨1, 0x0A, 7⟩] }) [] [], issues_of (by decide +kernel), by decide +kernel, by decide +kernel,
      by decide +kernel⟩,
    ⟨_, sCp (fun x => { x with holdLeft := 1 }) [] [], issues_of (by decide +kernel), by decide +kernel, by decide +kernel⟩,
    ⟨_, stateOf { poolOf 2 [] [] with rslice := true }, issues_of (by decide +kernel), by decide +kernel⟩⟩

/-- A descriptor of rows in the second GiB, and a GTHR through it of row 0. -/
def hFar : Handle := { hDesc with q0 := 0x40000000 }
def sGather (held : Nat) (ops : List Op) : State :=
  { sAbsent with pools := [(0, { poolOf 2 [] [(265, 1)] with
      ops := ops, cps := [(0, { cpOf 2 [] with handles := [(0, hDesc), (1, hFar)], holdLeft := held })] })] }

theorem test_witness_gather_parks : ∀ held ∈ [0, 1], ∃ c, Issues (.gthr none 1 9 1) c (sGather held []) ∧ c.cp.gth < 63 ∧ c.cp.holdLeft = held ∧
    KMap.find? c.cp.handles 1 = some hFar ∧ gatherRowsOf c 9 = (0, 0) :: [(1, 1)] ∧
    hFar.doff + 1 * hFar.dpitch + hFar.dstBytes ≤ c.pool.spadSize ∧ 0 < hFar.count ∧
    (match (c.checkRow (lineChunks (hFar.rowAt 0) hFar.srcBytes) (sGather held [])).1 with
      | .error (.x f, _) => decide (f = .recoverable) | _ => false) = true := by
  intro held hh
  have h : ∀ held ∈ [0, 1], issuesB (.gthr none 1 9 1) (sGather held []) = true ∧ (let c := ctxAt (sGather held []) (.gthr none 1 9 1)
    c.cp.gth < 63 ∧ c.cp.holdLeft = held ∧ KMap.find? c.cp.handles 1 = some hFar ∧ gatherRowsOf c 9 = (0, 0) :: [(1, 1)] ∧
    hFar.doff + 1 * hFar.dpitch + hFar.dstBytes ≤ c.pool.spadSize ∧ 0 < hFar.count ∧
    (match (c.checkRow (lineChunks (hFar.rowAt 0) hFar.srcBytes) (sGather held [])).1 with
      | .error (.x f, _) => decide (f = .recoverable) | _ => false) = true) := by decide +kernel
  exact ⟨_, issues_of (h held hh).1, (h held hh).2⟩

/-- The GTHR outstanding by itself, parked. -/
def oGather (h : Handle) : Op := { opOf (.gather 1 h (some 9)) 15 0 (some (.page 0 8)) with lanes := [⟨0, 0, 0, 0, 0⟩, ⟨1, 0, 0, 0, 0⟩] }

theorem test_witness_gather_reissue : ∀ h ∈ [hDesc, hFar], ∃ c, (sGather 0 [oGather h]).ctxOf 0 0 = some c ∧
    (sGather 0 [oGather h]).parkOver (.page 0 8) = true ∧ (sGather 0 [oGather h]).testHolds 0 = false ∧
    (∀ e ∈ c.pool.cps, e.1 = (oGather h).cp) ∧
    (match c.gatherCheck h ((oGather h).lanes.map fun l => (l.tid, (c.pool.reg l.tid 9).toNat)) (sGather 0 [oGather h]) with
      | .ok _ => decide (h = hDesc) | .park .. => decide (h = hFar) | _ => false) = true := by
  intro h hh
  have all : ∀ h ∈ [hDesc, hFar], ((sGather 0 [oGather h]).ctxOf 0 0).any (fun c => decide (
    (sGather 0 [oGather h]).parkOver (.page 0 8) = true ∧ (sGather 0 [oGather h]).testHolds 0 = false ∧
    (∀ e ∈ c.pool.cps, e.1 = (oGather h).cp) ∧
    (match c.gatherCheck h ((oGather h).lanes.map fun l => (l.tid, (c.pool.reg l.tid 9).toNat)) (sGather 0 [oGather h]) with
      | .ok _ => decide (h = hDesc) | .park .. => decide (h = hFar) | _ => false) = true)) = true := by decide +kernel
  exact some_of _ (all h hh)

theorem test_witness_loads_wait :
    (let s : State := { sCp id [oLoad] [] with recipes := [(5, recipe .dropped)] }
     (s.pool? 0).any (fun p => decide (s.tileGone p oLoad = some (5, 0x8000) ∧ s.redLanes p oLoad = [])) = true) ∧
    (let o : Op := { oLoad with ord := 1, scope := 2, seen := [3] }; (sUnder [] [o]).acquireOpen o = true) ∧
    (let s : State := { sCp id [oStore, { oLoad with id := 8 }] [] with nextId := 10 }
     (s.pool? 0).any (fun p => s.storeWaits p oStore) = true) ∧
    (let s : State := { sCp id [oStore] [] with journal := launches 1025 }
     (s.pool? 0).any (fun p => match s.enterJournal 0 (oStore.entries 0 p false) with | .commitFirst ps => decide (ps = [0]) | _ => false) = true) ∧
    (let s := sCp id [opOf (.inv 64) 1 0 none] []; (s.ctxOf 0 0).isSome = true) ∧
    (let s := sUnder [] [opOf (.flush 3) 1 0 none]; ∃ x ∈ s.records, x.id = 3) := by decide +kernel

/-- A parked load whose page is gone altogether traps at its place; one whose page has to be awaited again waits. -/
theorem test_witness_parked_loads_again :
    (trapOf ((ctxAt (sParked []) (.nop none)).checkAll (sParked []) [(0, 0x40000000)] 4 .load true)).isSome = true ∧
    (parkOf ((ctxAt sAbsent (.nop none)).checkAll sAbsent [(0, 0x40000000)] 4 .load true)).isSome = true := by decide +kernel

/-- A copy in the scratchpad that counts on the gong at 16, whose bytes are all that is pending. -/
def kGong : CopyCmd := ⟨2, 128, 64, 16, 1, 0, some 16⟩
def sCopyGong (arr : Nat) : State := stateOf { poolOf 2 [] [] with
  spad := spadOf 16 (gongWord 2 0 16 arr), cps := [(0, { cpOf 2 [] with cpy := 1 })], cmds := [cmdOf (.copy kGong)] }

theorem test_witness_gong_copies : ∀ arr ∈ [0, 2], ∃ p y, (sCopyGong arr).pool? 0 = some p ∧ p.cp? 0 = some y ∧
    GongIs (p.spadRead 16 8) 2 0 16 arr ∧ kGong.total ≤ 16 ∧
    (let t := (ctxAt (sCopyGong arr) (.nop none)).endCmd (sCopyGong arr) (cmdOf (.copy kGong)) { bytes := tableFrom 128 (List.replicate 16 0) }
     (sCopyGong arr).undoFull t 0 = false ∧ (t.pool? 0).any (fun q => decide (q.spadRead 16 8 = gongWord 2 0 0 arr)) = true ∧
       t.canCommit 0 none = true) := by
  intro arr ha
  have h : ∀ arr ∈ [0, 2], ((sCopyGong arr).pool? 0).any (fun p => decide (p.spadRead 16 8 = gongWord 2 0 16 arr ∧
    (p.cp? 0).isSome = true ∧ arr ≤ 2 ∧ kGong.total ≤ 16 ∧
    (let t := (ctxAt (sCopyGong arr) (.nop none)).endCmd (sCopyGong arr) (cmdOf (.copy kGong)) { bytes := tableFrom 128 (List.replicate 16 0) }
     (sCopyGong arr).undoFull t 0 = false ∧ (t.pool? 0).any (fun q => decide (q.spadRead 16 8 = gongWord 2 0 0 arr)) = true ∧
       t.canCommit 0 none = true))) = true := by decide +kernel
  obtain ⟨p, hp, h1, h2, h3, h4, h5⟩ := some_of _ (h arr ha)
  obtain ⟨y, hy⟩ := Option.isSome_iff_exists.mp h2
  exact ⟨p, y, hp, hy, ⟨h1, by decide, by decide, by decide, by decide, h3⟩, h4, h5⟩

/-! ### Witnesses: plans -/

/-- Copies in from 0x8000 and out to it, and out to where no page is. -/
def kIn : CopyCmd := ⟨0, 0, 0x8000, 64, 1, 0, none⟩
def kOut : CopyCmd := { kIn with variant := 1 }
def kFar (v : Nat) : CopyCmd := { kIn with variant := v, addr := 0x40000000 }

/-- Whether a decision is made, and whether it waits. -/
def moved? {α : Type} (x : Moved α) : Bool := match x with | .ok .. => true | _ => false
def waits? {α : Type} (x : Moved α) : Bool := match x with | .wait .. => true | _ => false
def spoils? {α : Type} (x : Moved α) : Bool := match x with | .bad .. => true | _ => false

theorem test_witness_plans : let c := ctxAt sMem (.nop none)
    moved? (c.readChunks kIn.chunks [] false sMem) = true ∧ moved? (c.checkChunks kOut.chunks sMem) = true ∧
    (match c.plan sMem (cmdOf (.copy (kFar 0))) with | .ok pl _ => pl.fault.isSome | _ => false) = true ∧
    waits? ((ctxAt sAbsent (.nop none)).plan sAbsent (cmdOf (.copy (kFar 1)))) = true ∧
    moved? (c.readChunks (lineChunks hDesc.base hDesc.srcBytes) [] false sMem) = true ∧
    spoils? (c.readChunks (lineChunks 0x40000000 16) [] false sMem) = true := by decide +kernel

/-- A merge of one row of keys alone, with its block of zeros at 0x90C0. -/
def kMerge : MergeCmd := ⟨0x90C0, 0, 1, false, false, 0, 11, 4, 0⟩
def bMerge : MergeBlock := ⟨0, 0, 0, 0, 0, 0, 0, 0, 0, 0⟩

def done? {α : Type} (x : Except MStop α) : Bool := match x with | .ok _ => true | _ => false

theorem test_witness_merge_plans : let c := ctxAt sMem (.nop none)
    let m : Merging := ⟨sMem, [], 0, 0, false, []⟩
    (match m.readBytes c 0x90C0 128 with
      | .ok x => (kMerge.block? x.1).any (fun b => decide (b.akeys = bMerge.akeys ∧ b.prog = bMerge.prog))
      | _ => false) = true ∧
    kMerge.block? (List.replicate 80 0 ++ [1]) = none ∧
    done? (kMerge.rowsFrom c .rne false bMerge 1 0 m) = true ∧ done? (kMerge.oneRow c .rne false bMerge 0 m) = true ∧
    m.e < kMerge.olimit ∧ ({ kMerge with olimit := 0 } : MergeCmd).olimit ≤ m.e ∧
    (∀ x ∈ [(some 1, some 2), (some 2, some 1), (some 1, some 1)],
      (match headKey c 0 0 1 x.1 none m with | .ok r => decide (r.1 = x.1) | _ => false) = true ∧
      (match headKey c 0 0 1 x.2 none m with | .ok r => decide (r.1 = x.2) | _ => false) = true) ∧
    done? (valueOf kMerge c 0 0 m) = true ∧ done? (kMerge.emit c bMerge m 1 5) = true ∧ kMerge.isZero 0 = true ∧ kMerge.isZero 5 = false := by
  decide +kernel

/-! ### Witnesses: matrix steps and drains -/

/-- A tile whose element (0, 0) is 1.0 and whose scale codes have been captured; with the mark of poison. -/
def tileOne (poison : Bool) : Tile := ⟨.fp, 0, [(0, 0x3F800000)], [(0, 0x80)], [(0, 0x80)], true, some 0, poison, 3⟩
def sDrain (poison : Bool) : State := stateOf { poolOf 32 [] [] with
  tiles := [(0, tileOne poison)], cps := [(0, { cpOf 32 [] with mtx := 1 })], cmds := [{ cmdOf (.matrix (mOf .mdrn)) with snap := [] }] }

theorem test_witness_drains : ∀ poison ∈ [false, true], ∃ (p : Pool) (cmd : Cmd) (y : Cp), (sDrain poison).pool? 0 = some p ∧
    p.matrix? cmd.id = some (cmd, mOf .mdrn) ∧ p.cp? cmd.cp = some y ∧ p.matrixFirst cmd (mOf .mdrn) = true ∧
    (p.tile 0).capt = true ∧ (p.tile 0).poison = poison ∧ (mOf .mdrn).words.Nodup ∧ (mOf .mdrn).d + 32 ≤ 256 ∧ (mOf .mdrn).acc ≤ 1 ∧
    ∀ e ∈ p.cps, e.1 ≠ cmd.cp → e.2.holdLeft = 0 := by
  intro poison hp
  refine ⟨_, { cmdOf (.matrix (mOf .mdrn)) with snap := [] }, _, rfl, by simp [Pool.matrix?, cmdOf, Ctx.command], rfl, ?_⟩
  have h : ∀ b ∈ [false, true], ((sDrain b).pool? 0).any (fun p => decide (
    p.matrixFirst { cmdOf (.matrix (mOf .mdrn)) with snap := [] } (mOf .mdrn) = true ∧
    (p.tile 0).capt = true ∧ (p.tile 0).poison = b ∧ (mOf .mdrn).words.Nodup ∧ (mOf .mdrn).d + 32 ≤ 256 ∧ (mOf .mdrn).acc ≤ 1 ∧
    ∀ e ∈ p.cps, e.1 ≠ 0 → e.2.holdLeft = 0)) = true := by decide +kernel
  obtain ⟨p, hq, h1⟩ := some_of _ (h poison hp)
  cases hq
  exact h1

/-- R221: an MDRN of that tile, whose codes are 2.0 each, adds 4.0 to the C register of lane 0, counts its
corrections and clears its owner; R231: a poisoned one gives the canonical NaN. -/
theorem test_drain : ∀ poison ∈ [false, true],
    (nextOf (exec (.mdrnCompletion 0 4) { sDrain poison with pools := (sDrain poison).pools.map fun e =>
      (e.1, { e.2 with cmds := e.2.cmds.map fun k => { k with id := 4 } }) })).any (fun t => (t.pool? 0).any fun p =>
        p.reg 0 8 = (if poison then 0x7FC00000 else 0x40800000) && (p.tile 0).owner.isNone &&
        (p.cps.head?.any fun c => c.2.cki.getLsbD 31 == poison)) = true := by decide +kernel

/-- An error of one element is located; two in different rows are not; the run of the second stops. -/
theorem test_witness_matrix_steps :
    ((mOf .mma).step 0 Tile.empty []).isSome = true ∧ ((mOf .mma).step 0 Tile.empty [⟨0, 3, 5, 2⟩]).any (fun r => r.1.corrp = 1) = true ∧
    ((mOf .mma).step 0 Tile.empty [⟨0, 3, 5, 2⟩, ⟨0, 4, 5, 2⟩]) = none ∧
    (∀ p, (sMatrix .mma []).pool? 0 = some p → (mOf .mma).run [⟨0, 3, 5, 2⟩, ⟨0, 4, 5, 2⟩] (mOf .mma).words p 0 = none) := by
  refine ⟨by decide +kernel, by decide +kernel, by decide +kernel, fun p hp => ?_⟩
  have h : ((sMatrix .mma []).pool? 0).all (fun p => decide (((mOf .mma).run [⟨0, 3, 5, 2⟩, ⟨0, 4, 5, 2⟩] (mOf .mma).words p 0).isNone = true)) = true := by
    decide +kernel
  rw [hp] at h
  simpa using h

/-! ### Witnesses: records, signals and services -/

/-- A record with stores in two slices, and one that writes a tile that is down. -/
def rTwo : Record := { recordOf true [homeSlice 64, homeSlice 4096] with entries := [eStore 64, eStore 4096] }
def sTwo (l : List (Nat × Recipe)) : State := { sRecord true [] with records := [rTwo], recipes := l }

theorem test_witness_record_applied :
    (rTwo.left.filter fun h => h != homeSlice 64) ≠ [] ∧ (sTwo []).mayApply rTwo (homeSlice 64) = true ∧
    ((sRecord true [homeSlice 64]).tileWrites ((sRecord true [homeSlice 64]).recordWrites (recordOf true [homeSlice 64]))).1 = true ∧
    (let s := sTwo [(5, { recipe .dropped with tbase := 64 })]; (s.tileWrites (s.recordWrites rTwo)).1 = false) ∧
    (let s : State := { sMem with unacked := [(3, ([0], []))] }; s.recordOf 3 = none ∧ KMap.find? s.unacked 3 ≠ none) := by decide +kernel

theorem test_witness_held_performed : ∃ (s : State) (h : Held) (p : Pool) (o : Op) (y : Cp), s.viral = none ∧ s.held[0]? = some h ∧
    s.pool? h.pool = some p ∧ p.ops.find? (fun x => x.id = h.op) = some o ∧ p.cp? o.cp = some y ∧ y.wait = none ∧ s.reported h.stamp = true ∧
    ({ s with held := s.held.eraseIdx 0 } : State).firstStamp (h.stamp, h.core) (o.lanes.map fun l => homeSlice l.pa) [] = true ∧
    s.redLanes p o = [] ∧ s.tileGone p o = none :=
  ⟨{ sHeld with scReport := (List.range 256).map fun k => (k, 1) }, _, _, _, _, rfl, rfl, rfl, rfl, rfl, rfl, by decide +kernel, by decide +kernel,
    by decide +kernel, by decide +kernel⟩

/-- A signal for a block that is misaligned, that has no page, whose page can come back, whose tile is down, whose
slice waits. -/
theorem test_witness_signals_lost :
    (8 : Nat) % 16 ≠ 0 ∧ (match sQueue.outsideTranslate 0 0x40000000 true with | .error e => decide (e ≠ .recoverable) | _ => false) = true ∧
    (match sAbsent.outsideTranslate 0 0x40000000 true with | .error e => decide (e = .recoverable) | _ => false) = true ∧
    (let s : State := { sQueue with recipes := [(5, recipe .dropped)] }; (s.recipeAt 0 0x8000).any fun r => decide (r.state = .dropped)) = true ∧
    (sTwo []).sliceClear 64 = false ∧ (sRecord true [homeSlice 64]).records.any (fun r => r.pools.contains 0) = true := by decide +kernel

/-- A successor's record; its queue. -/
theorem test_witness_successors : (∃ bs, sQueue.outsideRead 0 0x8000 64 = some bs) ∧
    (∃ x, KMap.find? sQueue.queues 5 = some x ∧ x.heads = []) ∧ (∃ c, sQueue.completions[0]? = some c ∧ c.task.queue = some 5 ∧ c.task.status = 0) := by
  refine ⟨?_, ⟨_, rfl, rfl⟩, _, rfl, rfl, rfl⟩
  obtain ⟨bs, h, -⟩ := some_of (x := sQueue.outsideRead 0 0x8000 64) (fun _ => True) (by decide +kernel)
  exact ⟨bs, h⟩

theorem test_witness_services_done : (let s := sCp id [oSysc] []
      s.peerSent oSysc = true ∧ (∀ w ∈ s.serveTargets 0 9 0x40 [([1, 2], 0, [])], s.recipeAt 0 w.1 = none)) ∧
    (let o : Op := { oSysc with aop := 0x30 }; (sCp id [o] []).peerSent o = false) ∧
    serviceArgs 0x01 = some 3 ∧
    (let s := sMem
     s.serviceErrors 0 9 0x20 [] = [] ∧ (-2 : DWord) ∈ s.serviceErrors 0 9 0x02 [5] ∧
     (-2 : DWord) ∉ ({ s with handles := [(5, 0)] } : State).serviceErrors 0 9 0x02 [5] ∧
     (-2 : DWord) ∈ ({ s with handles := [(5, 1)] } : State).serviceErrors 0 9 0x03 [5, 0x8000, 0, 8] ∧
     (-7 : DWord) ∈ s.serviceErrors 0 9 0x03 [5, 0x8000, 0, 0x1000001] ∧
     (-3 : DWord) ∈ s.serviceErrors 0 9 0x03 [5, 0x40000000, 0, 8] ∧ (-5 : DWord) ∈ s.serviceErrors 0 9 0x30 [8, 0, 0, 0, 0, 8] ∧
     (-6 : DWord) ∈ ({ s with peerCut := [(9, 7)] } : State).serviceErrors 0 9 0x30 [7, 0, 0, 0, 0, 8]) := by decide +kernel

/-! ### Witnesses: tasks, fences and errors -/

/-- A bad record for each of its reasons, one that fits nowhere, and one before its time. -/
theorem test_witness_bad_tasks :
    (let t (e c b sh a : DWord) : Task := Task.ofRecord ⟨e, 5, c, b, sh, a, 0⟩ 0 (some 5) none
     let ok : DWord := 0x10001010001
     sMem.badTask (t 0x10000 0 0 ok 0) = none ∧ sMem.badTask (t 0x10002 0 0 ok 0) = some 0x05 ∧
     sMem.badTask (t 0x10000 0x2000000000000 0 ok 0) = some 0x05 ∧ sMem.badTask (t 0x10000 0 8 ok 0) = some 0x05 ∧
     sMem.badTask (t 0x10000 0 0 0 0) = some 0x05 ∧ sMem.badTask (t 0x10000 0 0 ok 3) = some 0x05 ∧
     sMem.badTask (t 0x10000 0 0 0x10001204000 0) = some 0x06) ∧
    (let s : State := { sHead with dispatchAt := 1 }; s.time < s.dispatchAt ∧ s.noteReady.first.cand = some (.head 5)) ∧
    sMem.noteReady.first.cand = none := by decide +kernel

/-- A pool that a lost one held back from room, a restarted one, and a recipe's. -/
theorem test_witness_losses : (∃ s : State, (s.out.find? fun x => x.id = 4).any (fun o => decide (o.why = .restarted)) = true ∧ s.noteReady.first.cand = some (.resume 4)) ∧
    (∃ (s : State) (p : Pool), p.task.recipe = some 5 ∧ (KMap.find? s.recipes 5).isSome = true) ∧
    (∃ p : Pool, p.durable = false ∧ p.task.recipe = none ∧ p.task.nonReplay = true) ∧
    (∃ (s : State) (p : Pool), p.durable = true ∧ s.lastImage 0 p = none) ∧
    (∃ s : State, ∃ x ∈ s.syscOps, x.2.aop = 0x30 ∧ ∃ a ∈ x.2.args, (a.getD 0 0).toNat = 7) :=
  ⟨⟨{ sOut with out := [⟨4, poolOf 2 [] [], .restarted, none⟩] }, by decide +kernel, by decide +kernel⟩,
    ⟨{ sMem with recipes := [(5, recipe .regenerating)] }, { poolOf 2 [] [] with task := { (poolOf 2 [] []).task with recipe := some 5 } }, rfl, rfl⟩,
    ⟨{ poolOf 2 [] [] with durable := false, task := { (poolOf 2 [] []).task with nonReplay := true } }, rfl, rfl, rfl⟩,
    ⟨sMem, { poolOf 2 [] [] with durable := true }, rfl, rfl⟩,
    ⟨sCp id [{ oSysc with aop := 0x30, args := [[7, 0, 0, 0, 0, 8]] }] [], by decide +kernel⟩⟩

/-- A pool of seven partitions on cluster 0, a line of each state, a Resident tile over one. -/
theorem test_witness_errors :
    (let p : Pool := { poolOf 2 [] [] with parts := List.range 7 }; 6 < p.parts.length ∧ p.cluster = 0 ∧ p.willEnd [] = false) ∧
    ((List.replicate 2 (0, 0) ++ [(0, 0)] : List (Nat × Nat)).filter fun x => x.1 = 0).length = 3 ∧
    (let s : State := { sMem with llc := [(512, ⟨.clean, 4, 0⟩), (513, ⟨.dirty, 5, 0⟩)] }
     s.lineState 512 = some .clean ∧ s.lineState 513 = some .dirty ∧ s.lineState 514 = none) ∧
    sMem.isMemory (64 * 512) = true ∧ sMem.isMemory (64 * 2 ^ 40) = false ∧
    (let s : State := { sMem with recipes := [(5, recipe .resident)] }; (s.residentTile 512).isSome = true) := by decide +kernel

/-! ### Witnesses: recipes, tests and requests -/

/-- A regeneration in turn whose kernel has a slice's shape at ENTRY − 16. -/
def sRegen (l : List (Nat × Recipe)) (shape : Nat) : State :=
  { sMem with
    pools := [], recipes := l, mem := Memory.writeBytes sMem.mem 0xFFF0 (toBytes shape 8) }
def rRegen : Recipe := { recipe .regenerating with entry := 0x10000 }
def rOver : Recipe := { recipe .regenerating with id := 6, tbase := 0x100000, entry := 0x10000, tiles := [5], sources := [(0x8000, 2048)], root := 6, depth := 1 }

theorem test_witness_admissions :
    (let s := sRegen [(5, rRegen)] 0x1010001010020; s.inTurn rRegen = true ∧ s.reserveFits rRegen = true ∧ (s.sliceShape rRegen).isSome = true) ∧
    (let s := sRegen [(5, rRegen)] 0; s.inTurn rRegen = true ∧ s.reserveFits rRegen = true ∧ s.sliceShape rRegen = none) ∧
    (let s := sRegen [(5, recipe .dropped), (6, rOver)] 0; ∃ q ∈ s.sourceTiles rOver, q.state = .dropped) ∧
    (let s := sRegen [(5, recipe .failed), (6, rOver)] 0; ∃ q ∈ s.sourceTiles rOver, q.state = .failed) ∧
    (let s := sRegen [(5, recipe .resident), (6, rOver)] 0x1010001010020; s.inTurn rOver = true ∧ s.reserveFits rOver = true ∧
      (s.sliceShape rOver).isSome = true ∧ ∃ q ∈ s.sourceTiles rOver, q.state = .resident) := by decide +kernel

/-- The admitted regeneration is the first candidate, and has room. -/
def sPlaced : State := sRegen [(5, { rRegen with admitted := true, shape := 0x1010001010020 })] 0

theorem test_witness_slice_placed : sPlaced.phase = .running ∧ (let s2 := sPlaced.noteReady.keepDies sPlaced.noteReady.first
    sPlaced.noteReady.first.cand = some (.regen 5) ∧ (s2.candNeed (.regen 5)).isSome = true ∧
    ((s2.candPlace sPlaced.noteReady.first.blocked (.regen 5)).any fun a => (s2.candNeed (.regen 5)).any fun n =>
      s2.fits n a && s2.candAllows sPlaced.noteReady.first.blocked (.regen 5) (placedCluster a) && (s2.makeRoom a).1) = true) := by decide +kernel

theorem test_witness_slice_traps : ∃ (s : State) (p : Pool) (r : Recipe), s.viral = none ∧ s.pool? 0 = some p ∧ p.task.recipe = some 5 ∧
    (∀ e ∈ s.pools, 0 ∉ e.2.deps) ∧ KMap.find? s.recipes 5 = some r ∧ r.id = 5 ∧ ∃ e ∈ p.cps, e.2.status = .trapped :=
  ⟨{ stateOf { poolOf 2 [] [] with
      rslice := true, task := { (poolOf 2 [] []).task with recipe := some 5 }, cps := [(0, { cpOf 2 [] with status := .trapped })] } with
      recipes := [(5, recipe .regenerating)] }, _, _, rfl, rfl, rfl, by decide +kernel, rfl, rfl, by decide +kernel⟩

theorem test_witness_regeneration_ends : (∃ r : Recipe, r.holdUntil = some 7 ∧ r.state = .resident) ∧
    (let s : State := { sMem with recipes := [(5, { recipe .resident with holdUntil := some 7 })] }; s.awaited 5 = false) ∧
    (let s : State := { sCp id [{ oLoad with park := some (.tile 5) }] [] with recipes := [(5, { recipe .resident with holdUntil := some 7 })] }
     s.awaited 5 = true ∧ s.time < 7) := ⟨⟨{ recipe .resident with holdUntil := some 7 }, rfl, rfl⟩, by decide +kernel, by decide +kernel⟩

/-- A test due on the pool's cluster, 250 ms ago, with the CP that keeps it back; one whose CPs all stand; one that
runs. -/
theorem test_witness_tests :
    (let s : State := { sMem with tests := [(0, ⟨0, some 0, false, false, false, 0, false⟩)], time := micros 250000 }
     s.testBlockers 0 = [(0, 0)] ∧ (s.test 0).due = some 0 ∧ (s.test 0).ready = false ∧ (s.test 0).cleared = false ∧ 0 + micros 250000 ≤ s.time) ∧
    (let s : State := { sStands with tests := [(0, ⟨0, some 0, false, false, false, 0, false⟩)] }; s.testBlockers 0 = [] ∧ (s.test 0).due.isSome = true) ∧
    (let s : State := { sMem with tests := [(63, ⟨0, none, false, false, true, 0, false⟩)], time := micros 20000 }
     (s.test 63).running = true ∧ (s.test 63).began + micros 20000 ≤ s.time ∧ 255 / 4 = 63) := by decide +kernel

/-- Good operands of commands, and a queue header whose slice is clear; a slot for each bound. -/
theorem test_witness_management :
    (match sMem.outsideTranslate 0 0x8100 true with | .ok pa => sMem.sliceClear pa && sMem.isMemory pa | _ => false) = true ∧
    sMem.queueAt 0 0x8100 = none ∧ (sQueue.queueAt 0 0x8100).any (fun x => !x.2.broken) = true ∧
    (let s : State := { sQueue with queues := sQueue.queues.map fun e => (e.1, { e.2 with broken := true }) }
     (s.queueAt 0 0x8100).any (fun x => x.2.broken) = true) ∧
    (let s := sCp id [oLoad] []; ∃ e ∈ s.pools, ∃ o ∈ e.2.ops, o.id < s.nextId + 10 ∧ ∃ l ∈ o.lanes, o.unperformed l = true) ∧
    sMem.sampleAt ≤ sMem.time := by decide +kernel

theorem test_witness_requests :
    (let s : State := { sMem with devices := [(4, 7, 0), (3, 0xFFFF, 0)] }
     s.deviceAsid 4 9 = some 0 ∧ s.outsideBytes 0 0x40000000 8 = none ∧ (s.outsideWrite 3 0 0x40000000 [1]).isNone = true ∧
     s.poisonedLine 512 = false ∧ s.keyMatches (some (s.keyFor 0)) 512 = true ∧ s.recipeAt 0 0x8000 = none) ∧
    (match sMem.outsideTranslate 0 0x8000 true with | .ok pa => decide (pa = 0x8000) | _ => false) = true ∧
    (match sMem.outsideTranslate 0 0x8000 false with | .ok pa => decide (pa = 0x8000) | _ => false) = true ∧
    sMem.isMemory 0x100050000000 = false ∧ portSpace 0x100050000000 = true ∧
    sMem.isMemory 0x100000000000 = false ∧ portSpace 0x100000000000 = false := by decide +kernel

/-- A link with an ASID and credits whose queue waits; a data flit in order with a right CRC, and a wrong one. -/
def linkOf : Link := { Link.fresh with asid := some 0, credits := 0x00000100, queue := [.request ⟨9, false, 0x8000, 8, []⟩] }
def flitOf (ty : BitVec 4) (bad : Bool) : PeerFlit :=
  let f : PeerFlit := { seq := 0, type := ty, ackSeq := 4095, credits := 0, payload := [], crc := 0 }
  { f with crc := crc64 (flitBody f) + (if bad then 1 else 0) }

theorem test_witness_links :
    (∀ ty ∈ [1, 3], (flitOf ty false).crc = crc64 (flitBody (flitOf ty false)) ∧ ((flitOf ty false).type = 1 →
      (flitOf ty false).seq.toNat = Link.fresh.expect)) ∧ (flitOf 1 true).crc ≠ crc64 (flitBody (flitOf 1 true)) ∧ ¬(flitOf 6 false).type.toNat < 6 ∧
    linkOf.fenced = false ∧ linkOf.queue ≠ [] ∧ (linkOf.next + 4095 - linkOf.acked) % 4096 < 512 ∧
    linkOf.credits.toNat / 256 ^ 1 % 256 ≠ 0 ∧ (∀ j, j < 1 → linkOf.credits.toNat / 256 ^ j % 256 = 0) ∧
    (let s : State := { sMem with links := [(0, linkOf)] }; (s.outsideBytes 0 0x8000 8).isSome = true ∧ (s.outsideWrite 8 0 0x8000 [1]).isSome = true) := by
  decide +kernel

/-! ### Witnesses: starts, interlocks, and the later checks of an instruction -/

/-- R106: a CP started at no word address stands between clauses. -/
theorem test_witness_start_misaligned : let s := sCp (fun x => { x with clause := none, skew := 2 }) [] []
    s.canIssue 0 0 = true ∧ ((s.pool? 0).bind (·.cp? 0)).any (fun x => x.clause.isNone && decide (x.skew ≠ 0)) = true := by decide +kernel

/-- An instruction under m1, which an outstanding gather writes: one that works, and one that is parked, without and
with a hold. -/
theorem test_witness_engine_interlock : ∀ x ∈ [(0, false), (0, true), (1, true)],
    let i : Instr := .vadd (some pMask) 4 2 3
    let s := sCp (fun y => { y with gth := 1, holdLeft := x.1 }) [] [if x.2 then gParked else { gParked with park := none }]
    let c := ctxAt s i
    AtIssue c s ∧ InLimits c s ∧ c.pfx = i.pfx ∧ WellFormed i ∧ c.interlock ((shapeOf i).runs c) (shapeOf i).sregs = none ∧
      c.engineInterlock ((shapeOf i).runs c) ((shapeOf i).mregs ++ c.pfxMask) = true ∧
      c.gatherParked ((shapeOf i).runs c) ((shapeOf i).mregs ++ c.pfxMask) = x.2 ∧ c.cp.holdLeft = x.1 := by
  intro x hx
  have h : ∀ x ∈ [(0, false), (0, true), (1, true)],
      let i : Instr := .vadd (some pMask) 4 2 3
      let s := sCp (fun y => { y with gth := 1, holdLeft := x.1 }) [] [if x.2 then gParked else { gParked with park := none }]
      let c := ctxAt s i
      (s.focus = (c.pid, c.cid) ∧ s.pool? c.pid = some c.pool ∧ c.pool.cp? c.cid = some c.cp ∧ s.canIssue c.pid c.cid = true ∧
        c.cp.clause.isSome = true) ∧ (s.now - c.cp.holdSince ≤ 4096 ∧ c.cp.nopre = none) ∧ c.pfx = i.pfx ∧ WellFormed i ∧
        c.interlock ((shapeOf i).runs c) (shapeOf i).sregs = none ∧
        c.engineInterlock ((shapeOf i).runs c) ((shapeOf i).mregs ++ c.pfxMask) = true ∧
        c.gatherParked ((shapeOf i).runs c) ((shapeOf i).mregs ++ c.pfxMask) = x.2 ∧ c.cp.holdLeft = x.1 := by decide +kernel
  obtain ⟨⟨h1, h2, h3, h4, h5⟩, ⟨h6, h7⟩, h8⟩ := h x hx
  exact ⟨⟨h1, h2, h3, h4, h5⟩, ⟨fun _ => h6, fun t ht => by rw [h7] at ht; cases ht⟩, h8⟩

/-- R120: a VDOT4 under FP32 whose FMT names no FP8 format. -/
theorem test_witness_dot_formats : ∃ c s, Issues (.vdot4 (some (pType 11)) 1 2 3) c s ∧ c.earlier = none ∧ c.tyCode = 11 ∧
    c.fmt.toNat % 16 ∉ [12, 13] :=
  ⟨_, sCp id [] [], issues_of (by decide +kernel), by decide +kernel, by decide +kernel, by decide +kernel⟩

/-- An `.sc` load of another CP of the pool is held. -/
def sOther : State := { sHeld with pools := sHeld.pools.map fun e => (e.1, { e.2 with ops := e.2.ops.map fun o => { o with cp := 1 } }) }

/-- R288: an `.sc` store and an `.sc` atomic while an `.sc` load of their bytes is held. -/
theorem test_witness_sc_open : (∃ c, Issues (.vst none 2 0x82 1 (w0 3 1)) c sOther ∧
      ∃ pas s1 o, c.checkAll sOther [(0, 0x8000), (1, 0x8004)] 4 .store true = .ok pas s1 ∧
        globalOp (.vst none 2 0x82 1 (w0 3 1)) c [(0, 0x8000), (1, 0x8004)] pas 0 none = some o ∧ s1.scOpen c.pool o = true) ∧
    (∃ c, Issues (.vatomGlobal none 2 0x82 1 ⟨0, 0, 3, 3⟩) c sOther ∧ c.earlier = none ∧
      ∃ pas s1 o, c.checkAll sOther [(0, 0x8000), (1, 0x8004)] 4 .store true = .ok pas s1 ∧
        globalOp (.vst none 2 0x82 1 (w0 3 1)) c [(0, 0x8000), (1, 0x8004)] pas 0 none = some o ∧ s1.scOpen c.pool o = true) := by
  have h : ∀ i ∈ [Instr.vst none 2 0x82 1 (w0 3 1), .vatomGlobal none 2 0x82 1 ⟨0, 0, 3, 3⟩], (pasOf ((ctxAt sOther i).checkAll sOther
      [(0, 0x8000), (1, 0x8004)] 4 .store true)).any (fun r => (globalOp (.vst none 2 0x82 1 (w0 3 1)) (ctxAt sOther i)
        [(0, 0x8000), (1, 0x8004)] r.1 0 none).any fun o => r.2.scOpen (ctxAt sOther i).pool o) = true := by decide +kernel
  have g (i : Instr) (hi : (pasOf ((ctxAt sOther i).checkAll sOther [(0, 0x8000), (1, 0x8004)] 4 .store true)).any (fun r =>
      (globalOp (.vst none 2 0x82 1 (w0 3 1)) (ctxAt sOther i) [(0, 0x8000), (1, 0x8004)] r.1 0 none).any fun o =>
        r.2.scOpen (ctxAt sOther i).pool o) = true) :
      ∃ pas s1 o, (ctxAt sOther i).checkAll sOther [(0, 0x8000), (1, 0x8004)] 4 .store true = .ok pas s1 ∧
        globalOp (.vst none 2 0x82 1 (w0 3 1)) (ctxAt sOther i) [(0, 0x8000), (1, 0x8004)] pas 0 none = some o ∧
        s1.scOpen (ctxAt sOther i).pool o = true := by
    obtain ⟨⟨pas, s1⟩, h1, h2⟩ := some_of (fun (r : List Nat × State) => (globalOp (.vst none 2 0x82 1 (w0 3 1)) (ctxAt sOther i)
      [(0, 0x8000), (1, 0x8004)] r.1 0 none).any (fun o => r.2.scOpen (ctxAt sOther i).pool o) = true) (by simpa using hi)
    obtain ⟨o, h3, h4⟩ := some_of (fun o => s1.scOpen (ctxAt sOther i).pool o = true) (by simpa using h2)
    exact ⟨pas, s1, o, pas_of h1, h3, h4⟩
  exact ⟨⟨_, issues_of (by decide +kernel), g _ (h _ (by decide))⟩, ⟨_, issues_of (by decide +kernel), by decide +kernel, g _ (h _ (by decide))⟩⟩

/-- A copy of CP 0 that waits for a page. -/
def cParked : Cmd := { cmdOf (.copy kCopy) with park := some (.page 0 8) }

/-- WAITC on c.cpy and c.mtx with one command outstanding: no copy parked; one parked, without and with a hold. -/
theorem test_witness_counter_waits :
    (∃ c s, Issues (.waitc none 3 0) c s ∧ NoFault c 3 ∧ 0 < c.cp.outstandingOf 3) ∧
    (∃ c s, Issues (.waitc none 0 0) c s ∧ NoFault c 0 ∧ 0 < c.cp.outstandingOf 0 ∧ ∀ k ∈ c.pool.cmds, k.park = none) ∧
    (∀ n ∈ [0, 1], ∃ c s, Issues (.waitc none 0 0) c s ∧ NoFault c 0 ∧ 0 < c.cp.outstandingOf 0 ∧ c.cp.holdLeft = n ∧
      ∃ k ∈ c.pool.cmds, k.cp = c.cid ∧ classOf k.kind = 0 ∧ k.park ≠ none) := by
  refine ⟨⟨_, sCp (fun x => { x with mtx := 1 }) [] [], issues_of (by decide +kernel), by unfold NoFault; decide +kernel, by decide +kernel⟩,
    ⟨_, sCp (fun x => { x with cpy := 1 }) [] [cmdOf (.copy kCopy)], issues_of (by decide +kernel), by unfold NoFault; decide +kernel,
      by decide +kernel, by decide +kernel⟩, fun n hn => ?_⟩
  have h : ∀ n ∈ [0, 1], let s := sCp (fun x => { x with cpy := 1, holdLeft := n }) [] [cParked]
      let c := ctxAt s (.waitc none 0 0)
      issuesB (.waitc none 0 0) s = true ∧ (∀ f ∈ c.cp.faults, f.cls ≠ 0) ∧ 0 < c.cp.outstandingOf 0 ∧ c.cp.holdLeft = n ∧
        ∃ k ∈ c.pool.cmds, k.cp = c.cid ∧ classOf k.kind = 0 ∧ k.park ≠ none := by decide +kernel
  exact ⟨_, _, issues_of (h n hn).1, (h n hn).2⟩

/-- R206: a CPY that names a gong where a word of zeros stands. -/
theorem test_witness_copy_no_gong : ∃ c s, Issues (.cpy none 1 2 0 0 ⟨64, 2, 128, 0x80000003⟩) c s ∧ ∃ k,
    k = copyOf c 1 2 0 0 ⟨64, 2, 128, 0x80000003⟩ ∧ CopyFits c k (wordOf c 0 1 2) (wordOf c 0 3 0x80000003) ∧ k.gong = some 24 ∧
    ((s.met c [(0, 24)] 8).pool? c.pid).any (fun q => decide (q.spadRead 24 8 = 0)) = true :=
  ⟨_, sEng id, issues_of (by decide +kernel), _, rfl, by unfold CopyFits; decide +kernel, by decide +kernel, by decide +kernel⟩

/-- A whole word of 32 threads under a format, with tile 0 given, and a register of thread 0. -/
def sFmt (fmt : Word) (t : Tile) (regs : KMap Word) : State := stateOf { poolOf 32 [] regs with
  tiles := [(0, t)], cps := [(0, { cpOf 32 [] with stack := [⟨2 ^ 32 - 1, 0x13, fmt⟩] })] }

/-- R224, R226, R227: a scale offset beyond the scratchpad; a row pitch of 0; scale codes that differ; a count above
256. -/
theorem test_witness_matrix_traps : let own : Tile := { Tile.empty with owner := some 0 }
    let Passes (i : Instr) (s : State) : Prop := let c := ctxAt s i
      issuesB i s = true ∧ (∀ t ∈ c.tids, t / 32 ∈ c.wholeWords) ∧ c.tileFault (setOf i c) = none
    let out (i : Instr) (s : State) := ((ctxAt s i).scaleOffsets (setOf i (ctxAt s i))).filter fun e => decide ((ctxAt s i).pool.spadSize < e.2 + 1)
    (let i := Instr.mma none 0 8 16; let s := sFmt 0x2AA own [(16, 0xFFFFFFFF)]
     Passes i s ∧ (out i s).map (·.1) = [0]) ∧
    (let i := Instr.mmas none 8 16 0 0 ⟨0, 0, 0, 0⟩; let s := sFmt 0x4AA own []
     Passes i s ∧ out i s = [] ∧ 0 % 65536 < (setOf i (ctxAt s i)).k / 8) ∧
    (let i := Instr.mma none 0 8 16; let s := sFmt 0xAA { own with kind := .fp, capt := true, rsc := [(0, 0x80)] } []
     let c := ctxAt s i
     Passes i s ∧ out i s = [] ∧ ((setOf i c).words.filter fun w => (tileOf c (setOf i c) w).capt &&
       ((tileOf c (setOf i c) w).rsc != (c.capture s (setOf i c)).rowScales w)) ≠ []) ∧
    (let i := Instr.mmaq none 0 8 32; let s := sFmt 0x11 { own with kind := .residue, count := 256 } []
     let c := ctxAt s i
     Passes i s ∧ out i s = [] ∧ ((setOf i c).aCode = 1 ∧ (setOf i c).bCode = 1) ∧
       (∀ w ∈ (setOf i c).words, (tileOf c (setOf i c) w).capt = false) ∧
       ∃ w ∈ (setOf i c).words, 256 < (tileOf c (setOf i c) w).count + (setOf i c).k) := by decide +kernel

/-! ### Witnesses: journals, engines and forced commits -/

/-- Entries of the pool that stand in a record already leave a later one no room: there is nothing to force. -/
theorem test_witness_room_awaited : let s : State := { sMem with journal := (launches 1025).map fun e => { e with record := some 3 } }
    (match s.enterJournal 0 [eStore 128] with | .commitFirst ps => decide (ps = []) | _ => false) = true ∧
    (∀ e ∈ s.journal, e.pool = 0 → e.record ≠ none) := by decide +kernel

/-- A write of an engine that enters, that waits for a page, that a check stops, and that finds no room. -/
theorem test_witness_engine_writes : let c := ctxAt sMem (.nop none)
    (match c.sendWrites false false [(0x8000, [1])] sMem with | .all _ => true | _ => false) = true ∧
    (match c.sendWrites false false [(0x8000, [1]), (0x40000000, [1])] sAbsent with | .wait p => decide (p = .page 0 0x40000) | _ => false) = true ∧
    (match c.sendWrites false true [(0x40000000, [1]), (0x8000, [1])] sMem with | .all _ => true | _ => false) = true ∧
    (match c.sendWrites false false [(0x40000000, [1])] sMem with | .bad f a n _ => decide (f = 0x0D ∧ a = 0x40000000 ∧ n = 1) | _ => false) = true ∧
    (match c.sendWrites false false [(0x8000, [1])] { sMem with journal := launches 1025 } with
      | .full ps l _ => decide (ps = [0] ∧ l = [(0x8000, [1])]) | _ => false) = true := by decide +kernel

/-- R266: a row whose pieces pass; one whose first piece's tile is down and whose second has no page: the page
decides. -/
theorem test_witness_rows : let c := ctxAt sMem (.nop none)
    let s : State := { sAbsent with recipes := [(5, { recipe .dropped with tbase := 0x3FFFF800 })] }
    (okOf (c.checkRow [(0x8000, 64), (0x8040, 64)] sMem)).isSome = true ∧
    (match (c.checkRow [(0x3FFFFFC0, 64), (0x40000000, 64)] s).1 with | .error (.x f, a) => decide (f = .recoverable ∧ a = 0x40000000) | _ => false) = true ∧
    (match (c.checkRow [(0x3FFFFFC0, 64)] s).1 with | .error (.x f, _) => decide (f = .tile 5) | _ => false) = true := by decide +kernel

/-- A write of a merge that stands, that has no page, and whose page can come. -/
theorem test_witness_merge_writes : let c := ctxAt sMem (.nop none)
    (match c.checkChunks [(0x8000, 4)] sMem with | .ok _ _ => true | _ => false) = true ∧
    (match c.checkChunks [(0x40000000, 4)] sMem with | .bad f _ _ => decide (f = 0x0D) | _ => false) = true ∧
    (match c.checkChunks [(0x40000000, 4)] sAbsent with | .wait p _ => decide (p = .page 0 0x40000) | _ => false) = true := by decide +kernel

/-- R180: the record of a commit that the undo log forced is under way. -/
theorem test_witness_undo_forced : let s : State := { sRecord true [] with pools := (sRecord true []).pools.map fun e => (e.1, { e.2 with undoWait := [3] }) }
    s.undoForced 0 = true ∧ (sRecord true []).undoForced 0 = false := by decide +kernel

/-- R45: a parked load of CP 0 whose page has come, while CP 1 is inside its hold. -/
theorem test_witness_reissue_held : let s : State := { sParked [] with pools := (sParked []).pools.map fun e =>
      (e.1, { e.2 with cps := e.2.cps ++ [(1, { cpOf 2 [] with holdLeft := 1, begun := true })] }) }
    s.parkOver (.page 0 8) = true ∧ s.testHolds 0 = false ∧ (s.pool? 0).any (fun p => decide (∃ e ∈ p.cps, e.1 ≠ oLoad.cp ∧
      e.2.holdLeft ≠ 0 ∧ e.2.begun = true)) = true := by decide +kernel

/-- R160: the budget has run out at a YIELD, in a SYSC, and past a load that parked. -/
theorem test_witness_budget_stands : ∀ st ∈ [Stand.yielded 0x4001, .sysc 9 0x4001, .load 9 0x4000 none, .load 9 0x4001 none],
    let s : State := { sCp (fun x => { x with nopre := some 0, stand := st }) [] [] with now := 65537 }
    s.viral = none ∧ ((s.pool? 0).bind (·.cp? 0)).any (fun x => decide (x.nopre = some 0 ∧ x.stand = st ∧ x.pc = 0x4001 ∧ x.wait = none)) = true := by
  decide +kernel

/-! ### Witnesses: tiles that are down under what the device reads and writes, and peers -/

/-- A tile of two KiB at 0x8000 that is dropped. -/
def down (s : State) : State := { s with recipes := [(5, recipe .dropped)] }

/-- A completion, a dispatch of a ring's record and a binding whose header stands in it; a service that reads it. -/
theorem test_witness_headers_down :
    (let s := down sQueue; (KMap.find? s.queues 5).any fun x => (s.headerPa x).any s.sliceClear &&
      (s.recipeAt x.asid x.header).any fun r => decide (r.state = .dropped)) = true ∧
    (let s := down { sHead with
        mem := Memory.writeBytes (Memory.writeBytes sMem.mem 0x8100 [1]) 0x8140 ([0x10000, 5, 0, 0, 0x10001010001].flatMap fun w => toBytes w 8)
        queues := [(5, { Queue.fresh 0 0x8100 4 2 0 [] with slot := some ⟨2, false, false, true, false, 0⟩, ring := true })] }
     (KMap.find? s.queues 5).any fun x => (s.front x).any fun f => f.2 && (s.badTask f.1).isNone && !(s.headerWrite x).1) = true ∧
    (match (down sMem).outsideTranslate 0 0x8100 true with | .ok pa => (down sMem).sliceClear pa && (down sMem).isMemory pa | _ => false) = true ∧
    ((down sMem).recipeAt 0 0x8100).isSome = true ∧
    (let o : Op := { oSysc with args := [[0x8000, 0]] }
     let s := sCp id [o] []
     decide (s.allReady 0 (o.args.flatMap (s.serviceReads 0 o.aop)) = (true, s)) &&
       !((down s).allReady 0 (o.args.flatMap ((down s).serviceReads 0 o.aop))).1) = true := by decide +kernel

/-- R188: a load that is parked at the checkpoint. -/
theorem test_witness_rollback_parked : ∃ p : Pool, (stateOf (({ poolOf 2 [] [] with ops := [{ oLoad with park := some (.page 0 8) }] } : Pool).checkpoint)).pool? 0 = some p ∧
    ∃ o ∈ p.ckpt.ops, o.park ≠ none ∧ o.kind = .load := ⟨_, rfl, by decide +kernel⟩

/-- A device that is bound, a tile that is down under its read, a line that its slice holds, and a read that its
port holds. -/
theorem test_witness_reads_held :
    (let s : State := { down sMem with devices := [(3, 0xFFFF, 0)] }
     Running s ∧ (s.outsideBytes 0 0x8000 8).isSome = true ∧ lineChunks 0x8000 8 = [(0x8000, 8)] ∧ s.droppedAt 0 0x8000 = some 5) ∧
    (let e : Entry := { eStore 0x8000000000 with kind := .red 0 7 0 false 1, record := some 3 }
     let s : State := { sMem with windows := [(0, (0x8000000000, 4096))], records := [{ recordOf true [] with entries := [e], sys := true }] }
     s.isMemory 0x8000000000 = true ∧ s.lineHeld (0x8000000000 / 64) = true) ∧
    (let s : State := { sMem with portReads := [⟨3, 0xFFFF, some 0, 0x8000, 8⟩] }
     Running s ∧ (s.outsideBytes 0 0x8000 8).isSome = true ∧ s.droppedAt 0 0x8000 = none ∧ s.records = []) ∧
    (let s : State := { sMem with portReads := [⟨8, 0, some 0, 0x8000, 8⟩] }
     (s.outsideBytes 0 0x8000 8).isSome = true ∧ (KMap.get s.links Link.fresh 0).fenced = false) ∧
    (∀ k, k < 8 → 0x100000000000 ≤ 0x10000FFFFFF8 + k ∧ 0x10000FFFFFF8 + k < 0x100010000000) := by
  refine ⟨⟨⟨rfl, rfl⟩, by decide +kernel⟩, by decide +kernel, ⟨⟨rfl, rfl⟩, by decide +kernel⟩, by decide +kernel, fun k hk => by omega⟩

/-- R350: a good flit of each type; a link whose replays have reached 7 and 8 without progress. -/
theorem test_witness_flits : (∀ ty ∈ [0, 1, 2, 3, 4, 5], (flitOf ty false).crc = crc64 (flitBody (flitOf ty false)) ∧
      (flitOf ty false).type.toNat < 6 ∧ (flitOf ty false).seq.toNat = Link.fresh.expect ∧ (flitOf ty false).ackSeq.toNat = Link.fresh.acked) ∧
    (∀ n ∈ [7, 8], ({ Link.fresh with replays := n } : Link).fenced = false) := by decide +kernel

/-- R306: a viral package's management block. -/
theorem test_witness_viral_reads : let s : State := { sMem with viral := some 3 }; s.viral ≠ none ∧ s.phase = .running := by decide +kernel

/-! ### Witnesses: targets, gongs, rows and journals at their limits -/

/-- R22: a branch to a word of a tile that is down, whose fetch parks, and a return to where no page is. -/
theorem test_witness_branch_targets :
    (issuesB (.br none 0xDFFF) (down sMem) = true ∧ let c := ctxAt (down sMem) (.br none 0xDFFF)
     ∃ y, branchOf (.br none 0xDFFF) c = some (true, 0x2000, y) ∧
      (match (down sMem).fetchWord c.core c.asid c.pool.placed 0x2000 with | .park k _ => decide (k = .tile 5) | _ => false) = true) ∧
    (issuesB (.ret none 5) sMem = true ∧ let c := ctxAt sMem (.ret none 5)
     ∃ y, branchOf (.ret none 5) c = some (true, 0x10000000, y) ∧
      (match sMem.fetchWord c.core c.asid c.pool.placed 0x10000000 with | .fault _ => true | _ => false) = true) :=
  ⟨⟨by decide +kernel, _, rfl, by decide +kernel⟩, by decide +kernel, _, rfl, by decide +kernel⟩

/-- R194, R212: a gong that is misaligned, one beyond the scratchpad, and a word that is none under an open hold. -/
theorem test_witness_gong_offsets : let hold (x : Cp) : Cp := { x with holdLeft := 1 }
    let none_ : State := stateOf { poolOf 2 [] [] with cps := [(0, hold (cpOf 2 [(1, 16)]))] }
    (issuesB (.garr none 9 2) (sGong 0 id) = true ∧ ((ctxAt (sGong 0 id) (.nop none)).s 2).toNat % 8 ≠ 0) ∧
    (issuesB (.garr none 9 4) (sEng fun x => { x with s := [(4, 0x10000)] }) = true ∧
      let c := ctxAt (sEng fun x => { x with s := [(4, 0x10000)] }) (.nop none)
      (c.s 4).toNat < 2 ^ 32 ∧ (c.s 4).toNat % 8 = 0 ∧ c.pool.spadSize < (c.s 4).toNat + 8) ∧
    (issuesB (.garr none 9 1) none_ = true ∧ issuesB (.gexp none 1 9) none_ = true ∧ let c := ctxAt none_ (.nop none)
      (c.s 1).toNat = 16 ∧ none_ = none_.met c [(0, 16)] 8 ∧ none_.pool? c.pid = some c.pool ∧ c.pool.spadRead 16 8 = 0) := by
  decide +kernel

/-- R265: the first row of a GTHR where no page is, where no access is allowed, past 2^56, and outside a slice's
sources. -/
theorem test_witness_gather_traps : let fails (s : State) (h : Handle) (n : Nat) : Option Fail :=
      match ((ctxAt s (.gthr none 1 9 1)).checkRow (lineChunks (h.rowAt n) h.srcBytes) s).1 with | .error e => some e.1 | .ok _ => none
    let gone (m : List Host.Cell) : State := { sGather 0 [] with mem := m }
    let denied := gone (Memory.writeBytes sMem.mem (tableAddr + 0x2008) (toBytes 3 8))
    let slice : State := { sMem with recipes := [(5, recipe .resident)], pools := [(0, { poolOf 2 [] [] with
      rslice := true, task := { (poolOf 2 [] []).task with recipe := some 5 } })] }
    (issuesB (.gthr none 1 9 1) (gone sMem.mem) = true ∧ fails (gone sMem.mem) hFar 0 = some (.x .absent)) ∧
    (issuesB (.gthr none 1 9 1) denied = true ∧ fails denied hFar 0 = some (.x .denied)) ∧
    fails (gone sMem.mem) { hDesc with q0 := 0xFFFFFFFFFFFFF8 } 0 = some (.x .address) ∧
    fails slice hDesc 0 = some .scope := by decide +kernel

/-- R178: entries that alone exceed the share of a pool, which enter, and which wait for the entries of another. -/
theorem test_witness_journal_alone : let two : State := { sMem with pools := sMem.pools ++ [(1, poolOf 2 [] [])] }
    let full : State := { two with journal := (launches 700).map fun e => { e with pool := 1 } }
    (two.journalHeld 0 0 = 0 ∧ two.share 0 < (((launches 600).filter fun e => e.core = 0).map Entry.size).sum ∧
      (match two.enterJournal 0 (launches 600) with | .entered _ => true | _ => false) = true) ∧
    (full.journalHeld 0 0 = 0 ∧ 65536 < full.journalTotal 0 + (((launches 600).filter fun e => e.core = 0).map Entry.size).sum ∧
      (match full.enterJournal 0 (launches 600) with | .commitFirst ps => decide (ps = [1]) | _ => false) = true) := by
  decide +kernel

/-- R208, R180: a copy counted on a gong with fewer bytes pending, and one whose bytes no undo log can hold. -/
theorem test_witness_copy_limits :
    (let s := stateOf { poolOf 2 [] [] with spad := spadOf 16 (gongWord 2 0 8 1), cps := [(0, { cpOf 2 [] with cpy := 1 })],
                                            cmds := [cmdOf (.copy kGong)] }
     (s.pool? 0).any (fun p => decide (p.spadRead 16 8 = gongWord 2 0 8 1 ∧ 8 < kGong.total)) = true) ∧
    (let p := poolOf 2 [] []
     let s := stateOf p
     let t := s.modPool 0 fun p => { p with undoSpad := (List.range 65600).map fun i => (i, 0) }
     s.undoFull t 0 = true) := by decide +kernel

/-! ### Layouts of the save area, and a full directory -/

/-- R191: PC in bytes 7:0, CAUSE in 8, CPX in 9, DETAIL in 15:12, ADDR in 23:16, TCOUNT in 27:24, TFIRST in 31:28. -/
theorem test_trap_record_bytes :
    (⟨0x0102030405060708, 0x0F, 3, 0xA1A2A3A4, 0x1112131415161718, 5, 0xFFFFFFFF⟩ : TrapRecord).bytes =
      [8, 7, 6, 5, 4, 3, 2, 1, 0x0F, 3, 0, 0, 0xA4, 0xA3, 0xA2, 0xA1, 0x18, 0x17, 0x16, 0x15, 0x14, 0x13, 0x12, 0x11,
        5, 0, 0, 0, 0xFF, 0xFF, 0xFF, 0xFF] ++ List.replicate 32 0 := by decide +kernel

/-- R233: OWNER 5, KIND 2, CAPT, COUNT 256 in bytes 3:0; ACC 1 of word 3 in 7:4; RSC(0) at byte 16; ELEM(0, 1) at
byte 132; 4,224 bytes in all. -/
theorem test_tile_image :
    let t : Tile := ⟨.residue, 256, [(1, 0x01000000)], [(0, 0x7F)], [], true, some 5, false, 9⟩
    let b := t.image 3 1
    b.length = 4224 ∧ b.take 16 = [0, 0x51, 5, 0, 3, 0, 1, 0, 9, 0, 0, 0, 0, 0, 0, 0] ∧ b[16]? = some 0x7F ∧
      (b.drop 132).take 4 = [0, 0, 0, 1] ∧ Tile.ofImage b = t := by decide +kernel

/-- R233: an image of KIND 3 counts as poisoned. -/
theorem test_tile_image_bad : (Tile.ofImage ([0, 0x60, 1, 0] ++ List.replicate 4220 0)).poison = true := by decide +kernel

/-- R296: a fill that finds room marks no cluster "drop all". -/
theorem test_directory_room : (sMem.fillDir 3 0x1000).dropAll = 0 ∧
    KMap.find? (sMem.fillDir 3 0x1000).dir 0x40 = some ⟨8, 0⟩ := by decide +kernel

/-! ### Completion points, holds, code that is written, and what is no longer counted -/

/-- R171, R172: a completion whose slot is held, and one whose slot is free. -/
theorem test_witness_completion_waits : ∀ b ∈ [true, false],
    let s : State := { sCp id [oKnown] [] with
      agenda := [.event (.resultOpCompletion 0 9 false)], slots := if b then [(0, 3)] else [] }
    (nextOf (exec (.resultOpCompletion 0 9 false) { s with agenda := [] })).any (fun t => s.slotsWait t == b) = true := by
  decide +kernel

/-- R171: a VADD of pool 0 that has seen seven grants, beside a VADD of pool 1 under an open hold. -/
theorem test_witness_hold_after_seven :
    let p (f : Cp → Cp) : Pool := { poolOf 2 [] [] with cps := [(0, f { cpOf 2 [] with pc := 0x4001 })] }
    let s : State := { sCode (List.replicate 6 0x60010203) with
      pools := [(0, p fun x => { x with passed := (List.range 7).map fun k => (9, 0, k) }),
        (1, p fun x => { x with holdLeft := 3 })] }
    ∃ a ∈ s.candidatesNow, ∃ b ∈ s.candidatesNow, a.rank = 3 ∧ b.rank = 2 ∧ 0 ∈ a.slots ∧ 0 ∈ b.slots ∧ 7 ≤ a.units ∧
      b.unit ∉ a.passed := by decide +kernel

/-- R107: the NOP at 0x10004 has been written since the pool was placed; before, HOLD 2 stood there. -/
theorem test_witness_code_written :
    let s : State := { sNop with overwritten := [⟨0x10004, [0, 0, 0, 9], none⟩] }
    (okOf (s.translate 0 0 0x10004 .fetch)).any (fun r => r.1 = 0x10004 && !portSpace r.1 && (r.2.droppedAt 0 0x10004).isNone &&
      (r.2.cachedCopy 0 (r.2.keyFor 0) 0x400).isNone && !r.2.lineHeld 0x400 && r.2.keyMatches (some (r.2.keyFor 0)) 0x400 &&
      r.2.wordsSince 0 (r.2.keyFor 0) 0x10004 == [[0, 0, 0, 9]] && (r.2.wordsSince 1 (r.2.keyFor 0) 0x10004).isEmpty) = true := by
  decide +kernel

/-- R107: a write of the bytes that stand there leaves nothing to be seen. -/
theorem test_overwritten : (sMem.commitLine none none 0 0x8000 [0, 0]).overwritten = [] ∧
    (sMem.commitLine none none 0 0x8000 [1, 0]).overwritten = [⟨0x8000, [0, 0], none⟩] := by decide +kernel

/-- R272: CPSTART of a CP on another core, before and after the starter's SST at 64 is committed. -/
theorem test_witness_unseen_stores :
    let s (l : List Entry) : State := { sWork (fun p => { p with cpsMax := 2, parts := (List.range 7).map (6 * ·) }) with journal := l }
    let c := ctxAt (s []) (.nop none)
    issuesB (.cpstart none 2 4) (s [{ eStore 64 with scalar := true }]) = true ∧ c.beforeStart = none ∧
      c.unseenStores (s [{ eStore 64 with scalar := true }]) 1 ≠ [] ∧ c.unseenStores (s []) 1 = [] := by decide +kernel

/-- R46: a SYSC and a WATCH of a recipe slice, with a hold open and with none. -/
theorem test_witness_slice_holds : ∀ n ∈ [0, 1],
    let s := stateOf { poolOf 2 [] [] with rslice := true, cps := [(0, { cpOf 2 [] with holdLeft := n })] }
    issuesB (.sysc none 2 4 2 0x40) s = true ∧ issuesB (.watch none 0 0 2 6) s = true := by decide +kernel

/-- R46: there the hold violation is the one recorded. -/
theorem test_slice_hold :
    let s := stateOf { poolOf 2 [] [] with rslice := true, cps := [(0, { cpOf 2 [] with holdLeft := 1 })] }
    ∀ i ∈ [Instr.sysc none 2 4 2 0x40, .watch none 0 0 2 6], (nextOf (exec i s)).any (fun t => ((t.pool? 0).bind (·.cp? 0)).any fun x =>
      x.trap.any fun r => decide (r.cause = 0x04)) = true := by decide +kernel

/-- R290, R294: a record with a device write that is not acknowledged, one that is acknowledged already, and one
that is complete. -/
theorem test_witness_acknowledgements :
    (let s := sRecord true []; ∃ r, s.recordOf 3 = some r ∧ r.accepted = true ∧ r.left = [] ∧ r.acked = false) ∧
    (let s : State := { sMem with unacked := [(3, ([0], [513]))] }; (∀ r ∈ s.records, r.id = 3 → r.acked = true) ∧
      KMap.find? s.unacked 3 = some ([0], [513])) ∧
    (let s : State := { sMem with records := [{ recordOf true [] with acked := true }] };
      (∀ r ∈ s.records, r.id = 3 → r.acked = true) ∧ KMap.find? s.unacked 3 = none) := by
  refine ⟨⟨_, rfl, rfl, rfl, rfl⟩, by decide +kernel, by decide +kernel⟩

/-- R294: the acknowledgement makes the line Clean, unless another write of it is still to be acknowledged. -/
theorem test_acknowledged_line :
    let s (l : KMap (List Nat × List Nat)) : State := { sMem with unacked := (3, ([0], [513])) :: l, llc := [(513, ⟨.dirty, 5, 0⟩)] }
    let after (l : KMap (List Nat × List Nat)) : Option LlcLine :=
      (nextOf (exec (.deviceWriteAcknowledge 3) (s l))).bind fun t => KMap.find? t.llc 513
    after [] = some ⟨.clean, 5, 0⟩ ∧ after [(4, ([1], [513]))] = some ⟨.dirty, 5, 0⟩ := by decide +kernel

/-- R287: a core in whose journal a cluster pool's entries come to stand has observed what another of its cores has.
-/
theorem test_share_clock :
    let s : State := { stateOf { poolOf 2 [] [] with parts := [0, 6] } with scClock := [(1, 7)] }
    KMap.get (s.shareClock 0 [0]).scClock 0 0 = 7 ∧ KMap.get (s.shareClock 0 [0]).scClock 0 2 = 0 := by decide +kernel

/-- R335: a signal for a block whose COUNT is 0, in a tile that is held: nothing is written. -/
theorem test_witness_signal_empty :
    let s : State := { sQueue with recipes := [(5, recipe .resident)] }
    (match s.outsideTranslate 0 0x8000 true with
      | .ok pa => s.sliceClear pa && (s.droppedAt 0 0x8000).isNone && decide (s.word32 0 pa = 0) | _ => false) = true ∧
    (nextOf (exec (.successorSignal 0) s)).any (fun t => (KMap.find? t.recipes 5).any fun r => decide (r.state = .resident)) = true := by
  decide +kernel

/-- R233: a tile with a COUNT above 256, a residue tile with a reserved bit, and the greatest COUNT there is. -/
theorem test_tile_reread :
    let t (k : TileKind) (n : Nat) (w : Word) : Tile := ⟨k, n, [(0, w)], [], [], false, some 0, false, 0⟩
    (t .fp 257 5).reread [] = { t .fp 257 5 with poison := true, elem := [] } ∧
    (t .residue 1 0x2000000).reread [] = { t .residue 1 0x2000000 with poison := true, elem := [] } ∧
    (t .fp 256 5).reread [] = t .fp 256 5 := by decide +kernel

/-- R249: a test for which a pool has been pre-empted is skipped no more. -/
theorem test_cleared : let s : State := { sMem with tests := [(0, ⟨0, some 0, false, true, false, 0, false⟩)], time := micros 250000 }
    s.testBlockers 0 = [(0, 0)] ∧ nextOf (exec (.inFieldTestSkip 0) s) = some s := by decide +kernel

/-- R350: an ACKSEQ of a flit acknowledged before says nothing; one of a flit sent since ends the run of replays. -/
theorem test_ack_backward : let l : Link := { Link.fresh with acked := 5, next := 9, replays := 7 }
    l.acknowledge 3 = l ∧ l.acknowledge 5 = l ∧ l.acknowledge 8 = { l with acked := 8, replays := 0 } ∧ l.acknowledge 9 = l := by
  decide +kernel

/-- R346: an ASID above 65,535 is a bad operand. -/
theorem test_unbind_range : sMem.asidBusy 65536 = false ∧
    (nextOf (exec (.asidUnbind 65536) sMem)).map (·.replies) = some [.status 2 1] := by decide +kernel

/-- R295: a base die has no line of CXL memory. -/
theorem test_base_die_error : nextOf (exec (.llcError (2 ^ 33) .baseDieRead) sMem) = some sMem := by decide +kernel

/-- R306: viral entry interrupts the application die, and keeps a peer's record that is accepted. -/
theorem test_viral_entry : let s : State := { sMem with records := [{ recordOf true [homeSlice 64] with port := some 8 }] }
    (nextOf (exec (.viralEntry 3) s)).any (fun t => t.records == s.records && t.replies == [.machineCheck 3]) = true := by
  decide +kernel

/-- R306: the management block of a package that is viral in recovery mode. -/
theorem test_witness_viral_recovery : let s : State := { sMem with viral := some 3, phase := .recovery }
    (nextOf (exec (.applicationDieAccess (.physical true) false 0x100000000000 8 []) s)).any (fun t =>
      t.replies == [.management s.pkgstat s.log]) = true := by decide +kernel

/-- R307: two packages with the same count of free values. -/
theorem test_witness_reset_memory : Memory.wf sMem.mem = true ∧ Memory.wf State.reset.mem = true ∧ sMem.fresh = State.reset.fresh := by
  decide +kernel

/-- R330, R331: retiring a recipe drops what the translation caches hold of its pinned pages, and of no others. -/
theorem test_pins_dropped :
    let e (va : Nat) : TlbEntry := { cluster := 0, asid := 0, base := va, bits := 12, leaf := 0 }
    let s : State := { sMem with tlb := [e 0x8000, e 0xA000] }
    (s.dropPins ((s.tenant 0).getD 0) [(0x8010, 4)]).tlb = [e 0xA000] := by decide +kernel

end Sys2Proof.Tests
end

/-! Reads after writes (R7, R107, R280, R291): the canonical form of a table determines it, bytes and numbers
correspond, what a journal that has grown by an entry reads as, and what a committed write adds to the list of
replaced bytes. -/

namespace Sys2Proof.Machine

/-! ### Tables with rising keys -/

theorem KMap.sorted_cons (j : Nat) (a : α) (m : KMap α) :
    KMap.sorted ((j, a) :: m) = true ↔ (∀ e ∈ m, j < e.1) ∧ KMap.sorted m = true := by
  simp [KMap.sorted]

theorem KMap.mem_of_find? {m : KMap α} {k : Nat} {a : α} (h : KMap.find? m k = some a) : (k, a) ∈ m := by
  induction m with
  | nil => simp at h
  | cons e m ih =>
      obtain ⟨j, b⟩ := e
      rw [KMap.find?_cons] at h
      split at h
      case isTrue hj => simp_all
      case isFalse => exact List.mem_cons_of_mem _ (ih h)

theorem KMap.find?_eq_none_of_lt {m : KMap α} {k : Nat} (h : ∀ e ∈ m, k < e.1) : KMap.find? m k = none := by
  cases hf : KMap.find? m k with
  | none => rfl
  | some a => exact absurd (h _ (KMap.mem_of_find? hf)) (Nat.lt_irrefl k)

/-- The first key of a table is the least that it lists. -/
theorem KMap.head_le_of_find? {j k : Nat} {a b : α} {m : KMap α} (h : KMap.sorted ((j, a) :: m) = true)
    (hf : KMap.find? ((j, a) :: m) k = some b) : j ≤ k := by
  rcases List.mem_cons.mp (KMap.mem_of_find? hf) with he | he
  · exact (congrArg Prod.fst he).ge
  · exact (((KMap.sorted_cons j a m).mp h).1 _ he).le

theorem KMap.eq_of_find?_eq {m n : KMap α} (hm : KMap.sorted m = true) (hn : KMap.sorted n = true)
    (h : ∀ k, KMap.find? m k = KMap.find? n k) : m = n := by
  induction m generalizing n with
  | nil =>
      cases n with
      | nil => rfl
      | cons f n =>
          obtain ⟨i, b⟩ := f
          simpa [KMap.find?_cons] using h i
  | cons e m ih =>
      obtain ⟨j, a⟩ := e
      have atJ : KMap.find? ((j, a) :: m) j = some a := by simp [KMap.find?_cons]
      cases n with
      | nil => exact absurd (atJ.symm.trans (h j)) (by simp)
      | cons f n =>
          obtain ⟨i, b⟩ := f
          have atI : KMap.find? ((i, b) :: n) i = some b := by simp [KMap.find?_cons]
          obtain rfl : j = i :=
            Nat.le_antisymm (KMap.head_le_of_find? hm ((h i).trans atI)) (KMap.head_le_of_find? hn ((h j).symm.trans atJ))
          obtain rfl : a = b := Option.some.inj (atJ.symm.trans ((h j).trans atI))
          rw [KMap.sorted_cons] at hm hn
          refine congrArg _ (ih hm.2 hn.2 fun k => ?_)
          by_cases hk : j = k
          · subst hk
            rw [KMap.find?_eq_none_of_lt hm.1, KMap.find?_eq_none_of_lt hn.1]
          · simpa [KMap.find?_cons, hk] using h k

/-! ### Memory and words -/

/-- Canonical memory lists the bytes that are not 0, and no others (R291). -/
theorem Memory.find?_of_wf {m : List Host.Cell} (h : Memory.wf m = true) (a : Nat) :
    KMap.find? m a = if Memory.read m a = 0 then none else some (Memory.read m a) := by
  cases hf : KMap.find? m a with
  | none => simp [Memory.read, KMap.get, hf]
  | some b =>
      simp only [Memory.wf, Bool.and_eq_true, List.all_eq_true, bne_iff_ne] at h
      have hb : Memory.read m a = b := by simp [Memory.read, KMap.get, hf]
      rw [hb, if_neg (h.2 _ (KMap.mem_of_find? hf))]

theorem Memory.eq_of_read_eq {m n : List Host.Cell} (hm : Memory.wf m = true) (hn : Memory.wf n = true)
    (h : ∀ a, Memory.read m a = Memory.read n a) : m = n :=
  KMap.eq_of_find?_eq (Bool.and_eq_true_iff.mp hm).1 (Bool.and_eq_true_iff.mp hn).1 fun a => by
    rw [Memory.find?_of_wf hm, Memory.find?_of_wf hn, h]

@[simp] theorem ofBytes_cons (b : Byte) (bs : List Byte) : ofBytes (b :: bs) = b.toNat + 256 * ofBytes bs := rfl

theorem ofBytes_toBytes (n len : Nat) : ofBytes (toBytes n len) = n % 256 ^ len := by
  induction len generalizing n with
  | zero => simp [toBytes, ofBytes, Nat.mod_one]
  | succ len ih => simp [toBytes, ih, Nat.pow_succ', Nat.mod_mul]

/-! ### The journal of a core -/

/-- An entry is still the journal's to read as long as no record that carries it has taken effect (R276, R281). -/
theorem State.entryApplied_eq_false_iff (s : State) (e : Entry) : s.entryApplied e = false ↔
    ∀ r ∈ s.records, e.record = some r.id → ¬(r.accepted = true ∧ r.left = []) := by
  unfold State.entryApplied Record.effective
  cases e.record with
  | none => simp
  | some id => simp [eq_comm (a := id)]

theorem Entry.data_store {e : Entry} {bs : List Byte} (h : e.kind = .store bs) : e.data = some (e.pa, bs) := by
  simp [Entry.data, h]

/-- R280, R281, R289: the entry that entered the journal last hides what stood before at the bytes it stores, where
it is read at all. -/
theorem State.journalByte_append_store (s : State) {e : Entry} {bs : List Byte} (core a : Nat) (h : e.kind = .store bs) :
    ({ s with journal := s.journal ++ [e] } : State).journalByte core a =
      if (e.core = core ∧ e.slice = false ∧ s.entryApplied e = false) ∧ e.pa ≤ a ∧ a < e.pa + bs.length
      then some (bs.getD (a - e.pa) 0, e) else s.journalByte core a := by
  have applied (x : Entry) : ({ s with journal := s.journal ++ [e] } : State).entryApplied x = s.entryApplied x := rfl
  simp only [State.journalByte, applied, List.foldl_append, List.foldl_cons, List.foldl_nil, Entry.data_store h]
  by_cases hr : e.core = core ∧ e.slice = false ∧ s.entryApplied e = false
  · simp [hr]
  · rw [if_neg (by simpa [and_assoc] using hr), if_neg fun hc => hr hc.1]

/-! ### The bytes that a committed write replaces -/

@[simp] theorem State.rekey_overwritten (s : State) (key : Option (Nat × Nat)) (line : Nat) :
    (s.rekey key line).overwritten = s.overwritten := by
  unfold State.rekey
  split <;> rfl

@[simp] theorem State.putLlc_overwritten (s : State) (line : Nat) (ways : List Nat) (st : LineState) :
    (s.putLlc line ways st).overwritten = s.overwritten := by
  unfold State.putLlc
  rcases s.pickWay line ways with _ | ⟨w, _ | old⟩ <;> rfl

@[simp] theorem State.touchLlc_overwritten (s : State) (tenant : Option Nat) (line : Nat) (write : Bool) :
    (s.touchLlc tenant line write).overwritten = s.overwritten := by
  unfold State.touchLlc
  split
  case h_1 => rfl
  case h_2 => exact s.putLlc_overwritten _ _ _

@[simp] theorem State.snoop_overwritten (s : State) (by_ : Option Nat) (line : Nat) :
    (s.snoop by_ line).overwritten = s.overwritten := by
  cases by_ <;> rfl

theorem State.noteOverwrite_overwritten (s : State) (pa : Nat) (bs : List Byte) :
    (s.noteOverwrite pa bs).overwritten = s.overwritten ++
      if s.standing pa bs.length = bs then [] else [⟨pa, s.standing pa bs.length, KMap.find? s.keyOf (pa / 64)⟩] := by
  unfold State.noteOverwrite
  by_cases h : s.standing pa bs.length = bs <;> simp [h, lineOf]

/-- R107: of all that a committed write does, only the note of what it replaces adds to that list. -/
theorem State.commitLine_overwritten (s : State) (by_ : Option Nat) (key : Option (Nat × Nat)) (clock pa : Nat)
    (bs : List Byte) : (s.commitLine by_ key clock pa bs).overwritten = (s.noteOverwrite pa bs).overwritten := by
  simp [State.commitLine]

end Sys2Proof.Machine

/-! ### The obligation -/

section

open Sys2Proof Sys2Proof.Machine

/-- Settles O4: each clause is the lemma about its operation; the canonical form of memory lists exactly the bytes that
are not 0 in rising order, which is why memories that read alike are equal. -/
theorem memoryReadsAndWrites : Obligations.MemoryReadsAndWrites := by
  unfold Obligations.MemoryReadsAndWrites
  refine ⟨Memory.read_write, Memory.wf_write, fun m n => Memory.eq_of_read_eq, ofBytes_toBytes, ?_, ?_⟩
  · intro s e bs core a h
    rw [s.journalByte_append_store core a h]
    simp only [State.entryApplied_eq_false_iff, and_assoc]
  · intro s by_ key clock pa bs
    rw [State.commitLine_overwritten, State.noteOverwrite_overwritten]

end

/-! Every instruction and every event answers a next state (R56, R306). -/

namespace Sys2Proof.Machine

/-- The outcome is a next state. -/
def Answers (o : Host.Outcome State Fault Refusal) : Prop := ∃ t, o = .next t

theorem answers_next (t : State) : Answers (.next t) := ⟨t, rfl⟩

theorem answers_ite {p : Prop} [Decidable p] {a b : Host.Outcome State Fault Refusal} (ha : Answers a) (hb : Answers b) :
    Answers (if p then a else b) := by
  split
  · exact ha
  · exact hb

/-! ### The meanings -/

/-- The one wrapper of every instruction answers, whatever the instruction's own effect comes to (R105). -/
theorem issue_answers (i : Instr) (h : Shape) (body : Ctx → State → Res) (s : State) : Answers (issue i h body s) := by
  unfold issue
  dsimp only
  repeat' split
  all_goals exact answers_next _

theorem execScalar_answers (i : Instr) (d : Byte) (srcs : List Byte) (f : Ctx → DWord) (s : State) :
    Answers (execScalar i d srcs f s) := issue_answers _ _ _ s

theorem execReduce_answers (i : Instr) (d a : Byte) (f : Ctx → Nat → Nat → Nat × Flags) (empty : Ty → Nat) (s : State) :
    Answers (execReduce i d a f empty s) := issue_answers _ _ _ s

theorem execBitReduce_answers (i : Instr) (d a : Byte) (f : Nat → Nat → Nat) (empty : Nat → Nat) (s : State) :
    Answers (execBitReduce i d a f empty s) := issue_answers _ _ _ s

theorem execLanes_answers (i : Instr) (cls : Nat → Bool) (clocks : Ctx → Nat) (d : Byte) (srcs : List Nat)
    (fourth : Bool) (f : Ctx → List Nat → Nat × Flags) (s : State) : Answers (execLanes i cls clocks d srcs fourth f s) :=
  issue_answers _ _ _ s

theorem execBits_answers (i : Instr) (d : Byte) (srcs : List Nat) (fourth : Bool) (f : Ctx → List Nat → Nat) (s : State) :
    Answers (execBits i d srcs fourth f s) := issue_answers _ _ _ s

theorem execSpecial_answers (i : Instr) (d a : Byte) (f : RMode → Bool → FVal → Nat × Flags) (s : State) :
    Answers (execSpecial i d a f s) := execLanes_answers _ _ _ _ _ _ _ s

theorem execPermute_answers (i : Instr) (d a : Byte) (runs : Ctx → List Run) (sregs : List Nat) (ok : Ctx → Option Res)
    (src : Ctx → Nat → Option Nat) (other : Ctx → Nat → DWord) (s : State) :
    Answers (execPermute i d a runs sregs ok src other s) := issue_answers _ _ _ s

theorem execRecipe_answers (i : Instr) (d a : Byte) (f : Ctx → State → Option Recipe → Option (DWord × State)) (s : State) :
    Answers (execRecipe i d a f s) := issue_answers _ _ _ s

theorem completion_answers (cls pid id : Nat) (s : State) : Answers (completion cls pid id s) := by
  unfold completion
  split
  · exact answers_ite (answers_next _) (answers_next _)
  · exact answers_next s

theorem execWatchReread_answers (pool cp : Nat) (s : State) : Answers (execWatchReread pool cp s) := by
  unfold execWatchReread
  repeat' split
  all_goals exact answers_next _

theorem execGongWake_answers (pool cp : Nat) (s : State) : Answers (execGongWake pool cp s) := by
  unfold execGongWake
  dsimp only
  repeat' split
  all_goals exact answers_next _

theorem execIllegalInstruction_answers (cause : Byte) (pc : DWord) (s : State) :
    Answers (execIllegalInstruction cause pc s) := by
  unfold execIllegalInstruction
  repeat' split
  all_goals exact answers_next _

theorem execPreemption_answers (pool : Nat) (s : State) : Answers (execPreemption pool s) := by
  refine answers_ite (answers_next s) ?_
  dsimp only
  split
  · exact answers_next _
  · exact answers_next _

theorem execResume_answers (pool : Nat) (at_ : Placement) (s : State) : Answers (execResume pool at_ s) := by
  refine answers_ite (answers_next s) ?_
  dsimp only
  split
  · exact answers_ite (answers_next _) (answers_next _)
  · exact answers_next _

theorem execTaskDispatch_answers (at_ : Placement) (s : State) : Answers (execTaskDispatch at_ s) := by
  refine answers_ite (answers_next s) ?_
  dsimp only
  split
  · exact answers_next _
  · exact answers_next _

theorem execSlicePoolPlace_answers (recipe : Nat) (at_ : Placement) (s : State) :
    Answers (execSlicePoolPlace recipe at_ s) := by
  refine answers_ite (answers_next s) ?_
  dsimp only
  split
  · exact answers_ite (answers_next _) (answers_next _)
  · exact answers_next _

theorem execPackingTimeout_answers (core entry : Nat) (s : State) : Answers (execPackingTimeout core entry s) := by
  unfold execPackingTimeout
  split
  · exact answers_next s
  · exact answers_next _

theorem execQueueBind_answers (header asid : Nat) (caplog cls : Byte) (s : State) :
    Answers (execQueueBind header asid caplog cls s) := by
  refine answers_ite (answers_next s) ?_
  split
  · exact answers_next _
  · exact answers_next _

/-- Every instruction is an issue, and every event is made of next states. -/
theorem exec_answers (i : Instr) (s : State) : Answers (exec i s) := by
  cases i with
  | copyCompletion | gatherCompletion | mergeCompletion => exact completion_answers _ _ _ s
  | gongWake pool cp => exact execGongWake_answers pool cp s
  | watchReread pool cp => exact execWatchReread_answers pool cp s
  | illegalInstruction cause pc => exact execIllegalInstruction_answers cause pc s
  | preemption pool => exact execPreemption_answers pool s
  | resume pool at_ => exact execResume_answers pool at_ s
  | taskDispatch at_ => exact execTaskDispatch_answers at_ s
  | slicePoolPlace recipe at_ => exact execSlicePoolPlace_answers recipe at_ s
  | packingTimeout core entry => exact execPackingTimeout_answers core entry s
  | queueBind header asid caplog cls => exact execQueueBind_answers header asid caplog cls s
  | tollIntervalBoundary | quantumBoundary | scClockReport => exact answers_ite (answers_next s) (answers_next _)
  | resultOpCompletion | performedOpCompletion | syscServiceDone | matrixCommandExecute | mdrnCompletion | holdTimeout
  | nopreBudget | faultRecordComplete | parkedLoadReissue | commitRecordAccept | commitRecordApply | successorSignal
  | taskCompletion | rollback | coreFence | sequencerError | clusterFence | clusterCacheError | llcError | dieFence
  | viralEntry | packageReset | boot | regenerationAdmit | slicePoolEnd | sliceTrap | regenHoldExpiry
  | recipeLineEviction | inFieldTestDue | inFieldTestRun | inFieldTestSkip | scAccessPerform | powerSample
  | thermalTrip | deviceDmaRequest | pcieAtomicop | peerFlitReceive | peerRequest | peerLinkFence | trapHandlerResume
  | poolTerminate | asidBind | asidUnbind | shootdown | queueUnbind | class0Grant | wayMask | recipeLimit | keyLoad
  | deviceBind | timing | fenceCommand | viralCommand | cxlWindow | powerLimit | attest | inFieldTestEnd
  | deviceWriteAcknowledge | replaysClear | applicationDieAccess => exact answers_next _
  | sadd | ssub | smul | smulh | sand | sor | sxor | sshl | sshr | ssar | smin | smax | scmp | ssel | smov | sli |
  spopc | sclz | sfns | sbrev | getm | getf =>
      simp only [exec, execSadd, execSsub, execSmul, execSmulh, execSand, execSor, execSxor, execSshl, execSshr,
        execSsar, execSmin, execSmax, execScmp, execSsel, execSmov, execSli, execSpopc, execSclz, execSfns,
        execSbrev, execGetm, execGetf]
      exact execScalar_answers _ _ _ _ s
  | rsum | rmin | rmax =>
      simp only [exec, execRsum, execRmin, execRmax]
      exact execReduce_answers _ _ _ _ _ s
  | rand | ror =>
      simp only [exec, execRand, execRor]
      exact execBitReduce_answers _ _ _ _ _ s
  | vadd | vsub | vmul | vmulh | vfma | vmin | vmax | vabs | vneg | vclamp | vshl | vshr | vsar | vrot | vcmp =>
      simp only [exec, execVadd, execVsub, execVmul, execVmulh, execVfma, execVmin, execVmax, execVabs,
        execVneg, execVclamp, execVshl, execVshr, execVsar, execVrot, execVcmp]
      exact execLanes_answers _ _ _ _ _ _ _ s
  | vand | vor | vxor | vandn | vnot | vpopc | vclz | vctz | vfns | vbrev | vbfx | vsel | vmov =>
      simp only [exec, execVand, execVor, execVxor, execVandn, execVnot, execVpopc, execVclz, execVctz,
        execVfns, execVbrev, execVbfx, execVsel, execVmov]
      exact execBits_answers _ _ _ _ _ s
  | vrcp | vrsq | vsqt | vex2 | vlg2 | vsin | vcos =>
      simp only [exec, execVrcp, execVrsq, execVsqt, execVex2, execVlg2, execVsin, execVcos]
      exact execSpecial_answers _ _ _ _ s
  | vperm | vshfl | vbcst =>
      simp only [exec, execVperm, execVshfl, execVbcst]
      exact execPermute_answers _ _ _ _ _ _ _ _ s
  | rcret | rcdrop | rcqry =>
      simp only [exec, execRcret, execRcdrop, execRcqry]
      exact execRecipe_answers _ _ _ _ s
  | nop | end_ | br | brc | brz | brnz | loop | call | ret | bri | sld | sst | getst | clrst | setm | setmLiteral
  | setf | setfLiteral | srch | srca | srcx | popr | pushm | savm | maskop | frst | dropf | rcount | rget | rput |
  hold | relh | argmx | scan | match_ | waitc | watch | yield_ | nopre | pre | ginit | garr | gexp | gwait | fence
  | vdot4 | vscal | vbfi | vmovScalar | vmovi | tid | vcvt | vpack | vunpk | vld | vst | vlds | vsts | vldw | vstw
  | vatomSpad | vatomGlobal | vredSpad | vredGlobal | pref | flush | inv | cpy | gthr | gdesc | mrg | mma | mmaq |
  mmas | mdrn | mzero | launch | spawn | succ | cpstart | cpstop | rcdef | sysc | trap | chke =>
      simp only [exec, execNop, execEnd_, execBr, execBrc, execBrz, execBrnz, execLoop, execCall, execRet,
        execBri, execSld, execSst, execGetst, execClrst, execSetm, execSetmLiteral, execSetf, execSetfLiteral,
        execSrch, execSrca, execSrcx, execPopr, execPushm, execSavm, execMaskop, execFrst, execDropf,
        execRcount, execRget, execRput, execHold, execRelh, execArgmx, execScan, execMatch, execWaitc,
        execWatch, execYield_, execNopre, execPre, execGinit, execGarr, execGexp, execGwait, execFence,
        execVdot4, execVscal, execVbfi, execVmovScalar, execVmovi, execTid, execVcvt, execVpack, execVunpk,
        execVld, execVst, execVlds, execVsts, execVldw, execVstw, execVatomSpad, execVatomGlobal, execVredSpad,
        execVredGlobal, execPref, execFlush, execInv, execCpy, execGthr, execGdesc, execMrg, execMma, execMmaq,
        execMmas, execMdrn, execMzero, execLaunch, execSpawn, execSucc, execCpstart, execCpstop, execRcdef,
        execSysc, execTrap, execChke]
      exact issue_answers _ _ _ s

/-! ### The moves -/

theorem State.issueAt_answers (s : State) (p c : Nat) : Answers (s.issueAt p c) := by
  unfold State.issueAt
  split
  case h_1 => exact answers_next s
  case h_2 =>
    split
    case h_1 => exact answers_next _
    case h_2 =>
      split
      · exact exec_answers _ _
      · exact exec_answers _ _
      · exact answers_next _

theorem State.doEvent_answers (s : State) (i : Instr) : Answers (s.doEvent i) := by
  obtain ⟨t, ht⟩ := exec_answers i s
  unfold State.doEvent
  rw [ht]
  exact answers_next _

theorem State.doDue_answers (s : State) (d : Due) : Answers (s.doDue d) := by
  cases d with
  | event i => exact s.doEvent_answers i
  | stop | peer | send => exact answers_next _

theorem State.firstDue_answers (s : State) (l : List Due) (o : Host.Outcome State Fault Refusal)
    (h : s.firstDue l = some o) : Answers o := by
  induction l with
  | nil => simp [State.firstDue] at h
  | cons d l ih =>
      obtain ⟨t, ht⟩ := s.doDue_answers d
      simp only [State.firstDue, ht] at h
      split at h
      · exact ih h
      · exact ⟨t, (Option.some.inj h).symm⟩

theorem State.eventStep_answers (s : State) : Answers s.eventStep := by
  unfold State.eventStep
  dsimp only
  split
  case h_1 r hr => exact State.firstDue_answers _ _ _ hr
  case h_2 => exact answers_next _

theorem State.issueTurn_answers (s : State) (p c : Nat) : Answers (s.issueTurn p c) := by
  obtain ⟨t, ht⟩ := ({ s with focus := (p, c), eventTurn := true } : State).issueAt_answers p c
  unfold State.issueTurn
  rw [ht]
  exact answers_ite (answers_next _) (answers_next s)

theorem State.autoStep_answers (s : State) : Answers s.autoStep := by
  refine answers_ite s.eventStep_answers ?_
  split
  · exact s.issueTurn_answers _ _
  · exact s.eventStep_answers

theorem State.letPass_answers (s : State) (agenda : List Move) : Answers (s.letPass agenda) := by
  unfold State.letPass
  split
  · exact s.issueTurn_answers _ _
  · exact answers_next _

theorem State.agendaEvent_answers (s : State) (i : Instr) (r : List Move) : Answers (s.agendaEvent i r) := by
  obtain ⟨t, ht⟩ := exec_answers i { s with agenda := r }
  unfold State.agendaEvent
  rw [ht]
  exact answers_ite (s.letPass_answers _) (answers_next _)

theorem step_answers (s : State) : Answers (step s) := by
  unfold step State.move
  split
  · exact answers_ite (s.agendaEvent_answers _ _) (answers_next _)
  · exact State.issueTurn_answers _ _ _
  · exact s.letPass_answers _
  · exact answers_next _
  · exact answers_next _
  · exact answers_next _
  · exact s.autoStep_answers

end Sys2Proof.Machine

section

open Sys2Proof Sys2Proof.Machine

/-- Settles O3: no arm of `exec` and no move answers anything but a next state. -/
theorem everyStepAnswers : Obligations.EveryStepAnswers := by
  unfold Obligations.EveryStepAnswers
  exact ⟨exec_answers, step_answers⟩

end

/-! What an instruction's own effect comes to where it issues, and the statements about holds, intervals, the responder
stack and the mask registers (R36 to R38, R45, R147 to R151, R157, R160). -/

namespace Sys2Proof.Machine

/-! ### An instruction's own effect -/

/-- The meaning of an instruction is its issue in its own shape, with an effect that in this context comes to `r`. -/
def Does (i : Instr) (c : Ctx) (s : State) (r : Res) : Prop :=
  ∃ body, exec i s = issue i (shapeOf i) body s ∧ body c s = r

theorem Does.exec {i : Instr} {c : Ctx} {s : State} {r : Res} (d : Does i c s r) (h : Issues i c s) :
    exec i s = .next (issued i (shapeOf i) c s r) := by
  obtain ⟨body, hx, rfl⟩ := d
  rw [hx, issue_eq h]

theorem Does.traps {i : Instr} {c : Ctx} {s : State} {k : Byte} {m : Mask} {x : Word} {a : DWord}
    (d : Does i c s (.trap k m x a)) (h : Issues i c s) : Traps i c s k m x a := d.exec h

theorem Does.stays {i : Instr} {c : Ctx} {s t : State} (d : Does i c s (.stay t)) (h : Issues i c s) :
    Machine.exec i s = .next t := d.exec h

theorem Does.completes {i : Instr} {c : Ctx} {s : State} {f : Cp → Cp} (d : Does i c s (.done (c.modCp s f)))
    (h : Issues i c s) (hr : UndoRoom c s 0) (hpc : (f c.cp).pc = c.cp.pc) (hcl : (f c.cp).clause = c.cp.clause)
    (hh : (f c.cp).holdLeft = c.cp.holdLeft) (hbg : (f c.cp).begun = c.cp.begun) :
    ∃ t, Machine.exec i s = .next t ∧ Effect i c s t c.pool (f c.cp) := by
  obtain ⟨body, hx, hb⟩ := d
  exact completes_cp h hx f hb hr hpc hcl hh hbg

theorem State.modCp_modCp (s : State) (p c : Nat) (f g : Cp → Cp) : (s.modCp p c f).modCp p c g = s.modCp p c (g ∘ f) := by
  rw [State.modCp, State.modCp, State.modPool_modPool]
  refine congrArg (s.modPool p) (funext fun q => ?_)
  simp only [Function.comp, Pool.modCp, KMap.modify, List.map_map]
  congr 1
  refine List.map_congr_left fun e _ => ?_
  by_cases h : e.1 = c <;> simp [h]

theorem Ctx.modCp_modCp (c : Ctx) (s : State) (f g : Cp → Cp) : c.modCp (c.modCp s f) g = c.modCp s (g ∘ f) :=
  s.modCp_modCp _ _ f g

/-! ### Holds and intervals -/

theorem Cp.holding_iff (x : Cp) : x.holding = true ↔ x.holdLeft ≠ 0 := by simp [Cp.holding]

theorem Cp.holding_eq_false (x : Cp) : x.holding = false ↔ x.holdLeft = 0 := by simp [Cp.holding]

section
variable (p : Option Prefix) (c : Ctx) (s : State)

theorem does_nop : Does (.nop p) c s (.done (c.modCp s id)) :=
  ⟨_, Eq.trans (b := execNop p s) rfl (by unfold execNop; rfl), by rw [Ctx.modCp_id]⟩

theorem does_pre : Does (.pre p) c s (.done (c.modCp s fun x => { x with nopre := none })) :=
  ⟨_, Eq.trans (b := execPre p s) rfl (by unfold execPre; rfl), rfl⟩

theorem does_nopre : Does (.nopre p) c s
    (if c.cp.nopre.isSome then .illegal else .done (c.modCp s fun x => { x with nopre := some s.now })) :=
  ⟨_, Eq.trans (b := execNopre p s) rfl (by unfold execNopre; rfl), rfl⟩

theorem does_hold (b : Byte) : Does (.hold p b) c s
    (if c.cp.holding then .illegal
      else .done (c.modCp s fun x => { x with holdLeft := b.toNat, holdSince := s.now, begun := false })) :=
  ⟨_, Eq.trans (b := execHold p b s) rfl (by unfold execHold; rfl), rfl⟩

theorem does_relh : Does (.relh p) c s (.done (c.modCp s fun x => { x with holdLeft := 0 })) :=
  ⟨_, Eq.trans (b := execRelh p s) rfl (by unfold execRelh; rfl), rfl⟩

end

/-- The pool and the CP after an instruction that takes no broadcast slot and changes its CP by f, also its hold. -/
structure PlainDone (i : Instr) (c : Ctx) (s t : State) (q : Pool) (x y : Cp) : Prop where
  only : OnlyPool c.pid s t
  pool : t.pool? c.pid = some q
  rest : { q with cps := c.pool.cps } = c.pool
  others : ∀ j, j ≠ c.cid → q.cp? j = c.pool.cp? j
  cp : q.cp? c.cid = some x
  past : PastPc i c x
  left : { x with pc := c.cp.pc, clause := c.cp.clause, stand := c.cp.stand, next := c.cp.next } = y

theorem Does.completes_plain {i : Instr} {c : Ctx} {s : State} {f : Cp → Cp} (d : Does i c s (.done (c.modCp s f)))
    (h : Issues i c s) (hr : UndoRoom c s 0) (hb : (shapeOf i).broadcast = false) (hpc : (f c.cp).pc = c.cp.pc)
    (hcl : (f c.cp).clause = c.cp.clause) (hst : (f c.cp).stand = c.cp.stand) (hn : (f c.cp).next = c.cp.next) :
    ∃ t q x, Machine.exec i s = .next t ∧ PlainDone i c s t q x (f c.cp) := by
  have hq : (c.modCp s f).pool? c.pid = some (c.pool.modCp c.cid f) := by
    rw [Ctx.modCp, State.modCp, State.pool?_modPool_self, h.pool]; rfl
  have hu : s.undoNeed (c.modCp s f) c.pid = [] := undoNeed_of_room h.pool 0 hr hq rfl fun _ => Nat.le_refl _
  refine ⟨c.finish (shapeOf i) i.words (c.modCp s f), (c.pool.modCp c.cid f).modCp c.cid (c.finishCp (shapeOf i) i.words s.now),
    c.finishCp (shapeOf i) i.words s.now (f c.cp), ?_, ?_⟩
  · rw [d.exec h, issued, hu]
  rw [Ctx.finish_eq]
  refine ⟨⟨rfl, fun q hne => ?_, fun a => rfl⟩, ?_, rfl, fun j hj => ?_, ?_, ⟨?_, ?_, rfl⟩, ?_⟩
  · exact (State.pool?_modPool_ne _ _ hne).trans (State.pool?_modPool_ne _ _ hne)
  · refine (State.pool?_modPool_self _ _ _).trans ?_
    rw [hq, Option.map_some, Ctx.finishPool, hb]
    rfl
  · rw [Pool.cp?_modCp_ne _ _ hj, Pool.cp?_modCp_ne _ _ hj]
  · rw [Pool.cp?_modCp_self, Pool.cp?_modCp_self, h.cp]; rfl
  · rw [Ctx.finishCp_pc, hpc]
  · rw [Ctx.finishCp_clause, Ctx.finishCp_pc, hcl]
  · unfold Ctx.finishCp Cp.advance
    simp only [hb, Bool.false_and, Bool.false_eq_true, if_false]
    rw [← hpc, ← hcl, ← hst, ← hn]

/-! ### Sets of threads -/

theorem Mask.getLsbD_full (n u : Nat) (hu : u < 16384) : (Mask.full n).getLsbD u = decide (u < n) := by
  unfold Mask.full
  rw [BitVec.getLsbD_ofNat, Nat.testBit_two_pow_sub_one]
  simp [hu]

theorem Mask.getLsbD_lowest (m : Mask) (u : Nat) : (Mask.lowest m).getLsbD u = true ↔ Lowest m u := by
  unfold Mask.lowest Lowest
  rw [BitVec.getLsbD_and, BitVec.getLsbD_neg]
  cases hm : m.getLsbD u with
  | false => simp
  | true => simp [BitVec.lt_of_getLsbD hm]

theorem Mask.getLsbD_ofTids (l : List Nat) (u : Nat) : (Mask.ofTids l).getLsbD u = true ↔ u < 16384 ∧ u ∈ l := by
  have key (n : Nat) : (l.foldl (fun n t => n ||| 2 ^ t) n).testBit u = (n.testBit u || decide (u ∈ l)) := by
    induction l generalizing n with
    | nil => simp
    | cons a l ih =>
        rw [List.foldl_cons, ih, Nat.testBit_or, Nat.testBit_two_pow]
        simp [Bool.or_assoc, eq_comm]
  unfold Mask.ofTids
  rw [BitVec.getLsbD_ofNat, key]
  simp

theorem maskOp_bit (op : Nat) (h : op < 7) (all a b : Mask) (u : Nat) (hu : u < 16384) :
    (maskOp op all a b).getLsbD u = maskBit op (all.getLsbD u) (a.getLsbD u) (b.getLsbD u) := by
  interval_cases op <;> simp [maskOp, maskBit, hu]

/-! ### Searches and the stack -/

/-- R37: a push over level 15 is an overflow. -/
theorem Ctx.push_full (c : Ctx) (s : State) (m : Mask) (h : c.cp.stack.length = 16) :
    c.push s m = .trap 0x02 0 0 0 := by
  unfold Ctx.push Cp.levelIndex
  rw [if_pos (by omega)]

/-- R36: a push copies MODE and FMT of the level below. -/
theorem Ctx.push_done (c : Ctx) (s : State) (m : Mask) (h : c.cp.stack.length ≤ 15) :
    c.push s m = .done (c.modCp s fun x => { x with stack := ⟨m, c.mode, c.fmt⟩ :: x.stack }) := by
  unfold Ctx.push Cp.levelIndex
  rw [if_neg (by omega)]

theorem Ctx.replaceTop_zero (c : Ctx) (s : State) (f : Mask → Mask → Mask) (h : c.cp.stack.length = 1) :
    c.replaceTop s f = .illegal := by
  unfold Ctx.replaceTop
  rcases hs : c.cp.stack with _ | ⟨k, _ | ⟨j, r⟩⟩ <;> simp_all

theorem Ctx.replaceTop_cons (c : Ctx) (s : State) (f : Mask → Mask → Mask) {k j : Level} {r : List Level}
    (h : c.cp.stack = k :: j :: r) :
    c.replaceTop s f = .done (c.modCp s fun x => x.setTop { k with mask := f k.mask j.mask }) := by
  unfold Ctx.replaceTop
  rw [h]

/-- R148: the threads that a search pushes are those of the parent that match. -/
theorem Ctx.getLsbD_search (c : Ctx) (parent : Mask) (d a b : Byte) (u : Nat) :
    (c.search parent d.toNat a.toNat b.toNat).1.getLsbD u = true ↔
      u ∈ Mask.tids parent c.pool.threads ∧ (c.found d a b u).1 = true := by
  unfold Ctx.search
  rw [Mask.getLsbD_ofTids]
  constructor
  · rintro ⟨-, hu⟩
    obtain ⟨e, he, rfl⟩ := List.mem_map.mp hu
    obtain ⟨hm, hb⟩ := List.mem_filter.mp he
    obtain ⟨t, ht, rfl⟩ := List.mem_map.mp hm
    exact ⟨ht, hb⟩
  · rintro ⟨ht, hb⟩
    exact ⟨BitVec.lt_of_getLsbD ((Mask.mem_tids _ _ _).mp ht).2, List.mem_map.mpr
      ⟨(u, c.found d a b u), List.mem_filter.mpr ⟨List.mem_map.mpr ⟨u, ht, rfl⟩, hb⟩, rfl⟩⟩

/-- R85: the flags of a search are those of all its comparisons. -/
theorem Ctx.search_flags (c : Ctx) (parent : Mask) (d a b : Byte) :
    (c.search parent d.toNat a.toNat b.toNat).2 =
      allFlags ((Mask.tids parent c.pool.threads).map (c.found d a b)) := by
  unfold Ctx.search allFlags
  simp only [List.foldl_map]
  rfl

section
variable (p : Option Prefix) (c : Ctx) (s : State)

theorem does_srch (d a b : Byte) : Does (.srch p d a b) c s (c.pushSearch s c.set d a b) :=
  ⟨_, Eq.trans (b := execSrch p d a b s) rfl (by unfold execSrch; rfl), rfl⟩

theorem does_srca (d a b : Byte) : Does (.srca p d a b) c s (c.pushSearch s c.all d a b) :=
  ⟨_, Eq.trans (b := execSrca p d a b s) rfl (by unfold execSrca; rfl), rfl⟩

theorem does_pushm (m : BitVec 3) : Does (.pushm p m) c s (c.push s (c.cp.mreg m.toNat)) :=
  ⟨_, Eq.trans (b := execPushm p m s) rfl (by unfold execPushm; rfl), rfl⟩

theorem does_popr : Does (.popr p) c s (if c.cp.levelIndex = 0 then .trap 0x03 0 0 0
    else .done (c.modCp s fun x => { x with stack := x.stack.tail })) :=
  ⟨_, Eq.trans (b := execPopr p s) rfl (by unfold execPopr; rfl), rfl⟩

theorem does_srcx : Does (.srcx p) c s (c.replaceTop s fun t u => u &&& ~~~t) :=
  ⟨_, Eq.trans (b := execSrcx p s) rfl (by unfold execSrcx; rfl), rfl⟩

theorem does_frst : Does (.frst p) c s (c.replaceTop s fun t _ => Mask.lowest t) :=
  ⟨_, Eq.trans (b := execFrst p s) rfl (by unfold execFrst; rfl), rfl⟩

theorem does_dropf : Does (.dropf p) c s (c.replaceTop s fun t _ => t &&& ~~~Mask.lowest t) :=
  ⟨_, Eq.trans (b := execDropf p s) rfl (by unfold execDropf; rfl), rfl⟩

theorem does_savm (m : BitVec 3) :
    Does (.savm p m) c s (.done (c.modCp s fun x => x.setM m.toNat c.cp.topLevel.mask)) :=
  ⟨_, Eq.trans (b := execSavm p m s) rfl (by unfold execSavm; rfl), rfl⟩

theorem does_maskop (md ma mb op : BitVec 3) : Does (.maskop p md ma mb op) c s (.done (c.modCp s fun x =>
    x.setM md.toNat (maskOp op.toNat c.all (c.cp.mreg ma.toNat) (c.cp.mreg mb.toNat)))) :=
  ⟨_, Eq.trans (b := execMaskop p md ma mb op s) rfl (by unfold execMaskop; rfl), rfl⟩

/-- The two searches push what they find in the parent set that `searchOf` gives. -/
theorem does_search {i : Instr} {parent : Mask} {d a b : Byte} (hi : searchOf i c = some (parent, d, a, b)) :
    Does i c s (c.pushSearch s parent d a b) := by
  cases i with
  | srch p d' a' b' =>
      obtain ⟨rfl, rfl, rfl, rfl⟩ : c.set = parent ∧ d' = d ∧ a' = a ∧ b' = b := by simpa [searchOf] using hi
      exact does_srch p c s d' a' b'
  | srca p d' a' b' =>
      obtain ⟨rfl, rfl, rfl, rfl⟩ : c.all = parent ∧ d' = d ∧ a' = a ∧ b' = b := by simpa [searchOf] using hi
      exact does_srca p c s d' a' b'
  | _ => cases hi

end

/-- How SRCX, FRST and DROPF make the new top set of the top set and its parent. -/
def topSet : Instr → Mask → Mask → Mask
  | .srcx _, k, j => j &&& ~~~k
  | .frst _, k, _ => Mask.lowest k
  | _, k, _ => k &&& ~~~Mask.lowest k

theorem does_topSet {i : Instr} {p : Option Prefix} (hi : i ∈ [.srcx p, .frst p, .dropf p]) (c : Ctx) (s : State) :
    Does i c s (c.replaceTop s (topSet i)) := by
  simp only [List.mem_cons, List.not_mem_nil, or_false] at hi
  rcases hi with rfl | rfl | rfl
  · exact does_srcx p c s
  · exact does_frst p c s
  · exact does_dropf p c s

/-- R38: the replacement of the top set is all that SRCX, FRST and DROPF do. -/
theorem topSet_effect {i : Instr} {p : Option Prefix} (hi : i ∈ [.srcx p, .frst p, .dropf p]) {c : Ctx} {s : State}
    {k j : Level} {r : List Level} (h : Issues i c s) (hr : UndoRoom c s 0) (hs : c.cp.stack = k :: j :: r) :
    ∃ t, exec i s = .next t ∧
      Effect i c s t c.pool { c.cp with stack := { k with mask := topSet i k.mask j.mask } :: j :: r } := by
  have hd := does_topSet hi c s
  rw [c.replaceTop_cons s _ hs] at hd
  have he := hd.completes h hr rfl rfl rfl rfl
  simpa only [Cp.setTop, hs, List.tail_cons] using he

end Sys2Proof.Machine

section

open Sys2Proof Sys2Proof.Machine

/-- Settles O14: each of the five changes its CP alone. -/
theorem holdsAndIntervals : Obligations.HoldsAndIntervals := by
  unfold Obligations.HoldsAndIntervals
  refine ⟨fun p c s h hr => ?_, fun p c s h hr => ?_, fun p c s h hr => ⟨fun hn => ?_, fun hn => ?_⟩,
    fun p b c s h hr => ⟨fun hn => ?_, fun hn => ?_⟩, fun p c s h hr => ?_⟩
  · exact (does_nop p c s).completes h hr rfl rfl rfl rfl
  · exact (does_pre p c s).completes h hr rfl rfl rfl rfl
  · have hd := does_nopre p c s
    rw [if_pos hn] at hd
    exact hd.traps h
  · have hd := does_nopre p c s
    rw [if_neg (by simp [hn])] at hd
    exact hd.completes h hr rfl rfl rfl rfl
  · have hd := does_hold p c s b
    rw [if_pos (c.cp.holding_iff.mpr hn)] at hd
    exact hd.traps h
  · have hd := does_hold p c s b
    rw [if_neg (by simp [c.cp.holding_iff, hn])] at hd
    obtain ⟨t, q, x, ht, ho, hp, hrest, hj, hx, hpast, hl⟩ := hd.completes_plain h hr rfl rfl rfl rfl rfl
    exact ⟨t, q, x, ht, ho, hp, hrest, hj, hx, hpast, hl⟩
  · obtain ⟨t, q, x, ht, ho, hp, hrest, hj, hx, hpast, hl⟩ :=
      (does_relh p c s).completes_plain h hr rfl rfl rfl rfl rfl
    exact ⟨t, q, x, ht, ho, hp, hrest, hj, hx, hpast, hl⟩

/-- Settles O15: a push, a pop and a replacement of the top set look at the stack's height alone. -/
theorem responderStack : Obligations.ResponderStack := by
  unfold Obligations.ResponderStack
  refine ⟨fun i c s h hl hi => ?_, fun p c s h hl => ?_, fun i p c s hi h hl => ?_, fun i p c s k j r hi h hr hs => ?_⟩
  · rcases hi with hi | ⟨p, m, rfl⟩
    · obtain ⟨⟨parent, d, a, b⟩, hi⟩ := Option.isSome_iff_exists.mp hi
      have hd := does_search c s hi
      rw [Ctx.pushSearch, c.push_full _ _ hl] at hd
      exact hd.traps h
    · have hd := does_pushm p c s m
      rw [c.push_full _ _ hl] at hd
      exact hd.traps h
  · have hd := does_popr p c s
    rw [if_pos (by simp [Cp.levelIndex, hl])] at hd
    exact hd.traps h
  · have hd := does_topSet hi c s
    rw [c.replaceTop_zero s _ hl] at hd
    exact hd.traps h
  · obtain ⟨t, ht, he⟩ := topSet_effect hi h hr hs
    refine ⟨t, _, ht, he, fun hx u hu => ?_⟩
    subst hx
    simp [topSet, hu]

/-- Settles O16: what is pushed or written is a set of threads, told bit by bit. -/
theorem pushesAndMasks : Obligations.PushesAndMasks := by
  unfold Obligations.PushesAndMasks
  refine ⟨⟨fun i c s parent d a b h hr hi hl => ?_, fun p m c s h hr hl => ?_⟩, fun p c s k j r hr hs =>
    ⟨fun h => ?_, fun h => ?_, fun h => ?_⟩, fun p m c s h hr => ?_, fun p md ma mb op c s h hr => ?_⟩
  · have hd := does_search c s hi
    rw [Ctx.pushSearch, c.push_done _ _ hl, Ctx.modCp_modCp] at hd
    obtain ⟨t, ht, he⟩ := hd.completes h hr rfl rfl rfl rfl
    exact ⟨t, _, _, ht, he, rfl, c.getLsbD_search parent d a b, congrArg (c.cp.fstat ||| ·) (c.search_flags parent d a b), rfl⟩
  · have hd := does_pushm p c s m
    rw [c.push_done _ _ hl] at hd
    exact hd.completes h hr rfl rfl rfl rfl
  · have hd := does_popr p c s
    rw [if_neg (by simp [Cp.levelIndex, hs])] at hd
    have he := hd.completes h hr rfl rfl rfl rfl
    simpa only [hs, List.tail_cons] using he
  · obtain ⟨t, ht, he⟩ := topSet_effect (p := p) (by simp) h hr hs
    exact ⟨t, _, ht, he, Mask.getLsbD_lowest k.mask⟩
  · obtain ⟨t, ht, he⟩ := topSet_effect (p := p) (by simp) h hr hs
    refine ⟨t, _, ht, he, fun u => ?_⟩
    rw [← Mask.getLsbD_lowest k.mask u]
    cases hu : k.mask.getLsbD u
    · simp [topSet, hu]
    · simp [topSet, hu, BitVec.lt_of_getLsbD hu]
  · exact (does_savm p c s m).completes h hr rfl rfl rfl rfl
  · obtain ⟨t, ht, he⟩ := (does_maskop p c s md ma mb op).completes h hr rfl rfl rfl rfl
    have hmd (n : Nat) : (c.cp.setM md.toNat (maskOp op.toNat c.all (c.cp.mreg ma.toNat) (c.cp.mreg mb.toNat))).mreg n =
        if n = md.toNat then maskOp op.toNat c.all (c.cp.mreg ma.toNat) (c.cp.mreg mb.toNat) else c.cp.mreg n :=
      KMap.get_set _ _ _ _ _
    refine ⟨t, _, ht, he, fun n hn => ?_, rfl, fun ho u hu => ?_, fun ho u => ?_⟩
    · rw [hmd, if_neg hn]
    · have ho7 : op.toNat < 7 := by
        have := op.isLt
        have : op.toNat ≠ 7 := fun e => ho (BitVec.eq_of_toNat_eq e)
        omega
      rw [hmd, if_pos rfl, maskOp_bit _ ho7 _ _ _ u hu, Ctx.all, Mask.getLsbD_full _ u hu]
    · subst ho
      rw [hmd, if_pos rfl]
      exact Mask.getLsbD_lowest _ u

end

/-! Where scratchpad, window and permute instructions trap (R26, R56, R176, R194, R202, R203). -/

namespace Sys2Proof.Machine

/-! ### The checks on offsets -/

/-- R194: misaligned offsets trap first. -/
theorem Ctx.spadCheck_misaligned {c : Ctx} {l : List (Nat × Int)} {z : Nat} (named : Bool) {e : Nat × Int}
    {r : List (Nat × Int)} (h : (l.filter fun e => e.2 % (z : Int) ≠ 0) = e :: r) :
    c.spadCheck l z named =
      some (.trap 0x09 (if named then Mask.ofTids ((e :: r).map (·.1)) else 0) 0 (BitVec.ofInt 64 e.2)) := by
  unfold Ctx.spadCheck
  dsimp only
  rw [h, if_pos (List.cons_ne_nil _ _)]
  rfl

/-- R194: then offsets outside the scratchpad. -/
theorem Ctx.spadCheck_outside {c : Ctx} {l : List (Nat × Int)} {z : Nat} (named : Bool) {e : Nat × Int}
    {r : List (Nat × Int)} (ha : ∀ x ∈ l, x.2 % (z : Int) = 0)
    (h : (l.filter fun e => e.2 < 0 ∨ (c.pool.spadSize : Int) < e.2 + z) = e :: r) :
    c.spadCheck l z named =
      some (.trap 0x0B (if named then Mask.ofTids ((e :: r).map (·.1)) else 0) 0 (BitVec.ofInt 64 e.2)) := by
  have h0 : (l.filter fun e => e.2 % (z : Int) ≠ 0) = [] :=
    List.filter_eq_nil_iff.mpr fun x hx => by simp [ha x hx]
  unfold Ctx.spadCheck
  dsimp only
  rw [h0, h, if_neg (not_not_intro rfl), if_pos (List.cons_ne_nil _ _)]
  rfl

/-- R176: misaligned window offsets trap first. -/
theorem Ctx.windowCheck_misaligned {c : Ctx} {a z : Nat} (peer : Bool) {t : Nat} {r : List Nat}
    (h : (c.tids.filter fun t => (c.pool.reg t a).toNat % z ≠ 0) = t :: r) :
    c.windowCheck peer (c.windowOffsets a) z =
      some (.trap 0x09 (Mask.ofTids (t :: r)) 0 (BitVec.ofNat 64 (c.pool.reg t a).toNat)) := by
  have hb : ((c.windowOffsets a).filter fun e => e.2 % z ≠ 0) = (t :: r).map fun t => (t, (c.pool.reg t a).toNat) := by
    rw [← h, Ctx.windowOffsets, List.filter_map]
    rfl
  unfold Ctx.windowCheck
  dsimp only
  rw [hb, if_pos (by simp), List.map_map]
  simp [Function.comp_def]

/-- R176: then offsets of registers or threads that the pool has not. -/
theorem Ctx.windowCheck_outside {c : Ctx} {a z : Nat} (peer : Bool) {t : Nat} {r : List Nat}
    (ha : ∀ u ∈ c.tids, (c.pool.reg u a).toNat % z = 0)
    (h : (c.tids.filter fun t => c.pool.allot ≤ (windowAt peer t (c.pool.reg t a).toNat).2 ∨
      c.pool.threads ≤ (windowAt peer t (c.pool.reg t a).toNat).1) = t :: r) :
    c.windowCheck peer (c.windowOffsets a) z =
      some (.trap 0x0C (Mask.ofTids (t :: r)) 0 (BitVec.ofNat 64 (c.pool.reg t a).toNat)) := by
  have h0 : ((c.windowOffsets a).filter fun e => e.2 % z ≠ 0) = [] := by
    refine List.filter_eq_nil_iff.mpr fun e he => ?_
    obtain ⟨u, hu, rfl⟩ := List.mem_map.mp he
    simp [ha u hu]
  have hb : ((c.windowOffsets a).filter fun e => decide (c.pool.allot ≤ (windowTarget peer e.1 e.2).2) ||
      decide (c.pool.threads ≤ (windowTarget peer e.1 e.2).1)) = (t :: r).map fun t => (t, (c.pool.reg t a).toNat) := by
    rw [← h, Ctx.windowOffsets, List.filter_map]
    simp only [Function.comp_def, Bool.decide_or]
    rfl
  unfold Ctx.windowCheck
  dsimp only
  rw [h0, hb, if_neg (not_not_intro rfl), if_pos (by simp), List.map_map]
  simp [Function.comp_def]

/-! ### The instructions -/

theorem sizeBytes_eq_bytesOf (size : BitVec 2) : sizeBytes size = bytesOf size := by
  revert size; decide

/-- An atomic that is legal and allowed makes the checks of R194 first. -/
theorem atomicFrame_of_spadCheck {c : Ctx} {a : Byte} {w : Access} {l : List (Nat × Int)} {z : Nat} {named : Bool}
    (hi : (if c.tyCode ∈ [3, 4, 7, 8, 11] ∧ c.pool.rslice = false then
      some (c.tids.map fun t => (t, ((c.pool.reg t a.toNat).toNat : Int) + w.disp.toInt), if c.wide then 8 else 4, true)
      else none) = some (l, z, named)) {r : Res} (hr : c.spadCheck l z named = some r) (s : State)
    (k : List (Nat × Int) → State → Res) : c.atomicFrame s a.toNat w k = r := by
  split at hi
  case isFalse => cases hi
  case isTrue hok =>
    obtain ⟨rfl, rfl, rfl⟩ : _ = l ∧ _ = z ∧ true = named := by simpa using hi
    have ht : atomicType c.tyCode = true := by simpa [atomicType] using hok.1
    unfold Ctx.atomicFrame Ctx.slice
    dsimp only [Ctx.offsets]
    rw [ht, hok.2, hr]
    rfl

/-- Every scratchpad access makes the checks of R194 before anything else. -/
theorem does_spadCheck {i : Instr} {c : Ctx} {l : List (Nat × Int)} {z : Nat} {named : Bool}
    (hi : spadAccess i c = some (l, z, named)) {r : Res} (hr : c.spadCheck l z named = some r) (s : State) :
    Does i c s r := by
  cases i with
  | vlds p d a size sx disp =>
      obtain ⟨rfl, rfl, rfl⟩ : _ = l ∧ bytesOf size = z ∧ true = named := by simpa [spadAccess] using hi
      refine ⟨_, Eq.trans (b := execVlds p d a size sx disp s) rfl (by unfold execVlds; rfl), ?_⟩
      rw [← sizeBytes_eq_bytesOf] at hr
      dsimp only [Ctx.offsets]
      rw [hr]
  | vsts p d a size disp =>
      obtain ⟨rfl, rfl, rfl⟩ : _ = l ∧ bytesOf size = z ∧ true = named := by simpa [spadAccess] using hi
      refine ⟨_, Eq.trans (b := execVsts p d a size disp s) rfl (by unfold execVsts; rfl), ?_⟩
      rw [← sizeBytes_eq_bytesOf] at hr
      dsimp only [Ctx.offsets]
      rw [hr]
  | vatomSpad p d a b w =>
      refine ⟨_, Eq.trans (b := execVatomSpad p d a b w s) rfl (by unfold execVatomSpad; rfl), ?_⟩
      exact atomicFrame_of_spadCheck hi hr s _
  | vredSpad p d a b w =>
      refine ⟨_, Eq.trans (b := execVredSpad p d a b w s) rfl (by unfold execVredSpad; rfl), ?_⟩
      exact atomicFrame_of_spadCheck hi hr s _
  | sld p d a sp =>
      obtain ⟨rfl, rfl, rfl, rfl⟩ : sp = 1 ∧ [(0, ((c.s a).toNat : Int))] = l ∧ 8 = z ∧ false = named := by
        simpa [spadAccess] using hi
      refine ⟨_, Eq.trans (b := execSld p d a 1 s) rfl (by unfold execSld; rfl), ?_⟩
      dsimp only
      rw [if_pos rfl, hr]
  | sst p d a sp =>
      obtain ⟨rfl, rfl, rfl, rfl⟩ : sp = 1 ∧ [(0, ((c.s a).toNat : Int))] = l ∧ 8 = z ∧ false = named := by
        simpa [spadAccess] using hi
      refine ⟨_, Eq.trans (b := execSst p d a 1 s) rfl (by unfold execSst; rfl), ?_⟩
      dsimp only
      rw [if_pos rfl, hr]
  | _ => cases hi

/-- Both window accesses make the checks of R176 before anything else. -/
theorem does_windowCheck {i : Instr} {c : Ctx} {a : Byte} {wide peer : Bool} (hi : windowOf i = some (a, wide, peer))
    {r : Res} (hr : c.windowCheck peer (c.windowOffsets a.toNat) (if wide then 8 else 4) = some r) (s : State) :
    Does i c s r := by
  cases i with
  | vldw p d a' size win =>
      obtain ⟨rfl, rfl, rfl⟩ : a' = a ∧ decide (size = 1) = wide ∧ decide (win = 1) = peer := by
        simpa [windowOf] using hi
      refine ⟨_, Eq.trans (b := execVldw p d a' size win s) rfl (by unfold execVldw; rfl), ?_⟩
      dsimp only
      simp only [decide_eq_true_eq] at hr
      rw [hr]
  | vstw p d a' size win =>
      obtain ⟨rfl, rfl, rfl⟩ : a' = a ∧ decide (size = 1) = wide ∧ decide (win = 1) = peer := by
        simpa [windowOf] using hi
      refine ⟨_, Eq.trans (b := execVstw p d a' size win s) rfl (by unfold execVstw; rfl), ?_⟩
      dsimp only
      simp only [decide_eq_true_eq] at hr
      rw [hr]
  | _ => cases hi

/-- R202: a distance at or above the group width. -/
theorem does_vshfl_far (p : Option Prefix) (d a delta : Byte) (kind : BitVec 2) (c : Ctx) (s : State)
    (h : c.pool.group ≤ delta.toNat) : Does (.vshfl p d a delta kind) c s .illegal := by
  refine ⟨_, Eq.trans (b := execVshfl p d a delta kind s) rfl (by unfold execVshfl execPermute; rfl), ?_⟩
  dsimp only
  rw [if_pos h]

/-- R203: a thread that the pool has not. -/
theorem does_vbcst_absent (p : Option Prefix) (d a b : Byte) (c : Ctx) (s : State)
    (h : c.pool.threads ≤ (c.s b).toNat % 2 ^ 32) :
    Does (.vbcst p d a b) c s (.trap 0x0C 0 0 (BitVec.ofNat 64 ((c.s b).toNat % 2 ^ 32))) := by
  refine ⟨_, Eq.trans (b := execVbcst p d a b s) rfl (by unfold execVbcst execPermute; rfl), ?_⟩
  have hb : bits 31 0 (c.s b) = (c.s b).toNat % 2 ^ 32 := by simp [bits]
  rw [← hb] at h ⊢
  dsimp only
  rw [if_pos h]

end Sys2Proof.Machine

section

open Sys2Proof Sys2Proof.Machine

/-- Settles O21: the checks stand first in each instruction, and each lists the threads that fail it. -/
theorem offsetAndLaneTraps : Obligations.OffsetAndLaneTraps := by
  unfold Obligations.OffsetAndLaneTraps
  refine ⟨fun i c s l z named h hi => ⟨fun e r hb => ?_, fun e r ha hb => ?_⟩,
    fun i c s a wide peer h hi => ⟨fun t r hb => ?_, fun t r ha hb => ?_⟩,
    fun p d a delta kind c s h hg => ?_, fun p d a b c s h ht => ?_⟩
  · exact (does_spadCheck hi (Ctx.spadCheck_misaligned named hb) s).traps h
  · exact (does_spadCheck hi (Ctx.spadCheck_outside named ha hb) s).traps h
  · exact (does_windowCheck hi (Ctx.windowCheck_misaligned peer hb) s).traps h
  · exact (does_windowCheck hi (Ctx.windowCheck_outside peer ha hb) s).traps h
  · exact (does_vshfl_far p d a delta kind c s hg).traps h
  · exact (does_vbcst_absent p d a b c s ht).traps h

end

/-! Traps, the trap handler, and what ends a waiting CP's wait (R46, R47, R56 to R58, R158, R160, R163, R191, R212). -/

namespace Sys2Proof.Machine

/-! ### A change of one CP -/

/-- A change of one CP that may look at its pool is all that happens. -/
theorem cpBecomes_modPool {s : State} {pid cid : Nat} {p : Pool} {x : Cp} (hp : s.pool? pid = some p)
    (hc : p.cp? cid = some x) (f : Pool → Cp → Cp) :
    CpBecomes s (s.modPool pid fun q => q.modCp cid (f q)) pid cid (f p x) :=
  ⟨⟨rfl, fun _ hq => State.pool?_modPool_ne s _ hq, fun _ => rfl⟩, p, p.modCp cid (f p), hp,
    by rw [State.pool?_modPool_self, hp]; rfl, rfl, fun _ hj => Pool.cp?_modCp_ne _ _ hj,
    by rw [Pool.cp?_modCp_self, hc]; rfl⟩

theorem cpBecomes_modCp {s : State} {pid cid : Nat} {p : Pool} {x : Cp} (hp : s.pool? pid = some p)
    (hc : p.cp? cid = some x) (f : Cp → Cp) : CpBecomes s (s.modCp pid cid f) pid cid (f x) :=
  cpBecomes_modPool hp hc fun _ => f

/-- A further change of the same CP. -/
theorem CpBecomes.modCp {s t : State} {pid cid : Nat} {y : Cp} (h : CpBecomes s t pid cid y) (f : Cp → Cp) :
    CpBecomes s (t.modCp pid cid f) pid cid (f y) := by
  obtain ⟨⟨hrest, hother, hmem⟩, p, q, hp, hq, hcps, hcp, hy⟩ := h
  refine ⟨⟨hrest, fun j hj => ?_, hmem⟩, p, q.modCp cid f, hp, ?_, hcps, fun j hj => ?_, ?_⟩
  · exact (State.pool?_modPool_ne _ _ hj).trans (hother j hj)
  · exact (State.pool?_modPool_self _ _ _).trans (by rw [hq]; rfl)
  · rw [Pool.cp?_modCp_ne _ _ hj, hcp j hj]
  · rw [Pool.cp?_modCp_self, hy]; rfl

/-! ### Traps -/

/-- R56, R191: a trap changes its CP as `trapped` says. -/
theorem State.takeTrap_eq (s : State) (pid cid : Nat) (pc : DWord) (cause : Byte) (tmask : Mask) (detail : Word)
    (addr : DWord) : s.takeTrap pid cid pc cause tmask detail addr =
      s.modPool pid fun q => q.modCp cid fun x => trapped x q.threads cid pc cause tmask detail addr := by
  unfold State.takeTrap
  refine congrArg (s.modPool pid) (funext fun q => congrArg (q.modCp cid) (funext fun x => ?_))
  unfold trapped Mask.count Mask.first
  dsimp only
  cases (Mask.tids tmask q.threads).head? <;> rfl

theorem cpBecomes_takeTrap {s : State} {pid cid : Nat} {p : Pool} {x : Cp} (hp : s.pool? pid = some p)
    (hc : p.cp? cid = some x) (pc : DWord) (cause : Byte) (tmask : Mask) (detail : Word) (addr : DWord) :
    CpBecomes s (s.takeTrap pid cid pc cause tmask detail addr) pid cid
      (trapped x p.threads cid pc cause tmask detail addr) := by
  rw [State.takeTrap_eq]
  exact cpBecomes_modPool hp hc fun q x => trapped x q.threads cid pc cause tmask detail addr

theorem Cp.advance_eq_beyond (x : Cp) (n : Nat) : x.advance n = x.beyond n := by
  unfold Cp.advance Cp.beyond clauseAt
  cases x.clause with
  | none => rfl
  | some cl => by_cases h : cl.stop = x.pc + BitVec.ofNat 64 n <;> simp [h, Option.filter]

theorem does_trap (p : Option Prefix) (b : Byte) (c : Ctx) (s : State) : Does (.trap p b) c s
    (.stay (c.modCp (s.takeTrap c.pid c.cid c.cp.pc 0x20 0 (b.zeroExtend 32) 0) fun x =>
      x.advance (Instr.trap p b).words)) :=
  ⟨_, Eq.trans (b := execTrap p b s) rfl (by unfold execTrap; rfl), rfl⟩

/-! ### The handler -/

theorem unlessViral_none {s : State} (h : s.viral = none) (f : State → State) : unlessViral s f = .next (f s) := by
  simp [unlessViral, h]

theorem State.cp?_of_pool? {s : State} {pid : Nat} {p : Pool} (hp : s.pool? pid = some p) (cid : Nat) :
    s.cp? pid cid = p.cp? cid := by simp [State.cp?, hp]

theorem exec_trapHandlerResume {s : State} {pid cid : Nat} {p : Pool} {x : Cp} (hv : s.viral = none)
    (hp : s.pool? pid = some p) (hc : p.cp? cid = some x) (ht : x.status = .trapped) :
    exec (.trapHandlerResume pid cid) s = .next (if p.rslice then s else s.resumeTrap pid cid) := by
  change execTrapHandlerResume pid cid s = _
  unfold execTrapHandlerResume
  rw [unlessViral_none hv]
  simp only [hp, State.cp?_of_pool? hp, hc, ht]
  cases p.rslice <;> rfl

theorem exec_poolTerminate {s : State} {pid cid : Nat} {p : Pool} {x : Cp} (hv : s.viral = none)
    (hp : s.pool? pid = some p) (hc : p.cp? cid = some x) (ht : x.status = .trapped) :
    exec (.poolTerminate pid) s =
      .next (if p.rslice then s else (s.removePool pid).taskOver (failed p.task 0x01) pid) := by
  change execPoolTerminate pid s = _
  have hany : (p.cps.any fun e => e.2.status == .trapped) = true :=
    List.any_eq_true.mpr ⟨_, KMap.mem_of_find? hc, by simp [ht]⟩
  have hfail : p.task.fail 0x01 = failed p.task 0x01 := by
    unfold Task.fail failed
    by_cases h0 : p.task.status = 0
    · rw [if_pos h0, if_pos h0]
    · rw [if_neg h0, if_neg h0]
  unfold execPoolTerminate
  rw [unlessViral_none hv]
  simp only [hp, hany, hfail]
  cases p.rslice <;> rfl

/-! ### A pool that goes -/

/-- R181: no pool goes back with one on whose uncommitted stores no pool depends. -/
theorem State.dependents_self {s : State} {pid : Nat} (h : ∀ e ∈ s.pools, pid ∉ e.2.deps)
    (hp : (s.pool? pid).isSome = true) : s.dependents [pid] = [pid] := by
  have hnone : (s.pools.filter fun e => e.2.deps.any [pid].contains) = [] := by
    refine List.filter_eq_nil_iff.mpr fun e he => ?_
    simp only [List.any_eq_true, not_exists, not_and]
    intro d hd hdp
    obtain rfl : d = pid := by simpa using hdp
    exact h e he hd
  have hgo (n : Nat) : State.dependents.go s n [pid] = [pid] := by
    induction n with
    | zero => rfl
    | succ n ih => unfold State.dependents.go; rw [hnone]; exact ih
  unfold State.dependents
  rw [hgo]
  simp [hp]

theorem State.rollBackAll_nil (s : State) : s.rollBackAll [] = s := by
  unfold State.rollBackAll
  simp

theorem State.fenceCores_nil (s : State) : s.fenceCores [] = s := rfl

/-- R181: a pool on whose uncommitted stores no pool depends goes alone, with its accesses and its uncommitted
entries. -/
theorem State.removePool_alone {s : State} {pid : Nat} (h : ∀ e ∈ s.pools, pid ∉ e.2.deps)
    (hp : (s.pool? pid).isSome = true) : s.removePool pid =
      { s with
        pools := KMap.del s.pools pid
        held := s.held.filter (·.pool != pid)
        journal := s.journal.filter fun e => e.pool != pid || e.record.isSome } := by
  have hback : s.othersBack [pid] = [] := by
    unfold State.othersBack
    rw [State.dependents_self h hp]
    simp
  have hpools : (KMap.del s.pools pid).map (fun e => (e.1, { e.2 with deps := e.2.deps.filter (· != pid) })) =
      KMap.del s.pools pid := by
    refine (List.map_congr_left fun e he => ?_).trans (List.map_id _)
    have hd : e.2.deps.filter (· != pid) = e.2.deps :=
      List.filter_eq_self.mpr fun d hd => by
        simpa using fun hdp : d = pid => h e (List.mem_of_mem_filter he) (hdp ▸ hd)
    rw [hd]
    rfl
  unfold State.removePool
  rw [hback]
  dsimp only [List.filter_nil]
  rw [State.rollBackAll_nil]
  exact (State.fenceCores_nil _).trans (by rw [hpools])

/-- R320: what the signal of a task changes is the list of signals. -/
theorem State.sendSignal_eq (s : State) (task : Task) (pid : Nat) (status : Byte) :
    s.sendSignal task pid status = { s with
      signals := s.signals ++ (if task.record.succb = 0 ∨ task.signalled = true then []
        else [⟨{ task with signalled := true }, pid, status, none⟩]) } := by
  have hb : (decide (task.record.succb = 0) || task.signalled) = true ↔
      task.record.succb = 0 ∨ task.signalled = true := by simp
  unfold State.sendSignal
  by_cases h : task.record.succb = 0 ∨ task.signalled = true
  · rw [if_pos (hb.mpr h), if_pos h, List.append_nil]
  · rw [if_neg (fun h' => h (hb.mp h')), if_neg h]

/-- R317, R321: a task that is over signals where it has still to, and completes; nothing else changes. -/
theorem State.taskOver_eq (s : State) (task : Task) (pid : Nat) :
    s.taskOver task pid = { s with
      signals := s.signals ++ (if task.record.succb = 0 ∨ task.signalled = true then []
        else [⟨{ task with signalled := true }, pid, task.status, none⟩])
      completions := s.completions ++ [⟨{ task with signalled := true }, pid⟩] } := by
  unfold State.taskOver
  rw [State.sendSignal_eq]

theorem over_taskOver (s : State) (task : Task) (pid : Nat) : Over s (s.taskOver task pid) task pid := by
  rw [State.taskOver_eq]
  exact ⟨rfl, rfl⟩

end Sys2Proof.Machine

/-! ### The statements -/

section

open Sys2Proof Sys2Proof.Machine

/-- Settles O45: a trap is a change of one CP; the handler's commands are a change of that CP and the removal of a pool
on which none depends. -/
theorem trapsAndHandler : Obligations.TrapsAndHandler := by
  unfold Obligations.TrapsAndHandler
  refine ⟨fun s pid cid p x pc cause tmask detail addr hp hc => cpBecomes_takeTrap hp hc pc cause tmask detail addr,
    fun p b c s h => ?_, fun s pid cid p x hv hp hc ht => ⟨fun hr => ?_, fun hr => ⟨?_, ?_⟩, fun hr hd => ?_⟩⟩
  · refine ⟨_, (does_trap p b c s).stays h, ?_⟩
    simp only [Cp.advance_eq_beyond]
    exact (cpBecomes_takeTrap h.pool h.cp _ _ _ _ _).modCp fun x => x.beyond (Instr.trap p b).words
  · refine ⟨_, exec_trapHandlerResume hv hp hc ht, ?_⟩
    rw [hr]
    exact cpBecomes_modCp hp hc fun y => { y with status := .running, trap := none }
  · rw [exec_trapHandlerResume hv hp hc ht, hr]; rfl
  · rw [exec_poolTerminate hv hp hc ht, hr]; rfl
  · have hq : (s.pool? pid).isSome = true := by rw [hp]; rfl
    refine ⟨_, exec_poolTerminate hv hp hc ht, ?_⟩
    rw [hr, State.removePool_alone hd hq, if_neg Bool.false_ne_true, State.taskOver_eq]
    refine ⟨?_, fun q hne => ?_, fun a => rfl, ⟨rfl, rfl⟩, rfl⟩
    · rw [State.pool?, KMap.find?_del_self]
    · exact KMap.find?_del_ne _ hne

end

/-! What a waiting CP waits for: the phase of a gong, a word of memory, a time (R46, R47, R158, R160, R211, R212). -/

namespace Sys2Proof.Machine

/-! ### Gong words -/

/-- R211: the fields of a gong word. -/
theorem GongIs.fields {w exp phase pend arr : Nat} (h : GongIs w exp phase pend arr) :
    Gong.exp w = exp ∧ Gong.phase w = phase ∧ Gong.pend w = pend ∧ Gong.arr w = arr ∧ Gong.valid w = true := by
  obtain ⟨rfl, h1, h2, hp, hn, ha⟩ := h
  have he : Gong.exp (gongWord exp phase pend arr) = exp := by unfold Gong.exp gongWord; omega
  have har : Gong.arr (gongWord exp phase pend arr) = arr := by unfold Gong.arr gongWord; omega
  have top : gongWord exp phase pend arr / 2 ^ 61 = 0 := by unfold gongWord; omega
  refine ⟨he, ?_, ?_, har, ?_⟩
  · unfold Gong.phase gongWord; omega
  · unfold Gong.pend gongWord; omega
  · unfold Gong.valid
    rw [he, har, top]
    simp only [decide_true, Bool.true_and, Bool.and_eq_true, decide_eq_true_eq]
    omega

/-- R212: no record of the pool is under way. -/
theorem State.quiet_iff (s : State) (pid : Nat) : s.quiet pid = true ↔ ∀ r ∈ s.records, pid ∉ r.pools := by
  simp [State.quiet]

/-- R212: a gong whose phase differs from the bit, without a record of the pool under way. -/
theorem gongOpen_iff (s : State) (pid : Nat) (n m : Nat) :
    (decide (n ≠ m) && s.quiet pid) = true ↔ n ≠ m ∧ ∀ r ∈ s.records, pid ∉ r.pools := by
  rw [Bool.and_eq_true, decide_eq_true_eq, State.quiet_iff]

/-! ### The read of a WATCH -/

theorem ofBytes_lt (bs : List Byte) : ofBytes bs < 256 ^ bs.length := by
  induction bs with
  | nil => simp [ofBytes]
  | cons b bs ih =>
      have := b.isLt
      rw [ofBytes_cons, List.length_cons, Nat.pow_succ]
      omega

theorem ofNat_ofBytes_eq_iff {bs : List Byte} (h : bs.length = 8) (v : DWord) :
    BitVec.ofNat 64 (ofBytes bs) = v ↔ ofBytes bs = v.toNat := by
  have hlt := ofBytes_lt bs
  rw [h] at hlt
  rw [← BitVec.toNat_inj, BitVec.toNat_ofNat, Nat.mod_eq_of_lt (by omega)]

/-- R158: the word of a WATCH can be read, and r is what is read of it, with the state before and after. -/
structure WatchReads (c : Ctx) (s : State) (addr ord scope pa : Nat) (s1 s2 : State) (r : ReadResult) : Prop where
  check : c.checkAll s [(0, (addr : Int))] 8 .load false = .ok [pa] s1
  kept : ord = 1 → 3 ≤ scope → s1.droppedAt c.asid addr = none
  own : c.pool.ownWrite c.cid none pa 8 = none
  reds : s1.pendingReds c.core pa 8 = []
  line : s1.lineHeld (pa / 64) = false
  read : s1.readFor c.pid c.core c.asid pa 8 (decide (ord = 1 ∧ 3 ≤ scope)) = (r, s2)

section
variable {c : Ctx} {s s1 s2 : State} {addr ord scope pa : Nat} {r : ReadResult} {val : DWord}

/-- R158, R277: the four outcomes of the read are one equation. -/
theorem WatchReads.watchRead_eq (h : WatchReads c s addr ord scope pa s1 s2 r) :
    c.watchRead s addr val ord scope =
      if BitVec.ofNat 64 (ofBytes r.bytes) = val then .same (s2.addWatch c.core (lineOf pa))
      else if ord = 1 ∧ 2 ≤ scope ∧ r.recs ≠ [] then .same s2
      else .differs (if ord = 1 ∧ 3 ≤ scope then (s2.readAgain c.pid c.cid pa 8).invalidate c.pool.cluster
        else s2.readAgain c.pid c.cid pa 8) := by
  have hdrop : (if ord = 1 ∧ 3 ≤ scope then s1.droppedAt c.asid addr else none) = none := by
    split
    case isTrue hk => exact h.kept hk.1 hk.2
    case isFalse => rfl
  have hread := h.read
  rw [Bool.decide_and] at hread
  have hline : s1.lineHeld (lineOf pa) = false := h.line
  unfold Ctx.watchRead
  simp only [h.check, List.headD_cons, hdrop, h.own, h.reds, hline, hread, Option.isSome_none, List.isEmpty_nil,
    Bool.not_true, Bool.false_eq_true, if_false]
  by_cases hsame : BitVec.ofNat 64 (ofBytes r.bytes) = val
  · simp [hsame]
  · simp [hsame, and_assoc]

theorem WatchReads.same (h : WatchReads c s addr ord scope pa s1 s2 r) (hv : ofBytes r.bytes = val.toNat) :
    c.watchRead s addr val ord scope = .same (s2.addWatch c.core (lineOf pa)) := by
  rw [h.watchRead_eq, if_pos (by rw [hv, BitVec.ofNat_toNat, BitVec.setWidth_eq])]

theorem WatchReads.underWay (h : WatchReads c s addr ord scope pa s1 s2 r) (hl : r.bytes.length = 8)
    (hv : ofBytes r.bytes ≠ val.toNat) (hu : ord = 1 ∧ 2 ≤ scope ∧ r.recs ≠ []) :
    c.watchRead s addr val ord scope = .same s2 := by
  rw [h.watchRead_eq, if_neg fun e => hv ((ofNat_ofBytes_eq_iff hl val).mp e), if_pos hu]

theorem WatchReads.differs (h : WatchReads c s addr ord scope pa s1 s2 r) (hl : r.bytes.length = 8)
    (hv : ofBytes r.bytes ≠ val.toNat) (hu : ¬(ord = 1 ∧ 2 ≤ scope ∧ r.recs ≠ [])) :
    c.watchRead s addr val ord scope =
      .differs (if ord = 1 ∧ 3 ≤ scope then (s2.readAgain c.pid c.cid pa 8).invalidate c.pool.cluster
        else s2.readAgain c.pid c.cid pa 8) := by
  rw [h.watchRead_eq, if_neg fun e => hv ((ofNat_ofBytes_eq_iff hl val).mp e), if_neg hu]

end

/-! ### The wakes -/

section
variable {c : Ctx} {s : State}

theorem State.ctxOf_pool (h : s.ctxOf c.pid c.cid = some c) :
    s.pool? c.pid = some c.pool ∧ s.cp? c.pid c.cid = some c.cp := by
  unfold State.ctxOf at h
  cases hp : s.pool? c.pid with
  | none => simp [hp] at h
  | some p =>
      cases hc : s.cp? c.pid c.cid with
      | none => simp [hp, hc] at h
      | some x =>
          simp only [hp, hc, Option.some.injEq] at h
          exact ⟨congrArg (fun d => some d.pool) h, congrArg (fun d => some d.cp) h⟩

/-- R212: a gong wake looks at the gong's word after the accesses that it meets. -/
theorem exec_gongWake {o words exp phase pend arr : Nat} {ph : Bool} {q : Pool} (hi : s.canIssue c.pid c.cid = true)
    (hx : s.ctxOf c.pid c.cid = some c) (hst : c.cp.stand = .gong o ph words)
    (hq : (s.touchSpad c.pid o 8).pool? c.pid = some q) (hg : GongIs (q.spadRead o 8) exp phase pend arr) :
    exec (.gongWake c.pid c.cid) s = .next (if phase ≠ bit ph ∧ ∀ r ∈ (s.touchSpad c.pid o 8).records, c.pid ∉ r.pools
      then c.modCp (s.touchSpad c.pid o 8) fun x => x.beyond words else s.touchSpad c.pid o 8) := by
  obtain ⟨-, hphase, -, -, hvalid⟩ := hg.fields
  change execGongWake c.pid c.cid s = _
  unfold execGongWake
  simp only [hx, hst, hi, hq, Option.getD_some, hvalid, hphase, gongOpen_iff, Bool.not_true, Bool.false_eq_true,
    if_false, Cp.advance_eq_beyond]
  split <;> rfl

section
variable {addr ord scope words : Nat} {val : DWord} {u : State} (hi : s.canIssue c.pid c.cid = true)
  (hx : s.ctxOf c.pid c.cid = some c) (hst : c.cp.stand = .watch addr val ord scope words)
include hi hx hst

/-- R158: a WATCH that waits reads its word again, and goes on where it differs. -/
theorem exec_watchReread_differs (h : c.watchRead s addr val ord scope = .differs u) :
    exec (.watchReread c.pid c.cid) s = .next (c.modCp u fun x => x.beyond words) := by
  change execWatchReread c.pid c.cid s = _
  unfold execWatchReread
  simp only [hx, hst, hi, h, Bool.not_true, Bool.false_eq_true, if_false, Cp.advance_eq_beyond]

theorem exec_watchReread_same (h : c.watchRead s addr val ord scope = .same u) :
    exec (.watchReread c.pid c.cid) s = .next u := by
  change execWatchReread c.pid c.cid s = _
  unfold execWatchReread
  simp only [hx, hst, hi, h, Bool.not_true, Bool.false_eq_true, if_false]

end

end

/-! ### The timeouts -/

section
variable {s : State} {pid cid : Nat} {p : Pool} {x : Cp}

/-- R47: only a hold of more than 4,096 clocks traps. -/
theorem exec_holdTimeout (hv : s.viral = none) (hp : s.pool? pid = some p) (hc : p.cp? cid = some x)
    (hr : x.status = .running) : exec (.holdTimeout pid cid) s =
      .next (if x.holdLeft ≠ 0 ∧ 4096 < s.now - x.holdSince then s.takeTrap pid cid x.pc 0x05 0 0 0 else s) := by
  change execHoldTimeout pid cid s = _
  unfold execHoldTimeout
  rw [unlessViral_none hv]
  simp only [State.cp?_of_pool? hp, hc, hr, BEq.rfl, Bool.true_and, Bool.and_eq_true, Cp.holding_iff, decide_eq_true_eq]

/-- R160: only an interval of more than 65,536 clocks traps. -/
theorem exec_nopreBudget {n : Nat} (hv : s.viral = none) (hp : s.pool? pid = some p) (hc : p.cp? cid = some x)
    (hr : x.status = .running) (hn : x.nopre = some n) : exec (.nopreBudget pid cid) s =
      .next (if 65536 < s.now - n then s.nopreTrap pid cid x else s) := by
  change execNopreBudget pid cid s = _
  unfold execNopreBudget
  rw [unlessViral_none hv]
  simp only [State.cp?_of_pool? hp, hc, hr, hn, BEq.rfl, Bool.true_and, Option.any_some, decide_eq_true_eq]

/-- R160, log 18: in a SYSC or a YIELD the trap is at that instruction, and the CP waits on in it. -/
theorem State.nopreTrap_passed {pc : DWord} (h : x.stand = .yielded pc ∨ ∃ o, x.stand = .sysc o pc) :
    s.nopreTrap pid cid x =
      (s.takeTrap pid cid pc 0x06 0 0 0).modCp pid cid fun y => { y with pc := x.pc, stand := x.stand } := by
  unfold State.nopreTrap Cp.savedPc
  rcases h with h | ⟨o, h⟩ <;> rw [h]

/-- R160: a parked load at which the CP stands is abandoned. -/
theorem State.nopreTrap_load {o : Nat} {pc : DWord} {cl : Option Clause} (h : x.stand = .load o pc cl)
    (hne : pc ≠ x.pc) : s.nopreTrap pid cid x =
      ((s.modPool pid fun q => q.removeOp o).takeTrap pid cid pc 0x06 0 0 0).modCp pid cid fun y =>
        { y with clause := cl } := by
  unfold State.nopreTrap
  rw [h]
  exact if_neg hne

/-- R160: elsewhere the trap is at the CP's pc. -/
theorem State.nopreTrap_here (hs : ∀ o pc, x.stand ≠ .sysc o pc) (hy : ∀ pc, x.stand ≠ .yielded pc)
    (hl : ∀ o pc cl, x.stand = .load o pc cl → pc = x.pc) :
    s.nopreTrap pid cid x = s.takeTrap pid cid x.pc 0x06 0 0 0 := by
  unfold State.nopreTrap
  cases hst : x.stand with
  | sysc o pc => exact absurd hst (hs o pc)
  | yielded pc => exact absurd hst (hy pc)
  | load o pc cl =>
      obtain rfl := hl o pc cl hst
      exact if_pos rfl
  | _ => rfl

/-- R160: the pool and the CP after the trap at an abandoned load. -/
theorem nopreTrap_load_pool (hp : s.pool? pid = some p) (hc : p.cp? cid = some x) (o : Nat) (pc : DWord)
    (cl : Option Clause) :
    let t := ((s.modPool pid fun q => q.removeOp o).takeTrap pid cid pc 0x06 0 0 0).modCp pid cid fun y =>
      { y with clause := cl }
    ∃ q, OnlyPool pid s t ∧ t.pool? pid = some q ∧ q.ops = p.ops.filter (fun y => y.id != o) ∧
      q.cp? cid = some { trapped x p.threads cid pc 0x06 0 0 0 with clause := cl } := by
  have hq : (s.modPool pid fun q => q.removeOp o).pool? pid = some (p.removeOp o) := by
    rw [State.pool?_modPool_self, hp]; rfl
  have hb := (cpBecomes_takeTrap hq (show (p.removeOp o).cp? cid = some x from hc) pc 0x06 0 0 0).modCp
    fun y => { y with clause := cl }
  obtain ⟨⟨hrest, hother, hmem⟩, p', q, hp', hq', hcps, -, hy⟩ := hb
  obtain rfl : p.removeOp o = p' := Option.some.inj (hq.symm.trans hp')
  refine ⟨q, ⟨?_, fun j hj => (hother j hj).trans (State.pool?_modPool_ne _ _ hj), hmem⟩, hq',
    congrArg Pool.ops hcps, hy⟩
  have := congrArg (fun u : State => { u with pools := s.pools }) hrest
  exact this

end

end Sys2Proof.Machine

/-! ### The statement -/

section

open Sys2Proof Sys2Proof.Machine

/-- Settles O46: each wake is the equation of its event, decided by the phase, the word or the time that it looks at. -/
theorem waitsEnd : Obligations.WaitsEnd := by
  unfold Obligations.WaitsEnd
  refine ⟨?_, ?_, ?_⟩
  · rintro s c o words ph q w exp phase pend arr hi hx hst hq hc rfl hg
    have hw := exec_gongWake hi hx hst hq hg
    refine ⟨fun hne hr => ⟨_, hw.trans (by rw [if_pos ⟨hne, hr⟩]), ?_⟩, fun hwait => hw.trans ?_⟩
    · exact cpBecomes_modCp hq hc fun x => x.beyond words
    · rw [if_neg]
      rintro ⟨hne, hr⟩
      rcases hwait with he | ⟨r, hm, hin⟩
      · exact hne he
      · exact hr r hm hin
  · intro s s1 s2 c addr words pa val ord scope r q hi hx hst hcheck hkept hown hreds hline hread s3 under hq hc hl
    have reads : WatchReads c s addr ord scope pa s1 s2 r := ⟨hcheck, hkept, hown, hreds, hline, hread⟩
    refine ⟨fun hv hu => ⟨_, exec_watchReread_differs hi hx hst (reads.differs hl hv hu), ?_⟩,
      fun hv hu => exec_watchReread_same hi hx hst (reads.underWay hl hv hu),
      fun hv => exec_watchReread_same hi hx hst (reads.same hv)⟩
    split
    · exact cpBecomes_modCp (s := s3.invalidate c.pool.cluster) hq hc fun x => x.beyond words
    · exact cpBecomes_modCp hq hc fun x => x.beyond words
  · intro s pid cid p x hv hp hc hr
    refine ⟨fun h0 ht => ?_, fun h => ?_, fun n hn => ⟨fun ht => ?_, fun ht => ⟨fun pc hpc => ?_, ?_, ?_⟩⟩⟩
    · rw [exec_holdTimeout hv hp hc hr, if_pos ⟨h0, ht⟩]
    · rw [exec_holdTimeout hv hp hc hr, if_neg (by omega)]
    · rw [exec_nopreBudget hv hp hc hr hn, if_neg (by omega)]
    · refine ⟨_, exec_nopreBudget hv hp hc hr hn, ?_⟩
      rw [if_pos ht, State.nopreTrap_passed hpc]
      exact (cpBecomes_takeTrap hp hc pc 0x06 0 0 0).modCp fun y => { y with pc := x.pc, stand := x.stand }
    · intro o pc cl hst hne
      obtain ⟨q, hq⟩ := nopreTrap_load_pool hp hc o pc cl
      refine ⟨_, q, exec_nopreBudget hv hp hc hr hn, ?_⟩
      rw [if_pos ht, State.nopreTrap_load hst hne]
      exact hq
    · intro hs hy hl
      rw [exec_nopreBudget hv hp hc hr hn, if_pos ht, State.nopreTrap_here hs hy hl]

end

/-! Blocking instructions: GWAIT, WAITC, WATCH and YIELD wait, go on or trap (R46, R158, R159, R183, R210, R212). -/

namespace Sys2Proof.Machine

/-! ### What a GWAIT and a WATCH meet -/

theorem Cp.not_holding (x : Cp) (h : x.holdLeft = 0) : ¬x.holding = true :=
  fun e => x.holding_iff.mp e h

/-- An instruction whose own effect leads to a state s1 in which its CP is as before. -/
theorem Does.completes_at {i : Instr} {c : Ctx} {s s1 : State} {q : Pool} (d : Does i c s (.done s1)) (h : Issues i c s)
    (hp : s1.pool? c.pid = some q) (hc : q.cp? c.cid = some c.cp) (hr : RoomAt c s q 0) :
    ∃ t, Machine.exec i s = .next t ∧ Effect i c s1 t q c.cp := by
  obtain ⟨body, hx, hb⟩ := d
  have e : c.modCp (c.modPool s1 id) id = s1 := by rw [Ctx.modCp_id, Ctx.modPool, State.modPool_id]
  exact completes_of h hx hp hc id id (hb.trans (by rw [e])) 0 hr rfl (fun _ => Nat.le_refl _) rfl rfl rfl rfl rfl

/-- R194: offsets that fit pass the checks. -/
theorem Ctx.spadCheck_fits {c : Ctx} {l : List (Nat × Int)} {z : Nat} (named : Bool) (h : Fits c l z) :
    c.spadCheck l z named = none := by
  have h1 : (l.filter fun e => decide (e.2 % (z : Int) ≠ 0)) = [] :=
    List.filter_eq_nil_iff.mpr fun e he => by simp [(h e he).1]
  have h2 : (l.filter fun e => decide (e.2 < 0 ∨ (c.pool.spadSize : Int) < e.2 + (z : Int))) = [] :=
    List.filter_eq_nil_iff.mpr fun e he => by
      obtain ⟨-, hlow, hhigh⟩ := h e he
      simp only [decide_eq_true_eq]
      omega
  unfold Ctx.spadCheck
  dsimp only
  rw [h1, h2, if_neg (not_not_intro rfl), if_neg (not_not_intro rfl)]

/-- R212: an instruction on a gong goes on with its offset, its word and the state that has met its bytes. -/
theorem GongAt.gong {c : Ctx} {s s1 : State} {a : Byte} {q : Pool} {o w : Nat} (h : GongAt c s a s1 q o w)
    (k : Nat → Nat → State → Res) : c.gong s a k = k o w s1 := by
  obtain ⟨rfl, small, fits, rfl, pool, -, rfl⟩ := h
  have hhigh : bits 63 32 (c.s a) = 0 := by
    unfold bits
    rw [Nat.shiftRight_eq_div_pow, Nat.div_eq_of_lt small, Nat.zero_mod]
  have hlow : bits 31 0 (c.s a) = (c.s a).toNat := by
    unfold bits
    rw [Nat.shiftRight_zero]
    exact Nat.mod_eq_of_lt small
  have pool' : (s.touchSpad c.pid (c.s a).toNat 8).pool? c.pid = some q := pool
  unfold Ctx.gong
  rw [if_neg (not_not_intro hhigh)]
  simp only [hlow, Ctx.spadCheck_fits false fits, pool', Option.getD_some]
  rfl

theorem bit_getLsbD_zero (x : DWord) : bit (x.getLsbD 0) = x.toNat % 2 := by
  unfold bit
  rw [BitVec.getLsbD, Nat.testBit_zero]
  rcases Nat.mod_two_eq_zero_or_one x.toNat with h | h <;> simp [h]

/-! ### GWAIT -/

section
variable (p : Option Prefix) (a b : Byte) (c : Ctx) (s : State)

theorem does_gwait_holding (h : c.cp.holdLeft ≠ 0) : Does (.gwait p a b) c s (.trap 0x04 0 0 0) :=
  ⟨_, Eq.trans (b := execGwait p a b s) rfl (by unfold execGwait; rfl), if_pos (c.cp.holding_iff.mpr h)⟩

/-- R212: a GWAIT goes on at a gong whose phase has turned, without a record of its pool under way. -/
theorem does_gwait {s1 : State} {q : Pool} {o w exp phase pend arr : Nat} (h : GongAt c s a s1 q o w)
    (hg : GongIs w exp phase pend arr) (hh : c.cp.holdLeft = 0) : Does (.gwait p a b) c s
      (if phase ≠ (c.s b).toNat % 2 ∧ ∀ r ∈ s1.records, c.pid ∉ r.pools then .done s1
        else .stay (s1.standAt c.pid c.cid (.gong o ((c.s b).getLsbD 0) (Instr.gwait p a b).words))) := by
  obtain ⟨-, hphase, -, -, hvalid⟩ := hg.fields
  refine ⟨_, Eq.trans (b := execGwait p a b s) rfl (by unfold execGwait; rfl), ?_⟩
  rw [if_neg (c.cp.not_holding hh), h.gong]
  simp only [hvalid, hphase, bit_getLsbD_zero, gongOpen_iff, Bool.not_true, Bool.false_eq_true, if_false]

end

/-! ### WAITC -/

theorem Cp.counter_eq_outstandingOf (x : Cp) (cls : Nat) : x.counter cls = x.outstandingOf cls := by
  unfold Cp.counter Cp.outstandingOf
  match cls with
  | 0 | 1 | 2 | 3 => rfl
  | n + 4 => rw [Nat.min_eq_right (by omega)]; rfl

theorem Ctx.reportFault_none {c : Ctx} (s : State) {cls : Nat} (h : NoFault c cls) :
    c.reportFault s (· = cls) = none := by
  have hf : c.cp.faults.find? (fun f => decide (f.cls = cls)) = none :=
    List.find?_eq_none.mpr fun f hm => by simpa using h f hm
  unfold Ctx.reportFault Cp.takeFault
  rw [hf]
  rfl

theorem Cp.takeFault_head {x : Cp} {f : EngineFault} {r : List EngineFault} (g : Nat → Bool) (h : x.faults = f :: r)
    (hg : g f.cls = true) : x.takeFault g = some (f, { x with faults := r }) := by
  have hfind : x.faults.find? (fun f => g f.cls) = some f := by
    rw [h]
    exact List.find?_cons_of_pos hg
  have herase : x.faults.erase f = r := by rw [h, List.erase_cons_head]
  unfold Cp.takeFault
  rw [hfind]
  dsimp only
  rw [herase]

/-- R209, R270: the first fault is reported, and not again. -/
theorem Ctx.reportFault_head {c : Ctx} (s : State) {f : EngineFault} {r : List EngineFault} (g : Nat → Bool)
    (h : c.cp.faults = f :: r) (hg : g f.cls = true) : c.reportFault s g =
      some (.stay ((c.modCp s fun _ => { c.cp with faults := r }).takeTrap c.pid c.cid c.cp.pc 0x17 0 f.detail f.addr)) := by
  unfold Ctx.reportFault
  rw [Cp.takeFault_head g h hg]
  rfl

theorem Pool.cmdsOf_eq (p : Pool) (cid cls : Nat) :
    p.cmdsOf cid cls = p.cmds.filter fun k => decide (k.cp = cid ∧ classOf k.kind = cls) := by
  refine List.filter_congr fun k _ => ?_
  cases k.kind <;> simp [classOf, eq_comm]

/-- R46: a command of a class of a CP has parked. -/
theorem Pool.anyParked_iff (p : Pool) (cid cls : Nat) : (p.cmdsOf cid cls).any (·.park.isSome) = true ↔
    ∃ k ∈ p.cmds, k.cp = cid ∧ classOf k.kind = cls ∧ k.park ≠ none := by
  rw [Pool.cmdsOf_eq]
  simp [Option.isSome_iff_ne_none, and_assoc]

section
variable (p : Option Prefix) (d b : Byte) (c : Ctx) (s : State)

/-- R46: a WAITC on a class that always blocks is a hold violation. -/
theorem does_waitc_holding (hh : c.cp.holdLeft ≠ 0) (hd : d.toNat = 1 ∨ d.toNat = 2) :
    Does (.waitc p d b) c s (.trap 0x04 0 0 0) := by
  refine ⟨_, Eq.trans (b := execWaitc p d b s) rfl (by unfold execWaitc; rfl), ?_⟩
  exact if_pos (by simpa [hh, Cp.holding] using hd)

variable (hh : c.cp.holdLeft = 0 ∨ (d.toNat ≠ 1 ∧ d.toNat ≠ 2))
include hh

theorem waitc_passes : ¬(c.cp.holding && (decide (d.toNat = 1) || decide (d.toNat = 2))) = true := by
  rw [Bool.and_eq_true, Cp.holding_iff, Bool.or_eq_true, decide_eq_true_eq, decide_eq_true_eq]
  omega

theorem does_waitc_report {r : Res} (hr : c.reportFault s (· = d.toNat) = some r) : Does (.waitc p d b) c s r := by
  refine ⟨_, Eq.trans (b := execWaitc p d b s) rfl (by unfold execWaitc; rfl), ?_⟩
  dsimp only
  rw [if_neg (waitc_passes d c hh), hr]

/-- R210: a WAITC goes on while no more than b commands of its class are outstanding. -/
theorem does_waitc_done (hn : NoFault c d.toNat) (hb : c.cp.outstandingOf d.toNat ≤ b.toNat) :
    Does (.waitc p d b) c s (.done s) := by
  refine ⟨_, Eq.trans (b := execWaitc p d b s) rfl (by unfold execWaitc; rfl), ?_⟩
  dsimp only
  rw [if_neg (waitc_passes d c hh), Ctx.reportFault_none s hn, Cp.counter_eq_outstandingOf]
  exact if_pos hb

/-- R46, R183, R210: a WAITC that waits blocks on c.gth, on c.mrg and for a parked copy, and stalls else. -/
theorem does_waitc_waits (hn : NoFault c d.toNat) (hb : b.toNat < c.cp.outstandingOf d.toNat) :
    Does (.waitc p d b) c s
      (if (d.toNat = 1 ∨ d.toNat = 2) ∨
          (d.toNat = 0 ∧ ∃ k ∈ c.pool.cmds, k.cp = c.cid ∧ classOf k.kind = d.toNat ∧ k.park ≠ none) then
        if c.cp.holding then .trap 0x04 0 0 0 else .stay (s.standAt c.pid c.cid (.counter d.toNat b.toNat))
      else .stay (s.standAt c.pid c.cid .stall)) := by
  refine ⟨_, Eq.trans (b := execWaitc p d b s) rfl (by unfold execWaitc; rfl), ?_⟩
  dsimp only
  rw [if_neg (waitc_passes d c hh), Ctx.reportFault_none s hn, Cp.counter_eq_outstandingOf]
  simp only [if_neg (Nat.not_le.mpr hb), Bool.or_eq_true, Bool.and_eq_true, decide_eq_true_eq, Pool.anyParked_iff]

end

/-! ### WATCH -/

section
variable (p : Option Prefix) (ord : BitVec 2) (scope : BitVec 3) (a b : Byte) (c : Ctx) (s : State)

theorem does_watch_holding (h : c.cp.holdLeft ≠ 0) : Does (.watch p ord scope a b) c s (.trap 0x04 0 0 0) :=
  ⟨_, Eq.trans (b := execWatch p ord scope a b s) rfl (by unfold execWatch; rfl), if_pos (c.cp.holding_iff.mpr h)⟩

theorem does_watch_slice (h : c.cp.holdLeft = 0) (hs : c.pool.rslice = true) :
    Does (.watch p ord scope a b) c s (.trap 0x0F 0 0 0) :=
  ⟨_, Eq.trans (b := execWatch p ord scope a b s) rfl (by unfold execWatch; rfl),
    (if_neg (c.cp.not_holding h)).trans (if_pos hs)⟩

variable (hh : c.cp.holdLeft = 0) (hs : c.pool.rslice = false) {u : State}
include hh hs

theorem does_watch_differs (h : c.watchRead s (c.s a).toNat (c.s b) ord.toNat scope.toNat = .differs u) :
    Does (.watch p ord scope a b) c s (.done u) := by
  refine ⟨_, Eq.trans (b := execWatch p ord scope a b s) rfl (by unfold execWatch; rfl), ?_⟩
  rw [if_neg (c.cp.not_holding hh), if_neg (by simp [Ctx.slice, hs]), h]

theorem does_watch_same (h : c.watchRead s (c.s a).toNat (c.s b) ord.toNat scope.toNat = .same u) :
    Does (.watch p ord scope a b) c s (.stay (u.standAt c.pid c.cid
      (.watch (c.s a).toNat (c.s b) ord.toNat scope.toNat (Instr.watch p ord scope a b).words))) := by
  refine ⟨_, Eq.trans (b := execWatch p ord scope a b s) rfl (by unfold execWatch; rfl), ?_⟩
  rw [if_neg (c.cp.not_holding hh), if_neg (by simp [Ctx.slice, hs]), h]

end

/-! ### YIELD -/

section
variable (p : Option Prefix) (c : Ctx) (s : State)

theorem does_yield_holding (h : c.cp.holdLeft ≠ 0) : Does (.yield_ p) c s (.trap 0x04 0 0 0) :=
  ⟨_, Eq.trans (b := execYield_ p s) rfl (by unfold execYield_; rfl), if_pos (c.cp.holding_iff.mpr h)⟩

theorem does_yield (h : c.cp.holdLeft = 0) : Does (.yield_ p) c s
    (.stay ((c.finish (shapeOf (.yield_ p)) (Instr.yield_ p).words s).standAt c.pid c.cid (.yielded c.cp.pc))) :=
  ⟨_, Eq.trans (b := execYield_ p s) rfl (by unfold execYield_; rfl), if_neg (c.cp.not_holding h)⟩

end

end Sys2Proof.Machine

/-! ### The statement -/

section

open Sys2Proof Sys2Proof.Machine

/-- Settles O31: each clause is a case of what its instruction does. -/
theorem blockingInstructions : Obligations.BlockingInstructions := by
  unfold Obligations.BlockingInstructions
  refine ⟨⟨?_, fun p a b c s h hh => (does_gwait_holding p a b c s hh).traps h, fun p d b c s h => ?_⟩,
    ?_, fun p ord scope a b c s h => ⟨fun hh => (does_watch_holding p ord scope a b c s hh).traps h,
      fun hh hs => (does_watch_slice p ord scope a b c s hh hs).traps h⟩,
    fun p c s h => ⟨fun hh => (does_yield_holding p c s hh).traps h, fun hh => ?_⟩⟩
  · intro p a b c s s1 q o w exp phase pend arr h hat hg hh
    have does := does_gwait p a b c s hat hg hh
    refine ⟨fun hopen hr => ?_, fun hwait => ?_⟩
    · rw [if_pos hopen] at does
      exact does.completes_at h hat.pool hat.cp hr
    · rw [if_neg] at does
      · exact does.stays h
      · rintro ⟨hne, hr⟩
        rcases hwait with he | ⟨r, hm, hin⟩
        · exact hne he
        · exact hr r hm hin
  · have h0 : d = 0 ↔ d.toNat = 0 := BitVec.toNat_inj.symm
    have h1 : d = 1 ↔ d.toNat = 1 := BitVec.toNat_inj.symm
    have h2 : d = 2 ↔ d.toNat = 2 := BitVec.toNat_inj.symm
    have h3 : d = 3 ↔ d.toNat = 3 := BitVec.toNat_inj.symm
    simp only [h0, h1, h2, h3, ne_eq]
    refine ⟨fun hh hd => (does_waitc_holding p d b c s hh hd).traps h,
      fun hp hn hb hr => (does_waitc_done p d b c s hp hn hb).completes_at h h.pool h.cp hr,
      fun hh hd hn hb => ?_, fun hn hb hd => ?_, fun f r hf hcls hh => ?_⟩
    · have does := does_waitc_waits p d b c s (Or.inl hh) hn hb
      rw [if_pos (Or.inl hd), if_neg (c.cp.not_holding hh)] at does
      exact does.stays h
    · have does := does_waitc_waits p d b c s (Or.inr (by omega)) hn hb
      refine ⟨fun hq => ?_, fun hq hh => ?_, fun hq hh => ?_⟩
      · rw [if_neg] at does
        · exact does.stays h
        · rintro (hd' | ⟨hz, hk⟩)
          · omega
          · exact hq ⟨hz, hz ▸ hk⟩
      · rw [if_pos (Or.inr ⟨hq.1, hq.1.symm ▸ hq.2⟩), if_neg (c.cp.not_holding hh), hq.1] at does
        exact does.stays h
      · rw [if_pos (Or.inr ⟨hq.1, hq.1.symm ▸ hq.2⟩), if_pos (c.cp.holding_iff.mpr hh)] at does
        exact does.traps h
    · exact (does_waitc_report p d b c s (Or.inl hh) (Ctx.reportFault_head s _ hf (by simp [hcls]))).stays h
  · intro p ord scope a b c s s1 s2 pa r q h hs hh hcheck hkept hown hreds hline hread s3 stands under hq hc hr
    have hord : ord = 1 ↔ ord.toNat = 1 := BitVec.toNat_inj.symm
    simp only [under, hord] at hkept hread ⊢
    have reads : WatchReads c s (c.s a).toNat ord.toNat scope.toNat pa s1 s2 r :=
      ⟨hcheck, hkept, hown, hreds, hline, hread⟩
    refine ⟨fun hv hl hu => ?_, fun hv hl hu => ?_, fun hv => ?_⟩
    · refine (does_watch_differs p ord scope a b c s hh hs (reads.differs hl hv hu)).completes_at h ?_ hc hr
      split
      · exact hq
      · exact hq
    · exact (does_watch_same p ord scope a b c s hh hs (reads.underWay hl hv hu)).stays h
    · exact (does_watch_same p ord scope a b c s hh hs (reads.same hv)).stays h
  · refine ⟨_, (does_yield p c s hh).stays h, ?_⟩
    have effect := effect_cp h id rfl rfl rfl rfl
    rw [Ctx.modCp_id] at effect
    exact effect

end

/-! END and SYSC: what they wait for, and their commit points (R34, R46, R57, R147, R162, R183, R209, R217). -/

namespace Sys2Proof.Machine

/-! ### Commit points -/

/-- An effect that is a commit point commits where it can. -/
theorem Does.commits_next {i : Instr} {c : Ctx} {s s0 s' : State} {except : Option Nat} {carry : Carry} {a : After}
    (d : Does i c s (c.commitPoint (shapeOf i) i.words s0 s' except carry a)) (h : Issues i c s)
    (hcan : s'.canCommit c.pid except = true) : ∃ t, Machine.exec i s = .next t ∧
      (c.finish (shapeOf i) i.words s').commitPool c.pid except carry (waitFor c a) = some t := by
  obtain ⟨t, ht, hpoint⟩ := (commitPoint_eq c (shapeOf i) i.words s0 s' except carry a).1 hcan
  rw [hpoint] at d
  exact ⟨t, d.stays h, ht⟩

theorem Does.commits {i : Instr} {c : Ctx} {s s0 s' s1 : State} {q : Pool} {y : Cp} {except : Option Nat} {carry : Carry}
    {a : After} (d : Does i c s (c.commitPoint (shapeOf i) i.words s0 s' except carry a)) (h : Issues i c s)
    (hcan : s'.canCommit c.pid except = true) (he : Effect i c s1 (c.finish (shapeOf i) i.words s') q y) :
    Commits i c s s1 q y except carry a := by
  obtain ⟨t, hx, ht⟩ := d.commits_next h hcan
  exact ⟨_, t, hx, he, ht⟩

theorem Does.stands {i : Instr} {c : Ctx} {s s0 s' : State} {except : Option Nat} {carry : Carry} {a : After}
    (d : Does i c s (c.commitPoint (shapeOf i) i.words s0 s' except carry a)) (h : Issues i c s)
    (hcan : s'.canCommit c.pid except = false) : Machine.exec i s = .next (s0.standAt c.pid c.cid .stall) := by
  rw [(commitPoint_eq c (shapeOf i) i.words s0 s' except carry a).2 hcan] at d
  exact d.stays h

/-- An instruction that has passed commits where it could commit before. -/
theorem Ctx.commitPool_finish (c : Ctx) (h : Shape) (n : Nat) (s : State) (except : Option Nat) (carry : Carry)
    (prep : Nat → State → State) :
    ((c.finish h n s).commitPool c.pid except carry prep).isSome = s.canCommit c.pid except := by
  rw [commitPool_isSome, canCommit_congr (sameCommit_finish c h n s)]

/-- Passing an instruction changes nothing outside its pool but the issue slots. -/
theorem Ctx.onlyPool_finish (c : Ctx) (h : Shape) (n : Nat) (s : State) : OnlyPool c.pid s (c.finish h n s) := by
  rw [Ctx.finish_eq]
  exact ⟨rfl, fun q hq => State.pool?_modPool_ne s _ hq, fun _ => rfl⟩

theorem Ctx.pool?_finish {c : Ctx} {s : State} {q : Pool} (h : Shape) (n : Nat) (hq : s.pool? c.pid = some q) :
    (c.finish h n s).pool? c.pid = some (c.finishPool h n s.now q) := by
  rw [Ctx.finish_eq]
  exact (State.pool?_modPool_self s _ _).trans (by rw [hq]; rfl)

theorem Ctx.finishCp_nopre (c : Ctx) (h : Shape) (n now : Nat) (x : Cp) :
    (c.finishCp h n now x).nopre = x.nopre := by
  unfold Ctx.finishCp Cp.advance
  split <;> rfl

/-! ### The tiles of a CP that ends -/

theorem Pool.tiles_setTile_empty (p : Pool) (kept : Bool) (k : Nat) :
    (p.setTile kept k Tile.empty).tiles = KMap.del p.tiles k := by
  change KMap.set p.tiles Tile.empty k Tile.empty = _
  exact if_pos rfl

/-- Tiles emptied one after another. -/
def Pool.emptyTiles (p : Pool) (l : List (Nat × Tile)) : Pool :=
  l.foldl (fun p e => p.setTile false e.1 Tile.empty) p

theorem Pool.tiles_emptyTiles (p : Pool) (l : List (Nat × Tile)) (e : Nat × Tile)
    (h : e ∈ (p.emptyTiles l).tiles) : e ∈ p.tiles ∧ ∀ f ∈ l, f.1 ≠ e.1 := by
  induction l generalizing p with
  | nil => exact ⟨h, fun f hf => absurd hf List.not_mem_nil⟩
  | cons g l ih =>
      obtain ⟨hm, hne⟩ := ih (p.setTile false g.1 Tile.empty) h
      rw [Pool.tiles_setTile_empty, KMap.del, List.mem_filter, bne_iff_ne] at hm
      exact ⟨hm.1, List.forall_mem_cons.mpr ⟨hm.2.symm, hne⟩⟩

theorem Pool.cps_emptyTiles (p : Pool) (l : List (Nat × Tile)) : (p.emptyTiles l).cps = p.cps := by
  induction l generalizing p with
  | nil => rfl
  | cons g l ih => exact ih _

/-- R217: a CP that ends owns no tile. -/
theorem Pool.tiles_releaseTiles (p : Pool) (cid : Nat) : ∀ e ∈ (p.releaseTiles cid).tiles, e.2.owner ≠ some cid := by
  intro e he hown
  obtain ⟨hm, hne⟩ := Pool.tiles_emptyTiles p (p.tiles.filter fun e => e.2.owner == some cid) e he
  exact hne e (List.mem_filter.mpr ⟨hm, by simp [hown]⟩) rfl

theorem Pool.cp?_releaseTiles {p : Pool} {cid : Nat} {x : Cp} (h : p.cp? cid = some x) :
    ∃ n, (p.releaseTiles cid).cp? cid = some (x.addCorr n) := by
  refine ⟨_, (Pool.cp?_modCp_self _ _ _).trans (congrArg (Option.map _) (?_ : _ = some x))⟩
  exact (congrArg (KMap.find? · cid) (Pool.cps_emptyTiles p _)).trans h

/-! ### END -/

/-- R147: the last END of a pool changes of its pool only the task. -/
theorem Ctx.pool?_lastEnd {c : Ctx} {s : State} {q : Pool} (hq : s.pool? c.pid = some q) :
    ∃ r, (c.lastEnd s).2.pool? c.pid = some r ∧ r.cps = q.cps ∧ r.tiles = q.tiles := by
  unfold Ctx.lastEnd
  rw [hq]
  dsimp only
  generalize hp : (if q.cps.any (fun e => e.2.poisoned) then { q with task := q.task.fail 0x02 } else q : Pool) = p
  have same : p.cps = q.cps ∧ p.tiles = q.tiles := by
    rw [← hp]
    split
    · exact ⟨rfl, rfl⟩
    · exact ⟨rfl, rfl⟩
  split
  · exact ⟨_, (State.pool?_setPool _ _ _ _).trans (if_pos rfl), same⟩
  · exact ⟨_, (State.pool?_setPool _ _ _ _).trans (if_pos rfl), same⟩

/-- R147: what an END commits, but for its pool's task: its tiles cleared, its hold and its interval closed. -/
def Ctx.ending (c : Ctx) (s : State) : State :=
  (c.modPool s fun q => q.releaseTiles c.cid).modCp c.pid c.cid fun y => { y with holdLeft := 0, nopre := none }

/-- R147, R320: the same with what the last END of the pool adds. -/
def Ctx.ended (c : Ctx) (s : State) : Carry × State :=
  if c.pool.lastToEnd c.cid then c.lastEnd (c.ending s) else ({}, c.ending s)


/-- What an END has changed of its CP and its tiles. -/
theorem Ctx.pool?_ended {c : Ctx} {s : State} (hp : s.pool? c.pid = some c.pool) (hc : c.pool.cp? c.cid = some c.cp) :
    ∃ q y, (c.ended s).2.pool? c.pid = some q ∧ q.cp? c.cid = some y ∧ y.pc = c.cp.pc ∧ y.clause = c.cp.clause ∧
      y.holdLeft = 0 ∧ y.nopre = none ∧ ∀ e ∈ q.tiles, e.2.owner ≠ some c.cid := by
  obtain ⟨n, hrel⟩ := Pool.cp?_releaseTiles hc
  have hq : (c.ending s).pool? c.pid =
      some ((c.pool.releaseTiles c.cid).modCp c.cid fun y => { y with holdLeft := 0, nopre := none }) := by
    unfold Ctx.ending Ctx.modPool State.modCp
    rw [State.pool?_modPool_self, State.pool?_modPool_self, hp]
    rfl
  have hy : ((c.pool.releaseTiles c.cid).modCp c.cid fun y => { y with holdLeft := 0, nopre := none }).cp? c.cid =
      some { c.cp.addCorr n with holdLeft := 0, nopre := none } := by rw [Pool.cp?_modCp_self, hrel]; rfl
  have htiles := c.pool.tiles_releaseTiles c.cid
  obtain ⟨r, hr, hcps, hrtiles⟩ : ∃ r, (c.ended s).2.pool? c.pid = some r ∧
      r.cps = (KMap.modify (c.pool.releaseTiles c.cid).cps c.cid fun y => { y with holdLeft := 0, nopre := none }) ∧
      r.tiles = (c.pool.releaseTiles c.cid).tiles := by
    unfold Ctx.ended
    split
    · exact Ctx.pool?_lastEnd hq
    · exact ⟨_, hq, rfl, rfl⟩
  refine ⟨r, _, hr, (congrArg (KMap.find? · c.cid) hcps).trans hy, rfl, rfl, rfl, rfl, ?_⟩
  rw [hrtiles]
  exact htiles

section
variable {c : Ctx}

/-- R34: the operations that an END waits for. -/
theorem Ctx.outstanding_none (h : ∀ o ∈ c.pool.ops, o.cp = c.cid → o.kind = .sysc) : c.outstanding = none := by
  have hmine : c.pool.ops.find? (fun o => o.cp = c.cid && o.kind != .sysc) = none :=
    List.find?_eq_none.mpr fun o ho => by
      simp only [Bool.and_eq_true, decide_eq_true_eq, bne_iff_ne, not_and, not_not]
      exact h o ho
  have hfree : c.pool.ops.find? (fun o => (o.cp = c.cid && o.kind != .sysc) && !o.isParked) = none :=
    List.find?_eq_none.mpr fun o ho hm => by
      rw [Bool.and_eq_true] at hm
      exact List.find?_eq_none.mp hmine o ho hm.1
  unfold Ctx.outstanding
  dsimp only
  rw [hfree, hmine]

theorem Ctx.counters_iff : ((List.range 4).any fun k => decide (c.cp.counter k ≠ 0)) = true ↔
    ∃ k, k ≤ 3 ∧ c.cp.outstandingOf k ≠ 0 := by
  simp only [List.any_eq_true, List.mem_range, decide_eq_true_eq, Cp.counter_eq_outstandingOf, Nat.lt_succ_iff]

theorem Ctx.no_counters (hk : ∀ k, k ≤ 3 → c.cp.outstandingOf k = 0) :
    ¬((List.range 4).any fun k => decide (c.cp.counter k ≠ 0)) = true := by
  rw [Ctx.counters_iff]
  rintro ⟨k, hk3, hne⟩
  exact hne (hk k hk3)

variable (p : Option Prefix) (c : Ctx) (s : State)

theorem does_end : Does (.end_ p) c s (c.endSteps (Instr.end_ p).words s) :=
  ⟨_, Eq.trans (b := execEnd_ p s) rfl (by unfold execEnd_; rfl), rfl⟩

theorem does_end_waits {o : Op} (h : c.outstanding = some o) :
    Does (.end_ p) c s (.stay (s.waitOp c.pid c.cid c.cp.pc o)) := by
  have d := does_end p c s
  unfold Ctx.endSteps at d
  rwa [h] at d

variable (ho : ∀ o ∈ c.pool.ops, o.cp = c.cid → o.kind = .sysc)
include ho

/-- R34, R183: an END that waits for commands blocks for a parked gather and stalls else. -/
theorem does_end_commands (hk : ∃ k, k ≤ 3 ∧ c.cp.outstandingOf k ≠ 0) : Does (.end_ p) c s
    (if ∃ k ∈ c.pool.cmds, k.cp = c.cid ∧ classOf k.kind = 1 ∧ k.park ≠ none then
      if c.cp.holding then .trap 0x04 0 0 0 else .stay (s.standAt c.pid c.cid (.counter 1 0))
    else .stay (s.standAt c.pid c.cid .stall)) := by
  have d := does_end p c s
  unfold Ctx.endSteps at d
  simp only [Ctx.outstanding_none ho, if_pos (Ctx.counters_iff.mpr hk), Pool.anyParked_iff] at d
  exact d

variable (hk : ∀ k, k ≤ 3 → c.cp.outstandingOf k = 0)
include hk

/-- R209: an END reports the fault of an engine. -/
theorem does_end_fault {f : EngineFault} {r : List EngineFault} (hf : c.cp.faults = f :: r) : Does (.end_ p) c s
    (.stay ((c.modCp s fun _ => { c.cp with faults := r }).takeTrap c.pid c.cid c.cp.pc 0x17 0 f.detail f.addr)) := by
  have d := does_end p c s
  have hw : (Instr.end_ p).words ≠ 0 := by
    change 1 + _ + _ ≠ 0
    omega
  unfold Ctx.endSteps at d
  simp only [Ctx.outstanding_none ho, if_neg (Ctx.no_counters hk), if_neg hw,
    Ctx.reportFault_head s (fun _ => true) hf rfl] at d
  exact d

/-- R147: with nothing left outstanding and no fault, an END is a commit point. -/
theorem does_end_commits (hf : c.cp.faults = []) : Does (.end_ p) c s
    (c.commitPoint (shapeOf (.end_ p)) (Instr.end_ p).words (c.modCp s fun y => { y with holdLeft := 0, nopre := none })
      (c.ended s).2 none (c.ended s).1 .endCp) := by
  have d := does_end p c s
  have hnone : c.reportFault s (fun _ => true) = none := by
    unfold Ctx.reportFault Cp.takeFault
    rw [hf]
    rfl
  unfold Ctx.endSteps at d
  simp only [Ctx.outstanding_none ho, if_neg (Ctx.no_counters hk), hnone, ite_self] at d
  exact d

end

/-- R34, R298: the CP of an END ends when the record that it waits for is complete. -/
theorem State.settleCp_end {s : State} {id pid cid : Nat} {q : Pool} {x : Cp} (hq : s.pool? pid = some q)
    (hx : q.cp? cid = some x) (hw : x.wait = some (id, .endCp)) : s.settleCp id pid cid =
      s.modCp pid cid fun y => { y with wait := none, status := .ended, stack := [], clause := none } := by
  unfold State.settleCp
  simp only [hq, State.cp?_of_pool? hq, hx, hw]
  exact if_neg (not_not_intro rfl)

/-! ### SYSC -/

section
variable (p : Option Prefix) (d a : Byte) (narg : BitVec 4) (service : BitVec 16) (c : Ctx) (s : State)

/-- R162: the operation that a SYSC with responders leaves. -/
def syscOp (d a : Byte) (narg : BitVec 4) (service : BitVec 16) (c : Ctx) (s : State) : Op :=
  { c.newOp .sysc with
    id := s.nextId, flag := 15, dest := d.toNat, wide := true, aop := service.toNat
    lanes := c.tids.map fun t => ⟨t, 0, 0, 0, 0⟩
    args := c.tids.map fun t => (List.range narg.toNat).map fun k => c.pool.reg t (a.toNat + k) }

/-- R162, R299: the CP waits for its record and stands at the system call. -/
def syscWait (c : Ctx) (op id : Nat) (v : State) : State :=
  c.modCp v fun y => { y with stand := .sysc op c.cp.pc, wait := some (id, .go) }

/-- The state with an operation of the pool more. -/
def syscAsked (c : Ctx) (s : State) (o : Op) : State :=
  c.modPool { s with nextId := s.nextId + 1 } fun q => { q with ops := q.ops ++ [o] }

theorem does_sysc_holding (h : c.cp.holdLeft ≠ 0) : Does (.sysc p d a narg service) c s (.trap 0x04 0 0 0) :=
  ⟨_, Eq.trans (b := execSysc p d a narg service s) rfl (by unfold execSysc; rfl), if_pos (c.cp.holding_iff.mpr h)⟩

variable (hh : c.cp.holdLeft = 0)
include hh

theorem does_sysc_slice (hs : c.pool.rslice = true) : Does (.sysc p d a narg service) c s (.trap 0x0F 0 0 0) :=
  ⟨_, Eq.trans (b := execSysc p d a narg service s) rfl (by unfold execSysc; rfl),
    (if_neg (c.cp.not_holding hh)).trans (if_pos hs)⟩

variable (hs : c.pool.rslice = false)
include hs

theorem does_sysc_none (ht : c.tids = []) : Does (.sysc p d a narg service) c s
    (c.commitPoint (shapeOf (.sysc p d a narg service)) (Instr.sysc p d a narg service).words s s none
      { marks := true } .go) := by
  refine ⟨_, Eq.trans (b := execSysc p d a narg service s) rfl (by unfold execSysc; rfl), ?_⟩
  dsimp only
  rw [if_neg (c.cp.not_holding hh), if_neg (by simp [Ctx.slice, hs]), if_pos (by simp [ht])]
  rfl

/-- R162: with responders a SYSC commits with its operation, where it can. -/
theorem does_sysc (ht : c.tids ≠ []) {t : State}
    (hcommit : (c.finish (shapeOf (.sysc p d a narg service)) (Instr.sysc p d a narg service).words
      (syscAsked c s (syscOp d a narg service c s))).commitPool c.pid none { marks := true }
        (syscWait c s.nextId) = some t) : Does (.sysc p d a narg service) c s (.stay t) := by
  refine ⟨_, Eq.trans (b := execSysc p d a narg service s) rfl (by unfold execSysc; rfl), ?_⟩
  dsimp only
  rw [if_neg (c.cp.not_holding hh), if_neg (by simp [Ctx.slice, hs]), if_neg (by simpa using ht)]
  exact (congrArg (fun o : Option State => match o with
    | some s' => Res.stay s' | none => .stay (s.standAt c.pid c.cid .stall)) hcommit :)

theorem does_sysc_stalls (ht : c.tids ≠ [])
    (hcommit : (c.finish (shapeOf (.sysc p d a narg service)) (Instr.sysc p d a narg service).words
      (syscAsked c s (syscOp d a narg service c s))).commitPool c.pid none { marks := true }
        (syscWait c s.nextId) = none) :
    Does (.sysc p d a narg service) c s (.stay (s.standAt c.pid c.cid .stall)) := by
  refine ⟨_, Eq.trans (b := execSysc p d a narg service s) rfl (by unfold execSysc; rfl), ?_⟩
  dsimp only
  rw [if_neg (c.cp.not_holding hh), if_neg (by simp [Ctx.slice, hs]), if_neg (by simpa using ht)]
  exact (congrArg (fun o : Option State => match o with
    | some s' => Res.stay s' | none => .stay (s.standAt c.pid c.cid .stall)) hcommit :)

end

end Sys2Proof.Machine

/-! ### The statement -/

section

open Sys2Proof Sys2Proof.Machine

/-- Settles O33: each clause is a case of what END or SYSC does; both commit exactly where the state with their effect
can commit. -/
theorem endAndSystemCall : Obligations.EndAndSystemCall := by
  unfold Obligations.EndAndSystemCall
  refine ⟨⟨?_, fun p c s h => ⟨fun o ho => (does_end_waits p c s ho).stays h, fun ho => ⟨fun hk => ?_, fun hk f r hf =>
    (does_end_fault p c s ho hk hf).stays h⟩⟩, ?_⟩, ?_⟩
  · intro p c s h ho hk hf s1 x hx
    have hended : x = c.ended s := hx
    subst hended
    have does := does_end_commits p c s ho hk hf
    refine ⟨fun hcan => ?_, fun hcan => does.stands h hcan⟩
    obtain ⟨q, y, hq, hy, hpc, hcl, hhold, hnopre, htiles⟩ := Ctx.pool?_ended (s := s) h.pool h.cp
    obtain ⟨t, hx, ht⟩ := does.commits_next h hcan
    refine ⟨_, t, _, _, hx, ht, c.onlyPool_finish _ _ _, Ctx.pool?_finish _ _ hq,
      (Pool.cp?_modCp_self _ _ _).trans (congrArg (Option.map _) hy), ⟨?_, ?_, rfl⟩, ?_, ?_, htiles⟩
    · rw [Ctx.finishCp_pc, hpc]
    · rw [Ctx.finishCp_clause, Ctx.finishCp_pc, hcl]
    · rw [Ctx.finishCp_hold]
      exact hhold
    · rw [Ctx.finishCp_nopre, hnopre]
  · have does := does_end_commands p c s ho hk
    refine ⟨fun hq => ?_, fun hq hh => ?_, fun hq hh => ?_⟩
    · rw [if_neg hq] at does
      exact does.stays h
    · rw [if_pos hq, if_pos (c.cp.holding_iff.mpr hh)] at does
      exact does.traps h
    · rw [if_pos hq, if_neg (c.cp.not_holding hh)] at does
      exact does.stays h
  · intro s id pid cid q cp hq hx hw
    refine ⟨q.modCp cid fun y => { y with wait := none, status := .ended, stack := [], clause := none }, ?_, ?_⟩
    · rw [State.settleCp_end hq hx hw, State.modCp, State.pool?_modPool_self, hq]; rfl
    · rw [Pool.cp?_modCp_self, hx]; rfl
  · intro p d a narg service c s i h
    refine ⟨fun hh => (does_sysc_holding p d a narg service c s hh).traps h,
      fun hh hs => (does_sysc_slice p d a narg service c s hh hs).traps h, fun hs hh => ⟨fun ht => ?_, fun ht => ?_⟩⟩
    · have does := does_sysc_none p d a narg service c s hh hs ht
      have effect := effect_cp h id rfl rfl rfl rfl
      rw [Ctx.modCp_id] at effect
      exact ⟨fun hcan => does.commits h hcan effect, fun hcan => does.stands h hcan⟩
    · intro o s2 s3
      have may := c.commitPool_finish (shapeOf i) i.words s3 none { marks := true } (syscWait c s.nextId)
      have effect := effect_finish (i := i) (s := s2) h.pool h.cp (fun q => { q with ops := q.ops ++ [o] }) id rfl rfl rfl
        rfl rfl
      rw [Ctx.modCp_id] at effect
      refine ⟨fun hcan => ?_, fun hcan => ?_⟩
      · rw [hcan] at may
        obtain ⟨t, hcommit⟩ := Option.isSome_iff_exists.mp may
        exact ⟨_, t, (does_sysc p d a narg service c s hh hs ht hcommit).stays h, effect, hcommit⟩
      · rw [hcan, Option.isSome_eq_false_iff, Option.isNone_iff_eq_none] at may
        exact (does_sysc_stalls p d a narg service c s hh hs ht may).stays h

end

/-! CPSTART and CPSTOP, and the CP that a start makes (R33, R272, R326, R327). -/

namespace Sys2Proof.Machine

/-! ### A CP as it starts -/

theorem fresh_start (threads : Nat) (pc s0 : DWord) (skew : Nat) : Fresh (Cp.start threads pc s0 skew) threads pc s0 where
  status := rfl
  pc := rfl
  clause := rfl
  s0 := (KMap.get_set _ _ _ _ _).trans (if_pos rfl)
  s := fun _ hn => (KMap.get_set _ _ _ _ _).trans (if_neg hn)
  m0 := Mask.getLsbD_full threads
  m := fun n hn => by
    have : KMap.find? [((0 : Nat), Mask.full threads)] n = none := by
      rw [KMap.find?_cons, if_neg (Ne.symm hn)]
      rfl
    simp only [Cp.mreg, Cp.start, KMap.get, this]
    rfl
  stack := ⟨Mask.full threads, rfl, Mask.getLsbD_full threads⟩
  counters := ⟨rfl, rfl, rfl, rfl⟩
  flags := ⟨rfl, rfl, rfl⟩
  hold := ⟨rfl, rfl, rfl⟩
  waits := ⟨rfl, rfl, rfl, rfl⟩
  handles := rfl
  trap := rfl

/-! ### A change of other CPs -/

/-- An instruction whose own effect changes its pool, also other CPs of it, but not its own CP and no undo log. -/
theorem Does.completes_pool {i : Instr} {c : Ctx} {s : State} {g : Pool → Pool} (d : Does i c s (.done (c.modPool s g)))
    (h : Issues i c s) (hc : (g c.pool).cp? c.cid = some c.cp) (hcores : (g c.pool).cores = c.pool.cores)
    (hu : ∀ k, (g c.pool).undoOn k = c.pool.undoOn k) (hr : UndoRoom c s 0) :
    ∃ t, Machine.exec i s = .next t ∧ Effect i c s t (g c.pool) c.cp := by
  have hq : (c.modPool s g).pool? c.pid = some (g c.pool) := by
    rw [Ctx.modPool, State.pool?_modPool_self, h.pool]; rfl
  have hroom : s.undoNeed (c.modPool s g) c.pid = [] := undoNeed_of_room h.pool 0 hr hq hcores fun k => (hu k).le
  refine ⟨_, (d.exec h).trans (by rw [issued, hroom]), ?_⟩
  have effect := effect_finish (i := i) hq hc id id rfl rfl rfl rfl rfl
  obtain ⟨⟨hrest, hother, hmem⟩, hslots, hpool⟩ := effect
  have e : c.modCp (c.modPool (c.modPool s g) id) id = c.modPool s g := by
    rw [Ctx.modCp_id, Ctx.modPool, State.modPool_id]
  rw [e] at hrest hother hmem hslots hpool
  refine ⟨⟨?_, fun q hne => (hother q hne).trans (State.pool?_modPool_ne s g hne), hmem⟩, hslots, hpool⟩
  exact congrArg (fun u : State => { u with pools := s.pools }) hrest

/-! ### CPSTART -/

/-- R326: the pool with its next CP started. -/
def Ctx.startNext (c : Ctx) (d a : Byte) (q : Pool) : Pool :=
  { q with
    cps := KMap.put q.cps (c.pool.started + 1)
      (Cp.start c.pool.threads (c.s d >>> 2) (c.s a) (bits 1 0 (c.s d)))
    started := c.pool.started + 1 }

section
variable (p : Option Prefix) (d a : Byte) (c : Ctx) (s : State)

theorem does_cpstart_slice (hs : c.pool.rslice = true) : Does (.cpstart p d a) c s (.trap 0x0F 0 0 0) :=
  ⟨_, Eq.trans (b := execCpstart p d a s) rfl (by unfold execCpstart; rfl), if_pos hs⟩

variable (hs : c.pool.rslice = false)
include hs

theorem Ctx.not_slice : ¬c.slice = true := by simp [Ctx.slice, hs]

theorem does_cpstart_other (h0 : c.cid ≠ 0) : Does (.cpstart p d a) c s .illegal :=
  ⟨_, Eq.trans (b := execCpstart p d a s) rfl (by unfold execCpstart; rfl),
    (if_neg (c.not_slice hs)).trans (if_pos h0)⟩

variable (h0 : c.cid = 0)
include h0

theorem does_cpstart_full (hn : c.pool.cpsMax ≤ c.pool.started + 1) :
    Does (.cpstart p d a) c s (.trap 0x01 0 0x30 0) :=
  ⟨_, Eq.trans (b := execCpstart p d a s) rfl (by unfold execCpstart; rfl),
    (if_neg (c.not_slice hs)).trans ((if_neg (not_not_intro h0)).trans (if_pos hn))⟩

variable (hn : c.pool.started + 1 < c.pool.cpsMax) (hb : c.beforeStart = none)
include hn hb

/-- R272: stores that the new CP does not see yet are committed first. -/
theorem does_cpstart_unseen (hu : c.unseenStores s (c.pool.started + 1) ≠ []) : Does (.cpstart p d a) c s
    (.stay (s.forceFor c.pid c.cid
      (if (c.unseenStores s (c.pool.started + 1)).any (·.record.isNone) then [c.pid] else []))) := by
  refine ⟨_, Eq.trans (b := execCpstart p d a s) rfl (by unfold execCpstart; rfl), ?_⟩
  dsimp only
  rw [if_neg (c.not_slice hs), if_neg (not_not_intro h0), if_neg (by omega), hb]
  obtain ⟨e, r, her⟩ := List.exists_cons_of_ne_nil hu
  rw [her]

theorem does_cpstart (hu : c.unseenStores s (c.pool.started + 1) = []) :
    Does (.cpstart p d a) c s (.done (c.modPool s (c.startNext d a))) := by
  refine ⟨_, Eq.trans (b := execCpstart p d a s) rfl (by unfold execCpstart; rfl), ?_⟩
  dsimp only
  rw [if_neg (c.not_slice hs), if_neg (not_not_intro h0), if_neg (by omega), hb, hu]
  rfl

end

/-! ### CPSTOP -/

theorem Pool.cp?_stopCp_ne (p : Pool) {n j : Nat} (h : j ≠ n) : (p.stopCp n).cp? j = p.cp? j :=
  Pool.cp?_modCp_ne _ _ h

/-- R327: a CP that runs or stands at a trap is stopped. -/
theorem Pool.cp?_stopCp {p : Pool} {n : Nat} {x : Cp} (hx : p.cp? n = some x)
    (hr : x.status = .running ∨ x.status = .trapped) : (p.stopCp n).cp? n =
      some { x with status := .stopping, stand := .no, holdLeft := 0, nopre := none, trap := none } := by
  have hb : (x.status == .running || x.status == .trapped) = true := by simpa using hr
  exact (Pool.cp?_modCp_self _ _ _).trans ((congrArg (Option.map _) hx).trans (congrArg some (if_pos hb)))

/-- R327: its parked accesses and its system calls are abandoned. -/
theorem Pool.ops_stopCp (p : Pool) (n : Nat) :
    (p.stopCp n).ops = p.ops.filter fun o => !(o.cp == n && (o.park.isSome || o.kind == .sysc)) :=
  List.filter_congr fun o _ => by by_cases h : o.cp = n <;> simp [h, Op.isParked]

section
variable (p : Option Prefix) (a : Byte) (c : Ctx) (s : State)

theorem does_cpstop_slice (hs : c.pool.rslice = true) : Does (.cpstop p a) c s (.trap 0x0F 0 0 0) :=
  ⟨_, Eq.trans (b := execCpstop p a s) rfl (by unfold execCpstop; rfl), if_pos hs⟩

theorem cpstop_forbidden_iff (n : Nat) : (decide (8 ≤ n) || decide (n = c.cid)) = true ↔ 8 ≤ n ∨ n = c.cid := by simp

variable (hs : c.pool.rslice = false)
include hs

theorem does_cpstop_illegal (hn : 8 ≤ (c.s a).toNat ∨ (c.s a).toNat = c.cid) : Does (.cpstop p a) c s .illegal :=
  ⟨_, Eq.trans (b := execCpstop p a s) rfl (by unfold execCpstop; rfl),
    (if_neg (c.not_slice hs)).trans (if_pos ((cpstop_forbidden_iff c _).mpr hn))⟩

variable (hn : ¬(8 ≤ (c.s a).toNat ∨ (c.s a).toNat = c.cid))
include hn

theorem does_cpstop {x : Cp} (hx : c.pool.cp? (c.s a).toNat = some x) (hr : x.status = .running ∨ x.status = .trapped) :
    Does (.cpstop p a) c s (.done (c.modPool s (·.stopCp (c.s a).toNat))) := by
  refine ⟨_, Eq.trans (b := execCpstop p a s) rfl (by unfold execCpstop; rfl), ?_⟩
  dsimp only
  rw [if_neg (c.not_slice hs), if_neg (mt (cpstop_forbidden_iff c _).mp hn), hx]
  exact if_pos (by simpa using hr)

theorem does_cpstop_none (hx : ∀ x, c.pool.cp? (c.s a).toNat = some x → x.status ≠ .running ∧ x.status ≠ .trapped) :
    Does (.cpstop p a) c s (.done s) := by
  refine ⟨_, Eq.trans (b := execCpstop p a s) rfl (by unfold execCpstop; rfl), ?_⟩
  dsimp only
  rw [if_neg (c.not_slice hs), if_neg (mt (cpstop_forbidden_iff c _).mp hn)]
  cases hc : c.pool.cp? (c.s a).toNat with
  | none => rfl
  | some x =>
      obtain ⟨hrun, htrap⟩ := hx x hc
      exact if_neg (by simp [hrun, htrap])

end

end Sys2Proof.Machine

/-! ### The statement -/

section

open Sys2Proof Sys2Proof.Machine

/-- Settles O39: each clause is a case of what CPSTART or CPSTOP does to another CP of its pool. -/
theorem startingAndStoppingCps : Obligations.StartingAndStoppingCps := by
  unfold Obligations.StartingAndStoppingCps
  refine ⟨?_, ?_⟩
  · intro p d a c s i n h
    refine ⟨fun hs => (does_cpstart_slice p d a c s hs).traps h,
      fun hs h0 => (does_cpstart_other p d a c s hs h0).traps h,
      fun hs h0 hn => (does_cpstart_full p d a c s hs h0 hn).traps h,
      fun hs h0 hn hb hu => (does_cpstart_unseen p d a c s hs h0 hn hb hu).stays h, fun hs h0 hn hb hu hr => ?_⟩
    have hother (j : Nat) (hj : j ≠ n) : (c.startNext d a c.pool).cp? j = c.pool.cp? j := KMap.find?_put_ne _ _ hj
    have hne : c.cid ≠ n := by rw [h0]; exact (Nat.succ_ne_zero _).symm
    obtain ⟨t, hx, effect⟩ := (does_cpstart p d a c s hs h0 hn hb hu).completes_pool h ((hother _ hne).trans h.cp) rfl
      (fun _ => rfl) hr
    refine ⟨t, _, _, hx, effect, rfl, KMap.find?_put_self _ _ _, hother, rfl, fresh_start _ _ _ _, ?_⟩
    simp [Cp.start, bits]
  · intro p a c s i n h
    refine ⟨fun hs => (does_cpstop_slice p a c s hs).traps h,
      fun hs hn => (does_cpstop_illegal p a c s hs hn).traps h, fun hs hn hne hr => ?_⟩
    have hok : ¬(8 ≤ n ∨ n = c.cid) := by omega
    refine ⟨fun x hx hst => ?_, fun hx => (does_cpstop_none p a c s hs hok hx).completes_at h h.pool h.cp hr⟩
    have hother (j : Nat) (hj : j ≠ n) : (c.pool.stopCp n).cp? j = c.pool.cp? j := c.pool.cp?_stopCp_ne hj
    obtain ⟨t, hx', effect⟩ := (does_cpstop p a c s hs hok hx hst).completes_pool h
      ((hother _ hne.symm).trans h.cp) rfl (fun _ => rfl) hr
    exact ⟨t, _, hx', effect, Pool.cp?_stopCp hx hst, hother, c.pool.ops_stopCp n, rfl⟩

end

/-! Toll and quantum boundaries and the packing timeout (R52, R310, R311, R313, R324). -/

namespace Sys2Proof.Machine

theorem KMap.find?_map_key (m : KMap α) (f : Nat → α → β) (k : Nat) :
    KMap.find? (m.map fun e => (e.1, f e.1 e.2)) k = (KMap.find? m k).map (f k) := by
  induction m with
  | nil => rfl
  | cons e m ih =>
      rw [List.map_cons, KMap.find?_cons, KMap.find?_cons]
      by_cases h : e.1 = k
      · rw [if_pos h, if_pos h, h]; rfl
      · rw [if_neg h, if_neg h, ih]

/-! ### Events of a package that runs -/

section
variable {s : State} (hr : Running s)
include hr

theorem Running.time_iff (n : Nat) : (s.viral.isSome || s.phase != .running || decide (s.time < n)) = true ↔
    s.time < n := by
  obtain ⟨hv, hp⟩ := hr
  simp [hv, hp]

theorem Running.not_stopped : ¬(s.viral.isSome || s.phase != .running) = true := by
  obtain ⟨hv, hp⟩ := hr
  simp [hv, hp]

end

/-! ### Toll boundaries -/

/-- R311: a slot that stays at a toll boundary. -/
def Slot.aged (y : Slot) (full : Bool) : Slot :=
  { y with
    eff := if (y.eff = 2 ∨ y.eff = 3) ∧ y.nonEmpty = true ∧ full = true ∧ y.tollDispatched = false then y.eff - 1
      else y.eff
    tollDispatched := false, nonEmpty := full, empty := !full }

theorem Slot.toll_eq (y : Slot) (full : Bool) :
    y.toll full = if y.empty = true ∧ full = false then none else some (y.aged full) := by
  unfold Slot.toll Slot.aged
  simp only [Bool.and_eq_true, Bool.or_eq_true, decide_eq_true_eq, Bool.not_eq_true', and_assoc]

/-- R311: the state with the slots of a toll boundary. -/
def State.tolled (s : State) : State :=
  { s with
    tollAt := s.time
    queues := s.queues.map fun e => (e.1, { e.2 with slot := e.2.slot.bind fun x => x.toll (s.queueFull e.2) }) }

theorem exec_toll {s : State} (hr : Running s) : exec .tollIntervalBoundary s =
    .next (if s.time < s.tollAt + micros s.toll then s else s.tolled.mapWaiting s.tolled.waiting) := by
  change execTollIntervalBoundary s = _
  unfold execTollIntervalBoundary
  simp only [hr.time_iff]
  split
  · rfl
  · rfl

theorem State.find?_tolled {s : State} {q : Nat} {x : Queue} (h : KMap.find? s.queues q = some x) :
    KMap.find? s.tolled.queues q = some { x with
      slot := x.slot.bind fun y => if y.empty = true ∧ s.queueFull x = false then none
        else some (y.aged (s.queueFull x)) } := by
  unfold State.tolled
  simp only [← Slot.toll_eq]
  exact (KMap.find?_map _ (fun x => { x with slot := x.slot.bind fun y => y.toll (s.queueFull x) }) q).trans
    (congrArg (Option.map _) h)

/-! ### Quantum boundaries -/

/-- R313: the slots that are given up for waiting queues. -/
def State.givenUp (s : State) : List Nat :=
  if s.slotsUsed < 512 then [] else s.unmappable.take (min 64 s.waiting.length)

/-- R313: a queue at a quantum boundary. -/
def Queue.requeued (off : List Nat) (q : Nat) (x : Queue) : Queue :=
  { x with slot := if q ∈ off then none else x.slot.map fun y => { y with quantumDispatched := false } }

def State.quantized (s : State) : State :=
  { s with
    quantumAt := s.time
    queues := s.queues.map fun e => (e.1, Queue.requeued s.givenUp e.1 e.2)
    waiting := s.waiting ++ s.givenUp.filter fun q => (KMap.find? s.queues q).any s.queueFull }

theorem exec_quantum {s : State} (hr : Running s) : exec .quantumBoundary s =
    .next (if s.time < s.quantumAt + micros (s.toll * s.quantum) then s
      else s.quantized.mapWaiting s.quantized.waiting) := by
  have hc (q : Nat) (l : List Nat) : (l.contains q = true) = (q ∈ l) := propext List.contains_iff_mem
  change execQuantumBoundary s = _
  unfold execQuantumBoundary
  simp only [hr.time_iff, hc]
  split
  · rfl
  · rfl

theorem State.mem_waiting_quantized (s : State) (q : Nat) : q ∈ s.quantized.waiting ↔
    q ∈ s.waiting ∨ (q ∈ s.givenUp ∧ ∃ x, KMap.find? s.queues q = some x ∧ s.queueFull x = true) := by
  unfold State.quantized
  rw [List.mem_append, List.mem_filter, Option.any_eq_true]

theorem State.find?_quantized {s : State} {q : Nat} {x : Queue} (h : KMap.find? s.queues q = some x) :
    KMap.find? s.quantized.queues q = some (x.requeued s.givenUp q) :=
  (KMap.find?_map_key _ (fun k x => Queue.requeued s.givenUp k x) q).trans (congrArg (Option.map _) h)

/-! ### Packed pools -/

/-- R52: a pending pool of a core and an entry whose first item came 2 µs ago. -/
def Pending.due (s : State) (core entry : Nat) (p : Pending) : Bool :=
  p.core = core && p.entry = entry && decide (p.since + micros 2 ≤ s.time)

theorem Pending.due_iff (s : State) (core entry : Nat) (p : Pending) :
    p.due s core entry = true ↔ p.core = core ∧ p.entry = entry ∧ p.since + micros 2 ≤ s.time := by
  simp [Pending.due, and_assoc]

section
variable {s : State} {core entry : Nat}

theorem exec_packingTimeout_none (h : s.packing.find? (Pending.due s core entry) = none) :
    exec (.packingTimeout core entry) s = .next s := by
  change execPackingTimeout core entry s = _
  unfold execPackingTimeout
  unfold Pending.due at h
  rw [h]

/-- R52: the first pending pool that is due is launched. -/
theorem exec_packingTimeout_some {p : Pending} (hv : s.viral = none)
    (h : s.packing.find? (Pending.due s core entry) = some p) : exec (.packingTimeout core entry) s =
      .next (({ s with packing := s.packing.erase p } : State).launchPending p) := by
  change execPackingTimeout core entry s = _
  unfold execPackingTimeout
  unfold Pending.due at h
  rw [h]
  simp only [hv, Option.isSome_none, Bool.false_eq_true, if_false]

end

/-- R52: the head that a pending pool becomes. -/
def State.packedTask (s : State) (p : Pending) : Task :=
  let e := (s.tableEntry p.asid p.entry).getD (0, 0)
  { Task.ofRecord ⟨e.1, 0, 0, 0, e.2, 0, 0⟩ p.asid p.queue none with
    items := p.items, packed := true, spawners := p.spawners, clock := s.clockOf [p.core] }

/-- R312: a queue with one head more. -/
def State.withHead (s : State) (t : Task) (x : Queue) : Queue :=
  { x with
    heads := x.heads ++ [t]
    headSince := if x.heads.isEmpty then s.time else x.headSince
    filled := if x.heads.isEmpty && !x.ring then s.time else x.filled
    before := if x.heads.isEmpty then x.running else x.before }

theorem State.launchPending_eq {s : State} {p : Pending} {q : Nat} (hq : p.queue = some q) :
    s.launchPending p = (s.modQueue q (s.withHead (s.packedTask p))).wakeQueue q := by
  have hqueue : (s.packedTask p).queue = some q := hq
  change s.addHead (s.packedTask p) = _
  unfold State.addHead
  rw [hqueue]
  rfl

end Sys2Proof.Machine

/-! ### The statement -/

section

open Sys2Proof Sys2Proof.Machine

/-- Settles O53: each event is one equation, and a queue looked up after it is the queue before it with its slot
changed. -/
theorem queueIntervals : Obligations.QueueIntervals := by
  unfold Obligations.QueueIntervals
  refine ⟨fun s hr => ⟨fun ht => ?_, fun ht => ⟨s.tolled, ?_, rfl, rfl, fun q x h => State.find?_tolled h⟩, fun ht => ?_,
    fun ht => ⟨s.quantized, s.givenUp, ?_, rfl, rfl, rfl, s.mem_waiting_quantized, fun q x h => State.find?_quantized h⟩⟩,
    ?_,
    fun s p q x hq hx => ⟨_, s.packedTask p, _, State.launchPending_eq hq, rfl,
      (KMap.find?_modify_self _ _ _).trans (congrArg (Option.map _) hx), rfl, rfl, rfl, rfl, rfl⟩⟩
  · rw [exec_toll hr, if_pos ht]
  · rw [exec_toll hr, if_neg (by omega)]
  · rw [exec_quantum hr, if_pos ht]
  · rw [exec_quantum hr, if_neg (by omega)]
  · intro s core entry hv due
    refine ⟨fun h => ?_, fun l p r hl h hp => ?_⟩
    · exact exec_packingTimeout_none (List.find?_eq_none.mpr fun p hm hd =>
        h p hm ((Pending.due_iff s core entry p).mp hd))
    · have hl' (x : Pending) (hx : x ∈ l) : ¬Pending.due s core entry x = true := fun hd =>
        h x hx ((Pending.due_iff s core entry x).mp hd)
      have hp' := (Pending.due_iff s core entry p).mpr hp
      have hfind : s.packing.find? (Pending.due s core entry) = some p := by
        rw [hl, List.find?_append, List.find?_eq_none.mpr hl', List.find?_cons_of_pos hp']
        rfl
      have hmem : p ∉ l := fun hm => hl' p hm hp'
      rw [exec_packingTimeout_some hv hfind, hl, List.erase_append_right _ hmem, List.erase_cons_head]

end

/-! TASK_DISPATCH and the pool that it places (R33, R50, R174, R310 to R312, R316 to R319). -/

namespace Sys2Proof.Machine

/-! ### The registers of a packed pool -/

/-- R50: register n of the thread of an item. -/
def itemWord (e : Word × Word × Word) (n : Nat) : Word :=
  if n = 0 then e.1 else if n = 1 then e.2.1 else if n = 2 then e.2.2 else 0

/-- The registers of one item set, at those of a thread. -/
def setItem (m : KMap Word) (u : Nat) (e : Word × Word × Word) : KMap Word :=
  KMap.set (KMap.set (KMap.set m 0 (256 * u) e.1) 0 (256 * u + 1) e.2.1) 0 (256 * u + 2) e.2.2

theorem get_setItem (m : KMap Word) (t u n : Nat) (e : Word × Word × Word) (hn : n < 256) :
    KMap.get (setItem m t e) 0 (256 * u + n) = if u = t ∧ n < 3 then itemWord e n else KMap.get m 0 (256 * u + n) := by
  unfold setItem itemWord
  simp only [KMap.get_set]
  by_cases hu : u = t
  · subst hu
    rcases n with _ | _ | _ | n
    · simp
    · simp
    · simp
    · rw [if_neg (by omega), if_neg (by omega), if_neg (by omega), if_neg (by omega)]
  · rw [if_neg (by omega), if_neg (by omega), if_neg (by omega), if_neg (fun h => hu h.1)]

theorem packedRegs_append (l : List (Word × Word × Word)) (e : Word × Word × Word) :
    packedRegs (l ++ [e]) = setItem (packedRegs l) l.length e := by
  unfold packedRegs setItem
  rw [List.zipIdx_append, List.foldl_append]
  simp

/-- R50: thread u of a packed pool starts with the words of item u. -/
theorem get_packedRegs (l : List (Word × Word × Word)) (u n : Nat) (hn : n < 256) :
    KMap.get (packedRegs l) 0 (256 * u + n) = (l[u]?.map fun e => itemWord e n).getD 0 := by
  induction l using List.reverseRecOn with
  | nil => rfl
  | append_singleton l e ih =>
      rw [packedRegs_append, get_setItem _ _ _ _ _ hn, ih]
      rcases Nat.lt_trichotomy u l.length with hu | rfl | hu
      · rw [if_neg (by omega), List.getElem?_append_left hu]
      · rw [List.getElem?_concat_length, List.getElem?_eq_none (Nat.le_refl _)]
        by_cases h3 : n < 3
        · rw [if_pos ⟨rfl, h3⟩]; rfl
        · rw [if_neg fun h => h3 h.2]
          simp only [Option.map_none, Option.getD_none, Option.map_some, Option.getD_some, itemWord]
          rw [if_neg (by omega), if_neg (by omega), if_neg (by omega)]
      · rw [if_neg (by omega), List.getElem?_eq_none (by omega), List.getElem?_eq_none (by simp; omega)]

/-! ### A pool on its place -/

/-- The pool as `putPool` places it. -/
def State.placedPool (s : State) (p : Pool) (at_ : Placement) : Pool :=
  ({ p with
    parts := at_.parts, spadUnits := at_.spad, contexts := s.giveContexts p.need at_, deps := [], seen := []
    granted := 0, blockedSince := none, placed := s.overwritten.length } : Pool).checkpoint

theorem State.pools_raiseClocks (s : State) (l : List Nat) (n : Nat) :
    (l.foldl (fun t k => t.raiseClock k n) s).pools = s.pools ∧ (l.foldl (fun t k => t.raiseClock k n) s).mem = s.mem := by
  induction l generalizing s with
  | nil => exact ⟨rfl, rfl⟩
  | cons k l ih =>
      obtain ⟨hp, hm⟩ := ih (s.raiseClock k n)
      have h : (s.raiseClock k n).pools = s.pools ∧ (s.raiseClock k n).mem = s.mem := by
        unfold State.raiseClock
        split
        · exact ⟨rfl, rfl⟩
        · exact ⟨rfl, rfl⟩
      exact ⟨hp.trans h.1, hm.trans h.2⟩

/-- R319: placing a pool puts it in the table, and changes no other pool and no memory. -/
theorem State.putPool_pools (s : State) (pid : Nat) (p : Pool) (at_ : Placement) :
    (s.putPool pid p at_).pools = KMap.put s.pools pid (s.placedPool p at_) ∧ (s.putPool pid p at_).mem = s.mem :=
  State.pools_raiseClocks ((s.setPool pid (s.placedPool p at_)).invalidate (placedCluster at_)) (placedCores at_) p.task.clock

theorem State.pool?_putPool (s : State) (pid : Nat) (p : Pool) (at_ : Placement) (q : Nat) :
    (s.putPool pid p at_).pool? q = if q = pid then some (s.placedPool p at_) else s.pool? q := by
  unfold State.pool?
  rw [(s.putPool_pools pid p at_).1]
  exact State.pool?_setPool s pid (s.placedPool p at_) q

/-! ### Shape words -/

theorem bits_eq_div (hi lo : Nat) (w : BitVec n) : bits hi lo w = w.toNat / 2 ^ lo % 2 ^ (hi + 1 - lo) := by
  rw [bits, Nat.shiftRight_eq_div_pow]

/-- A field that reaches to the top of its word. -/
theorem bits_top (hi lo : Nat) (w : BitVec (hi + 1)) (h : lo ≤ hi) : bits hi lo w = w.toNat / 2 ^ lo := by
  rw [bits_eq_div, Nat.mod_eq_of_lt]
  rw [Nat.div_lt_iff_lt_mul (Nat.two_pow_pos lo), ← Nat.pow_add, Nat.sub_add_cancel (by omega)]
  exact w.isLt

theorem bits_low (hi : Nat) (w : BitVec n) : bits hi 0 w = w.toNat % 2 ^ (hi + 1) := by
  rw [bits_eq_div, Nat.pow_zero, Nat.div_one, Nat.sub_zero]

theorem shapeThreads_eq (w : DWord) : shapeThreads w = w.toNat % 65536 := bits_low 15 w

theorem shapeAllot_eq (w : DWord) : shapeAllot w = 8 * (w.toNat / 65536 % 256) :=
  congrArg (8 * ·) (bits_eq_div 23 16 w)

theorem shapeUnits_eq (w : DWord) : shapeUnits w = w.toNat / 2 ^ 24 % 65536 := bits_eq_div 39 24 w

theorem shapeCps_eq (w : DWord) : shapeCps w = w.toNat / 2 ^ 40 % 16 := bits_eq_div 43 40 w

theorem shapeGroup_eq (w : DWord) : shapeGroup w = 16 * 2 ^ (w.toNat / 2 ^ 44 % 4) :=
  congrArg (16 * 2 ^ ·) (bits_eq_div 45 44 w)

/-! ### Bad records -/

/-- R316: the shape fits no empty place. -/
def Task.nowhere (t : Task) (s : State) : Prop := shapeOk t.record.shape = true ∧ s.fitsEmpty t.need = false

/-- R315, R316: a field of the record holds what it must not. -/
def Task.bad (t : Task) : Prop :=
  let r := t.record
  r.coord.toNat / 2 ^ 49 ≠ 0 ∨ r.aff.toNat % 2 ^ 32 / 4 ≠ 0 ∨ r.aff.toNat % 4 = 3 ∨ shapeOk r.shape = false ∨
    shapeSlice r.shape = true ∨ r.entry.toNat % 4 ≠ 0 ∨ r.succb.toNat % 16 ≠ 0

theorem Task.nowhere_iff (t : Task) (s : State) :
    (shapeOk t.record.shape && !s.fitsEmpty t.need) = true ↔ t.nowhere s := by
  simp [Task.nowhere]

theorem Task.bad_iff (t : Task) : (bits 63 49 t.record.coord ≠ 0 || bits 31 2 t.record.aff ≠ 0 ||
    bits 1 0 t.record.aff = 3 || !shapeOk t.record.shape || shapeSlice t.record.shape || bits 1 0 t.record.entry ≠ 0 ||
    bits 3 0 t.record.succb ≠ 0 : Bool) = true ↔ t.bad := by
  have hcoord : bits 63 49 t.record.coord = t.record.coord.toNat / 2 ^ 49 := bits_top 63 49 _ (by decide)
  have haff : bits 31 2 t.record.aff = t.record.aff.toNat % 2 ^ 32 / 4 := by rw [bits_eq_div]; omega
  have hsel : bits 1 0 t.record.aff = t.record.aff.toNat % 4 := bits_low _ _
  have hentry : bits 1 0 t.record.entry = t.record.entry.toNat % 4 := bits_low _ _
  have hsuccb : bits 3 0 t.record.succb = t.record.succb.toNat % 16 := bits_low _ _
  rw [hcoord, haff, hsel, hentry, hsuccb]
  simp only [Task.bad, Bool.or_eq_true, decide_eq_true_eq, Bool.not_eq_true', or_assoc]

section
variable {s : State} {t : Task}

theorem State.badTask_nowhere (h : t.nowhere s) : s.badTask t = some 0x06 :=
  if_pos ((t.nowhere_iff s).mpr h)

theorem State.badTask_bad (hn : ¬t.nowhere s) (h : t.bad) : s.badTask t = some 0x05 :=
  (if_neg (mt (t.nowhere_iff s).mp hn)).trans (if_pos (t.bad_iff.mpr h))

theorem State.badTask_none (hn : ¬t.nowhere s) (h : ¬t.bad) : s.badTask t = none :=
  (if_neg (mt (t.nowhere_iff s).mp hn)).trans (if_neg (mt t.bad_iff.mp h))

end

/-! ### The dispatch of a head -/

theorem exec_taskDispatch_head {s : State} {at_ : Placement} {q : Nat} (hr : Running s)
    (h : s.noteReady.first.cand = some (.head q)) : exec (.taskDispatch at_) s =
      .next ((s.noteReady.keepDies s.noteReady.first).dispatch q s.noteReady.first.blocked at_) := by
  change execTaskDispatch at_ s = _
  unfold execTaskDispatch
  simp only [if_neg hr.not_stopped, h]

theorem exec_taskDispatch_other {s : State} {at_ : Placement} (hr : Running s)
    (h : ∀ q, s.noteReady.first.cand ≠ some (.head q)) :
    exec (.taskDispatch at_) s = .next (s.noteReady.keepDies s.noteReady.first) := by
  change execTaskDispatch at_ s = _
  unfold execTaskDispatch
  dsimp only
  rw [if_neg hr.not_stopped]
  split
  case h_1 q hq => exact absurd hq (h q)
  case h_2 => rfl

/-- The write of READ for a ring record, which has to wait or not; a head that is no ring record writes nothing. -/
def State.readWrite (s : State) (x : Queue) (ring : Bool) : Bool × State :=
  if ring then s.headerWrite x else (true, s)

theorem State.dispatch_goes {s : State} {x : Queue} {ring : Bool} (hnow : s.dispatchAt ≤ s.time)
    (hclear : ∀ pa, ring = true → s.headerPa x = some pa → s.sliceClear pa = true) :
    ¬(decide (s.time < s.dispatchAt) || ring && (s.headerPa x).any (fun pa => !s.sliceClear pa)) = true := by
  simp only [Bool.or_eq_true, Bool.and_eq_true, decide_eq_true_eq, Option.any_eq_true, Bool.not_eq_true', not_or,
    not_and, not_exists]
  refine ⟨Nat.not_lt.mpr hnow, fun hring pa hpa hbusy => ?_⟩
  rw [hclear pa hring hpa] at hbusy
  cases hbusy

section
variable {s : State} {q : Nat} {x : Queue} {t t' : Task} {ring : Bool} (blocked : List (Nat × Nat)) (at_ : Placement)
  (hx : KMap.find? s.queues q = some x) (ht : s.ready q x = some t) (hf : s.front x = some (t', ring))
include hx ht hf

/-- R312, R335: within 1/64 µs of the dispatch before, and while a record stands at the header's slice, nothing is
dispatched. -/
theorem State.dispatch_waits
    (h : s.time < s.dispatchAt ∨ ∃ pa, ring = true ∧ s.headerPa x = some pa ∧ s.sliceClear pa = false) :
    s.dispatch q blocked at_ = s := by
  unfold State.dispatch
  simp only [hx, ht, hf]
  exact if_pos (by simpa [Option.any_eq_true] using h)

variable (hnow : s.dispatchAt ≤ s.time) (hclear : ∀ pa, ring = true → s.headerPa x = some pa → s.sliceClear pa = true)
include hnow hclear

/-- R317: a bad record completes with its status, unless its header has to wait. -/
theorem State.dispatch_bad {code : Byte} {ok : Bool} {u : State} (hbad : s.takeId.2.badTask t = some code)
    (hw : s.takeId.2.readWrite x ring = (ok, u)) : s.dispatch q blocked at_ =
      if ok then (u.takeHead q s.nextId ring).taskOver { t with status := code } s.nextId else u := by
  unfold State.readWrite at hw
  unfold State.dispatch
  simp only [hx, ht, hf, if_neg (State.dispatch_goes hnow hclear), hbad, hw]
  cases ok <;> rfl

variable (hgood : s.takeId.2.badTask t = none) (hfit : s.takeId.2.fits t.need at_ = true)
  (hallow : s.takeId.2.candAllows blocked (.head q) (placedCluster at_) = true)
include hgood hfit hallow

/-- R180: commits that a placement forces are awaited. -/
theorem State.dispatch_full {u : State} (hroom : s.takeId.2.makeRoom at_ = (false, u)) :
    s.dispatch q blocked at_ = u := by
  unfold State.dispatch
  simp only [hx, ht, hf, if_neg (State.dispatch_goes hnow hclear), hgood, hfit, hallow, hroom, Bool.not_true,
    Bool.or_self, Bool.false_eq_true, if_false]

/-- R312: a new pool stands at the place, unless its header has to wait. -/
theorem State.dispatch_places {u v : State} {ok : Bool} (hroom : s.takeId.2.makeRoom at_ = (true, u))
    (hw : u.readWrite x ring = (ok, v)) : s.dispatch q blocked at_ =
      if ok then ((v.takeHead q s.nextId ring).markSpawners t.spawners).putPool s.nextId (t.newPool t.need) at_ else v := by
  unfold State.readWrite at hw
  unfold State.dispatch
  simp only [hx, ht, hf, if_neg (State.dispatch_goes hnow hclear), hgood, hfit, hallow, hroom, hw, Bool.not_true,
    Bool.or_self, Bool.false_eq_true, if_false]
  cases ok <;> rfl

end

end Sys2Proof.Machine

/-! ### The statement -/

section

open Sys2Proof Sys2Proof.Machine

/-- Settles O51: a dispatch is an equation per outcome, and the pool that it places is `placedPool` of the task's new
pool. -/
theorem tasksDispatched : Obligations.TasksDispatched := by
  unfold Obligations.TasksDispatched
  refine ⟨?_, ?_, fun s at_ hr h => exec_taskDispatch_other hr h, ?_⟩
  · intro s at_ q x t t' ring hr s1 s2 s3 hcand hx ht hf
    have hexec := exec_taskDispatch_head (at_ := at_) hr hcand
    refine ⟨fun hwait => ?_, fun hnow hclear => ⟨fun code hbad => ⟨fun hw => ?_, fun v hring hw => ?_⟩,
      fun hgood hfit hallow room u hroom => ⟨fun hw => ?_, fun v hr' hring hw => ?_⟩⟩⟩
    · exact hexec.trans (congrArg _ (State.dispatch_waits _ _ hx ht hf hwait))
    · have hwrite : s3.readWrite x ring = (true, s3) := by
        cases ring
        · rfl
        · exact hw rfl
      exact hexec.trans (congrArg _ (State.dispatch_bad _ _ hx ht hf hnow hclear hbad hwrite))
    · have hwrite : s3.readWrite x ring = (false, v) := by rw [hring]; exact hw
      exact hexec.trans (congrArg _ (State.dispatch_bad _ _ hx ht hf hnow hclear hbad hwrite))
    · have hwrite : u.readWrite x ring = (true, u) := by
        cases ring
        · rfl
        · exact hw rfl
      cases room
      · exact hexec.trans (congrArg _ (State.dispatch_full _ _ hx ht hf hnow hclear hgood hfit hallow hroom))
      · exact hexec.trans (congrArg _ (State.dispatch_places _ _ hx ht hf hnow hclear hgood hfit hallow hroom hwrite))
    · have hwrite : u.readWrite x ring = (false, v) := by rw [hring]; exact hw
      subst hr'
      exact hexec.trans (congrArg _ (State.dispatch_places _ _ hx ht hf hnow hclear hgood hfit hallow hroom hwrite))
  · intro s t r nowhere bad
    exact ⟨fun h => State.badTask_nowhere h, fun hn h => State.badTask_bad hn h, fun hn h => State.badTask_none hn h⟩
  · intro s pid t at_
    refine ⟨s.placedPool (t.newPool t.need) at_, _, (s.pool?_putPool pid _ at_ pid).trans (if_pos rfl), rfl, rfl, ?_, ?_, ?_,
      ?_, ?_, rfl, rfl, fresh_start _ _ _ _, bits_low _ _, rfl, rfl, rfl, rfl, rfl, fun u n hn => ?_, fun q hq => ?_, ?_⟩
    · change (if t.packed then t.items.length else shapeThreads t.record.shape) = _
      rw [shapeThreads_eq]
    · exact shapeAllot_eq _
    · exact congrArg (4096 * ·) (shapeUnits_eq _)
    · exact shapeCps_eq _
    · exact shapeGroup_eq _
    · exact get_packedRegs t.items u n hn
    · exact (s.pool?_putPool pid _ at_ q).trans (if_neg hq)
    · intro a
      rw [(s.putPool_pools pid _ at_).2]

end

/-! Reductions (R65, R82, R153, R154): a test of a total that distributes over combinations holds of the whole total
exactly where it holds of every responder's element; the order of values is a linear order, by which ARGMX picks. -/

namespace Sys2Proof.Machine

/-! ### Totals under a test -/

/-- A test that holds of the empty total, and of a combination where it holds of both parts. -/
structure Splits (f : Nat → Nat → Nat × Flags) (h : Option Nat → Bool) : Prop where
  empty : h none = true
  comb : ∀ x y, h (some (f x y).1) = (h (some x) && h (some y))

/-- R82: what a word adds to a total. -/
def Ctx.wordTotal (c : Ctx) (elem : Nat → Nat) (f : Nat → Nat → Nat × Flags) (w : Nat) : Option Nat × Flags :=
  ((treeLevel f (treeLevel f (treeLevel f (treeLevel f (treeLevel f ((List.range 32).map fun i =>
    if Mask.has c.set (32 * w + i) then (some (elem (32 * w + i)), (0 : Flags)) else (none, 0))))))).headD (none, 0))

/-- R82: what a partition adds to a total. -/
def Ctx.partTotal (c : Ctx) (elem : Nat → Nat) (f : Nat → Nat → Nat × Flags) (k : Nat) : Option Nat × Flags :=
  (List.range 32).foldl (fun acc j =>
    if 32 * (32 * k + j) < c.pool.threads then combOpt f acc (c.wordTotal elem f (32 * k + j)) else acc) (none, 0)

theorem Ctx.reduce_eq (c : Ctx) (elem : Nat → Nat) (f : Nat → Nat → Nat × Flags) : c.reduce elem f =
    (List.range (partsOf c.pool.threads)).foldl (fun acc k => combOpt f acc (c.partTotal elem f k)) (none, 0) := rfl

theorem length_treeLevel (f : Nat → Nat → Nat × Flags) (l : List (Option Nat × Flags)) :
    (treeLevel f l).length = (l.length + 1) / 2 := by
  induction l using treeLevel.induct with
  | case1 x y r ih => simp only [treeLevel, List.length_cons, ih]; omega
  | case2 l h =>
      rcases l with _ | ⟨x, _ | ⟨y, r⟩⟩
      · rfl
      · simp [treeLevel]
      · exact absurd rfl (h x y r)

section
variable {f : Nat → Nat → Nat × Flags} {h : Option Nat → Bool} (H : Splits f h)
include H

theorem Splits.combOpt (a b : Option Nat × Flags) : h (combOpt f a b).1 = (h a.1 && h b.1) := by
  obtain ⟨_ | x, fa⟩ := a
  · simp [Machine.combOpt, H.empty]
  · obtain ⟨_ | y, fb⟩ := b
    · simp [Machine.combOpt, H.empty]
    · exact H.comb x y

theorem Splits.treeLevel (l : List (Option Nat × Flags)) :
    ((treeLevel f l).all fun x => h x.1) = l.all fun x => h x.1 := by
  induction l using treeLevel.induct with
  | case1 x y r ih => simp only [Machine.treeLevel, List.all_cons, ih, H.combOpt, Bool.and_assoc]
  | case2 l hl =>
      rcases l with _ | ⟨x, _ | ⟨y, r⟩⟩
      · rfl
      · rfl
      · exact absurd rfl (hl x y r)

/-- The five levels of the tree over a word leave one total. -/
theorem Splits.wordTotal (c : Ctx) (elem : Nat → Nat) (w : Nat) : h (c.wordTotal elem f w).1 = true ↔
    ∀ i < 32, Mask.has c.set (32 * w + i) = true → h (some (elem (32 * w + i))) = true := by
  have head (l : List (Option Nat × Flags)) (hl : l.length = 1) : h (l.headD (none, 0)).1 = l.all fun x => h x.1 := by
    obtain ⟨x, rfl⟩ := List.length_eq_one_iff.mp hl
    simp
  unfold Ctx.wordTotal
  rw [head _ (by simp [length_treeLevel])]
  simp only [H.treeLevel, List.all_map, List.all_eq_true, List.mem_range, Function.comp_apply]
  refine forall₂_congr fun i _ => ?_
  by_cases hb : Mask.has c.set (32 * w + i) = true <;> simp [hb, H.empty]

theorem Splits.foldl (g : Nat → Option Nat × Flags) (p : Nat → Prop) [DecidablePred p] (l : List Nat)
    (a : Option Nat × Flags) : h (l.foldl (fun acc k => if p k then Machine.combOpt f acc (g k) else acc) a).1 = true ↔
      h a.1 = true ∧ ∀ k ∈ l, p k → h (g k).1 = true := by
  induction l generalizing a with
  | nil => simp
  | cons k l ih =>
      rw [List.foldl_cons, ih]
      by_cases hp : p k
      · simp [hp, H.combOpt, and_assoc]
      · simp [hp]

/-- R82: the test holds of a total where it holds of the element of every responder. -/
theorem Splits.reduce (c : Ctx) (elem : Nat → Nat) :
    h (c.reduce elem f).1 = c.tids.all fun t => h (some (elem t)) := by
  have parts := H.foldl (c.partTotal elem f) (fun _ => True) (List.range (partsOf c.pool.threads)) (none, 0)
  simp only [if_true] at parts
  rw [Bool.eq_iff_iff, Ctx.reduce_eq, parts, List.all_eq_true]
  simp only [Ctx.partTotal, H.foldl, H.empty, H.wordTotal, true_and, List.mem_range, true_implies, Ctx.tids, Mask.mem_tids,
    Mask.has, partsOf]
  constructor
  · rintro hall t ⟨ht, hm⟩
    have hsum : 32 * (32 * (t / 1024) + t / 32 % 32) + t % 32 = t := by omega
    have := hall (t / 1024) (by omega) (t / 32 % 32) (by omega) (by omega) (t % 32) (by omega)
    rw [hsum] at this
    exact this hm
  · intro hall k _ j _ hkj i hi hm
    exact hall _ ⟨by omega, hm⟩

end

/-! ### RAND and ROR -/

/-- R153: bit b of the AND of a set of elements; all ones where there is none. -/
theorem splits_and (b : Nat) : Splits (fun x y => (x &&& y, 0)) fun r => r.all (·.testBit b) :=
  ⟨rfl, fun x y => by simp⟩

/-- R153: bit b of the OR of a set of elements is clear. -/
theorem splits_or (b : Nat) : Splits (fun x y => (x ||| y, 0)) fun r => r.all fun x => !x.testBit b :=
  ⟨rfl, fun x y => by simp⟩

theorem splits_isNone (f : Nat → Nat → Nat × Flags) : Splits f Option.isNone := ⟨rfl, fun _ _ => rfl⟩

theorem Ctx.reduce_eq_none (c : Ctx) (elem : Nat → Nat) (f : Nat → Nat → Nat × Flags) :
    (c.reduce elem f).1 = none ↔ c.tids = [] := by
  rw [← Option.isNone_iff_eq_none, (splits_isNone f).reduce]
  cases c.tids <;> simp

theorem Ctx.elem0_lt (c : Ctx) (w t n : Nat) (h : w ≤ 64) : c.elem0 w t n < 2 ^ w := by
  unfold Ctx.elem0
  split
  case isTrue hw => subst hw; exact (c.pool.reg64 t n).isLt
  case isFalse => exact Nat.mod_lt _ (Nat.two_pow_pos w)

theorem Ctx.bitWidth_le (c : Ctx) : c.bitWidth ≤ 64 := by
  unfold Ctx.bitWidth; split <;> omega

/-- R153: RAND, bit by bit. -/
theorem Ctx.reduce_and (c : Ctx) (a : Nat) : BitVec.ofNat 64 (((c.reduce (fun t => c.elem0 c.bitWidth t a)
    fun x y => (x &&& y, 0)).1).getD (2 ^ c.bitWidth - 1)) = BitVec.ofFnLE fun b : Fin 64 =>
      decide (b.val < c.bitWidth) && c.tids.all fun t => (c.elem0 c.bitWidth t a).testBit b := by
  refine BitVec.eq_of_getLsbD_eq fun b hb => ?_
  have hbits := (splits_and b).reduce c fun t => c.elem0 c.bitWidth t a
  have hnone := c.reduce_eq_none (fun t => c.elem0 c.bitWidth t a) fun x y => (x &&& y, 0)
  rw [BitVec.getLsbD_ofNat, BitVec.getLsbD_ofFnLE]
  simp only [Option.all_some] at hbits
  simp only [hb, decide_true, Bool.true_and]
  generalize (c.reduce _ _).1 = r at hbits hnone ⊢
  cases r with
  | none => simp [hnone.mp rfl, Nat.testBit_two_pow_sub_one]
  | some x =>
      rw [Option.all_some] at hbits
      rw [Option.getD_some, hbits]
      obtain ⟨t, l, ht⟩ := List.exists_cons_of_ne_nil fun he => Option.some_ne_none x (hnone.mpr he)
      by_cases hw : b < c.bitWidth
      · simp [hw]
      · have hlt : c.elem0 c.bitWidth t a < 2 ^ b :=
          (c.elem0_lt _ t a c.bitWidth_le).trans_le (Nat.pow_le_pow_right (by omega) (by omega))
        simp [ht, Nat.testBit_lt_two_pow hlt, hw]

/-- R153: ROR, bit by bit. -/
theorem Ctx.reduce_or (c : Ctx) (a : Nat) : BitVec.ofNat 64 (((c.reduce (fun t => c.elem0 c.bitWidth t a)
    fun x y => (x ||| y, 0)).1).getD 0) = BitVec.ofFnLE fun b : Fin 64 =>
      c.tids.any fun t => (c.elem0 c.bitWidth t a).testBit b := by
  refine BitVec.eq_of_getLsbD_eq fun b hb => ?_
  have hbits := (splits_or b).reduce c fun t => c.elem0 c.bitWidth t a
  have hany : (c.tids.any fun t => (c.elem0 c.bitWidth t a).testBit b) =
      !(c.tids.all fun t => !(c.elem0 c.bitWidth t a).testBit b) := List.any_eq_not_all_not
  rw [BitVec.getLsbD_ofNat, BitVec.getLsbD_ofFnLE]
  simp only [Option.all_some] at hbits
  simp only [hb, decide_true, Bool.true_and, dif_pos, hany, ← hbits]
  cases (c.reduce _ _).1 <;> simp

/-! ### RSUM, RMIN and RMAX -/

/-- R65, R153: what RSUM, RMIN and RMAX write and raise under a type of their class. -/
def Ctx.reduction (c : Ctx) (d a : Byte) (f : Nat → Nat → Nat × Flags) (empty : Nat) : Option (Byte × DWord × Flags) :=
  let r := c.reduce (fun t => c.elem0 c.ty.width t a.toNat) f
  if classNumeric c.tyCode then some (d, resultForm c.ty (c.ty.canonical (r.1.getD empty)), r.2) else none

theorem topOf_ofCode (n : Nat) : topOf (Ty.ofCode n) = match Ty.ofCode n with
    | .int w s => if s then 2 ^ (w - 1) - 1 else 2 ^ w - 1
    | .flt f => f.infCode := by
  unfold Ty.ofCode; split <;> rfl

theorem bottomOf_ofCode (n : Nat) : bottomOf (Ty.ofCode n) = match Ty.ofCode n with
    | .int w s => if s then 2 ^ (w - 1) else 0
    | .flt f => f.signed true f.infCode := by
  unfold Ty.ofCode; split <;> rfl

section
variable (p : Option Prefix) (d a : Byte) (c : Ctx)

theorem reduceResult_rsum : reduceResult (.rsum p d a) c = c.reduction d a (arith .add c.ty c.rm c.sat) 0 := by
  unfold reduceResult Ctx.reduction
  cases c.ty <;> rfl

theorem reduceResult_rmin : reduceResult (.rmin p d a) c = c.reduction d a (minMax false c.ty) (topOf c.ty) := by
  unfold reduceResult Ctx.reduction
  rw [Ctx.ty, topOf_ofCode]
  cases Ty.ofCode c.tyCode <;> rfl

theorem reduceResult_rmax : reduceResult (.rmax p d a) c = c.reduction d a (minMax true c.ty) (bottomOf c.ty) := by
  unfold reduceResult Ctx.reduction
  rw [Ctx.ty, bottomOf_ofCode]
  cases Ty.ofCode c.tyCode <;> rfl

end

/-! ### ARGMX -/

/-- The place of a value in the order of values; a NaN has none. -/
def FVal.key : FVal → WithBot (WithTop ℚ)
  | .nan _ => ⊥
  | .inf true => ⊥
  | .inf false => ((⊤ : WithTop ℚ) : WithBot (WithTop ℚ))
  | .fin n m e => (((signedMan n m : ℚ) * 2 ^ e : ℚ) : WithTop ℚ)

theorem signedMan_mul (n : Bool) (m k : Nat) : signedMan n (m * k) = signedMan n m * k := by
  cases n <;> simp [signedMan]

theorem cast_pow2 {e : Int} (h : 0 ≤ e) : ((pow2 e : Nat) : ℚ) = 2 ^ e := by
  obtain ⟨n, rfl⟩ := Int.eq_ofNat_of_zero_le h
  simp [pow2]

/-- Two mantissas on their common exponent compare as the values do. -/
theorem align_lt (n1 n2 : Bool) (m1 m2 : Nat) (e1 e2 : Int) :
    signedMan n1 (align m1 e1 m2 e2).1 < signedMan n2 (align m1 e1 m2 e2).2.1 ↔
      (signedMan n1 m1 : ℚ) * 2 ^ e1 < signedMan n2 m2 * 2 ^ e2 := by
  have scaled (n : Bool) (m : Nat) (e : Int) (h : min e1 e2 ≤ e) :
      (signedMan n m : ℚ) * 2 ^ e = ((signedMan n (m * pow2 (e - min e1 e2)) : Int) : ℚ) * 2 ^ min e1 e2 := by
    rw [signedMan_mul, Int.cast_mul, Int.cast_natCast, cast_pow2 (by omega), mul_assoc, ← zpow_add₀ two_ne_zero,
      sub_add_cancel]
  rw [scaled n1 m1 e1 (min_le_left _ _), scaled n2 m2 e2 (min_le_right _ _),
    mul_lt_mul_iff_of_pos_right (zpow_pos two_pos _), Int.cast_lt]
  rfl

theorem FVal.lt_iff {x y : FVal} (hx : x.isNan = false) (hy : y.isNan = false) : x.lt y = true ↔ x.key < y.key := by
  cases x with
  | nan => cases hx
  | inf n =>
      cases y with
      | nan => cases hy
      | inf k => cases n <;> cases k <;> simp [FVal.lt, FVal.key]
      | fin k m e =>
          cases n with
          | true => exact iff_of_true rfl (WithBot.bot_lt_coe _)
          | false => exact iff_of_false Bool.false_ne_true (WithBot.coe_lt_coe.not.mpr not_top_lt)
  | fin n m e =>
      cases y with
      | nan => cases hy
      | inf k =>
          cases k with
          | true => exact iff_of_false Bool.false_ne_true not_lt_bot
          | false => exact iff_of_true rfl (WithBot.coe_lt_coe.mpr (WithTop.coe_lt_top _))
      | fin k m' e' =>
          simp only [FVal.key, WithBot.coe_lt_coe, WithTop.coe_lt_coe]
          exact decide_eq_true_iff.trans (align_lt n k m m' e e')

/-- R154: the first of the greatest. -/
theorem find?_eq_argmax {α β : Type} [LinearOrder β] [DecidableEq α] (g : α → β) (l : List α) :
    (l.find? fun t => l.all fun u => decide (g u ≤ g t)) = l.argmax g := by
  cases hm : l.argmax g with
  | none => simp [List.argmax_eq_none.mp hm]
  | some m =>
      obtain ⟨hmem, hmax, hfirst⟩ := List.mem_argmax_iff.mp (Option.mem_def.mpr hm)
      obtain ⟨as, bs, rfl, hnot⟩ := List.eq_append_cons_of_mem hmem
      refine List.find?_eq_some_iff_append.mpr
        ⟨List.all_eq_true.mpr fun u hu => decide_eq_true (hmax u hu), as, bs, rfl, fun u hu => ?_⟩
      have hlt : (as ++ m :: bs).idxOf u < (as ++ m :: bs).idxOf m := by
        rw [List.idxOf_append_of_mem hu, List.idxOf_append_of_notMem hnot]
        exact (List.idxOf_lt_length_of_mem hu).trans_le (Nat.le_add_right _ _)
      have hnle : ¬g m ≤ g u := fun h => (hfirst u (List.mem_append_left _ hu) h).not_gt hlt
      rw [Bool.not_eq_true', List.all_eq_false]
      exact ⟨m, hmem, by simpa using hnle⟩

/-- R154: a valid responder with its value takes the place of the best one before it where that is less. -/
def pick (b : Option (Nat × FVal)) (e : Nat × FVal) : Option (Nat × FVal) :=
  match b with
  | none => some e
  | some x => if x.2.lt e.2 then some e else some x

/-- R154: what ARGMX makes of the values of its responders. -/
def argmaxWord (x : Nat → FVal) (l : List Nat) : DWord :=
  let valid := (l.map fun t => (t, x t)).filter fun e => !e.2.isNan
  let lo := match valid.foldl pick none with | some e => e.1 | none => 0xFFFFFFFF
  BitVec.ofNat 64 (lo + 2 ^ 32 * valid.length)

theorem foldl_pick (x : Nat → FVal) (l : List Nat) (hl : ∀ t ∈ l, (x t).isNan = false) (o : Option Nat)
    (ho : ∀ t ∈ o, (x t).isNan = false) : l.foldl (fun b t => pick b (t, x t)) (o.map fun t => (t, x t)) =
      (l.foldl (List.argAux fun b c => (x c).key < (x b).key) o).map fun t => (t, x t) := by
  induction l generalizing o with
  | nil => rfl
  | cons t l ih =>
      have ht := hl t List.mem_cons_self
      have step : pick (o.map fun t => (t, x t)) (t, x t) =
          (List.argAux (fun b c => (x c).key < (x b).key) o t).map fun t => (t, x t) := by
        cases o with
        | none => rfl
        | some u =>
            by_cases hlt : (x u).key < (x t).key
            · simp [pick, List.argAux, hlt, (FVal.lt_iff (ho u rfl) ht).mpr hlt]
            · simp [pick, List.argAux, hlt, mt (FVal.lt_iff (ho u rfl) ht).mp hlt]
      rw [List.foldl_cons, step]
      refine ih (fun u hu => hl u (List.mem_cons_of_mem _ hu)) _ fun u hu => ?_
      cases o with
      | none => exact Option.some.inj hu ▸ ht
      | some w =>
          unfold List.argAux at hu
          dsimp only at hu
          split at hu
          · exact Option.some.inj hu ▸ ht
          · exact Option.some.inj hu ▸ ho w rfl

theorem argmaxWord_eq (x : Nat → FVal) (l : List Nat) :
    let valid := l.filter fun t => !(x t).isNan
    argmaxWord x l = BitVec.ofNat 64 (((valid.find? fun t => valid.all fun u => !(x t).lt (x u)).getD 0xFFFFFFFF) +
      2 ^ 32 * valid.length) := by
  intro valid
  have hvalid : ∀ t ∈ valid, (x t).isNan = false := fun t ht => by simpa using (List.mem_filter.mp ht).2
  have hpairs : ((l.map fun t => (t, x t)).filter fun e => !e.2.isNan) = valid.map fun t => (t, x t) := List.filter_map
  have hfind : (valid.find? fun t => valid.all fun u => !(x t).lt (x u)) = valid.argmax fun t => (x t).key := by
    rw [← find?_eq_argmax]
    refine List.find?_congr fun t ht => ?_
    rw [Bool.eq_iff_iff, List.all_eq_true, List.all_eq_true]
    refine forall₂_congr fun u hu => ?_
    rw [Bool.not_eq_true', ← Bool.not_eq_true, FVal.lt_iff (hvalid t ht) (hvalid u hu), not_lt, decide_eq_true_iff]
  have hbest : (valid.map fun t => (t, x t)).foldl pick none = (valid.argmax fun t => (x t).key).map fun t => (t, x t) := by
    rw [List.foldl_map]
    exact foldl_pick x valid hvalid none nofun
  unfold argmaxWord
  dsimp only
  rw [hpairs, hfind, hbest, List.length_map]
  cases valid.argmax fun t => (x t).key <;> rfl

section
variable {p : Option Prefix} {d a : Byte} {c : Ctx} {s : State} {x : Byte} {v : DWord} {f : Flags}

/-- What a reduction comes to: its result in its register and its flags. -/
def Ctx.reduced (c : Ctx) (s : State) (d : Byte) (v : DWord) (f : Flags) : Res :=
  .done (c.modCp s fun y => (y.setS d.toNat v).raise f)

theorem execReduce_body {g : Nat → Nat → Nat × Flags} {empty : Nat} (h : c.reduction d a g empty = some (x, v, f)) :
    (if !classNumeric c.tyCode then Res.illegal
    else
      let r := c.reduce (fun t => c.elem0 c.ty.width t a.toNat) g
      .done (c.modCp s fun cp => (cp.setS d.toNat (resultForm c.ty (c.ty.canonical (r.1.getD empty)))).raise r.2)) =
      c.reduced s x v f := by
  unfold Ctx.reduction at h
  dsimp only at h
  split at h
  case isFalse => cases h
  case isTrue hc =>
    obtain ⟨rfl, rfl, rfl⟩ : d = x ∧ _ = v ∧ _ = f := by simpa using h
    rw [hc]
    rfl

theorem does_rsum (h : reduceResult (.rsum p d a) c = some (x, v, f)) : Does (.rsum p d a) c s (c.reduced s x v f) := by
  rw [reduceResult_rsum] at h
  exact ⟨_, Eq.trans (b := execRsum p d a s) rfl (by unfold execRsum execReduce; rfl), execReduce_body h⟩

theorem does_rmin (h : reduceResult (.rmin p d a) c = some (x, v, f)) : Does (.rmin p d a) c s (c.reduced s x v f) := by
  rw [reduceResult_rmin] at h
  exact ⟨_, Eq.trans (b := execRmin p d a s) rfl (by unfold execRmin execReduce; rfl), execReduce_body h⟩

theorem does_rmax (h : reduceResult (.rmax p d a) c = some (x, v, f)) : Does (.rmax p d a) c s (c.reduced s x v f) := by
  rw [reduceResult_rmax] at h
  exact ⟨_, Eq.trans (b := execRmax p d a s) rfl (by unfold execRmax execReduce; rfl), execReduce_body h⟩

theorem Cp.raise_zero (y : Cp) : y.raise 0 = y := by
  simp [Cp.raise]

theorem does_rand (h : reduceResult (.rand p d a) c = some (x, v, f)) : Does (.rand p d a) c s (c.reduced s x v f) := by
  obtain ⟨rfl, rfl, rfl⟩ : d = x ∧ _ = v ∧ 0 = f := by simpa [reduceResult] using h
  refine ⟨_, Eq.trans (b := execRand p d a s) rfl (by unfold execRand execBitReduce; rfl), ?_⟩
  unfold Ctx.reduced
  simp only [Cp.raise_zero, ← c.reduce_and]

theorem does_ror (h : reduceResult (.ror p d a) c = some (x, v, f)) : Does (.ror p d a) c s (c.reduced s x v f) := by
  obtain ⟨rfl, rfl, rfl⟩ : d = x ∧ _ = v ∧ 0 = f := by simpa [reduceResult] using h
  refine ⟨_, Eq.trans (b := execRor p d a s) rfl (by unfold execRor execBitReduce; rfl), ?_⟩
  unfold Ctx.reduced
  simp only [Cp.raise_zero, ← c.reduce_or]

theorem does_argmx (h : reduceResult (.argmx p d a) c = some (x, v, f)) :
    Does (.argmx p d a) c s (c.reduced s x v f) := by
  refine ⟨_, Eq.trans (b := execArgmx p d a s) rfl (by unfold execArgmx; rfl), ?_⟩
  have hr : (if classNumeric c.tyCode then some (d,
      argmaxWord (fun t => c.ty.value (c.elem0 c.ty.width t a.toNat)) c.tids,
      if c.tids.any fun t => (c.ty.value (c.elem0 c.ty.width t a.toNat)).isSignalling then Flags.IV else 0) else none) =
      some (x, v, f) := by
    rw [argmaxWord_eq]; exact h
  split at hr
  case isFalse => cases hr
  case isTrue hc =>
    obtain ⟨rfl, rfl, rfl⟩ : d = x ∧ _ = v ∧ _ = f := by simpa only [Option.some.injEq, Prod.mk.injEq] using hr
    simp only [hc, Bool.not_true, Bool.false_eq_true, if_false, List.any_map]
    rfl

/-- R153, R154: each reduction comes to what the table of reductions gives. -/
theorem does_reduction {i : Instr} (h : reduceResult i c = some (d, v, f)) : Does i c s (c.reduced s d v f) := by
  cases i with
  | rsum => exact does_rsum h
  | rmin => exact does_rmin h
  | rmax => exact does_rmax h
  | rand => exact does_rand h
  | ror => exact does_ror h
  | argmx => exact does_argmx h
  | _ => cases h

end

end Sys2Proof.Machine

section

open Sys2Proof Sys2Proof.Machine

/-- Settles O18: each reduction comes to its row of the table of reductions, an effect on its CP alone. -/
theorem reductions : Obligations.Reductions := by
  unfold Obligations.Reductions
  intro i c s d v f h hroom hr
  exact (does_reduction hr).completes h hroom rfl rfl rfl rfl

end

/-! The matrix unit's numbers (R75 to R77, R80, R229): triples of residues stand for integers modulo
255 · 256 · 257 = 16,776,960, and sums of products are exact in them. -/

namespace Sys2Proof.Machine

/-! ### Residue triples -/

/-- R75: the triple x holds the residues of n; 255 stands for 0 in its first channel, too. -/
structure IsTriple (x : Nat × Nat × Nat) (n : Int) : Prop where
  small : x.1 < 256 ∧ x.2.1 < 256 ∧ x.2.2 < 257
  a : ((x.1 : Int) - n) % 255 = 0
  b : ((x.2.1 : Int) - n) % 256 = 0
  c : ((x.2.2 : Int) - n) % 257 = 0

theorem isTriple_tripleOf (n : Int) : IsTriple (tripleOf n) n := by
  unfold tripleOf
  constructor <;> dsimp only <;> omega

theorem isTriple_tripleAdd {x y : Nat × Nat × Nat} {m n : Int} (hx : IsTriple x m) (hy : IsTriple y n) :
    IsTriple (tripleAdd x y) (m + n) := by
  obtain ⟨xa, xb, xc⟩ := x
  obtain ⟨ya, yb, yc⟩ := y
  obtain ⟨⟨hxa, hxb, hxc⟩, xa0, xb0, xc0⟩ := hx
  obtain ⟨⟨hya, hyb, hyc⟩, ya0, yb0, yc0⟩ := hy
  dsimp only at *
  unfold tripleAdd
  refine ⟨⟨?_, ?_, ?_⟩, ?_, ?_, ?_⟩ <;> dsimp only
  · split <;> omega
  · omega
  · repeat' split
    all_goals omega
  · split <;> omega
  · omega
  · repeat' split
    all_goals omega

/-- R77: the weights of the three channels. -/
theorem tripleInt_mod {x : Nat × Nat × Nat} {n : Int} (h : IsTriple x n) : (tripleInt x - n) % 16776960 = 0 := by
  obtain ⟨a, b, c⟩ := x
  obtain ⟨-, ha, hb, hc⟩ := h
  unfold tripleInt
  dsimp only at *
  split <;> omega

theorem isTriple_tripleInt {x : Nat × Nat × Nat} (h : x.1 < 256 ∧ x.2.1 < 256 ∧ x.2.2 < 257) :
    IsTriple x (tripleInt x) := by
  obtain ⟨a, b, c⟩ := x
  refine ⟨h, ?_, ?_, ?_⟩ <;> unfold tripleInt <;> dsimp only <;> split <;> omega

theorem wordTriple_small (w : Word) :
    (wordTriple w).1 < 256 ∧ (wordTriple w).2.1 < 256 ∧ (wordTriple w).2.2 < 257 := by
  unfold wordTriple
  have h1 : bits 7 0 w < 256 := Nat.mod_lt _ (by omega)
  have h2 : bits 15 8 w < 256 := Nat.mod_lt _ (by omega)
  have h3 : bits 23 16 w < 256 := Nat.mod_lt _ (by omega)
  refine ⟨h1, h2, ?_⟩
  dsimp only
  split <;> omega

theorem wordTriple_tripleWord {x : Nat × Nat × Nat} (h : x.1 < 256 ∧ x.2.1 < 256 ∧ x.2.2 < 257) :
    wordTriple (tripleWord x) = x := by
  obtain ⟨a, b, c⟩ := x
  obtain ⟨ha, hb, hc⟩ := h
  dsimp only at ha hb hc
  have hbit (w : Word) : w.getLsbD 24 = decide (w.toNat / 2 ^ 24 % 2 = 1) := by
    rw [← BitVec.testBit_toNat, Nat.testBit_eq_decide_div_mod_eq]
  unfold wordTriple
  simp only [hbit, bits_eq_div, decide_eq_true_eq]
  by_cases h0 : c = 0
  · have hw : (tripleWord (a, b, c)).toNat = 2 ^ 24 + 2 ^ 8 * b + a := by
      simp only [tripleWord, h0, if_true, BitVec.toNat_ofNat]; omega
    rw [hw, if_pos (by omega), h0]
    refine Prod.ext ?_ (Prod.ext ?_ rfl) <;> dsimp only <;> omega
  · have hw : (tripleWord (a, b, c)).toNat = 2 ^ 16 * (c - 1) + 2 ^ 8 * b + a := by
      simp only [tripleWord, h0, if_false, BitVec.toNat_ofNat]; omega
    rw [hw, if_neg (by omega)]
    refine Prod.ext ?_ (Prod.ext ?_ ?_) <;> dsimp only <;> omega

/-- R76: the products of an element are added exactly. -/
theorem isTriple_foldl (ps : List FVal) {x : Nat × Nat × Nat} {n : Int} (h : IsTriple x n) :
    IsTriple (ps.foldl (fun acc p => tripleAdd acc (tripleOf p.int)) x) (n + (ps.map FVal.int).sum) := by
  induction ps generalizing x n with
  | nil => simpa using h
  | cons p ps ih =>
      rw [List.foldl_cons, List.map_cons, List.sum_cons, ← add_assoc]
      exact ih (isTriple_tripleAdd h (isTriple_tripleOf _))

/-! ### An element of a tile -/

theorem MatrixCmd.element_residue {m : MatrixCmd} (old : Word) (ps : List FVal) (h : m.residue = true) :
    m.element old ps 0 =
      (tripleWord (ps.foldl (fun acc p => tripleAdd acc (tripleOf p.int)) (wordTriple old)), 0) := by
  unfold MatrixCmd.element
  rw [if_pos h]
  rfl

theorem MatrixCmd.element_fp {m : MatrixCmd} (old : Word) (ps : List FVal) (h : m.residue = false) :
    m.element old ps 0 = (let r := sumAcc (Fmt.decode .fp32 old.toNat :: ps); (BitVec.ofNat 32 r.1, r.2)) := by
  unfold MatrixCmd.element
  rw [h]
  simp

/-- R76: on the residue path an element becomes the exact sum, as an integer modulo 16,776,960. -/
theorem MatrixCmd.element_exact {m : MatrixCmd} (old : Word) (ps : List FVal) (h : m.residue = true) :
    (tripleInt (wordTriple (m.element old ps 0).1) - (tripleInt (wordTriple old) + (ps.map FVal.int).sum)) % 16776960 =
      0 := by
  have hsum := isTriple_foldl ps (isTriple_tripleInt (wordTriple_small old))
  rw [m.element_residue old ps h, wordTriple_tripleWord hsum.small]
  exact tripleInt_mod hsum

end Sys2Proof.Machine

/-! Steps of a multiply (R225, R226, R230): what the checksums locate, and the tile that a step leaves. -/

namespace Sys2Proof.Machine

/-! ### Located errors -/

/-- R230: what the faults of a list add up to. -/
def deltaSum (fs : List ProductFault) : Int := (fs.map (·.delta)).foldl (· + ·) 0

/-- R230: the rows and the columns whose checksums disagree. -/
def badRows (fs : List ProductFault) : List Nat :=
  (List.range 32).filter fun i => disagrees (deltaSum (fs.filter (·.row = i)))

def badCols (fs : List ProductFault) : List Nat :=
  (List.range 32).filter fun j => disagrees (deltaSum (fs.filter (·.col = j)))

/-- R230: the three checksums together tell errors from none. -/
theorem disagrees_deltaSum (l : List ProductFault) : disagrees (deltaSum l) = true ↔
    ¬((l.map (·.delta)).sum % 255 = 0 ∧ (l.map (·.delta)).sum % 256 = 0 ∧ (l.map (·.delta)).sum % 257 = 0) := by
  rw [deltaSum, ← List.sum_eq_foldl]
  simp only [disagrees, Bool.or_eq_true, decide_eq_true_eq]
  tauto

/-- R230: one row and one column locate an element. -/
def locatedAt (r c : List Nat) : Located :=
  match r, c with
  | [], [] => .stands
  | [i], [j] => .at_ i j
  | _, _ => .lost

theorem locate_eq (fs : List ProductFault) : locate fs = locatedAt (badRows fs) (badCols fs) := rfl

theorem locate_nil : locate [] = .stands := by decide

theorem locatedAt_two_rows {r : List Nat} {a b : Nat} (c : List Nat) (ha : a ∈ r) (hb : b ∈ r) (hab : a ≠ b) :
    locatedAt r c = .lost := by
  rcases r with _ | ⟨x, _ | ⟨y, r⟩⟩
  · cases ha
  · exact absurd ((List.mem_singleton.mp ha).trans (List.mem_singleton.mp hb).symm) hab
  · rfl

theorem locatedAt_two_cols {c : List Nat} {a b : Nat} (r : List Nat) (ha : a ∈ c) (hb : b ∈ c) (hab : a ≠ b) :
    locatedAt r c = .lost := by
  rcases c with _ | ⟨x, _ | ⟨y, c⟩⟩
  · cases ha
  · exact absurd ((List.mem_singleton.mp ha).trans (List.mem_singleton.mp hb).symm) hab
  · rcases r with _ | ⟨_, _ | _⟩ <;> rfl

/-- The numbers below n that pass a test which i alone passes. -/
theorem filter_range_eq_singleton {n i : Nat} {p : Nat → Bool} (hi : i < n) (h : ∀ k, p k = true ↔ k = i) :
    (List.range n).filter p = [i] := by
  refine List.perm_singleton.mp ((List.perm_ext_iff_of_nodup (List.nodup_range.filter p) (List.nodup_singleton i)).mpr
    fun k => ?_)
  rw [List.mem_filter, List.mem_range, h, List.mem_singleton]
  exact ⟨fun hk => hk.2, fun hk => ⟨hk ▸ hi, hk⟩⟩

section
variable {fs : List ProductFault} {g : ProductFault → Nat} {i : Nat}

/-- The line in which all faults lie, and no other, sees what they add up to. -/
theorem sees_iff (hall : ∀ f ∈ fs, g f = i) (hw : disagrees (deltaSum fs) = true) (k : Nat) :
    disagrees (deltaSum (fs.filter (g · = k))) = true ↔ k = i := by
  constructor
  · intro hd
    by_contra hk
    have hnone : fs.filter (g · = k) = [] :=
      List.filter_eq_nil_iff.mpr fun f hf => by simpa [hall f hf] using Ne.symm hk
    rw [hnone] at hd
    exact absurd hd (by decide)
  · rintro rfl
    rwa [List.filter_eq_self.mpr fun f hf => by simpa using hall f hf]

/-- Of two faults in different lines each is seen in its own. -/
theorem sees_first {f f' : ProductFault} (hne : g f ≠ g f') (hf : disagrees (deltaSum [f]) = true) :
    disagrees (deltaSum ([f, f'].filter (g · = g f))) = true := by
  simpa [List.filter_cons, Ne.symm hne] using hf

theorem sees_second {f f' : ProductFault} (hne : g f ≠ g f') (hf : disagrees (deltaSum [f']) = true) :
    disagrees (deltaSum ([f, f'].filter (g · = g f'))) = true := by
  simpa [List.filter_cons, hne] using hf

end

/-- R230: an error of one element that its checksums tell from none is located. -/
theorem locate_one {fs : List ProductFault} {i j : Nat} (hi : i < 32) (hj : j < 32)
    (hall : ∀ f ∈ fs, f.row = i ∧ f.col = j) (hw : disagrees (deltaSum fs) = true) : locate fs = .at_ i j := by
  have hr : badRows fs = [i] := filter_range_eq_singleton hi (sees_iff (fun f hf => (hall f hf).1) hw)
  have hc : badCols fs = [j] := filter_range_eq_singleton hj (sees_iff (fun f hf => (hall f hf).2) hw)
  rw [locate_eq, hr, hc]
  rfl

/-- R230: errors of two elements that do not share a row, or a column, are not located. -/
theorem locate_two {f f' : ProductFault} (hin : (f.row < 32 ∧ f.col < 32) ∧ f'.row < 32 ∧ f'.col < 32)
    (hne : f.row ≠ f'.row ∨ f.col ≠ f'.col) (hf : disagrees (deltaSum [f]) = true)
    (hf' : disagrees (deltaSum [f']) = true) : locate [f, f'] = .lost := by
  obtain ⟨⟨hr, hc⟩, hr', hc'⟩ := hin
  rw [locate_eq]
  rcases hne with hne | hne
  · exact locatedAt_two_rows _ (List.mem_filter.mpr ⟨List.mem_range.mpr hr, sees_first hne hf⟩)
      (List.mem_filter.mpr ⟨List.mem_range.mpr hr', sees_second hne hf'⟩) hne
  · exact locatedAt_two_cols _ (List.mem_filter.mpr ⟨List.mem_range.mpr hc, sees_first hne hf⟩)
      (List.mem_filter.mpr ⟨List.mem_range.mpr hc', sees_second hne hf'⟩) hne

/-! ### Flags together -/

theorem foldl_flags (l : List (α × Flags)) (f : Flags) : l.foldl (fun f r => f ||| r.2) f = f ||| allFlags l := by
  unfold allFlags
  induction l generalizing f with
  | nil => simp
  | cons e l ih => rw [List.foldl_cons, ih, List.foldl_cons, ih (0 ||| e.2)]; simp [BitVec.or_assoc]

@[simp] theorem allFlags_nil : allFlags ([] : List (α × Flags)) = 0 := rfl

@[simp] theorem allFlags_cons (e : α × Flags) (l : List (α × Flags)) : allFlags (e :: l) = e.2 ||| allFlags l := by
  rw [allFlags, List.foldl_cons, foldl_flags]; simp

@[simp] theorem allFlags_append (l r : List (α × Flags)) : allFlags (l ++ r) = allFlags l ||| allFlags r := by
  induction l with
  | nil => simp
  | cons e l ih => simp [ih, BitVec.or_assoc]

/-! ### The tile that a step leaves -/

/-- A listed element reads as it is listed; the zero word is not listed. -/
theorem KMap.get_filterMap_nonzero (l : List (Nat × Word × Flags)) (k : Nat) (v : Word)
    (hv : ∀ e ∈ l, e.1 = k → e.2.1 = v) (hk : (∃ e ∈ l, e.1 = k) ∨ v = 0) :
    KMap.get (l.filterMap fun e => if e.2.1 = 0 then none else some (e.1, e.2.1)) 0 k = v := by
  induction l with
  | nil =>
      rcases hk with ⟨e, he, -⟩ | rfl
      · cases he
      · rfl
  | cons e l ih =>
      have htail := fun h => ih (fun x hx => hv x (List.mem_cons_of_mem _ hx)) h
      by_cases hek : e.1 = k
      · have hev : e.2.1 = v := hv e List.mem_cons_self hek
        by_cases h0 : e.2.1 = 0
        · rw [List.filterMap_cons, if_pos h0]
          exact htail (.inr (hev ▸ h0))
        · rw [List.filterMap_cons, if_neg h0]
          simp [KMap.get, KMap.find?_cons, hek, hev]
      · have hrest : (∃ x ∈ l, x.1 = k) ∨ v = 0 := by
          refine hk.imp_left fun ⟨x, hx, hxk⟩ => ⟨x, (List.mem_cons.mp hx).resolve_left fun he => hek (he ▸ hxk), hxk⟩
        by_cases h0 : e.2.1 = 0
        · rw [List.filterMap_cons, if_pos h0]
          exact htail hrest
        · rw [List.filterMap_cons, if_neg h0]
          simpa [KMap.get, KMap.find?_cons, hek] using htail hrest

/-- The elements of a tile in order, with their keys. -/
def tileList (new : Nat → Nat → Word × Flags) : List (Nat × Word × Flags) :=
  (List.range 32).flatMap fun i => (List.range 32).map fun j => (32 * i + j, new i j)

theorem mem_tileList {new : Nat → Nat → Word × Flags} {e : Nat × Word × Flags} :
    e ∈ tileList new ↔ ∃ i < 32, ∃ j < 32, (32 * i + j, new i j) = e := by
  simp [tileList]

theorem get_tileList (new : Nat → Nat → Word × Flags) {i j : Nat} (hi : i < 32) (hj : j < 32) :
    KMap.get ((tileList new).filterMap fun e => if e.2.1 = 0 then none else some (e.1, e.2.1)) 0 (32 * i + j) =
      (new i j).1 := by
  refine KMap.get_filterMap_nonzero _ _ _ (fun e he hk => ?_) (.inl ⟨_, mem_tileList.mpr ⟨i, hi, j, hj, rfl⟩, rfl⟩)
  obtain ⟨i', hi', j', hj', rfl⟩ := mem_tileList.mp he
  dsimp only at hk
  obtain ⟨rfl, rfl⟩ : i' = i ∧ j' = j := by omega
  rfl

theorem flags_tileList (new : Nat → Nat → Word × Flags) : (tileList new).foldl (fun f e => f ||| e.2.2) 0 =
    allFlags ((List.range 32).flatMap fun i => (List.range 32).map fun j => new i j) := by
  have hsnd : ((List.range 32).flatMap fun i => (List.range 32).map fun j => new i j) = (tileList new).map (·.2) := by
    simp [tileList, List.map_flatMap, Function.comp_def]
  rw [hsnd, allFlags, List.foldl_map]

/-- R226: the new value of an element of the tile of a word, with what faults add to its products. -/
def MatrixCmd.newElement (m : MatrixCmd) (w : Nat) (t : Tile) (fault : Nat → Nat → Int) (i j : Nat) : Word × Flags :=
  m.element (if t.kind = .empty then m.zero else KMap.get t.elem 0 (32 * i + j))
    (products (m.aRow w i) (m.bCol w j) (m.positions w i)) (fault i j)

/-- R225, R226: the tile with new elements, of the path's kind, its scale codes captured. -/
def MatrixCmd.stepped (m : MatrixCmd) (w : Nat) (t : Tile) (new : Nat → Nat → Word × Flags) (corr : Nat) : Tile :=
  { t with
    kind := m.path
    count := t.count + (if m.residue then m.k else 0)
    elem := (tileList new).filterMap fun e => if e.2.1 = 0 then none else some (e.1, e.2.1)
    rsc := if t.capt then t.rsc else m.rowScales w
    csc := if t.capt then t.csc else m.colScales w
    capt := true
    corrp := t.corrp + corr }

theorem MatrixCmd.stepped_corrected (m : MatrixCmd) (w : Nat) (t : Tile) (new : Nat → Nat → Word × Flags) :
    m.stepped w t new 1 = { m.stepped w t new 0 with corrp := t.corrp + 1 } := rfl

/-- R230: the faults that meet the products of a word. -/
def faultsOf (w : Nat) (fs : List ProductFault) : List ProductFault :=
  fs.filter fun f => f.word = w && f.row < 32 && f.col < 32

theorem faultsOf_small {w : Nat} {fs : List ProductFault} {f : ProductFault} (h : f ∈ faultsOf w fs) :
    f.row < 32 ∧ f.col < 32 := by
  have hin := (List.mem_filter.mp h).2
  simp only [Bool.and_eq_true, decide_eq_true_eq] at hin
  exact ⟨hin.1.2, hin.2⟩

/-- R230: the elements that a step corrects. -/
def Located.corrected : Located → Nat
  | .at_ _ _ => 1
  | _ => 0

/-- R230: what a step delivers where its checksums agree or locate one element, whose products are then made good. -/
def MatrixCmd.delivered (m : MatrixCmd) (w : Nat) (t : Tile) (fs : List ProductFault) (at_ : Located) : Tile × Flags :=
  let new := m.newElement w t fun i j => if at_ = .at_ i j then 0 else faultAt fs i j
  (m.stepped w t new at_.corrected, (tileList new).foldl (fun f e => f ||| e.2.2) 0)

theorem zipIdx_map_range (g : Nat → α) (n : Nat) :
    ((List.range n).map g).zipIdx = (List.range n).map fun j => (g j, j) := by
  refine List.ext_getElem (by simp) fun k h1 h2 => ?_
  simp

theorem MatrixCmd.step_lost {m : MatrixCmd} {w : Nat} (t : Tile) {fs : List ProductFault}
    (h : locate (faultsOf w fs) = .lost) : m.step w t fs = none := by
  unfold faultsOf at h
  unfold MatrixCmd.step
  dsimp only
  rw [h]

theorem MatrixCmd.step_delivers {m : MatrixCmd} {w : Nat} (t : Tile) {fs : List ProductFault}
    (h : locate (faultsOf w fs) ≠ .lost) :
    m.step w t fs = some (m.delivered w t (faultsOf w fs) (locate (faultsOf w fs))) := by
  unfold faultsOf at h ⊢
  unfold MatrixCmd.step MatrixCmd.delivered MatrixCmd.stepped tileList MatrixCmd.newElement
  dsimp only
  split
  case h_1 hl => exact absurd hl h
  case h_2 =>
    simp only [zipIdx_map_range, List.map_map, Function.comp_def]
    rfl

theorem faultAt_eq (fs : List ProductFault) (i j : Nat) :
    faultAt fs i j = deltaSum (fs.filter fun f => f.row = i && f.col = j) := rfl

/-- R226: a step of a word that no fault meets. -/
theorem MatrixCmd.step_clean {m : MatrixCmd} {w : Nat} (t : Tile) {fs : List ProductFault} (h : faultsOf w fs = []) :
    m.step w t fs = some (m.stepped w t (m.newElement w t fun _ _ => 0) 0,
      allFlags ((List.range 32).flatMap fun i => (List.range 32).map fun j => m.newElement w t (fun _ _ => 0) i j)) := by
  have hne : locate (faultsOf w fs) ≠ .lost := by rw [h, locate_nil]; decide
  rw [m.step_delivers t hne, h, locate_nil]
  unfold MatrixCmd.delivered
  simp only [faultAt_eq, deltaSum, List.filter_nil, List.map_nil, List.foldl_nil, ite_self, flags_tileList,
    Located.corrected]

/-- R230: where all faults are of one element, which is located, the step is as without them, and counted. -/
theorem MatrixCmd.step_corrected {m : MatrixCmd} {w i j : Nat} (t : Tile) {fs : List ProductFault}
    (hall : ∀ f ∈ faultsOf w fs, f.row = i ∧ f.col = j) (hl : locate (faultsOf w fs) = .at_ i j) :
    m.step w t fs = (m.step w t []).map fun r => ({ r.1 with corrp := t.corrp + 1 }, r.2) := by
  have hfault (i' j' : Nat) : (if Located.at_ i j = .at_ i' j' then 0 else faultAt (faultsOf w fs) i' j') = 0 := by
    split
    case isTrue => rfl
    case isFalse hne =>
      have hnone : (faultsOf w fs).filter (fun f => f.row = i' && f.col = j') = [] :=
        List.filter_eq_nil_iff.mpr fun f hf hat => hne (by
          obtain ⟨rfl, rfl⟩ := hall f hf
          simpa using hat)
      rw [faultAt_eq, hnone]
      rfl
  rw [m.step_delivers t (by rw [hl]; exact Located.noConfusion), hl, m.step_clean t rfl]
  unfold MatrixCmd.delivered
  simp only [hfault, flags_tileList, Option.map_some, Located.corrected]
  rw [m.stepped_corrected]

end Sys2Proof.Machine

/-! The execution of matrix commands (R221, R225, R230, R231): a pool's tiles after setting them, the words of a multiply
one after the other, and what a command's end does to its CP. -/

namespace Sys2Proof.Machine

/-! ### Tiles -/

theorem Pool.tile_setTile (p : Pool) (kept : Bool) (k j : Nat) (t : Tile) :
    (p.setTile kept k t).tile j = if j = k then t else p.tile j := KMap.get_set _ _ _ _ _

/-- Nothing but the tiles and the undo log of tiles differs. -/
def SameButTiles (p q : Pool) : Prop := { q with tiles := p.tiles, undoTiles := p.undoTiles } = p

theorem SameButTiles.trans {p q r : Pool} (h1 : SameButTiles p q) (h2 : SameButTiles q r) : SameButTiles p r := by
  unfold SameButTiles at *
  rw [← h1, ← h2]

theorem SameButTiles.cps {p q : Pool} (h : SameButTiles p q) : q.cps = p.cps := (congrArg Pool.cps h :)
theorem SameButTiles.cmds {p q : Pool} (h : SameButTiles p q) : q.cmds = p.cmds := (congrArg Pool.cmds h :)
theorem SameButTiles.regs {p q : Pool} (h : SameButTiles p q) : q.regs = p.regs := (congrArg Pool.regs h :)
theorem SameButTiles.spad {p q : Pool} (h : SameButTiles p q) : q.spad = p.spad := (congrArg Pool.spad h :)

theorem SameButTiles.cp? {p q : Pool} (h : SameButTiles p q) (c : Nat) : q.cp? c = p.cp? c := by
  unfold Pool.cp?; rw [h.cps]

theorem Pool.same_setTile (p : Pool) (kept : Bool) (k : Nat) (t : Tile) : SameButTiles p (p.setTile kept k t) := rfl

/-- R225: the tiles of the words emptied for a CP; what their corrections count stays. -/
def Pool.zeroTiles (p : Pool) (acc cp : Nat) (words : List Nat) : Pool :=
  words.foldl (fun (p : Pool) w => p.setTile false (2 * w + acc)
    { Tile.empty with owner := some cp, corrp := (p.tile (2 * w + acc)).corrp }) p

theorem Pool.zeroTiles_cons (p : Pool) (acc cp w : Nat) (words : List Nat) : p.zeroTiles acc cp (w :: words) =
    (p.setTile false (2 * w + acc) { Tile.empty with owner := some cp, corrp := (p.tile (2 * w + acc)).corrp }).zeroTiles
      acc cp words := rfl

theorem Pool.same_zeroTiles (p : Pool) (acc cp : Nat) (words : List Nat) : SameButTiles p (p.zeroTiles acc cp words) := by
  induction words generalizing p with
  | nil => rfl
  | cons w words ih => rw [p.zeroTiles_cons]; exact (p.same_setTile _ _ _).trans (ih _)

theorem Pool.tile_zeroTiles_other (p : Pool) (acc cp k : Nat) (words : List Nat) (h : ∀ w ∈ words, k ≠ 2 * w + acc) :
    (p.zeroTiles acc cp words).tile k = p.tile k := by
  induction words generalizing p with
  | nil => rfl
  | cons w words ih =>
      rw [p.zeroTiles_cons, ih _ fun v hv => h v (List.mem_cons_of_mem _ hv), Pool.tile_setTile,
        if_neg (h w List.mem_cons_self)]

theorem Pool.tile_zeroTiles (p : Pool) (acc cp w : Nat) (words : List Nat) (h : w ∈ words) :
    (p.zeroTiles acc cp words).tile (2 * w + acc) =
      { Tile.empty with owner := some cp, corrp := (p.tile (2 * w + acc)).corrp } := by
  induction words generalizing p with
  | nil => cases h
  | cons v words ih =>
      rw [p.zeroTiles_cons]
      by_cases hw : w ∈ words
      · rw [ih _ hw, Pool.tile_setTile]
        split
        case isTrue he => rw [he]
        case isFalse => rfl
      · obtain rfl : w = v := (List.mem_cons.mp h).resolve_right hw
        rw [Pool.tile_zeroTiles_other _ _ _ _ _ fun u hu he => hw (by rwa [show w = u by omega]), Pool.tile_setTile,
          if_pos rfl]

/-! ### The words of a multiply -/

theorem MatrixCmd.run_cons (m : MatrixCmd) (faults : List ProductFault) (w : Nat) (l : List Nat) (p : Pool) (f : Flags) :
    m.run faults (w :: l) p f = (m.step w (p.tile (2 * w + m.acc)) faults).bind fun x =>
      m.run faults l (p.setTile false (2 * w + m.acc) x.1) (f ||| x.2) := by
  rw [MatrixCmd.run]
  cases m.step w (p.tile (2 * w + m.acc)) faults <;> rfl

theorem MatrixCmd.run_same {m : MatrixCmd} {faults : List ProductFault} {l : List Nat} {p q : Pool} {f g : Flags}
    (h : m.run faults l p f = some (q, g)) : SameButTiles p q := by
  induction l generalizing p f with
  | nil =>
      obtain ⟨rfl, rfl⟩ : p = q ∧ f = g := by simpa [MatrixCmd.run] using h
      rfl
  | cons w l ih =>
      rw [MatrixCmd.run_cons, Option.bind_eq_some_iff] at h
      obtain ⟨x, -, hx⟩ := h
      exact (p.same_setTile _ _ _).trans (ih hx)

theorem MatrixCmd.run_clean (m : MatrixCmd) (l : List Nat) (p : Pool) (f : Flags) : m.run [] l p f ≠ none := by
  induction l generalizing p f with
  | nil => exact Option.some_ne_none _
  | cons w l ih =>
      rw [MatrixCmd.run_cons, m.step_clean _ rfl]
      exact ih _ _

/-! ### The end of a command -/

theorem Pool.cp?_endMatrix {p : Pool} {cmd : Cmd} {y : Cp} (f : Flags) (h : p.cp? cmd.cp = some y) :
    (p.endMatrix cmd f).cp? cmd.cp = some { y with fstat := y.fstat ||| f, mtx := y.mtx - 1 } := by
  unfold Pool.endMatrix
  rw [Pool.cp?_modCp_self, show (p.removeCmd cmd.id).cp? cmd.cp = some y from h]
  rfl

theorem onlyPool_setPool (s : State) (pid : Nat) (q : Pool) : OnlyPool pid s (s.setPool pid q) :=
  ⟨rfl, fun j hj => (s.pool?_setPool pid q j).trans (if_neg hj), fun _ => rfl⟩

theorem State.pool?_setPool_self (s : State) (pid : Nat) (q : Pool) : (s.setPool pid q).pool? pid = some q :=
  (s.pool?_setPool pid q pid).trans (if_pos rfl)

section
variable {s : State} {pid : Nat} {p : Pool} {cmd : Cmd} {m : MatrixCmd} (faults : List ProductFault)
  (hv : s.viral = none) (hp : s.pool? pid = some p) (hm : p.matrix? cmd.id = some (cmd, m))
include hv hp hm

theorem exec_matrixCommandExecute : exec (.matrixCommandExecute pid cmd.id faults) s = .next
    (if m.op = .mdrn ∨ p.matrixFirst cmd m = false then s
    else if m.op = .mzero then s.setPool pid ((p.zeroTiles m.acc cmd.cp m.words).endMatrix cmd 0)
    else ((m.run faults m.words p (flagIf m.metaFlag Flags.META)).map fun x => s.setPool pid (x.1.endMatrix cmd x.2)).getD
      (s.rollBackOrFence pid)) := by
  change execMatrixCommandExecute pid cmd.id faults s = _
  unfold execMatrixCommandExecute
  rw [unlessViral_none hv]
  refine congrArg _ ?_
  unfold State.matrixExecute
  simp only [hp, hm, Bool.or_eq_true, decide_eq_true_eq, Bool.not_eq_true']
  cases m.run faults m.words p (flagIf m.metaFlag Flags.META) <;> rfl

theorem exec_matrixCommandExecute_later (hf : p.matrixFirst cmd m = false) :
    exec (.matrixCommandExecute pid cmd.id faults) s = .next s := by
  rw [exec_matrixCommandExecute faults hv hp hm, if_pos (.inr hf)]

theorem exec_matrixCommandExecute_mzero (hf : p.matrixFirst cmd m = true) (ho : m.op = .mzero) :
    exec (.matrixCommandExecute pid cmd.id faults) s =
      .next (s.setPool pid ((p.zeroTiles m.acc cmd.cp m.words).endMatrix cmd 0)) := by
  rw [exec_matrixCommandExecute faults hv hp hm, if_neg (by simp [hf, ho]), if_pos ho]

theorem exec_matrixCommandExecute_multiply (hf : p.matrixFirst cmd m = true)
    (ho : m.op = .mma ∨ m.op = .mmaq ∨ m.op = .mmas) :
    exec (.matrixCommandExecute pid cmd.id faults) s = .next
      (((m.run faults m.words p (flagIf m.metaFlag Flags.META)).map fun x => s.setPool pid (x.1.endMatrix cmd x.2)).getD
        (s.rollBackOrFence pid)) := by
  have hz : m.op ≠ .mdrn ∧ m.op ≠ .mzero := by rcases ho with h | h | h <;> simp [h]
  rw [exec_matrixCommandExecute faults hv hp hm, if_neg (by simp [hf, hz.1]), if_neg hz.2]

end

end Sys2Proof.Machine

/-! Drains (R79, R228, R231): each register of a word's lanes takes its element once, so what the registers held before
the drain decides all results. -/

namespace Sys2Proof.Machine

/-! ### Changes with flags, one after the other -/

/-- Changes of a pool one after the other, with the flags of all. -/
def foldFlags {κ : Type} (F : κ → Pool → Pool × Flags) (l : List κ) (p : Pool) : Pool × Flags :=
  l.foldl (fun acc k => ((F k acc.1).1, acc.2 ||| (F k acc.1).2)) (p, 0)

section
variable {κ : Type} (F : κ → Pool → Pool × Flags)

@[simp] theorem foldFlags_nil (p : Pool) : foldFlags F [] p = (p, 0) := rfl

theorem foldFlags_from (l : List κ) (p : Pool) (f : Flags) :
    l.foldl (fun acc k => ((F k acc.1).1, acc.2 ||| (F k acc.1).2)) (p, f) =
      ((foldFlags F l p).1, f ||| (foldFlags F l p).2) := by
  induction l generalizing p f with
  | nil => simp
  | cons k l ih =>
      simp only [foldFlags, List.foldl_cons]
      rw [ih, ih _ (0 ||| (F k p).2)]
      simp [BitVec.or_assoc]

theorem foldFlags_cons (k : κ) (l : List κ) (p : Pool) : foldFlags F (k :: l) p =
    ((foldFlags F l (F k p).1).1, (F k p).2 ||| (foldFlags F l (F k p).1).2) := by
  rw [foldFlags, List.foldl_cons, foldFlags_from]
  simp

/-- What every change keeps, all together keep. -/
theorem foldFlags_induct (P : Pool → Prop) (l : List κ) {p : Pool} (h0 : P p) (hs : ∀ k q, P q → P (F k q).1) :
    P (foldFlags F l p).1 := by
  induction l generalizing p with
  | nil => exact h0
  | cons k l ih => rw [foldFlags_cons]; exact ih (hs k p h0)

end

/-! ### Registers rewritten from what they held -/

/-- The registers listed, as thread and number, hold what g makes of their old values, with its flags; no other
register has changed. -/
structure Rewritten (p : Pool) (l : List (Nat × Nat)) (g : Nat × Nat → Word → Word × Flags) (r : Pool × Flags) : Prop where
  small : ∀ x ∈ l, x.2 < 256
  new : ∀ x ∈ l, r.1.reg x.1 x.2 = (g x (p.reg x.1 x.2)).1
  old : ∀ x : Nat × Nat, x.2 < 256 → x ∉ l → r.1.reg x.1 x.2 = p.reg x.1 x.2
  flags : r.2 = allFlags (l.map fun x => g x (p.reg x.1 x.2))

section
variable {p q : Pool} {f f' : Flags} {l l' : List (Nat × Nat)} {g : Nat × Nat → Word → Word × Flags}

theorem Rewritten.nil (p : Pool) (g : Nat × Nat → Word → Word × Flags) : Rewritten p [] g (p, 0) :=
  ⟨nofun, nofun, fun _ _ _ => rfl, rfl⟩

theorem Rewritten.setReg (p : Pool) (u n : Nat) (g : Nat × Nat → Word → Word × Flags) (hn : n < 256) :
    Rewritten p [(u, n)] g (p.setReg u n (g (u, n) (p.reg u n)).1, (g (u, n) (p.reg u n)).2) := by
  refine ⟨fun x hx => ?_, fun x hx => ?_, fun x hx hne => ?_, by simp⟩
  · rw [List.mem_singleton.mp hx]; exact hn
  · rw [List.mem_singleton.mp hx]
    exact (Pool.reg_setReg _ _ _ _ _ _ hn hn).trans (if_pos ⟨rfl, rfl⟩)
  · exact (Pool.reg_setReg _ _ _ _ _ _ hn hx).trans (if_neg fun h => hne (List.mem_singleton.mpr (Prod.ext h.1 h.2)))

/-- Registers rewritten, then others. -/
theorem Rewritten.append {r : Pool × Flags} (h : Rewritten p l g (q, f)) (h' : Rewritten q l' g r)
    (hd : ∀ x ∈ l, x ∉ l') : Rewritten p (l ++ l') g (r.1, f ||| r.2) := by
  have keep : ∀ x ∈ l', q.reg x.1 x.2 = p.reg x.1 x.2 := fun x hx =>
    h.old x (h'.small x hx) fun hl => hd x hl hx
  refine ⟨fun x hx => ?_, fun x hx => ?_, fun x hx hne => ?_, ?_⟩
  · exact (List.mem_append.mp hx).elim (h.small x) (h'.small x)
  · rcases List.mem_append.mp hx with hl | hl
    · exact (h'.old x (h.small x hl) (hd x hl)).trans (h.new x hl)
    · exact (h'.new x hl).trans (by rw [keep x hl])
  · rw [List.mem_append, not_or] at hne
    exact (h'.old x hx hne.2).trans (h.old x hx hne.1)
  · have hold : (l'.map fun x => g x (q.reg x.1 x.2)) = l'.map fun x => g x (p.reg x.1 x.2) :=
      List.map_congr_left fun x hx => by rw [keep x hx]
    rw [List.map_append, allFlags_append, ← hold, ← h'.flags, ← h.flags]

/-- Changes that each rewrite registers of their own, under a condition I that the others keep. -/
theorem Rewritten.fold {κ : Type} {F : κ → Pool → Pool × Flags} {places : κ → List (Nat × Nat)} (I : κ → Pool → Prop)
    (ks : List κ) (hk : ks.Nodup) (hI : ∀ k ∈ ks, I k p)
    (hF : ∀ k ∈ ks, ∀ q, I k q → Rewritten q (places k) g (F k q))
    (hkeep : ∀ k j q, k ≠ j → I j q → I j (F k q).1)
    (hd : ∀ k j, k ≠ j → ∀ x ∈ places k, x ∉ places j) : Rewritten p (ks.flatMap places) g (foldFlags F ks p) := by
  induction ks generalizing p with
  | nil => exact .nil p g
  | cons k ks ih =>
      obtain ⟨hnot, hnodup⟩ := List.nodup_cons.mp hk
      have hne (j : κ) (hj : j ∈ ks) : k ≠ j := fun h => hnot (h ▸ hj)
      have hrest := ih (p := (F k p).1) hnodup
        (fun j hj => hkeep k j p (hne j hj) (hI j (List.mem_cons_of_mem _ hj)))
        fun j hj => hF j (List.mem_cons_of_mem _ hj)
      rw [foldFlags_cons, List.flatMap_cons]
      refine (hF k List.mem_cons_self p (hI k List.mem_cons_self)).append hrest fun x hx hx' => ?_
      obtain ⟨j, hj, hxj⟩ := List.mem_flatMap.mp hx'
      exact hd k j (hne j hj) x hx hxj

end

/-! ### One word -/

/-- R79: an element of a tile scaled by the codes captured for it and added to its C register. -/
def Tile.scaled (t : Tile) (i j : Nat) (c : Word) : Word × Flags :=
  let code (l : KMap Byte) (n : Nat) : Byte := if t.capt then KMap.get l 0 n else 0x7F
  drainElem (t.value i j) (code t.rsc i) (code t.csc j) c

/-- R79, R231: what a drain makes of the C register of an element. -/
def Tile.drainCell (t : Tile) (i j : Nat) (c : Word) : Word × Flags :=
  if t.poison then (BitVec.ofNat 32 Fmt.fp32.nanCode, 0) else t.scaled i j c

theorem Tile.drainCell_poisoned {t : Tile} (h : t.poison = true) (i j : Nat) (c : Word) :
    t.drainCell i j c = (0x7FC00000, 0) := by
  unfold Tile.drainCell
  rw [h]
  rfl

theorem Tile.drainCell_clean {t : Tile} (h : t.poison = false) (i j : Nat) (c : Word) :
    t.drainCell i j c = t.scaled i j c := by
  unfold Tile.drainCell
  rw [h]
  rfl

/-- R228, R231: the tile after its drain. -/
def Tile.drained (t : Tile) : Tile := if t.poison then { t with owner := none, corrp := 0 } else Tile.empty

theorem Tile.drained_clean {t : Tile} (h : t.poison = false) : t.drained = Tile.empty := by
  unfold Tile.drained; rw [h]; rfl

theorem Tile.drained_poisoned {t : Tile} (h : t.poison = true) : t.drained = { t with owner := none, corrp := 0 } := by
  unfold Tile.drained; rw [if_pos h]

/-- R230, R231: the CP after the drain of a tile. -/
def Tile.report (t : Tile) (y : Cp) : Cp := poisonedBy t.poison (y.addCorr t.corrp)

theorem Tile.report_eq (t : Tile) :
    (fun c : Cp => if t.poison then (c.addCorr t.corrp).setPoison else c.addCorr t.corrp) = t.report := by
  funext c
  unfold Tile.report poisonedBy
  cases t.poison <;> rfl

/-- R228, R231: the pool once the lanes of a word are drained, its tile left and its CP told. -/
def Pool.endDrain (p : Pool) (k cp : Nat) (t : Tile) : Pool := (p.setTile false k t.drained).modCp cp t.report

theorem Pool.tile_endDrain (p : Pool) (k cp j : Nat) (t : Tile) :
    (p.endDrain k cp t).tile j = if j = k then t.drained else p.tile j := p.tile_setTile false _ _ _

theorem Pool.cp?_endDrain (p : Pool) (k cp : Nat) (t : Tile) : (p.endDrain k cp t).cp? cp = (p.cp? cp).map t.report :=
  Pool.cp?_modCp_self _ _ _

theorem Pool.spad_endDrain (p : Pool) (k cp : Nat) (t : Tile) : (p.endDrain k cp t).spad = p.spad := rfl
theorem Pool.cmds_endDrain (p : Pool) (k cp : Nat) (t : Tile) : (p.endDrain k cp t).cmds = p.cmds := rfl

theorem Rewritten.endDrain {p : Pool} {l : List (Nat × Nat)} {g : Nat × Nat → Word → Word × Flags} {r : Pool × Flags}
    (h : Rewritten p l g r) (k cp : Nat) (t : Tile) : Rewritten p l g (r.1.endDrain k cp t, r.2) :=
  ⟨h.small, h.new, h.old, h.flags⟩

/-- The C registers of a row of a word, and of the word. -/
def rowPlaces (d w i : Nat) : List (Nat × Nat) := (List.range 32).flatMap fun j => [(32 * w + i, d + j)]
def wordPlaces (d w : Nat) : List (Nat × Nat) := (List.range 32).flatMap fun i => rowPlaces d w i

theorem mem_rowPlaces {d w i : Nat} {x : Nat × Nat} :
    x ∈ rowPlaces d w i ↔ x.1 = 32 * w + i ∧ d ≤ x.2 ∧ x.2 < d + 32 := by
  obtain ⟨u, n⟩ := x
  simp only [rowPlaces, List.mem_flatMap, List.mem_range, List.mem_singleton, Prod.mk.injEq]
  exact ⟨fun ⟨j, hj, hu, hn⟩ => by omega, fun ⟨hu, h1, h2⟩ => ⟨n - d, by omega, hu, by omega⟩⟩

theorem mem_wordPlaces {d w : Nat} {x : Nat × Nat} :
    x ∈ wordPlaces d w ↔ x.1 / 32 = w ∧ d ≤ x.2 ∧ x.2 < d + 32 := by
  simp only [wordPlaces, List.mem_flatMap, List.mem_range, mem_rowPlaces]
  exact ⟨fun ⟨i, hi, hu, hn⟩ => ⟨by omega, hn⟩, fun ⟨hu, hn⟩ => ⟨x.1 % 32, by omega, by omega, hn⟩⟩

/-- What a drain makes of a register, from the tiles of the words. -/
def drainAt (T : Nat → Tile) (d : Nat) (x : Nat × Nat) (c : Word) : Word × Flags :=
  (T (x.1 / 32)).drainCell (x.1 % 32) (x.2 - d) c

theorem drainAt_element (T : Nat → Tile) (d w : Nat) {i : Nat} (j : Nat) (hi : i < 32) :
    drainAt T d (32 * w + i, d + j) = (T w).drainCell i j := by
  funext c
  unfold drainAt
  dsimp only
  rw [show (32 * w + i) / 32 = w by omega, show (32 * w + i) % 32 = i by omega, show d + j - d = j by omega]

section
variable (m : MatrixCmd) (w : Nat)

theorem Pool.drainRow_eq (p : Pool) (i : Nat) (t : Tile) : p.drainRow m w i t = foldFlags (fun j q =>
    (q.setReg (32 * w + i) (m.d + j) (t.drainCell i j (q.reg (32 * w + i) (m.d + j))).1,
      (t.drainCell i j (q.reg (32 * w + i) (m.d + j))).2)) (List.range 32) p := rfl

theorem Pool.rewritten_drainRow (T : Nat → Tile) (p : Pool) {i : Nat} (hi : i < 32) (hd : m.d + 32 ≤ 256) :
    Rewritten p (rowPlaces m.d w i) (drainAt T m.d) (p.drainRow m w i (T w)) := by
  rw [Pool.drainRow_eq]
  refine Rewritten.fold (fun _ _ => True) _ List.nodup_range (fun _ _ => trivial) (fun j hj q _ => ?_)
    (fun _ _ _ _ _ => trivial) fun j k hjk x hx hx' => ?_
  · rw [← drainAt_element T m.d w j hi]
    exact .setReg q _ _ _ (by have := List.mem_range.mp hj; omega)
  · have := (List.mem_singleton.mp hx).symm.trans (List.mem_singleton.mp hx')
    simp only [Prod.mk.injEq] at this
    omega

/-- R79: the lanes of a word, one after the other. -/
def Pool.drainLanes (p : Pool) (t : Tile) : Pool × Flags :=
  foldFlags (fun i q => q.drainRow m w i t) (List.range 32) p

theorem Pool.drainWord_eq (p : Pool) (cp : Nat) : p.drainWord m cp w =
    ((p.drainLanes m w (p.tile (2 * w + m.acc))).1.endDrain (2 * w + m.acc) cp (p.tile (2 * w + m.acc)),
      (p.drainLanes m w (p.tile (2 * w + m.acc))).2) := by
  unfold Pool.endDrain
  rw [← Tile.report_eq]
  rfl

theorem Pool.same_drainLanes (p : Pool) (t : Tile) : SameButRegs p (p.drainLanes m w t).1 :=
  foldFlags_induct _ (SameButRegs p) _ (.refl p) fun i q hq => by
    rw [Pool.drainRow_eq]
    exact foldFlags_induct _ (SameButRegs p) _ hq fun j r hr => hr.trans (r.same_setReg _ _ _)

theorem SameButRegs.tiles {p q : Pool} (h : SameButRegs p q) : q.tiles = p.tiles := (congrArg Pool.tiles h :)
theorem SameButRegs.spad {p q : Pool} (h : SameButRegs p q) : q.spad = p.spad := (congrArg Pool.spad h :)
theorem SameButRegs.cmds {p q : Pool} (h : SameButRegs p q) : q.cmds = p.cmds := (congrArg Pool.cmds h :)

theorem Pool.tile_drainWord (p : Pool) (cp k : Nat) : (p.drainWord m cp w).1.tile k =
    if k = 2 * w + m.acc then (p.tile k).drained else p.tile k := by
  have hsame : (p.drainLanes m w (p.tile (2 * w + m.acc))).1.tile k = p.tile k := by
    unfold Pool.tile; rw [(p.same_drainLanes m w _).tiles]
  rw [Pool.drainWord_eq]
  dsimp only
  rw [Pool.tile_endDrain, hsame]
  split
  case isTrue hk => rw [hk]
  case isFalse => rfl

theorem Pool.cp?_drainWord (p : Pool) (cp : Nat) : (p.drainWord m cp w).1.cp? cp =
    (p.cp? cp).map (p.tile (2 * w + m.acc)).report := by
  have hsame : (p.drainLanes m w (p.tile (2 * w + m.acc))).1.cp? cp = p.cp? cp := by
    unfold Pool.cp?; rw [(p.same_drainLanes m w _).cps]
  rw [Pool.drainWord_eq]
  dsimp only
  rw [Pool.cp?_endDrain, hsame]

theorem Pool.drainWord_keeps (p : Pool) (cp : Nat) :
    (p.drainWord m cp w).1.spad = p.spad ∧ (p.drainWord m cp w).1.cmds = p.cmds := by
  rw [Pool.drainWord_eq]
  dsimp only
  rw [Pool.spad_endDrain, Pool.cmds_endDrain, (p.same_drainLanes m w _).spad, (p.same_drainLanes m w _).cmds]
  exact ⟨rfl, rfl⟩

theorem Pool.rewritten_drainLanes (T : Nat → Tile) (p : Pool) (hd : m.d + 32 ≤ 256) :
    Rewritten p (wordPlaces m.d w) (drainAt T m.d) (p.drainLanes m w (T w)) := by
  unfold wordPlaces Pool.drainLanes
  refine Rewritten.fold (fun _ _ => True) _ List.nodup_range (fun _ _ => trivial)
    (fun i hi q _ => q.rewritten_drainRow m w T (List.mem_range.mp hi) hd) (fun _ _ _ _ _ => trivial)
    fun i k hik x hx hx' => ?_
  have := (mem_rowPlaces.mp hx).1.symm.trans (mem_rowPlaces.mp hx').1
  omega

theorem Pool.rewritten_drainWord (T : Nat → Tile) (p : Pool) (cp : Nat) (hd : m.d + 32 ≤ 256)
    (ht : p.tile (2 * w + m.acc) = T w) : Rewritten p (wordPlaces m.d w) (drainAt T m.d) (p.drainWord m cp w) := by
  rw [Pool.drainWord_eq, ht]
  exact (p.rewritten_drainLanes m w T hd).endDrain _ _ _

end

/-! ### The words of a drain -/

/-- R79: the words of a drain, one after the other. -/
def Pool.drainWords (p : Pool) (m : MatrixCmd) (cp : Nat) (l : List Nat) : Pool × Flags :=
  foldFlags (fun w q => q.drainWord m cp w) l p

section
variable (m : MatrixCmd) (cp : Nat)

theorem Pool.drainWords_cons (p : Pool) (w : Nat) (l : List Nat) : p.drainWords m cp (w :: l) =
    (((p.drainWord m cp w).1.drainWords m cp l).1,
      (p.drainWord m cp w).2 ||| ((p.drainWord m cp w).1.drainWords m cp l).2) :=
  foldFlags_cons _ _ _ _

theorem Pool.tile_drainWord_ne (p : Pool) {w v : Nat} (h : w ≠ v) :
    (p.drainWord m cp w).1.tile (2 * v + m.acc) = p.tile (2 * v + m.acc) := by
  rw [Pool.tile_drainWord, if_neg (by omega)]

theorem Pool.tile_drainWords_other (p : Pool) (l : List Nat) {v : Nat} (h : v ∉ l) :
    (p.drainWords m cp l).1.tile (2 * v + m.acc) = p.tile (2 * v + m.acc) := by
  induction l generalizing p with
  | nil => rfl
  | cons w l ih =>
      rw [List.mem_cons, not_or] at h
      rw [Pool.drainWords_cons]
      exact (ih _ h.2).trans (p.tile_drainWord_ne m cp (Ne.symm h.1))

theorem Pool.tile_drainWords (p : Pool) (l : List Nat) (hl : l.Nodup) {v : Nat} (h : v ∈ l) :
    (p.drainWords m cp l).1.tile (2 * v + m.acc) = (p.tile (2 * v + m.acc)).drained := by
  induction l generalizing p with
  | nil => cases h
  | cons w l ih =>
      obtain ⟨hnot, hnodup⟩ := List.nodup_cons.mp hl
      rw [Pool.drainWords_cons]
      rcases List.mem_cons.mp h with rfl | hv
      · refine (Pool.tile_drainWords_other m cp _ l hnot).trans ?_
        rw [Pool.tile_drainWord, if_pos rfl]
      · have hne : w ≠ v := fun he => hnot (he ▸ hv)
        exact (ih _ hnodup hv).trans (by rw [p.tile_drainWord_ne m cp hne])

theorem Pool.drainWords_keeps (p : Pool) (l : List Nat) :
    (p.drainWords m cp l).1.spad = p.spad ∧ (p.drainWords m cp l).1.cmds = p.cmds := by
  refine foldFlags_induct _ (fun q => q.spad = p.spad ∧ q.cmds = p.cmds) l ⟨rfl, rfl⟩ fun w q hq => ?_
  obtain ⟨hspad, hcmds⟩ := q.drainWord_keeps m w cp
  exact ⟨hspad.trans hq.1, hcmds.trans hq.2⟩

/-- The CP hears of each tile as it stood before the drain. -/
theorem Pool.cp?_drainWords (T : Nat → Tile) (p : Pool) (l : List Nat) (hl : l.Nodup)
    (hT : ∀ w ∈ l, p.tile (2 * w + m.acc) = T w) : (p.drainWords m cp l).1.cp? cp =
      (p.cp? cp).map fun y => l.foldl (fun y w => (T w).report y) y := by
  induction l generalizing p with
  | nil => simp [Pool.drainWords]
  | cons w l ih =>
      obtain ⟨hnot, hnodup⟩ := List.nodup_cons.mp hl
      rw [Pool.drainWords_cons]
      refine (ih _ hnodup fun v hv => ?_).trans ?_
      · have hne : w ≠ v := fun he => hnot (he ▸ hv)
        exact (p.tile_drainWord_ne m cp hne).trans (hT v (List.mem_cons_of_mem _ hv))
      · rw [Pool.cp?_drainWord, hT w List.mem_cons_self, Option.map_map]
        rfl

theorem Pool.rewritten_drainWords (T : Nat → Tile) (p : Pool) (l : List Nat) (hl : l.Nodup) (hd : m.d + 32 ≤ 256)
    (hT : ∀ w ∈ l, p.tile (2 * w + m.acc) = T w) :
    Rewritten p (l.flatMap (wordPlaces m.d)) (drainAt T m.d) (p.drainWords m cp l) := by
  unfold Pool.drainWords
  refine Rewritten.fold (fun w q => q.tile (2 * w + m.acc) = T w) l hl hT
    (fun w _ q hq => q.rewritten_drainWord m w T cp hd hq)
    (fun w v q hwv hq => (q.tile_drainWord_ne m cp hwv).trans hq) fun w v hwv x hx hx' => ?_
  exact hwv ((mem_wordPlaces.mp hx).1.symm.trans (mem_wordPlaces.mp hx').1)

end

/-! ### What the CP hears -/

theorem bits_or_poison (k : Word) : bits 23 0 (k ||| 0x80000000) = bits 23 0 k := by
  simp only [bits_low, BitVec.toNat_or, Nat.or_mod_two_pow]
  simp

theorem ofNat_and_poison {v : Nat} (hv : v ≤ 0xFFFFFF) : BitVec.ofNat 32 v &&& 0x80000000 = 0 := by
  have hbit : v.testBit 31 = false := Nat.testBit_lt_two_pow (by omega)
  refine BitVec.eq_of_toNat_eq ?_
  rw [BitVec.toNat_and, BitVec.toNat_ofNat, Nat.mod_eq_of_lt (by omega)]
  exact (Nat.and_two_pow v 31).trans (by rw [hbit]; rfl)

theorem bits_corrections (k : Word) {v : Nat} (hv : v ≤ 0xFFFFFF) :
    bits 23 0 ((k &&& 0x80000000) ||| BitVec.ofNat 32 v) = v := by
  rw [bits_low, BitVec.toNat_or, Nat.or_mod_two_pow, BitVec.toNat_and, Nat.and_mod_two_pow, BitVec.toNat_ofNat,
    show v % 2 ^ 32 % 2 ^ (23 + 1) = v by omega]
  simp

theorem and_corrections (k : Word) {v : Nat} (hv : v ≤ 0xFFFFFF) :
    ((k &&& 0x80000000) ||| BitVec.ofNat 32 v) &&& 0x80000000 = k &&& 0x80000000 := by
  rw [BitVec.and_or_distrib_right, ofNat_and_poison hv, BitVec.and_assoc, BitVec.and_self]
  exact BitVec.or_zero

theorem Cp.addCorr_addCorr (y : Cp) (a b : Nat) : (y.addCorr a).addCorr b = y.addCorr (a + b) := by
  have hmin : min (min (bits 23 0 y.cki + a) 0xFFFFFF + b) 0xFFFFFF = min (bits 23 0 y.cki + (a + b)) 0xFFFFFF := by omega
  unfold Cp.addCorr
  dsimp only
  rw [bits_corrections _ (min_le_right _ _), and_corrections _ (min_le_right _ _), hmin]

theorem addCorr_poisonedBy (b : Bool) (y : Cp) (n : Nat) : (poisonedBy b y).addCorr n = poisonedBy b (y.addCorr n) := by
  have absorb (k v : Word) : (k ||| 0x80000000) &&& 0x80000000 ||| v = (k &&& 0x80000000 ||| v) ||| 0x80000000 := by
    refine BitVec.eq_of_getElem_eq fun i hi => ?_
    simp only [BitVec.getElem_or, BitVec.getElem_and]
    cases k[i] <;> cases v[i] <;> cases (0x80000000 : Word)[i] <;> rfl
  cases b with
  | false => rfl
  | true => simp only [poisonedBy, if_true, Cp.addCorr, bits_or_poison, absorb]

theorem poisonedBy_poisonedBy (a b : Bool) (y : Cp) : poisonedBy a (poisonedBy b y) = poisonedBy (b || a) y := by
  cases a <;> cases b <;> simp [poisonedBy, BitVec.or_assoc]

/-- R230, R231: the corrections of all tiles add up, and one poisoned tile marks the CP. -/
theorem foldl_report (T : Nat → Tile) (l : List Nat) (hne : l ≠ []) (y : Cp) :
    l.foldl (fun y w => (T w).report y) y =
      poisonedBy (l.any fun w => (T w).poison) (y.addCorr (l.map fun w => (T w).corrp).sum) := by
  induction l generalizing y with
  | nil => exact absurd rfl hne
  | cons w l ih =>
      rw [List.foldl_cons]
      by_cases hl : l = []
      · simp [hl, Tile.report]
      · rw [ih hl, Tile.report, addCorr_poisonedBy, Cp.addCorr_addCorr, poisonedBy_poisonedBy, List.any_cons,
          List.map_cons, List.sum_cons]

theorem Tile.report_keeps (t : Tile) (y : Cp) : (t.report y).fstat = y.fstat ∧ (t.report y).mtx = y.mtx := by
  unfold Tile.report poisonedBy
  split <;> exact ⟨rfl, rfl⟩

theorem foldl_report_keeps (T : Nat → Tile) (l : List Nat) (y : Cp) :
    (l.foldl (fun y w => (T w).report y) y).fstat = y.fstat ∧ (l.foldl (fun y w => (T w).report y) y).mtx = y.mtx := by
  induction l generalizing y with
  | nil => exact ⟨rfl, rfl⟩
  | cons w l ih =>
      obtain ⟨hf, hm⟩ := (T w).report_keeps y
      exact ⟨(ih _).1.trans hf, (ih _).2.trans hm⟩

/-! ### The registers and flags of a drain -/

theorem allFlags_eq_zero {l : List (α × Flags)} (h : ∀ e ∈ l, e.2 = 0) : allFlags l = 0 := by
  induction l with
  | nil => rfl
  | cons e l ih =>
      rw [allFlags_cons, h e List.mem_cons_self, ih fun x hx => h x (List.mem_cons_of_mem _ hx)]
      rfl

/-- Where some items raise nothing, the others raise all flags. -/
theorem allFlags_filter {κ : Type} (p : κ → Bool) (g g' : κ → List (α × Flags)) (l : List κ)
    (h0 : ∀ k ∈ l, p k = false → allFlags (g k) = 0) (h1 : ∀ k ∈ l, p k = true → g k = g' k) :
    allFlags (l.flatMap g) = allFlags ((l.filter p).flatMap g') := by
  induction l with
  | nil => rfl
  | cons k l ih =>
      have hrest := ih (fun j hj => h0 j (List.mem_cons_of_mem _ hj)) fun j hj => h1 j (List.mem_cons_of_mem _ hj)
      rw [List.flatMap_cons, allFlags_append, hrest]
      cases hk : p k with
      | true => rw [List.filter_cons_of_pos hk, List.flatMap_cons, allFlags_append, h1 k List.mem_cons_self hk]
      | false =>
          rw [List.filter_cons_of_neg (by simp [hk]), h0 k List.mem_cons_self hk]
          simp

/-- What a drain makes of the registers of a word, element by element. -/
theorem map_drainAt_wordPlaces (T : Nat → Tile) (d w : Nat) (p : Pool) :
    ((wordPlaces d w).map fun x => drainAt T d x (p.reg x.1 x.2)) = (List.range 32).flatMap fun i =>
      (List.range 32).map fun j => (T w).drainCell i j (p.reg (32 * w + i) (d + j)) := by
  simp only [wordPlaces, rowPlaces, List.map_flatMap, List.map_cons, List.map_nil]
  refine List.flatMap_congr fun i hi => ?_
  simp only [drainAt_element T d w _ (List.mem_range.mp hi)]
  exact (List.map_eq_flatMap ..).symm

section
variable {p : Pool} {m : MatrixCmd} {cp : Nat} {l : List Nat} (hl : l.Nodup) (hd : m.d + 32 ≤ 256)
include hl hd

theorem Pool.reg_drainWords {w i j : Nat} (hw : w ∈ l) (hi : i < 32) (hj : j < 32) :
    (p.drainWords m cp l).1.reg (32 * w + i) (m.d + j) =
      ((p.tile (2 * w + m.acc)).drainCell i j (p.reg (32 * w + i) (m.d + j))).1 := by
  have hin : (32 * w + i, m.d + j) ∈ l.flatMap (wordPlaces m.d) :=
    List.mem_flatMap.mpr ⟨w, hw, mem_wordPlaces.mpr (by dsimp only; omega)⟩
  have hnew := (Pool.rewritten_drainWords m cp (fun w => p.tile (2 * w + m.acc)) p l hl hd fun _ _ => rfl).new _ hin
  rwa [drainAt_element _ _ _ _ hi] at hnew

theorem Pool.reg_drainWords_other {u n : Nat} (hn : n < 256) (h : ¬(u / 32 ∈ l ∧ m.d ≤ n ∧ n < m.d + 32)) :
    (p.drainWords m cp l).1.reg u n = p.reg u n := by
  refine (Pool.rewritten_drainWords m cp (fun w => p.tile (2 * w + m.acc)) p l hl hd fun _ _ => rfl).old (u, n) hn
    fun hin => h ?_
  obtain ⟨w, hw, hx⟩ := List.mem_flatMap.mp hin
  obtain ⟨hu, hlow, hhigh⟩ := mem_wordPlaces.mp hx
  exact ⟨hu ▸ hw, hlow, hhigh⟩

/-- R79, R231: the elements of the tiles that are not poisoned raise their flags. -/
theorem Pool.flags_drainWords : (p.drainWords m cp l).2 =
    allFlags ((l.filter fun w => (p.tile (2 * w + m.acc)).poison = false).flatMap fun w =>
      (List.range 32).flatMap fun i => (List.range 32).map fun j =>
        (p.tile (2 * w + m.acc)).scaled i j (p.reg (32 * w + i) (m.d + j))) := by
  rw [(Pool.rewritten_drainWords m cp (fun w => p.tile (2 * w + m.acc)) p l hl hd fun _ _ => rfl).flags, List.map_flatMap]
  refine allFlags_filter _ _ _ _ (fun w _ hp => allFlags_eq_zero fun e he => ?_) fun w _ hp => ?_
  · rw [map_drainAt_wordPlaces] at he
    obtain ⟨i, -, hrow⟩ := List.mem_flatMap.mp he
    obtain ⟨j, -, rfl⟩ := List.mem_map.mp hrow
    rw [Tile.drainCell_poisoned (by simpa using hp)]
  · rw [map_drainAt_wordPlaces]
    simp only [Tile.drainCell_clean (of_decide_eq_true hp)]

end

/-! ### The command -/

theorem Pool.noOtherHold_iff (p : Pool) (c : Nat) :
    p.noOtherHold c = true ↔ ∀ e ∈ p.cps, e.1 ≠ c → e.2.holdLeft = 0 ∨ e.2.begun = false := by
  simp only [Pool.noOtherHold, Cp.inUnit, Cp.holding, Bool.not_eq_true', List.any_eq_false, Bool.and_eq_true, bne_iff_ne]
  refine forall₂_congr fun e _ => ?_
  cases e.2.begun <;> simp

theorem Pool.noOtherHold_eq_false (p : Pool) {c : Nat}
    (h : ∃ e ∈ p.cps, e.1 ≠ c ∧ e.2.holdLeft ≠ 0 ∧ e.2.begun = true) : p.noOtherHold c = false := by
  obtain ⟨e, he, hne, hl, hb⟩ := h
  rw [← Bool.not_eq_true, Pool.noOtherHold_iff]
  exact fun hall => (hall e he hne).elim hl fun h0 => Bool.false_ne_true (h0.symm.trans hb)

section
variable {s : State} {pid : Nat} {p : Pool} {cmd : Cmd} {m : MatrixCmd} (hv : s.viral = none)
  (hp : s.pool? pid = some p) (hm : p.matrix? cmd.id = some (cmd, m))
include hv hp hm

theorem exec_mdrnCompletion : exec (.mdrnCompletion pid cmd.id) s = .next
    (if m.op ≠ .mdrn ∨ p.matrixFirst cmd m = false ∨ p.noOtherHold cmd.cp = false then s
    else
      let r := p.drainWords m cmd.cp m.words
      (s.setPool pid (r.1.endMatrix cmd r.2)).holdSlots
        (p.broadcastSlots (setClocks (Mask.ofTids (wordTids m.words)) 2))) := by
  change execMdrnCompletion pid cmd.id s = _
  unfold execMdrnCompletion
  rw [unlessViral_none hv]
  refine congrArg _ ?_
  unfold State.drain
  simp only [hp, hm, Bool.or_eq_true, decide_eq_true_eq, Bool.not_eq_true', or_assoc]
  rfl

theorem exec_mdrnCompletion_waits (h : p.matrixFirst cmd m = false ∨ p.noOtherHold cmd.cp = false) :
    exec (.mdrnCompletion pid cmd.id) s = .next s := by
  rw [exec_mdrnCompletion hv hp hm, if_pos (.inr h)]

/-- A drain changes its pool and the times of its broadcast slots. -/
theorem exec_mdrnCompletion_drains (hf : p.matrixFirst cmd m = true) (ho : m.op = .mdrn)
    (hh : p.noOtherHold cmd.cp = true) : ∃ t, exec (.mdrnCompletion pid cmd.id) s = .next t ∧ OnlyPool pid s t ∧
      t.pool? pid = some ((p.drainWords m cmd.cp m.words).1.endMatrix cmd (p.drainWords m cmd.cp m.words).2) := by
  refine ⟨_, exec_mdrnCompletion hv hp hm, ?_⟩
  rw [if_neg (by simp [hf, ho, hh])]
  obtain ⟨hrest, hothers, hmem⟩ := onlyPool_setPool s pid
    ((p.drainWords m cmd.cp m.words).1.endMatrix cmd (p.drainWords m cmd.cp m.words).2)
  exact ⟨⟨hrest, hothers, hmem⟩, s.pool?_setPool_self pid _⟩

end

end Sys2Proof.Machine

section

open Sys2Proof Sys2Proof.Machine

/-- Settles O44: a multiply changes the tiles of its words, one step each, whose products are summed exactly; a drain
rewrites each C register once, from what it held before. -/
theorem matrixCommandsExecute : Obligations.MatrixCommandsExecute := by
  unfold Obligations.MatrixCommandsExecute
  refine ⟨fun s pid p cmd m y faults hv hp hm hy => ⟨fun hf => ?_, fun hf => ⟨fun ho => ?_, fun ho => ?_,
    fun ho hhold hnodup hd _ => ?_, fun ho hhold => ?_⟩⟩, fun m w t fs => ?_, fun m old ps => ⟨fun hr => ?_, ?_⟩⟩
  · exact ⟨exec_matrixCommandExecute_later faults hv hp hm hf, exec_mdrnCompletion_waits hv hp hm (.inl hf)⟩
  · have hsame := p.same_zeroTiles m.acc cmd.cp m.words
    refine ⟨_, _, exec_matrixCommandExecute_mzero faults hv hp hm hf ho, onlyPool_setPool s pid _,
      s.pool?_setPool_self pid _, ?_, fun w hw => p.tile_zeroTiles _ _ w _ hw,
      fun k hk => p.tile_zeroTiles_other _ _ k _ hk, hsame.regs, congrArg _ hsame.cmds⟩
    rw [Pool.cp?_endMatrix 0 ((hsame.cp? _).trans hy)]
    simp
  · have hexec := exec_matrixCommandExecute_multiply faults hv hp hm hf ho
    intro run
    have hrun : m.run faults m.words p (flagIf m.metaFlag Flags.META) = run := rfl
    rw [hrun] at hexec
    refine ⟨fun h0 => ?_, fun q f hsome => ?_, fun hnone => ?_⟩
    · rw [← hrun, h0]
      exact m.run_clean m.words p _
    · have hsame := m.run_same (hrun.trans hsome)
      rw [hsome] at hexec
      exact ⟨_, _, hexec, onlyPool_setPool s pid _, s.pool?_setPool_self pid _, rfl, hsame.regs, hsame.spad,
        Pool.cp?_endMatrix f ((hsame.cp? _).trans hy), congrArg _ hsame.cmds⟩
    · rw [hnone] at hexec
      exact hexec
  · intro tile code drained
    obtain ⟨t, hexec, honly, hpool⟩ := exec_mdrnCompletion_drains hv hp hm hf ho ((p.noOtherHold_iff _).mpr hhold)
    obtain ⟨hspad, hcmds⟩ := p.drainWords_keeps m cmd.cp m.words
    have hcp := Pool.cp?_drainWords m cmd.cp tile p m.words hnodup fun _ _ => rfl
    rw [hy, Option.map_some] at hcp
    obtain ⟨hfstat, hmtx⟩ := foldl_report_keeps tile m.words y
    refine ⟨t, _, _, hexec, honly, hpool, fun w hw hclean => ⟨?_, fun i j hi hj => ?_⟩,
      fun w hw hpoison => ⟨?_, fun i j hi hj => ?_⟩, fun u n hn hout => Pool.reg_drainWords_other hnodup hd hn hout,
      hspad, congrArg _ hcmds, Pool.cp?_endMatrix _ hcp, congrArg (· - 1) hmtx, ?_, fun hne => ?_⟩
    · exact (p.tile_drainWords m cmd.cp m.words hnodup hw).trans (Tile.drained_clean hclean)
    · refine (Pool.reg_drainWords hnodup hd hw hi hj).trans ?_
      rw [Tile.drainCell_clean hclean]
      rfl
    · exact (p.tile_drainWords m cmd.cp m.words hnodup hw).trans (Tile.drained_poisoned hpoison)
    · refine (Pool.reg_drainWords hnodup hd hw hi hj).trans ?_
      rw [Tile.drainCell_poisoned hpoison]
    · dsimp only
      rw [hfstat, Pool.flags_drainWords hnodup hd]
      rfl
    · dsimp only
      rw [foldl_report tile m.words hne y]
  · exact exec_mdrnCompletion_waits hv hp hm (.inr (p.noOtherHold_eq_false hhold))
  · intro mine wrong
    have hwrong (l : List ProductFault) (h : wrong l) : disagrees (deltaSum l) = true := (disagrees_deltaSum l).mpr h
    have hin (f : ProductFault) (hf : f ∈ mine) : f.row < 32 ∧ f.col < 32 := faultsOf_small hf
    refine ⟨fun hnone => ?_, fun i j hne hall hw u f hu => ?_, fun f g htwo hne hf hg => ?_⟩
    · exact ⟨_, _, m.step_clean t hnone, rfl, rfl, rfl, rfl, rfl, rfl, rfl, rfl,
        fun i j hi hj => get_tileList _ hi hj, rfl⟩
    · obtain ⟨f0, hf0⟩ := List.exists_mem_of_ne_nil mine hne
      obtain ⟨rfl, rfl⟩ := hall f0 hf0
      obtain ⟨hi, hj⟩ := hin f0 hf0
      rw [m.step_corrected t hall (locate_one hi hj hall (hwrong mine hw)), hu]
      rfl
    · have hlost := locate_two ⟨hin f (by simp [htwo]), hin g (by simp [htwo])⟩ hne (hwrong _ hf) (hwrong _ hg)
      rw [← htwo] at hlost
      exact m.step_lost t hlost
  · exact ⟨by rw [m.element_residue old ps hr], m.element_exact old ps hr⟩
  · exact fun hr => m.element_fp old ps hr

end

/-! Instructions and their words (R86 to R91, R103): a row of the encoding tables fixes every bit of the words of its
instruction, so that decoding and encoding are inverse to each other. -/

namespace Sys2Proof

open Machine

/-! ### The parts of bytes and words (R7)

Each layout that the encoding tables use is one equivalence: a byte or word is its parts in a row exactly when each part
is the bits at its place. Read one way it gives the decoder's fields, read the other way the encoder's words. -/

theorem eq_append_iff {v w : Nat} (x : BitVec (v + w)) (hi : BitVec v) (lo : BitVec w) :
    x = hi ++ lo ↔ x.extractLsb' w v = hi ∧ x.extractLsb' 0 w = lo := by
  constructor
  · rintro rfl
    exact ⟨BitVec.extractLsb'_append_eq_left, BitVec.extractLsb'_append_eq_right⟩
  · rintro ⟨rfl, rfl⟩
    exact BitVec.extractLsb'_append_extractLsb'.symm

theorem extractLsb'_extractLsb' (x : BitVec n) {k len j m : Nat} (h : j + m ≤ len) :
    (x.extractLsb' k len).extractLsb' j m = x.extractLsb' (k + j) m := by
  ext i hi
  simp only [BitVec.getElem_extractLsb', BitVec.getLsbD_extractLsb', Nat.add_assoc]
  simp only [show j + i < len by omega, decide_true, Bool.true_and]

theorem extractLsb'_eq_append_iff {n k v w : Nat} (x : BitVec n) (hi : BitVec v) (lo : BitVec w) :
    x.extractLsb' k (v + w) = hi ++ lo ↔ x.extractLsb' (k + w) v = hi ∧ x.extractLsb' k w = lo := by
  rw [eq_append_iff, extractLsb'_extractLsb' x (by omega), extractLsb'_extractLsb' x (by omega)]
  rfl

section
variable {x : Byte} {w : Word}

theorem byte_eq_7_1 {f : BitVec 7} {g : BitVec 1} : x = f ++ g ↔ x.extractLsb' 1 7 = f ∧ x.extractLsb' 0 1 = g :=
  eq_append_iff x f g

theorem byte_eq_5_3 {f : BitVec 5} {g : BitVec 3} : x = f ++ g ↔ x.extractLsb' 3 5 = f ∧ x.extractLsb' 0 3 = g :=
  eq_append_iff x f g

theorem byte_eq_4_4 {f g : BitVec 4} : x = f ++ g ↔ x.extractLsb' 4 4 = f ∧ x.extractLsb' 0 4 = g :=
  eq_append_iff x f g

theorem byte_eq_5_1_2 {f : BitVec 5} {g : BitVec 1} {h : BitVec 2} :
    x = f ++ g ++ h ↔ (x.extractLsb' 3 5 = f ∧ x.extractLsb' 2 1 = g) ∧ x.extractLsb' 0 2 = h := by
  rw [eq_append_iff x (f ++ g) h, extractLsb'_eq_append_iff]

theorem byte_eq_3_2_3 {f : BitVec 3} {g : BitVec 2} {h : BitVec 3} :
    x = f ++ g ++ h ↔ (x.extractLsb' 5 3 = f ∧ x.extractLsb' 3 2 = g) ∧ x.extractLsb' 0 3 = h := by
  rw [eq_append_iff x (f ++ g) h, extractLsb'_eq_append_iff]

theorem byte_eq_3_1_4 {f : BitVec 3} {g : BitVec 1} {h : BitVec 4} :
    x = f ++ g ++ h ↔ (x.extractLsb' 5 3 = f ∧ x.extractLsb' 4 1 = g) ∧ x.extractLsb' 0 4 = h := by
  rw [eq_append_iff x (f ++ g) h, extractLsb'_eq_append_iff]

theorem byte_eq_2_1_5 {f : BitVec 2} {g : BitVec 1} {h : BitVec 5} :
    x = f ++ g ++ h ↔ (x.extractLsb' 6 2 = f ∧ x.extractLsb' 5 1 = g) ∧ x.extractLsb' 0 5 = h := by
  rw [eq_append_iff x (f ++ g) h, extractLsb'_eq_append_iff]

theorem byte_eq_1_1_1_5 {f g h : BitVec 1} {i : BitVec 5} : x = f ++ g ++ h ++ i ↔
    ((x.extractLsb' 7 1 = f ∧ x.extractLsb' 6 1 = g) ∧ x.extractLsb' 5 1 = h) ∧ x.extractLsb' 0 5 = i := by
  rw [eq_append_iff x (f ++ g ++ h) i, extractLsb'_eq_append_iff, extractLsb'_eq_append_iff]

theorem eq_word_29_3 {f : BitVec 29} {g : BitVec 3} : f ++ g = w ↔ w.extractLsb' 3 29 = f ∧ w.extractLsb' 0 3 = g :=
  eq_comm.trans (eq_append_iff w f g)

theorem eq_word_28_4 {f : BitVec 28} {g : BitVec 4} : f ++ g = w ↔ w.extractLsb' 4 28 = f ∧ w.extractLsb' 0 4 = g :=
  eq_comm.trans (eq_append_iff w f g)

theorem eq_word_12_4_16 {f : BitVec 12} {g : BitVec 4} {h : BitVec 16} :
    f ++ g ++ h = w ↔ (w.extractLsb' 20 12 = f ∧ w.extractLsb' 16 4 = g) ∧ w.extractLsb' 0 16 = h := by
  rw [eq_comm, eq_append_iff w (f ++ g) h, extractLsb'_eq_append_iff]

theorem eq_word_16_8_6_2 {f : BitVec 16} {g : BitVec 8} {h : BitVec 6} {i : BitVec 2} : f ++ g ++ h ++ i = w ↔
    ((w.extractLsb' 16 16 = f ∧ w.extractLsb' 8 8 = g) ∧ w.extractLsb' 2 6 = h) ∧ w.extractLsb' 0 2 = i := by
  rw [eq_comm, eq_append_iff w (f ++ g ++ h) i, extractLsb'_eq_append_iff, extractLsb'_eq_append_iff]

theorem eq_offset_iff {a b : Byte} {o : BitVec 16} : o = a ++ b ↔ a = o.extractLsb' 8 8 ∧ b = o.extractLsb' 0 8 := by
  rw [eq_append_iff o a b, eq_comm (b := a), eq_comm (b := b)]

theorem offset_hi {a b : Byte} : (a ++ b : BitVec 16).extractLsb' 8 8 = a := (eq_offset_iff.mp rfl).1.symm
theorem offset_lo {a b : Byte} : (a ++ b : BitVec 16).extractLsb' 0 8 = b := (eq_offset_iff.mp rfl).2.symm

theorem eq_word_iff {opc d a b : Byte} : w = word opc d a b ↔
    ((w.extractLsb' 24 8 = opc ∧ w.extractLsb' 16 8 = d) ∧ w.extractLsb' 8 8 = a) ∧ w.extractLsb' 0 8 = b := by
  rw [word, eq_append_iff w (opc ++ d ++ a) b, extractLsb'_eq_append_iff, extractLsb'_eq_append_iff]

theorem word_eq_word_iff {k e f g opc d a b : Byte} :
    word k e f g = word opc d a b ↔ opc = k ∧ d = e ∧ a = f ∧ b = g := by
  obtain ⟨⟨⟨h1, h2⟩, h3⟩, h4⟩ := (eq_word_iff (w := word opc d a b)).mp rfl
  rw [eq_comm, eq_word_iff, h1, h2, h3, h4]
  tauto

theorem Prefix.eq_toWord_iff {p : Prefix} :
    w = p.toWord ↔ w.extractLsb' 26 6 = 0b111101#6 ∧ w.extractLsb' 0 7 = 0 ∧ p = Prefix.ofWord w := by
  rw [toWord, eq_append_iff w (0b111101#6 ++ p.mask ++ p.zero ++ p.rnd ++ p.type ++ p.x) 0#7]
  iterate 5 rw [extractLsb'_eq_append_iff]
  cases p
  simp only [Prefix.ofWord, Prefix.mk.injEq]
  tauto

theorem Access.toWord_eq_iff {y : Access} {space : BitVec 1} :
    y.toWord space = w ↔ w.extractLsb' 9 7 = 0 ∧ w.extractLsb' 8 1 = space ∧ Access.ofWord w = y := by
  rw [eq_comm, toWord, eq_append_iff w (y.disp ++ 0#7 ++ space ++ y.op ++ y.ord) y.scope]
  iterate 4 rw [extractLsb'_eq_append_iff]
  cases y
  simp only [Access.ofWord, Access.mk.injEq]
  tauto

theorem reserved_access_iff : w.extractLsb' 8 8 = 0#8 ↔ w.extractLsb' 9 7 = 0#7 ∧ w.extractLsb' 8 1 = 0#1 :=
  extractLsb'_eq_append_iff w 0#7 0#1

end

/-! ### Rows of the encoding tables -/

/-- A row that uses every bit, in the shape of `reserve_eq_ok_iff`, so that one argument treats both kinds of row. -/
theorem ok_eq_ok_iff {i j : Instr} : (Except.ok i : Except DecodeError Instr) = .ok j ↔ j = i ∧ True := by
  rw [Except.ok.injEq, eq_comm, and_true]

theorem reserve_eq_ok_iff {ok : Prop} [Decidable ok] {i j : Instr} : reserve ok i = .ok j ↔ j = i ∧ ok := by
  unfold reserve
  split <;> simp [*, eq_comm]

/-- R89, R103: each row of `assemble` accepts only the words that `encodeBody` writes for its instruction: the fields
that it reads and the zeros that it checks are together all the bits of the words. -/
theorem encodeBody_of_assemble {p : Option Prefix} {opc : Nat} {d a b : Byte} {l0 l1 l2 l3 : Word} {i : Instr} :
    assemble p opc d a b l0 l1 l2 l3 = .ok i → i.pfx = p ∧
      encodeBody i = some (word (BitVec.ofNat 8 opc) d a b :: [l0, l1, l2, l3].take (extraWords opc)) := by
  fun_cases assemble p opc d a b l0 l1 l2 l3
  all_goals simp only [reserve_eq_ok_iff, ok_eq_ok_iff, reduceCtorEq, false_imp_iff]
  -- VATOM and VRED: the SPACE bit of the access word tells their two rows apart
  case case123 | case124 =>
    rintro ⟨rfl, hreserved⟩
    have hspace := BitVec.eq_zero_or_eq_one (l0.extractLsb' 8 1)
    split <;> simp_all [Instr.pfx, encodeBody, extraWords, Access.toWord_eq_iff]
  -- VMOV, whose field a is what tells its two rows apart
  case case103 ha =>
    rintro ⟨rfl, -⟩
    rw [ha]
    exact ⟨rfl, rfl⟩
  all_goals
    rintro ⟨rfl, h⟩
    refine ⟨rfl, congrArg some (congrArg₂ List.cons (word_eq_word_iff.mpr ?_) ?_)⟩
    · simp [h, byte_eq_7_1, byte_eq_5_3, byte_eq_4_4, byte_eq_5_1_2, byte_eq_3_2_3, byte_eq_3_1_4, byte_eq_2_1_5,
        byte_eq_1_1_1_5, offset_hi, offset_lo]
    · simp [h, extraWords, eq_word_29_3, eq_word_28_4, eq_word_12_4_16, eq_word_16_8_6_2, Access.toWord_eq_iff,
        reserved_access_iff.mp]

/-- R89, R103: the row of an instruction accepts the words that `encodeBody` writes for it. -/
theorem assemble_of_encodeBody {opc d a b : Byte} {l0 l1 l2 l3 : Word} {i : Instr}
    (h : encodeBody i = some (word opc d a b :: [l0, l1, l2, l3].take (extraWords opc.toNat))) :
    assemble i.pfx opc.toNat d a b l0 l1 l2 l3 = .ok i := by
  cases i
  all_goals simp only [encodeBody, reduceCtorEq, Option.some.injEq, List.cons.injEq, word_eq_word_iff, byte_eq_7_1,
    byte_eq_5_3, byte_eq_4_4, byte_eq_5_1_2, byte_eq_3_2_3, byte_eq_3_1_4, byte_eq_2_1_5, byte_eq_1_1_1_5] at h
  all_goals obtain ⟨⟨rfl, h⟩, hl⟩ := h
  case vmov | vmovScalar =>
    obtain ⟨rfl, rfl, rfl⟩ := h
    rfl
  -- an access word
  case vatomSpad | vatomGlobal | vredSpad | vredGlobal =>
    obtain ⟨rfl, rfl, rfl⟩ := h
    obtain ⟨h9, h8, rfl⟩ := Access.toWord_eq_iff.mp (List.cons.inj hl).1
    exact reserve_eq_ok_iff.mpr ⟨by simp [Instr.pfx, h8], h9⟩
  case vld | vst | pref =>
    obtain ⟨rfl, rfl, rfl⟩ := h
    obtain ⟨h9, h8, rfl⟩ := Access.toWord_eq_iff.mp (List.cons.inj hl).1
    exact reserve_eq_ok_iff.mpr ⟨rfl, reserved_access_iff.mpr ⟨h9, h8⟩⟩
  -- a tensor record
  case cpy | mrg | mmas =>
    obtain ⟨rfl, rfl, rfl, rfl⟩ := h
    cases hl
    rfl
  case rcdef =>
    obtain ⟨rfl, rfl, h4, rfl⟩ := h
    cases hl
    exact reserve_eq_ok_iff.mpr ⟨rfl, rfl, h4⟩
  -- literal words
  case bri | sli | setmLiteral | setfLiteral | vmovi | maskop | vcmp | vshfl | sysc =>
    apply reserve_eq_ok_iff.mpr
    simp [extraWords, eq_word_29_3, eq_word_28_4, eq_word_12_4_16, eq_word_16_8_6_2] at hl
    simp [Instr.pfx, *]
  -- a branch offset
  case br | brz | brnz =>
    apply reserve_eq_ok_iff.mpr
    simp [Instr.pfx, eq_offset_iff, *]
  case brc | loop | call =>
    refine ok_eq_ok_iff.mpr ⟨?_, trivial⟩
    simp [Instr.pfx, eq_offset_iff, *]
  -- rows with no reserved bit
  case sadd | ssub | smul | smulh | sand | sor | sxor | sshl | sshr | ssar | smin | smax | scmp | ssel | sfns |
    srch | srca | vadd | vsub | vmul | vmulh | vfma | vmin | vmax | vclamp | vdot4 | vscal | vand | vor | vxor |
    vandn | vshl | vshr | vsar | vrot | vfns | vbfx | vbfi | vsel | vpack | vunpk | vlds | vperm | vbcst | mma |
    mmaq =>
    refine ok_eq_ok_iff.mpr ⟨?_, trivial⟩
    simp [Instr.pfx, *]
  all_goals
    apply reserve_eq_ok_iff.mpr
    simp [Instr.pfx, *]

/-- R90, R103: an encoding is the word of an assigned opcode and as many words more as the opcode has. -/
theorem encodeBody_shape {i : Instr} {ws : List Word} (h : encodeBody i = some ws) :
    ∃ opc d a b ls, ws = word opc d a b :: ls ∧ i.opcode = some opc.toNat ∧ assigned opc.toNat = true ∧
      ls.length = extraWords opc.toNat := by
  cases i <;> cases h
  all_goals exact ⟨_, _, _, _, _, rfl, rfl, rfl, rfl⟩

theorem encodeBody_isNone (i : Instr) : (encodeBody i).isNone = isEvent i := by
  cases i <;> rfl

/-! ### One instruction word with the words after it -/

theorem extraWords_le (opc : Nat) : extraWords opc ≤ 4 := by
  unfold extraWords
  split_ifs <;> omega

theorem take_getD {ws : List Word} {n : Nat} (h4 : n ≤ 4) (h : n ≤ ws.length) :
    [ws.getD 0 0, ws.getD 1 0, ws.getD 2 0, ws.getD 3 0].take n = ws.take n := by
  refine List.ext_getElem (by simp [h4, h]) fun k hk _ => ?_
  have hkn : k < n := by simp at hk; omega
  have hk4 : k < 4 := by omega
  have hlen : k < ws.length := by omega
  rw [List.getElem_take, List.getElem_take]
  interval_cases k <;> exact List.getD_eq_getElem ws 0 hlen

theorem assigned_lt {opc : Nat} (h : assigned opc = true) : opc < 0xF0 := by
  simp only [assigned, Bool.or_eq_true, Bool.and_eq_true, decide_eq_true_eq] at h
  omega

/-- R86: the assigned opcodes are below 0xF0, where the words of the other kinds begin. -/
theorem wordKind_of_assigned {w : Word} (h : assigned (w.extractLsb' 24 8).toNat = true) : wordKind w = .opcode := by
  have hlt := assigned_lt h
  simp only [BitVec.extractLsb'_toNat, Nat.shiftRight_eq_div_pow] at hlt
  unfold wordKind
  simp only [← BitVec.toNat_inj, BitVec.extractLsb'_toNat, Nat.shiftRight_eq_div_pow, BitVec.toNat_ofNat]
  rw [if_neg (by omega), if_neg (by omega), if_neg (by omega)]

theorem decodeBody_eq_ok_iff {p : Option Prefix} {w : Word} {rest tail : List Word} {i : Instr} :
    decodeBody p w rest = .ok (i, tail) ↔ i.pfx = p ∧ ∃ ls, encodeBody i = some (w :: ls) ∧ rest = ls ++ tail := by
  have hw : word (w.extractLsb' 24 8) (w.extractLsb' 16 8) (w.extractLsb' 8 8) (w.extractLsb' 0 8) = w :=
    (eq_word_iff.mpr ⟨⟨⟨rfl, rfl⟩, rfl⟩, rfl⟩).symm
  have h4 := extraWords_le (w.extractLsb' 24 8).toNat
  constructor
  · fun_cases decodeBody p w rest with
    | case3 opc n _ hlen j hj =>
        rintro ⟨⟩
        obtain ⟨hp, he⟩ := encodeBody_of_assemble hj
        rw [BitVec.ofNat_toNat, BitVec.setWidth_eq, hw, take_getD h4 (Nat.not_lt.mp hlen)] at he
        exact ⟨hp, _, he, (List.take_append_drop _ rest).symm⟩
    | case1 | case2 | case4 => simp
  · rintro ⟨rfl, ls, he, rfl⟩
    obtain ⟨opc, d, a, b, ls, hcons, -, hassigned, hlen⟩ := encodeBody_shape he
    obtain ⟨rfl, rfl⟩ := List.cons.inj hcons
    obtain ⟨⟨⟨hopc, hd⟩, ha⟩, hb⟩ := eq_word_iff.mp (rfl : word opc d a b = word opc d a b)
    have htake := take_getD (ws := ls ++ tail) (hopc ▸ h4) (by simp [hlen])
    rw [List.take_left' hlen] at htake
    rw [← htake] at he
    unfold decodeBody
    simp only [hopc, hd, ha, hb, hassigned, assemble_of_encodeBody he, List.length_append, hlen]
    simp [← hlen]

/-! ### Prefixes -/

theorem decode_eq_decodeBody {w : Word} (h : wordKind w = .opcode) (r : List Word) :
    decode (w :: r) = decodeBody none w r := by
  simp only [decode, h]

theorem wordKind_toWord (p : Prefix) : wordKind p.toWord = .pfx := by
  unfold wordKind
  rw [(Prefix.eq_toWord_iff.mp rfl).1]
  rfl

theorem decode_pfx (p : Prefix) {v : Word} (h : wordKind v = .opcode) (r : List Word) :
    decode (p.toWord :: v :: r) = decodeBody (some p) v r := by
  obtain ⟨-, hlow, hp⟩ := Prefix.eq_toWord_iff.mp (rfl : p.toWord = p.toWord)
  simp only [decode, wordKind_toWord, hlow, ← hp, h]
  rfl

theorem pfx_of_wordKind {w : Word} (h : wordKind w = .pfx) : w.extractLsb' 26 6 = 0b111101#6 := by
  unfold wordKind at h
  split_ifs at h
  assumption

/-- R87: what decodes starts with the word of an opcode, or with that of a `Prefix` and then the word of an opcode. -/
theorem decode_eq_ok {ws : List Word} {x : Instr × List Word} (h : decode ws = .ok x) :
    (∃ w r, ws = w :: r ∧ decodeBody none w r = .ok x) ∨
    (∃ p v r, ws = Prefix.toWord p :: v :: r ∧ decodeBody (some p) v r = .ok x) := by
  fun_cases decode ws with
  | case4 w r hw => exact .inl ⟨w, r, rfl, (decode_eq_decodeBody hw r).symm.trans h⟩
  | case10 w hw hlow v r hv =>
      have hpfx := Prefix.eq_toWord_iff.mpr ⟨pfx_of_wordKind hw, not_not.mp hlow, rfl⟩
      rw [hpfx, decode_pfx _ hv] at h
      exact .inr ⟨Prefix.ofWord w, v, r, by rw [← hpfx], h⟩
  | case1 | case2 | case3 | case5 | case6 | case7 | case8 | case9 => simp_all [decode]

theorem encode_eq_some_iff {i : Instr} {l : List Word} :
    encode i = some l ↔ ∃ ws, encodeBody i = some ws ∧ l = (i.pfx.map Prefix.toWord).toList ++ ws := by
  unfold encode
  cases encodeBody i <;> cases i.pfx <;> simp [eq_comm]

/-- R86, R87: words decode to an instruction exactly when they begin with its encoding. -/
theorem decode_eq_ok_iff {ws rest : List Word} {i : Instr} :
    decode ws = .ok (i, rest) ↔ ∃ l, encode i = some l ∧ ws = l ++ rest := by
  simp only [encode_eq_some_iff]
  constructor
  · intro h
    rcases decode_eq_ok h with ⟨w, r, rfl, hbody⟩ | ⟨p, v, r, rfl, hbody⟩
    all_goals
      obtain ⟨hp, ls, he, rfl⟩ := decodeBody_eq_ok_iff.mp hbody
      exact ⟨_, ⟨_, he, rfl⟩, by simp [hp]⟩
  · rintro ⟨_, ⟨body, he, rfl⟩, rfl⟩
    obtain ⟨opc, d, a, b, ls, rfl, -, hassigned, -⟩ := encodeBody_shape he
    have hkind : wordKind (word opc d a b) = .opcode :=
      wordKind_of_assigned (by rw [(eq_word_iff.mp rfl).1.1.1]; exact hassigned)
    have hbody := decodeBody_eq_ok_iff.mpr ⟨rfl, ls, he, rfl (a := ls ++ rest)⟩
    cases hp : i.pfx with
    | none => exact (decode_eq_decodeBody hkind _).trans (hp ▸ hbody)
    | some p => exact (decode_pfx p hkind _).trans (hp ▸ hbody)

theorem encode_length {i : Instr} {l : List Word} (h : encode i = some l) : l.length = i.words ∧ l.length ≤ 6 := by
  obtain ⟨ws, he, rfl⟩ := encode_eq_some_iff.mp h
  obtain ⟨opc, d, a, b, ls, rfl, hopc, -, hlen⟩ := encodeBody_shape he
  have h4 := extraWords_le opc.toNat
  unfold Instr.words
  rw [hopc]
  cases i.pfx <;> simp [hlen] <;> omega

theorem encode_isNone (i : Instr) : (encode i).isNone = isEvent i := by
  rw [← encodeBody_isNone]
  unfold encode
  cases encodeBody i <;> cases i.pfx <;> rfl

end Sys2Proof

section

open Sys2Proof Sys2Proof.Machine

/-- Settles O5: what decodes is exactly what `encode` writes, followed by the words handed back; neither direction needs
more of an instruction than that it has an encoding. -/
theorem decodeAndEncodeAgree : Obligations.DecodeAndEncodeAgree := by
  unfold Obligations.DecodeAndEncodeAgree
  exact ⟨fun i ws rest _ he => ⟨decode_eq_ok_iff.mpr ⟨ws, he, rfl⟩, encode_length he⟩,
    fun i ws rest => decode_eq_ok_iff.mp, encode_isNone⟩

end

/-! The checks of R105 before an instruction issues, and the trap of a CP at whose pc no instruction stands (R26, R45 to
R47, R104 to R106, R133, R160, R183). -/

namespace Sys2Proof.Machine

/-! ### The order of the checks -/

theorem issue_own_shape {i : Instr} {h : Shape} (hs : shapeOf i = h) (body : Ctx → State → Res) (s : State) :
    ∃ b, issue i h body s = issue i (shapeOf i) b s := ⟨body, by rw [hs]⟩

/-- Every instruction issues through the one wrapper, in its own shape. -/
theorem exec_eq_issue {i : Instr} (h : isEvent i = false) (s : State) :
    ∃ body, exec i s = issue i (shapeOf i) body s := by
  cases i <;> cases h
  all_goals
    simp only [exec]
    delta execNop execEnd_ execBr execBrc execBrz execBrnz execLoop execCall execRet execBri execSadd execSsub
      execSmul execSmulh execSand execSor execSxor execSshl execSshr execSsar execSmin execSmax execScmp execSsel
      execSmov execSli execSpopc execSclz execSfns execSbrev execSld execSst execGetst execClrst execSetm
      execSetmLiteral execSetf execSetfLiteral execGetm execGetf execSrch execSrca execSrcx execPopr execPushm
      execSavm execMaskop execFrst execDropf execRcount execRget execRput execHold execRelh execRsum execRmin
      execRmax execArgmx execRand execRor execScan execMatch execWaitc execWatch execYield_ execNopre execPre
      execGinit execGarr execGexp execGwait execFence execVadd execVsub execVmul execVmulh execVfma execVmin
      execVmax execVabs execVneg execVclamp execVdot4 execVscal execVand execVor execVxor execVandn execVnot
      execVshl execVshr execVsar execVrot execVpopc execVclz execVctz execVfns execVbrev execVbfx execVbfi
      execVcmp execVsel execVmov execVmovScalar execVmovi execTid execVcvt execVpack execVunpk execVrcp execVrsq
      execVsqt execVex2 execVlg2 execVsin execVcos execVld execVst execVlds execVsts execVldw execVstw
      execVatomSpad execVatomGlobal execVredSpad execVredGlobal execPref execFlush execInv execVperm execVshfl
      execVbcst execCpy execGthr execGdesc execMrg execMma execMmaq execMmas execMdrn execMzero execLaunch
      execSpawn execSucc execCpstart execCpstop execRcdef execRcret execRcdrop execRcqry execSysc execTrap
      execChke execScalar execReduce execBitReduce execLanes execBits execSpecial execPermute execRecipe
    exact issue_own_shape rfl _ s

/-- What `issue` makes of an instruction of a CP whose hold and NOPRE interval are within their limits. -/
def Ctx.checked (c : Ctx) (i : Instr) (h : Shape) (body : Ctx → State → Res) (s : State) : State :=
  let runs := h.runs c
  let mregs := h.mregs ++ c.pfxMask
  if !i.wellFormed || !h.legal c then s.takeTrap c.pid c.cid c.cp.pc 0x01 0 0 0
  else if !runs.all (·.ok c.pool.allot) then s.takeTrap c.pid c.cid c.cp.pc 0x01 0 0 0
  else match c.interlock runs h.sregs with
    | some o => s.waitOp c.pid c.cid c.cp.pc o
    | none =>
        if c.engineInterlock runs mregs then c.waitEngine s runs mregs
        else if h.broadcast && c.heldByOther then s.standAt c.pid c.cid .stall
        else match (if h.memory || h.memoryIf c then c.acquiring else none) with
          | some o => s.waitOp c.pid c.cid c.cp.pc o
          | none => issued i h c s (body c s)

theorem Cp.overHold_iff (x : Cp) (now : Nat) : (x.holding && decide (4096 < now - x.holdSince)) = true ↔
    x.holdLeft ≠ 0 ∧ 4096 < now - x.holdSince := by
  simp [Cp.holding]

theorem Cp.overNopre_iff (x : Cp) (now : Nat) : (x.nopre.any fun t => decide (65536 < now - t)) = true ↔
    ∃ t, x.nopre = some t ∧ 65536 < now - t := by
  simp [Option.any_eq_true]

section
variable {i : Instr} {c : Ctx} {s : State}

theorem AtIssue.cp? (h : AtIssue c s) : s.cp? c.pid c.cid = some c.cp := by
  simp [State.cp?, h.pool, h.cp]

theorem InLimits.hold (h : InLimits c s) : ¬(c.cp.holding && decide (4096 < s.now - c.cp.holdSince)) = true := by
  rw [Cp.overHold_iff]
  exact fun ⟨hh, ht⟩ => Nat.not_lt.mpr (h.1 hh) ht

theorem InLimits.nopre (h : InLimits c s) : ¬(c.cp.nopre.any fun t => decide (65536 < s.now - t)) = true := by
  rw [Cp.overNopre_iff]
  exact fun ⟨t, hn, ht⟩ => Nat.not_lt.mpr (h.2 t hn) ht

/-- R47, R105, R160: the limits of the hold and then of the NOPRE interval are looked at before the instruction is. -/
theorem AtIssue.issue_eq (h : AtIssue c s) (hp : c.pfx = i.pfx) (sh : Shape) (body : Ctx → State → Res) :
    issue i sh body s = .next (
      if c.cp.holding && decide (4096 < s.now - c.cp.holdSince) then s.takeTrap c.pid c.cid c.cp.pc 0x05 0 0 0
      else if c.cp.nopre.any fun t => decide (65536 < s.now - t) then s.takeTrap c.pid c.cid c.cp.pc 0x06 0 0 0
      else c.checked i sh body s) := by
  have hcp := h.cp?
  obtain ⟨hf, hpool, -, hcan, hclause⟩ := h
  have hc : (⟨c.pid, c.cid, c.pool, c.cp, i.pfx⟩ : Ctx) = c := by rw [← hp]
  unfold issue
  simp only [hf, hpool, hcp, hcan, ← Option.not_isSome, hclause, hc, Bool.not_true, Bool.or_self, Bool.false_eq_true,
    if_false]
  unfold Ctx.checked
  dsimp only
  cases c.interlock (sh.runs c) sh.sregs with
  | some o => simp only [← apply_ite]
  | none =>
    cases (if sh.memory || sh.memoryIf c then c.acquiring else none) with
    | some o => simp only [← apply_ite]
    | none =>
      cases body c s with
      | done s' =>
        simp only [issued]
        cases s.undoNeed s' c.pid <;> simp only [← apply_ite]
      | jump s' target eff =>
        simp only [issued]
        cases c.branch s' target eff <;> simp only [← apply_ite]
      | stay s' => simp only [issued, ← apply_ite]
      | trap k m d a => simp only [issued, ← apply_ite]

theorem AtIssue.issue_inLimits (h : AtIssue c s) (hp : c.pfx = i.pfx) (hl : InLimits c s) (sh : Shape)
    (body : Ctx → State → Res) : issue i sh body s = .next (c.checked i sh body s) := by
  rw [h.issue_eq hp, if_neg hl.hold, if_neg hl.nopre]

/-! ### The checks past the limits -/

variable {sh : Shape} {body : Ctx → State → Res}

theorem Ctx.checked_illegal
    (h : ¬WellFormed i ∨ sh.legal c = false ∨ (sh.runs c).all (·.ok c.pool.allot) = false) :
    c.checked i sh body s = s.takeTrap c.pid c.cid c.cp.pc 0x01 0 0 0 := by
  rcases h with hwf | hlegal | hruns
  · simp only [Ctx.checked, Bool.not_eq_true _ ▸ hwf, Bool.not_false, Bool.true_or, if_true]
  · simp only [Ctx.checked, hlegal, Bool.not_false, Bool.or_true, if_true]
  · simp only [Ctx.checked, hruns, Bool.not_false, if_true, ite_self]

/-- R106, R133: the words are legal, and every run of registers lies in the allotment. -/
structure Ctx.Passes (c : Ctx) (i : Instr) (sh : Shape) : Prop where
  wf : WellFormed i
  legal : sh.legal c = true
  runs : (sh.runs c).all (·.ok c.pool.allot) = true

variable (hl : c.Passes i sh)
include hl

theorem Ctx.Passes.checked_interlock {o : Op} (h : c.interlock (sh.runs c) sh.sregs = some o) :
    c.checked i sh body s = s.waitOp c.pid c.cid c.cp.pc o := by
  obtain ⟨hwf, hlegal, hruns⟩ := hl
  simp [Ctx.checked, hwf, hlegal, hruns, h]

variable (hfree : c.interlock (sh.runs c) sh.sregs = none)
include hfree

theorem Ctx.Passes.checked_engines (h : c.engineInterlock (sh.runs c) (sh.mregs ++ c.pfxMask) = true) :
    c.checked i sh body s = c.waitEngine s (sh.runs c) (sh.mregs ++ c.pfxMask) := by
  obtain ⟨hwf, hlegal, hruns⟩ := hl
  simp [Ctx.checked, hwf, hlegal, hruns, hfree, h]

variable (heng : ¬c.engineInterlock (sh.runs c) (sh.mregs ++ c.pfxMask) = true)
include heng

theorem Ctx.Passes.checked_held (h : sh.broadcast = true ∧ c.heldByOther = true) :
    c.checked i sh body s = s.standAt c.pid c.cid .stall := by
  obtain ⟨hwf, hlegal, hruns⟩ := hl
  simp [Ctx.checked, hwf, hlegal, hruns, hfree, heng, h]

theorem Ctx.Passes.checked_acquiring {o : Op} (hheld : ¬(sh.broadcast = true ∧ c.heldByOther = true))
    (hmem : sh.memory = true ∨ sh.memoryIf c = true) (h : c.acquiring = some o) :
    c.checked i sh body s = s.waitOp c.pid c.cid c.cp.pc o := by
  obtain ⟨hwf, hlegal, hruns⟩ := hl
  rw [← Bool.and_eq_true] at hheld
  rw [← Bool.or_eq_true] at hmem
  simp [Ctx.checked, hwf, hlegal, hruns, hfree, heng, hheld, hmem, h]

end

/-! ### Waits for commands -/

section
variable {c : Ctx} {s : State} {runs : List Run} {mregs : List Nat}

/-- R183: the commands that keep an instruction back are parked gathers, all of them. -/
theorem Ctx.gatherParked_iff : c.gatherParked runs mregs = true ↔
    ∀ k ∈ c.pool.cmds, c.engineBlocks runs mregs k = true → k.park ≠ none ∧ ∃ g, k.kind = .gather g := by
  unfold Ctx.gatherParked
  simp only [List.all_eq_true, List.mem_filter, Bool.and_eq_true, and_imp, Option.isSome_iff_ne_none]
  refine forall₃_congr fun k _ _ => and_congr_right fun _ => ?_
  cases k.kind <;> simp

theorem Ctx.waitEngine_stalls (h : ¬c.gatherParked runs mregs = true) :
    c.waitEngine s runs mregs = s.standAt c.pid c.cid .stall := by
  simp [Ctx.waitEngine, h]

theorem Ctx.waitEngine_holding (h : c.gatherParked runs mregs = true) (hh : c.cp.holdLeft ≠ 0) :
    c.waitEngine s runs mregs = s.takeTrap c.pid c.cid c.cp.pc 0x04 0 0 0 := by
  simp [Ctx.waitEngine, h, c.cp.holding_iff.mpr hh]

theorem Ctx.waitEngine_parked (h : c.gatherParked runs mregs = true) (hh : c.cp.holdLeft = 0) :
    c.waitEngine s runs mregs = s.standAt c.pid c.cid (.counter 1 (c.gathersAfter mregs)) := by
  simp [Ctx.waitEngine, h, c.cp.holding_eq_false.mpr hh]

end

/-! ### No instruction -/

/-- R106: the address of the first word that cannot be fetched. -/
theorem State.fetchFault_eq (s : State) (core asid placed : Nat) {a : DWord} {n k : Nat} (pc : DWord) (hk : k < n)
    (hbefore : ∀ j b, j < k → s.fetchWord core asid placed (pc + BitVec.ofNat 64 j) ≠ .fault b)
    (hat : s.fetchWord core asid placed (pc + BitVec.ofNat 64 k) = .fault a) :
    s.fetchFault core asid placed pc n = a := by
  induction n generalizing pc k with
  | zero => omega
  | succ n ih =>
      unfold State.fetchFault
      cases k with
      | zero =>
          rw [BitVec.add_zero] at hat
          rw [hat]
      | succ k =>
          have hstep (j : Nat) : pc + 1 + BitVec.ofNat 64 j = pc + BitVec.ofNat 64 (j + 1) := by
            rw [Nat.add_comm j 1, BitVec.ofNat_add, BitVec.add_assoc]
            rfl
          have hnext := ih (pc + 1) (Nat.lt_of_succ_lt_succ hk) (fun j b hj => hstep j ▸ hbefore (j + 1) b (by omega))
            (hstep k ▸ hat)
          have hfirst := hbefore 0
          rw [BitVec.add_zero] at hfirst
          split
          · next b hb => exact absurd hb (hfirst b (by omega))
          · exact hnext

section
variable {c : Ctx} {s : State} {cl : Clause} {k : Byte} {at_ : DWord}

theorem AtIssue.ctxOf (h : AtIssue c s) (hp : c.pfx = none) : s.ctxOf c.pid c.cid = some c := by
  unfold State.ctxOf
  simp only [h.pool, h.cp?, ← hp]

theorem AtIssue.exec_illegalInstruction (h : AtIssue c s) (hp : c.pfx = none) (hcl : c.cp.clause = some cl)
    (cause : Byte) (pc : DWord) : exec (.illegalInstruction cause pc) s = .next (s.noInstruction c cl cause pc) := by
  have hctx := h.ctxOf hp
  simp only [exec, execIllegalInstruction, h.focus, hctx, hcl, h.can, if_true]

variable (hl : InLimits c s)
  (hat : s.instrAt c.core c.asid c.pool.placed c.cp.pc cl.header cl.stop = .trap k at_)
include hl hat

theorem InLimits.noInstruction_other {cause : Byte} {pc : DWord} (hne : k ≠ cause ∨ at_ ≠ pc) :
    s.noInstruction c cl cause pc = s := by
  unfold State.noInstruction
  rw [if_neg hl.hold, if_neg hl.nopre, hat]
  exact if_pos hne

theorem InLimits.noInstruction_traps : s.noInstruction c cl k at_ =
    let t := s.takeTrap c.pid c.cid at_ k 0 0
      (if k = 0x08 then s.fetchFault c.core c.asid c.pool.placed c.cp.pc 8 else 0)
    if at_ = cl.header then c.modCp t fun x => { x with clause := none } else t := by
  unfold State.noInstruction
  rw [if_neg hl.hold, if_neg hl.nopre, hat]
  exact if_neg (by simp)

end

end Sys2Proof.Machine

section

open Sys2Proof Sys2Proof.Machine

/-- Settles O9: every instruction issues through one wrapper, whose checks stand in the order of the clauses; a CP at
whose pc no instruction stands has changed only in its trap and, at a header, in its clause. -/
theorem issueChecksAndIllegalInstructions : Obligations.IssueChecksAndIllegalInstructions := by
  unfold Obligations.IssueChecksAndIllegalInstructions
  refine ⟨fun i c s h hp hev => ?_, fun s core asid placed n k pc a => s.fetchFault_eq core asid placed pc,
    fun c s cl cause k pc at_ h hl hp hcl hat => ⟨?_, fun hne => ?_⟩⟩
  · obtain ⟨body, hexec⟩ := exec_eq_issue hev s
    dsimp only [Traps, Stalls]
    rw [hexec]
    refine ⟨fun hh ht => ?_, fun hh hn => ?_, fun hl => ?_⟩
    · rw [h.issue_eq hp, if_pos ((c.cp.overHold_iff s.now).mpr ⟨hh, ht⟩)]
    · rw [h.issue_eq hp, if_neg fun ho => ?_, if_pos ((c.cp.overNopre_iff s.now).mpr hn)]
      obtain ⟨hleft, hover⟩ := (c.cp.overHold_iff s.now).mp ho
      exact Nat.not_lt.mpr (hh hleft) hover
    · rw [h.issue_inLimits hp hl]
      refine ⟨fun hi => congrArg _ (Ctx.checked_illegal hi), fun hwf hlegal hruns => ?_⟩
      have hpass : c.Passes i (shapeOf i) := ⟨hwf, hlegal, hruns⟩
      refine ⟨fun o ho => congrArg _ (hpass.checked_interlock ho), fun hfree => ⟨fun heng hpark => ?_,
        fun heng hpark hh => ?_, fun heng hpark hh => ?_, fun heng hheld => ?_, fun heng hheld hmem o ho => ?_⟩⟩
      · rw [hpass.checked_engines hfree heng, Ctx.waitEngine_stalls (Ctx.gatherParked_iff.not.mpr hpark)]
      · rw [hpass.checked_engines hfree heng, Ctx.waitEngine_holding (Ctx.gatherParked_iff.mpr hpark) hh]
      · rw [hpass.checked_engines hfree heng, Ctx.waitEngine_parked (Ctx.gatherParked_iff.mpr hpark) hh]
      · rw [hpass.checked_held hfree heng hheld]
      · rw [hpass.checked_acquiring hfree heng hheld hmem ho]
  · rintro rfl rfl
    refine ⟨_, h.exec_illegalInstruction hp hcl k at_, ?_⟩
    rw [hl.noInstruction_traps hat]
    have htrap := cpBecomes_takeTrap h.pool h.cp at_ k 0 0
      (if k = 0x08 then s.fetchFault c.core c.asid c.pool.placed c.cp.pc 8 else 0)
    dsimp only
    split
    · exact htrap.modCp _
    · exact htrap
  · rw [h.exec_illegalInstruction hp hcl, hl.noInstruction_other hat hne]

end

/-! Bitwise thread instructions and TID (R122, R127, R129): an element of a whole register or pair is one number, so
their results are those of the operators on words; and the effect of a thread instruction from the write of its results
(R19, R111). -/

namespace Sys2Proof.Machine

/-! ### The effect of a thread instruction -/

/-- A run whose first register is even, where it is a pair, ends within the 256 registers. -/
theorem fitsPair_of_ok {wide : Bool} {d : Byte} {allot : Nat} (h : (run1 wide d.toNat).ok allot = true) :
    FitsPair wide d.toNat := by
  refine ⟨d.isLt, fun hw => ?_⟩
  subst hw
  have heven : d.toNat % 2 = 0 := by
    simp only [run1, Run.ok, Bool.or_eq_true, Bool.and_eq_true, decide_eq_true_eq, if_true, Bool.not_true,
      Bool.false_or] at h
    omega
  have := d.isLt
  omega

/-- R26: a register or pair that an instruction names can be written. -/
theorem Issues.fitsPair {i : Instr} {c : Ctx} {s : State} {wide : Bool} {d : Byte} (h : Issues i c s)
    (hd : run1 wide d.toNat ∈ (shapeOf i).runs c) : FitsPair wide d.toNat :=
  fitsPair_of_ok (List.all_eq_true.mp h.runs _ hd)

/-- R180, R111: a thread instruction whose old values find room in the undo log changes its pool's registers, and its
CP's flags. -/
theorem Writes.completes {i : Instr} {c : Ctx} {s : State} {r : ThreadResult} (w : Writes i c s r) (h : Issues i c s)
    (hr : UndoRoom c s (8 * (r.vals.length + (Mask.tids c.zeroSet c.pool.threads).length))) :
    ∃ t, exec i s = .next t ∧ Effect i c s t (c.afterWrite r) (c.cp.raise r.flags) := by
  obtain ⟨body, hx, hb⟩ := w
  have same := c.same_afterWrite r
  have hcores : (c.afterWrite r).cores = c.pool.cores := by unfold Pool.cores; rw [same.parts]
  exact completes_of h hx h.pool h.cp
    (fun p => (p.zeroElems r.wide r.d.toNat c.zeroSet).setElems r.wide r.d.toNat r.vals) (·.raise r.flags) hb _ hr
    hcores (c.undoOn_afterWrite r) same.cps rfl rfl rfl rfl

section
variable (c : Ctx) {r : ThreadResult} (hfit : FitsPair r.wide r.d.toNat)
include hfit

theorem Ctx.getElem_afterWrite (hd : (r.vals.map (·.1)).Nodup) {e : Nat × DWord} (he : e ∈ r.vals) :
    (c.afterWrite r).getElem r.wide e.1 r.d.toNat = lowPart r.wide e.2 :=
  Pool.getElem_setElems _ _ _ _ hfit hd e he

/-- R19: a thread of the zero form's set without a result. -/
theorem Ctx.getElem_afterWrite_zero {u : Nat} (hz : u ∈ Mask.tids c.zeroSet c.pool.threads)
    (hu : u ∉ r.vals.map (·.1)) : (c.afterWrite r).getElem r.wide u r.d.toNat = 0 := by
  have hkept (n : Nat) (hn : n < 256) : (c.afterWrite r).reg u n =
      (c.pool.zeroElems r.wide r.d.toNat c.zeroSet).reg u n :=
    Pool.reg_setElems _ _ _ _ _ _ hfit hn fun hw => hu hw.1
  have hzeros : (((Mask.tids c.zeroSet c.pool.threads).map fun t => (t, (0 : DWord))).map (·.1)).Nodup := by
    simpa [Function.comp_def] using Mask.nodup_tids c.zeroSet c.pool.threads
  rw [Pool.getElem_congr _ _ _ (hkept _ hfit.1) fun hw => hkept _ (hfit.2 hw), Pool.zeroElems_eq,
    Pool.getElem_setElems _ _ _ _ hfit hzeros (u, 0) (List.mem_map_of_mem hz)]
  cases r.wide <;> rfl

theorem Ctx.reg_afterWrite_other {u n : Nat} (hn : n < 256)
    (h : ¬((u ∈ r.vals.map (·.1) ∨ u ∈ Mask.tids c.zeroSet c.pool.threads) ∧ written r.wide r.d.toNat n)) :
    (c.afterWrite r).reg u n = c.pool.reg u n := by
  unfold Ctx.afterWrite
  rw [Pool.zeroElems_eq, Pool.reg_setElems _ _ _ _ _ _ hfit hn fun hw => h ⟨.inl hw.1, hw.2⟩,
    Pool.reg_setElems _ _ _ _ _ _ hfit hn fun hw => h ⟨.inr (by simpa using hw.1), hw.2⟩]

end

/-! ### Bits of whole registers and pairs -/

theorem toNat_lowPart (wide : Bool) (x : DWord) : (lowPart wide x).toNat = x.toNat % 2 ^ (if wide then 64 else 32) := by
  cases wide
  · simp only [lowPart, Bool.false_eq_true, if_false, BitVec.truncate_eq_setWidth, BitVec.toNat_setWidth,
      BitVec.extractLsb'_toNat, Nat.shiftRight_zero]
    omega
  · exact (Nat.mod_eq_of_lt x.isLt).symm

theorem lowPart_and (wide : Bool) (x y : DWord) : lowPart wide (x &&& y) = lowPart wide x &&& lowPart wide y := by
  cases wide
  · simp [lowPart, BitVec.extractLsb'_and, BitVec.setWidth_and]
  · rfl

theorem lowPart_or (wide : Bool) (x y : DWord) : lowPart wide (x ||| y) = lowPart wide x ||| lowPart wide y := by
  cases wide
  · simp [lowPart, BitVec.extractLsb'_or, BitVec.setWidth_or]
  · rfl

@[simp] theorem lowPart_lowPart (wide : Bool) (x : DWord) : lowPart wide (lowPart wide x) = lowPart wide x := by
  apply BitVec.eq_of_toNat_eq
  simp only [toNat_lowPart, Nat.mod_mod]

section
variable (c : Ctx)

/-- R109: the element of a bitwise instruction is the whole register, or the pair. -/
theorem Ctx.elems_bitWidth (t n : Nat) : c.elems c.bitWidth t n = [(c.pool.getElem c.wide t n).toNat] := by
  unfold Ctx.elems Ctx.bitWidth Pool.getElem
  cases c.wide
  · have hreg : ((c.pool.reg t n).zeroExtend 64).toNat = (c.pool.reg t n).toNat :=
      BitVec.toNat_setWidth_of_le (by decide)
    rw [if_neg Bool.false_ne_true, if_neg Bool.false_ne_true, hreg]
    simpa using (c.pool.reg t n).isLt
  · rfl

theorem Ctx.packElems_bitWidth (x : Nat) : packElems c.bitWidth [x] = lowPart c.wide (BitVec.ofNat 64 x) := by
  apply BitVec.eq_of_toNat_eq
  rw [toNat_lowPart]
  unfold packElems Ctx.bitWidth
  simp only [List.foldr_cons, List.foldr_nil, Nat.mul_zero, Nat.add_zero, BitVec.toNat_ofNat]
  cases c.wide
  · simp only [Bool.false_eq_true, if_false]
    omega
  · simp only [if_true, Nat.mod_mod]

theorem Ctx.lowPart_notBits (x : DWord) :
    lowPart c.wide (BitVec.ofNat 64 (notBits c.bitWidth x.toNat)) = lowPart c.wide (~~~x) := by
  apply BitVec.eq_of_toNat_eq
  have := x.isLt
  simp only [toNat_lowPart, BitVec.toNat_ofNat, BitVec.toNat_not]
  unfold notBits Ctx.bitWidth
  cases c.wide
  · simp only [Bool.false_eq_true, if_false]
    omega
  · simp only [if_true]
    omega

/-- R109, R122: a bitwise instruction is its function on whole registers or pairs, without a flag. -/
theorem Ctx.whole_eq_each (d : Byte) (srcs : List Nat) (f : List Nat → Nat) :
    c.whole d srcs f = some (c.each c.wide d fun u =>
      (lowPart c.wide (BitVec.ofNat 64 (f (srcs.map fun n => (c.pool.getElem c.wide u n).toNat))), 0)) := by
  have hlanes : (if c.bitWidth = 64 then 1 else 32 / c.bitWidth) = 1 := by
    unfold Ctx.bitWidth; cases c.wide <;> rfl
  have hwide : decide (c.bitWidth = 64) = c.wide := by
    unfold Ctx.bitWidth; cases c.wide <;> rfl
  unfold Ctx.whole Ctx.laneResult Ctx.each
  simp only [hlanes, hwide, Ctx.elems_bitWidth, List.range_one, List.map_cons, List.map_nil, List.getD_cons_zero,
    Ctx.packElems_bitWidth, allFlags_cons, allFlags_nil]
  rfl

end

/-! ### One value for each responder -/

/-- The threads that `Ctx.each` gives a value are the responders. -/
theorem Ctx.each_tids (c : Ctx) (wide : Bool) (d : Byte) (f : Nat → DWord × Flags) :
    (c.each wide d f).vals.map (·.1) = c.tids := by
  simp [Ctx.each, Function.comp_def]

theorem Ctx.each_flags_zero (c : Ctx) (wide : Bool) (d : Byte) (v : Nat → DWord) :
    (c.each wide d fun u => (v u, 0)).flags = 0 :=
  allFlags_eq_zero (by simp)

/-- The instruction has taken effect: v_d of each responder is its value of v, or the part of it that a register has,
v_d of each non-responder of a zero form is 0, and nothing else differs, no flag either. -/
def RespondersGet (i : Instr) (c : Ctx) (s : State) (d : Byte) (v : Nat → DWord) : Prop :=
  ∃ t q, exec i s = .next t ∧ Effect i c s t q c.cp ∧
    (∀ u ∈ c.tids, q.getElem c.wide u d.toNat = lowPart c.wide (v u)) ∧
    (∀ u ∈ Mask.tids c.zeroSet c.pool.threads, u ∉ c.tids → q.getElem c.wide u d.toNat = 0) ∧
    (∀ u n, n < 256 → ¬((u ∈ c.tids ∨ u ∈ Mask.tids c.zeroSet c.pool.threads) ∧ written c.wide d.toNat n) →
      q.reg u n = c.pool.reg u n) ∧
    SameButRegs c.pool q

section
variable {i : Instr} {c : Ctx} {s : State} {d : Byte} {v : Nat → DWord} (h : Issues i c s)
  (hr : UndoRoom c s (8 * (c.tids.length + (Mask.tids c.zeroSet c.pool.threads).length)))
  (hd : run1 c.wide d.toNat ∈ (shapeOf i).runs c)
include h hr hd

theorem Writes.respondersGet (w : Writes i c s (c.each c.wide d fun u => (v u, 0))) : RespondersGet i c s d v := by
  have hfit : FitsPair (c.each c.wide d fun u => (v u, 0)).wide (c.each c.wide d fun u => (v u, 0)).d.toNat :=
    h.fitsPair hd
  have htids := c.each_tids c.wide d fun u => (v u, 0)
  have hlen := congrArg List.length htids
  rw [List.length_map] at hlen
  obtain ⟨t, ht, heffect⟩ := w.completes h (by rw [hlen]; exact hr)
  rw [c.each_flags_zero, Cp.raise_zero] at heffect
  refine ⟨t, _, ht, heffect, fun u hu => ?_, fun u hz hu => ?_, fun u n hn hne => ?_, c.same_afterWrite _⟩
  · have hnodup : ((c.each c.wide d fun u => (v u, 0)).vals.map (·.1)).Nodup := by
      rw [htids]
      exact Mask.nodup_tids _ _
    exact c.getElem_afterWrite hfit hnodup (e := (u, v u)) (List.mem_map.mpr ⟨u, hu, rfl⟩)
  · exact c.getElem_afterWrite_zero hfit hz (htids ▸ hu)
  · exact c.reg_afterWrite_other hfit hn (htids ▸ hne)

/-- R109, R122: the same for a bitwise instruction whose function of numbers agrees with v in what a register has. -/
theorem Issues.whole_respondersGet {srcs : List Nat} {f : List Nat → Nat}
    (w : ∀ r, c.whole d srcs f = some r → Writes i c s r)
    (hv : ∀ u, lowPart c.wide (BitVec.ofNat 64 (f (srcs.map fun n => (c.pool.getElem c.wide u n).toNat))) =
      lowPart c.wide (v u)) : RespondersGet i c s d v := by
  obtain ⟨t, q, ht, heffect, hvals, hzeros, hothers, hsame⟩ :=
    (w _ (c.whole_eq_each d srcs f)).respondersGet h hr hd
  exact ⟨t, q, ht, heffect, fun u hu => by rw [hvals u hu, lowPart_lowPart, hv], hzeros, hothers, hsame⟩

end

/-- R93, R127: VSEL has a fourth operand, which only a prefix names. -/
theorem not_wellFormed_vsel (d a b : Byte) : ¬WellFormed (.vsel none d a b) := by
  simp [WellFormed, Instr.wellFormed, fourthOk]

end Sys2Proof.Machine

section

open Sys2Proof Sys2Proof.Machine

/-- Settles O19: the logic instructions and VSEL are functions of whole registers or pairs as numbers, which agree with
the operators on words; TID writes to each responder a number of its own. -/
theorem logicSelectionAndTid : Obligations.LogicSelectionAndTid := by
  unfold Obligations.LogicSelectionAndTid
  refine ⟨fun i c s d v h hr hv => ?_, fun d a b c s h hp hl => ?_⟩
  · dsimp only at hv
    split at hv
    case h_1 p x a b =>
      obtain ⟨rfl, rfl⟩ := hv
      exact h.whole_respondersGet hr List.mem_cons_self (writes_vand p x a b c s) fun u => by simp [BitVec.ofNat_and]
    case h_2 p x a b =>
      obtain ⟨rfl, rfl⟩ := hv
      exact h.whole_respondersGet hr List.mem_cons_self (writes_vor p x a b c s) fun u => by simp [BitVec.ofNat_or]
    case h_3 p x a b =>
      obtain ⟨rfl, rfl⟩ := hv
      exact h.whole_respondersGet hr List.mem_cons_self (writes_vxor p x a b c s) fun u => by
        simp [BitVec.ofNat_xor]
    case h_4 p x a b =>
      obtain ⟨rfl, rfl⟩ := hv
      exact h.whole_respondersGet hr List.mem_cons_self (writes_vandn p x a b c s) fun u => by
        simp [BitVec.ofNat_and, lowPart_and, c.lowPart_notBits]
    case h_5 p x a =>
      obtain ⟨rfl, rfl⟩ := hv
      exact h.whole_respondersGet hr List.mem_cons_self (writes_vnot p x a c s) fun u => c.lowPart_notBits _
    case h_6 p x a b =>
      obtain ⟨rfl, rfl⟩ := hv
      exact h.whole_respondersGet hr List.mem_cons_self (writes_vsel p x a b c s) fun u => by
        simp [BitVec.ofNat_and, BitVec.ofNat_or, lowPart_and, lowPart_or, c.lowPart_notBits]
    case h_7 p x =>
      obtain ⟨rfl, rfl⟩ := hv
      exact (writes_tid p x c s _ rfl).respondersGet h hr List.mem_cons_self
    case h_8 => exact hv.elim
  · obtain ⟨body, hexec⟩ := exec_eq_issue (i := .vsel none d a b) rfl s
    rw [Traps, hexec, h.issue_inLimits (i := .vsel none d a b) hp hl,
      Ctx.checked_illegal (.inl (not_wellFormed_vsel d a b))]

end

/-! Scalar instructions (R137, R138, R143, R150): the functions of numbers by which they compute are those of the table
of scalar results. -/

namespace Sys2Proof.Machine

/-! ### Sums of powers of two -/

theorem foldl_add_eq_sum (g : α → Nat) (l : List α) : l.foldl (fun n x => n + g x) 0 = (l.map g).sum := by
  rw [List.sum_eq_foldl, List.foldl_map]

/-- The bits of a sum of different powers of two are its exponents. -/
theorem testBit_sum_two_pow {l : List Nat} (hl : l.Nodup) (j : Nat) :
    (l.map (2 ^ ·)).sum.testBit j = decide (j ∈ l) := by
  rw [Bool.eq_iff_iff, decide_eq_true_iff, ← Nat.mem_bitIndices, ← List.sum_toFinset _ hl, ← List.mem_toFinset,
    Finset.toFinset_bitIndices_sum_two_pow, List.mem_toFinset]

/-! ### The functions of scalar instructions -/

theorem intOf_toNat (x : DWord) : intOf 64 true x.toNat = x.toInt := by
  unfold intOf
  rw [Nat.mod_eq_of_lt x.isLt, BitVec.toInt_eq_msb_cond, BitVec.msb_eq_getLsbD_last]
  rfl

/-- R116: the high half of the signed product. -/
theorem mulHigh_toInt (x y : DWord) : BitVec.ofNat 64 (mulHigh 64 true x.toNat y.toNat) =
    BitVec.ofInt 64 (x.toInt * y.toInt / 2 ^ 64) := by
  unfold mulHigh intBits
  rw [intOf_toNat, intOf_toNat]
  apply BitVec.eq_of_toNat_eq
  rw [BitVec.toNat_ofNat, BitVec.toNat_ofInt]
  have hlow := Int.emod_nonneg (x.toInt * y.toInt / 2 ^ 64) (b := 2 ^ 64) (by decide)
  have hhigh := Int.emod_lt_of_pos (x.toInt * y.toInt / 2 ^ 64) (b := 2 ^ 64) (by decide)
  exact Nat.mod_eq_of_lt (by omega)

theorem toNat_and_63 (y : DWord) : (y &&& 63).toNat = y.toNat % 64 := by
  rw [BitVec.toNat_and]
  exact Nat.and_two_pow_sub_one_eq_mod y.toNat 6

theorem shiftLeft_mod_64 (x y : DWord) : x <<< (y.toNat % 64) = x <<< (y &&& 63) := by
  rw [← toNat_and_63]
  rfl

theorem ushiftRight_mod_64 (x y : DWord) : x >>> (y.toNat % 64) = x >>> (y &&& 63) := by
  rw [← toNat_and_63]
  rfl

/-- R137: SSAR rounds the signed quotient down. -/
theorem sshiftRight_eq_div (x : DWord) (n : Nat) : x.sshiftRight n = BitVec.ofInt 64 (x.toInt / 2 ^ n) := by
  rw [← BitVec.ofInt_toInt (x := x.sshiftRight n), BitVec.toInt_sshiftRight, Int.shiftRight_eq_div_pow]
  rfl

theorem ofInt_min (x y : DWord) : BitVec.ofInt 64 (min x.toInt y.toInt) = if y.toInt < x.toInt then y else x := by
  split
  case isTrue h => rw [min_eq_right h.le, BitVec.ofInt_toInt]
  case isFalse h => rw [min_eq_left (not_lt.mp h), BitVec.ofInt_toInt]

theorem ofInt_max (x y : DWord) : BitVec.ofInt 64 (max x.toInt y.toInt) = if x.toInt < y.toInt then y else x := by
  split
  case isTrue h => rw [max_eq_right h.le, BitVec.ofInt_toInt]
  case isFalse h => rw [max_eq_left (not_lt.mp h), BitVec.ofInt_toInt]

theorem sum_map_ite (f : Nat → Bool) (g : Nat → Nat) (l : List Nat) :
    (l.map fun n => if f n then g n else 0).sum = ((l.filter f).map g).sum := by
  induction l with
  | nil => rfl
  | cons n l ih => cases h : f n <;> simp [h, ih]

/-- R138: bit n of a word of conditions, below 8, is what condition n answers. -/
theorem testBit_conditions (f : Nat → Bool) (j : Nat) :
    ((List.range 8).foldl (fun acc code => acc + if f code then 2 ^ code else 0) 0).testBit j =
      (decide (j < 8) && f j) := by
  rw [foldl_add_eq_sum, sum_map_ite, testBit_sum_two_pow (List.nodup_range.filter _)]
  simp

theorem conditionWord_eq (x k : DWord) : conditionWord x k = conditions x k := by
  apply BitVec.eq_of_getLsbD_eq
  intro j hj
  unfold conditionWord conditions
  rw [BitVec.getLsbD_ofNat, testBit_conditions, BitVec.getLsbD_ofFnLE, dif_pos hj, decide_eq_true hj, Bool.true_and]
  by_cases h8 : j < 8
  · have hx : x.toNat % 2 ^ (Ty.int 64 true).width = x.toNat := Nat.mod_eq_of_lt x.isLt
    have hk : k.toNat % 2 ^ (Ty.int 64 true).width = k.toNat := Nat.mod_eq_of_lt k.isLt
    unfold compare
    simp only [intOf_toNat, hx, hk, BitVec.toInt_inj]
    interval_cases j <;> simp [BitVec.slt, BitVec.sle, BitVec.ult, BitVec.ule, bne, beq_eq_decide, BitVec.toInt_inj]
  · have hlen := List.getD_eq_default [x == k, x != k, x.slt k, x.sle k, k.slt x, k.sle x, x.ult k, k.ule x] false
      (n := j) (by simpa using h8)
    rw [decide_eq_false h8, Bool.false_and]
    exact hlen.symm

theorem append_eq_add (hi lo : Word) : hi ++ lo = BitVec.ofNat 64 (lo.toNat + 2 ^ 32 * hi.toNat) := by
  apply BitVec.eq_of_toNat_eq
  have hlo := lo.isLt
  have hhi := hi.isLt
  rw [BitVec.toNat_append, BitVec.toNat_ofNat, ← Nat.shiftLeft_add_eq_or_of_lt hlo, Nat.shiftLeft_eq]
  omega

theorem oneBits_eq (x : DWord) : oneBits 64 x.toNat = ones x := rfl

theorem length_filter_lt_range {m n : Nat} (h : m ≤ n) :
    ((List.range n).filter fun i => decide (i < m)).length = m := by
  obtain ⟨k, rfl⟩ := Nat.exists_eq_add_of_le h
  have hlow : (List.range m).filter (fun i => decide (i < m)) = List.range m :=
    List.filter_eq_self.mpr fun i hi => by simpa using hi
  have hhigh : ((List.range k).map (m + ·)).filter (fun i => decide (i < m)) = [] :=
    List.filter_eq_nil_iff.mpr fun i hi => by
      obtain ⟨a, -, rfl⟩ := List.mem_map.mp hi
      simp
  rw [List.range_add, List.filter_append, hlow, hhigh, List.append_nil, List.length_range]

/-- R137: the number of zeros above the highest one. -/
theorem clz_eq (x : DWord) : clz 64 x.toNat = leadingZeros x := by
  unfold clz leadingZeros
  by_cases h0 : x.toNat = 0
  · simp [h0]
  · have hlog : x.toNat.log2 + 1 ≤ 64 := (Nat.log2_lt h0).mpr x.isLt
    simp only [← Nat.le_log2 h0, ← Nat.lt_succ_iff]
    rw [if_neg h0, length_filter_lt_range hlog]
    omega

theorem fns_eq (x : DWord) (n : Nat) : BitVec.ofNat 64 (fns 64 x.toNat n) = nthOne x n := by
  unfold fns nthOne
  rw [oneBits_eq, List.getD_eq_getElem?_getD]
  cases (ones x)[n]? <;> rfl

/-- R137: bit j of the reversal is set by the one at 63 − j. -/
theorem brev_eq (x : DWord) : BitVec.ofNat 64 (brev 64 x.toNat) = reversed x := by
  apply BitVec.eq_of_getLsbD_eq
  intro j hj
  have hones : ∀ i ∈ ones x, i < 64 := fun i hi => List.mem_range.mp (List.mem_filter.mp hi).1
  have hnodup : ((ones x).map fun i => 64 - 1 - i).Nodup :=
    (List.nodup_range.filter _).map_on fun a ha b hb h => by
      have := hones a ha
      have := hones b hb
      omega
  have hmem : j ∈ (ones x).map (fun i => 64 - 1 - i) ↔ x.getLsbD (63 - j) = true := by
    simp only [List.mem_map]
    refine ⟨fun ⟨i, hi, he⟩ => ?_, fun h => ⟨63 - j, List.mem_filter.mpr ⟨List.mem_range.mpr ?_, h⟩, ?_⟩⟩
    · have hi64 := hones i hi
      rw [show 63 - j = i by omega]
      exact (List.mem_filter.mp hi).2
    · omega
    · omega
  unfold brev reversed
  rw [oneBits_eq, foldl_add_eq_sum, BitVec.getLsbD_ofNat, decide_eq_true hj, Bool.true_and,
    show (ones x).map (fun i => 2 ^ (64 - 1 - i)) = ((ones x).map fun i => 64 - 1 - i).map (2 ^ ·) by simp,
    testBit_sum_two_pow hnodup, BitVec.getLsbD_ofFnLE, dif_pos hj, Bool.eq_iff_iff, decide_eq_true_iff, hmem]

/-! ### The instructions -/

section
variable {i : Instr} {c : Ctx} {s : State} {d x : Byte} {v w : DWord}

/-- An instruction that is a scalar instruction in its own shape writes its function's value to its register. -/
theorem does_scalar {f : Ctx → DWord} (h : some (x, w) = some (d, v)) (srcs : List Byte)
    (hx : exec i s = execScalar i x srcs f s) (hs : shapeOf i = scalarShape (x :: srcs)) (hf : f c = w) :
    Does i c s (.done (c.modCp s fun y => y.setS d.toNat v)) := by
  obtain ⟨rfl, rfl⟩ : x = d ∧ w = v := by simpa only [Option.some.injEq, Prod.mk.injEq] using h
  exact ⟨_, hx.trans (by unfold execScalar; rw [hs]; rfl), by rw [hf]⟩

/-- R137, R138, R143, R150: a scalar instruction writes what the table of scalar results gives. -/
theorem does_scalarResult (h : scalarResult i c = some (d, v)) :
    Does i c s (.done (c.modCp s fun y => y.setS d.toNat v)) := by
  cases i with
  | sadd p x a b => exact does_scalar h [a, b] (.trans (b := execSadd p x a b s) rfl rfl) rfl rfl
  | ssub p x a b => exact does_scalar h [a, b] (.trans (b := execSsub p x a b s) rfl rfl) rfl rfl
  | smul p x a b => exact does_scalar h [a, b] (.trans (b := execSmul p x a b s) rfl rfl) rfl rfl
  | sand p x a b => exact does_scalar h [a, b] (.trans (b := execSand p x a b s) rfl rfl) rfl rfl
  | sor p x a b => exact does_scalar h [a, b] (.trans (b := execSor p x a b s) rfl rfl) rfl rfl
  | sxor p x a b => exact does_scalar h [a, b] (.trans (b := execSxor p x a b s) rfl rfl) rfl rfl
  | smulh p x a b => exact does_scalar h [a, b] (.trans (b := execSmulh p x a b s) rfl rfl) rfl (mulHigh_toInt _ _)
  | sshl p x a b => exact does_scalar h [a, b] (.trans (b := execSshl p x a b s) rfl rfl) rfl (shiftLeft_mod_64 _ _)
  | sshr p x a b => exact does_scalar h [a, b] (.trans (b := execSshr p x a b s) rfl rfl) rfl (ushiftRight_mod_64 _ _)
  | ssar p x a b => exact does_scalar h [a, b] (.trans (b := execSsar p x a b s) rfl rfl) rfl (sshiftRight_eq_div _ _)
  | smin p x a b => exact does_scalar h [a, b] (.trans (b := execSmin p x a b s) rfl rfl) rfl (ofInt_min _ _).symm
  | smax p x a b => exact does_scalar h [a, b] (.trans (b := execSmax p x a b s) rfl rfl) rfl (ofInt_max _ _).symm
  | scmp p x a b => exact does_scalar h [a, b] (.trans (b := execScmp p x a b s) rfl rfl) rfl (conditionWord_eq _ _)
  | ssel p x a b => exact does_scalar h [a, b] (.trans (b := execSsel p x a b s) rfl rfl) rfl (ite_not _ _ _)
  | smov p x a => exact does_scalar h [a] (.trans (b := execSmov p x a s) rfl rfl) rfl rfl
  | sli p x lo hi => exact does_scalar h [] (.trans (b := execSli p x lo hi s) rfl rfl) rfl (append_eq_add hi lo)
  | spopc p x a => exact does_scalar h [a] (.trans (b := execSpopc p x a s) rfl rfl) rfl rfl
  | sclz p x a => exact does_scalar h [a] (.trans (b := execSclz p x a s) rfl rfl) rfl (congrArg _ (clz_eq _))
  | sfns p x a b => exact does_scalar h [a, b] (.trans (b := execSfns p x a b s) rfl rfl) rfl (fns_eq _ _)
  | sbrev p x a => exact does_scalar h [a] (.trans (b := execSbrev p x a s) rfl rfl) rfl (brev_eq _)
  | getm p x => exact does_scalar h [] (.trans (b := execGetm p x s) rfl rfl) rfl (BitVec.ofNat_toNat _ _).symm
  | getf p x => exact does_scalar h [] (.trans (b := execGetf p x s) rfl rfl) rfl (BitVec.ofNat_toNat _ _).symm
  | rcount p x => exact does_scalar h [] (.trans (b := execRcount p x s) rfl rfl) rfl rfl
  | _ => cases h

end

end Sys2Proof.Machine

section

open Sys2Proof Sys2Proof.Machine

/-- Settles O10: each scalar instruction comes to its row of the table of scalar results, a write of one register. -/
theorem scalarResults : Obligations.ScalarResults := by
  unfold Obligations.ScalarResults
  intro i c s d v h hroom hv
  obtain ⟨t, ht, heffect⟩ := (does_scalarResult hv).completes h hroom rfl rfl rfl rfl
  exact ⟨t, _, ht, heffect, KMap.get_set_self _ _ _ _, fun n hn => KMap.get_set_ne _ _ _ hn, rfl⟩

end

/-! Status, MODE and FMT (R96 to R98, R141 to R143, R333). -/

namespace Sys2Proof.Machine

/-! ### Status -/

/-- R141: the selectors 0 to 11 in their order. -/
theorem statusValues_eq (c : Ctx) (s : State) : statusValues c s = (List.range 12).map (c.status s) := rfl

theorem Ctx.status_eq {c : Ctx} {s : State} {n : Nat} {v : DWord} (h : (statusValues c s)[n]? = some v) :
    c.status s n = v := by
  rw [statusValues_eq, List.getElem?_map, Option.map_eq_some_iff] at h
  obtain ⟨m, hm, rfl⟩ := h
  obtain ⟨hlt, he⟩ := List.getElem?_eq_some_iff.mp hm
  rw [← he, List.getElem_range]

section
variable (p : Option Prefix) (d a : Byte) (c : Ctx) (s : State)

theorem does_getst : Does (.getst p d a) c s
    (if c.pool.rslice = true ∧ (a = 3 ∨ a = 4 ∨ a = 10) then .trap 0x0F 0 0 0
      else .done (c.modCp s fun y => y.setS d.toNat (c.status s a.toNat))) := by
  refine ⟨_, Eq.trans (b := execGetst p d a s) rfl (by unfold execGetst; rfl), ?_⟩
  simp only [Ctx.slice, Bool.and_eq_true, Bool.or_eq_true, decide_eq_true_eq, or_assoc]

theorem does_clrst : Does (.clrst p a) c s
    (.done (c.modCp s fun y => if a = 5 then { y with fstat := 0 } else { y with cki := 0 })) :=
  ⟨_, Eq.trans (b := execClrst p a s) rfl (by unfold execClrst; rfl), rfl⟩

end

/-- R141: the selectors that CLRST takes. -/
theorem wellFormed_clrst {p : Option Prefix} {a : Byte} (h : WellFormed (.clrst p a)) : a = 5 ∨ a = 6 := by
  have hfields : fieldsOk (.clrst p a) = true := (Bool.and_eq_true_iff.mp (Bool.and_eq_true_iff.mp h).1).2
  simpa only [fieldsOk, Bool.or_eq_true, beq_iff_eq] using hfields

/-! ### Legal values of MODE and FMT -/

theorem modeOk_iff (w : Word) : modeOk w = true ↔ ModeLegal w.toNat := by
  have hhigh : bits 31 8 w = w.toNat / 256 := bits_top 31 8 w (by decide)
  have htype : bits 3 0 w = w.toNat % 16 := bits_low 3 w
  have hround : bits 6 4 w = w.toNat / 16 % 8 := bits_eq_div 6 4 w
  unfold modeOk ModeLegal
  simp only [hhigh, htype, hround, Bool.and_eq_true, decide_eq_true_eq, List.mem_cons, List.not_mem_nil, or_false]
  omega

theorem fmtOk_iff (w : Word) : fmtOk w = true ↔ FmtLegal w.toNat := by
  have hhigh : bits 31 15 w = w.toNat / 2 ^ 15 := bits_top 31 15 w (by decide)
  have hscale : bits 14 12 w = w.toNat / 4096 % 8 := bits_eq_div 14 12 w
  have hsparse : bits 11 10 w = w.toNat / 1024 % 4 := bits_eq_div 11 10 w
  have hmid : bits 9 8 w = w.toNat / 256 % 4 := bits_eq_div 9 8 w
  have ha : bits 3 0 w = w.toNat % 16 := bits_low 3 w
  have hb : bits 7 4 w = w.toNat / 16 % 16 := bits_eq_div 7 4 w
  have htop : w.toNat / 2 ^ 15 = 0 ∧ w.toNat / 4096 % 8 ≤ 1 ↔ w.toNat < 2 ^ 15 ∧ w.toNat / 4096 ≤ 1 := by
    omega
  unfold fmtOk FmtLegal fmtCodeOk
  simp only [hhigh, hscale, hsparse, hmid, ha, hb, Bool.and_eq_true, Bool.or_eq_true, Bool.not_eq_true',
    Bool.and_eq_false_iff, Bool.or_eq_false_iff, decide_eq_true_eq, decide_eq_false_iff_not, List.contains_iff_mem]
  have pair (x y z : Nat) : x ∈ [y, z] ↔ x = y ∨ x = z := List.mem_pair
  rw [htop]
  simp only [pair, imp_iff_not_or, not_or, and_assoc, or_assoc]
  constructor
  · rintro ⟨h15, h12, h10, h8, ha, hb, hpair, hscale⟩
    exact ⟨h15, h8, h10, h12, ha, hb, hpair, hscale⟩
  · rintro ⟨h15, h8, h10, h12, ha, hb, hpair, hscale⟩
    exact ⟨h15, h12, h10, h8, ha, hb, hpair, hscale⟩

/-- R96 to R98: a value that SETM (`mode`) or SETF takes. -/
def FormatLegal (mode : Bool) (n : Nat) : Prop := if mode then ModeLegal n else FmtLegal n

/-- A level with a new MODE or FMT. -/
def Level.withFormat (l : Level) (mode : Bool) (n : Nat) : Level :=
  if mode then { l with mode := BitVec.ofNat 32 n } else { l with fmt := BitVec.ofNat 32 n }

/-- A legal value has no bit beyond a word's. -/
theorem FormatLegal.lt {mode : Bool} {n : Nat} (h : FormatLegal mode n) : n < 2 ^ 32 := by
  cases mode with
  | true => exact h.1.trans (by decide)
  | false => exact h.1.trans (by decide)

/-- R143: the effect writes the value to the top level where it is legal, and is an illegal instruction else. -/
structure WritesFormat (c : Ctx) (s : State) (mode : Bool) (n : Nat) (r : Res) : Prop where
  legal : FormatLegal mode n → r = .done (c.modCp s fun y => y.setTop (y.topLevel.withFormat mode n))
  illegal : ¬FormatLegal mode n → r = .trap 0x01 0 0 0

section
variable (c : Ctx) (s : State)

theorem writesFormat_setMode (w : Word) : WritesFormat c s true w.toNat (c.setMode s w) where
  legal h := by
    unfold Ctx.setMode Level.withFormat
    rw [if_pos ((modeOk_iff w).mpr h), BitVec.ofNat_toNat, BitVec.setWidth_eq]
    rfl
  illegal h := if_neg ((modeOk_iff w).not.mpr h)

theorem writesFormat_setFmt (w : Word) : WritesFormat c s false w.toNat (c.setFmt s w) where
  legal h := by
    unfold Ctx.setFmt Level.withFormat
    rw [if_pos ((fmtOk_iff w).mpr h), BitVec.ofNat_toNat, BitVec.setWidth_eq]
    rfl
  illegal h := if_neg ((fmtOk_iff w).not.mpr h)

/-- A scalar register's value is legal only without high bits, and then as the word that its low bits are. -/
theorem writesFormat_register {mode : Bool} {x : DWord} {r : Res}
    (h : WritesFormat c s mode (x.extractLsb' 0 32).toNat r) :
    WritesFormat c s mode x.toNat (if bits 63 32 x ≠ 0 then .illegal else r) := by
  have hhigh : bits 63 32 x = x.toNat / 2 ^ 32 := bits_top 63 32 x (by decide)
  by_cases hx : x.toNat < 2 ^ 32
  · have hlow : (x.extractLsb' 0 32).toNat = x.toNat := by
      rw [BitVec.extractLsb'_toNat, Nat.shiftRight_zero, Nat.mod_eq_of_lt hx]
    rw [if_neg (by omega), ← hlow]
    exact h
  · rw [if_pos (by omega)]
    exact ⟨fun hl => absurd hl.lt hx, fun _ => rfl⟩

/-- R143: each of the four instructions writes the value that the table of formats gives. -/
theorem does_format {i : Instr} {mode : Bool} {n : Nat} (h : formatValue i c = some (mode, n)) :
    ∃ r, Does i c s r ∧ WritesFormat c s mode n r := by
  cases i with
  | setm p a =>
      obtain ⟨rfl, rfl⟩ : true = mode ∧ (c.s a).toNat = n := by simpa [formatValue] using h
      exact ⟨_, ⟨_, Eq.trans (b := execSetm p a s) rfl (by unfold execSetm; rfl), rfl⟩,
        writesFormat_register c s (writesFormat_setMode c s _)⟩
  | setmLiteral p lit =>
      obtain ⟨rfl, rfl⟩ : true = mode ∧ lit.toNat = n := by simpa [formatValue] using h
      exact ⟨_, ⟨_, Eq.trans (b := execSetmLiteral p lit s) rfl (by unfold execSetmLiteral; rfl), rfl⟩,
        writesFormat_setMode c s lit⟩
  | setf p a =>
      obtain ⟨rfl, rfl⟩ : false = mode ∧ (c.s a).toNat = n := by simpa [formatValue] using h
      exact ⟨_, ⟨_, Eq.trans (b := execSetf p a s) rfl (by unfold execSetf; rfl), rfl⟩,
        writesFormat_register c s (writesFormat_setFmt c s _)⟩
  | setfLiteral p lit =>
      obtain ⟨rfl, rfl⟩ : false = mode ∧ lit.toNat = n := by simpa [formatValue] using h
      exact ⟨_, ⟨_, Eq.trans (b := execSetfLiteral p lit s) rfl (by unfold execSetfLiteral; rfl), rfl⟩,
        writesFormat_setFmt c s lit⟩
  | _ => cases h

end

end Sys2Proof.Machine

section

open Sys2Proof Sys2Proof.Machine

/-- Settles O11: a status is a value of the CP and its pool; SETM and SETF write one field of the top level, and only
a legal value. -/
theorem statusModeAndFormat : Obligations.StatusModeAndFormat := by
  unfold Obligations.StatusModeAndFormat
  refine ⟨⟨fun p d a c s v h hroom hslice hv => ?_, fun p d a c s h hs ha => ?_, fun p a c s h hroom => ?_⟩,
    fun i c s mode n l r h hroom hi hstack => ?_⟩
  · have does := does_getst p d a c s
    rw [Ctx.status_eq hv, if_neg fun hn => by have := hslice hn.1; tauto] at does
    exact does.completes h hroom rfl rfl rfl rfl
  · have does := does_getst p d a c s
    rw [if_pos ⟨hs, ha⟩] at does
    exact does.traps h
  · have does := does_clrst p a c s
    rcases wellFormed_clrst h.legal with rfl | rfl
    · simp only [if_true] at does
      obtain ⟨t, ht, heffect⟩ := does.completes h hroom rfl rfl rfl rfl
      exact ⟨t, _, ht, heffect, rfl, rfl, rfl⟩
    · simp only [show (6 : Byte) ≠ 5 by decide, if_false] at does
      obtain ⟨t, ht, heffect⟩ := does.completes h hroom rfl rfl rfl rfl
      exact ⟨t, _, ht, heffect, rfl, rfl, rfl⟩
  · obtain ⟨res, does, hlegal, hillegal⟩ := does_format c s hi
    refine ⟨fun hl => ?_, fun hl => ?_⟩
    · rw [hlegal hl] at does
      have heffect := does.completes h hroom rfl rfl rfl rfl
      simpa only [Cp.setTop, Cp.topLevel, Level.withFormat, hstack, List.headD_cons, List.tail_cons] using heffect
    · rw [hillegal hl] at does
      exact does.traps h

end

/-! CHKE (R164): the operations that it waits for, and what it does without one. -/

namespace Sys2Proof.Machine

section
variable {c : Ctx} {s : State}

/-- R164: an operation of the CP that a CHKE or an END waits for. -/
def Ctx.Awaits (c : Ctx) (o : Op) : Prop := o ∈ c.pool.ops ∧ o.cp = c.cid ∧ o.kind ≠ .sysc

/-- R183: of the operations to wait for, the one waited for is parked only where all are. -/
theorem Ctx.outstanding_some (h : ∃ o, c.Awaits o) :
    ∃ o, c.outstanding = some o ∧ c.Awaits o ∧ (o.park ≠ none → ∀ k, c.Awaits k → k.park ≠ none) := by
  have mine (o : Op) : (decide (o.cp = c.cid) && o.kind != .sysc) = true ↔ o.cp = c.cid ∧ o.kind ≠ .sysc := by
    rw [Bool.and_eq_true, decide_eq_true_eq, bne_iff_ne]
  unfold Ctx.outstanding
  dsimp only
  cases hfree : c.pool.ops.find? fun o => decide (o.cp = c.cid) && o.kind != .sysc && !o.isParked with
  | some o =>
      have hm := List.mem_of_find?_eq_some hfree
      have ho := List.find?_some hfree
      rw [Bool.and_eq_true, mine, Bool.not_eq_true'] at ho
      exact ⟨o, rfl, ⟨hm, ho.1⟩, fun hp => absurd (Option.isSome_iff_ne_none.mpr hp) (Bool.eq_false_iff.mp ho.2)⟩
  | none =>
      rw [List.find?_eq_none] at hfree
      have hparked (k : Op) (hk : c.Awaits k) : k.park ≠ none := fun hn =>
        hfree k hk.1 (by rw [Bool.and_eq_true, mine, Op.isParked, hn]; exact ⟨hk.2, rfl⟩)
      obtain ⟨k, hk⟩ := h
      cases hany : c.pool.ops.find? fun o => decide (o.cp = c.cid) && o.kind != .sysc with
      | none => exact absurd ((mine k).mpr hk.2) (List.find?_eq_none.mp hany k hk.1)
      | some o =>
          have ho := List.find?_some hany
          exact ⟨o, rfl, ⟨List.mem_of_find?_eq_some hany, (mine o).mp ho⟩, fun _ => hparked⟩

/-- R46: a wait for an operation that is not parked is a plain stall. -/
theorem State.waitOp_free {p k : Nat} {x : Cp} {o : Op} (hx : s.cp? p k = some x) (h : o.park = none) (pc : DWord) :
    s.waitOp p k pc o = s.standAt p k .stall := by
  unfold State.waitOp Op.isParked
  rw [hx, h]
  rfl

variable (p : Option Prefix) (d : Byte)

theorem does_chke_waits {o : Op} (h : c.outstanding = some o) :
    Does (.chke p d) c s (.stay (s.waitOp c.pid c.cid c.cp.pc o)) := by
  refine ⟨_, Eq.trans (b := execChke p d s) rfl (by unfold execChke; rfl), ?_⟩
  rw [h]

theorem does_chke (h : c.outstanding = none) : Does (.chke p d) c s
    (if c.cp.cki.getLsbD 31 = true then .trap 0x10 0 0 0
      else .done (c.modCp s fun y => y.setS d.toNat (y.cki.zeroExtend 64))) := by
  refine ⟨_, Eq.trans (b := execChke p d s) rfl (by unfold execChke; rfl), ?_⟩
  rw [h]
  rfl

end

end Sys2Proof.Machine

section

open Sys2Proof Sys2Proof.Machine

/-- Settles O12: the operation that CHKE waits for is a free one where there is one; without any, CKI decides. -/
theorem consumeCheck : Obligations.ConsumeCheck := by
  unfold Obligations.ConsumeCheck
  intro p d c s h hroom mine
  have hcp : s.cp? c.pid c.cid = some c.cp := by rw [State.cp?_of_pool? h.pool, h.cp]
  have hnone (hm : ∀ o, ¬mine o) : c.outstanding = none :=
    Ctx.outstanding_none fun o ho hc => not_not.mp fun hk => hm o ⟨ho, hc, hk⟩
  refine ⟨fun ⟨o, ho, hfree⟩ => ?_, fun hex _ => ?_, fun hm hp => ?_, fun hm hp => ?_⟩
  · obtain ⟨k, hk, -, hparked⟩ := Ctx.outstanding_some ⟨o, ho⟩
    have hkfree : k.park = none := not_not.mp fun hne => hparked hne o ho hfree
    rw [Stalls, (does_chke_waits p d hk).stays h, State.waitOp_free hcp hkfree]
  · obtain ⟨k, hk, hmine, -⟩ := Ctx.outstanding_some hex
    exact ⟨k, hmine, (does_chke_waits p d hk).stays h⟩
  · have does := does_chke p d (s := s) (hnone hm)
    rw [if_pos hp] at does
    exact does.traps h
  · have does := does_chke p d (s := s) (hnone hm)
    rw [if_neg (Bool.eq_false_iff.mp hp)] at does
    exact does.completes h hroom rfl rfl rfl rfl

end

/-! RGET and RPUT (R152), and what registers read after zeros and then elements are written to them (R19, R44). -/

namespace Sys2Proof.Machine

/-! ### Zeros and elements written one after the other -/

theorem lowPart_zero (wide : Bool) : lowPart wide 0 = 0 := by
  cases wide <;> rfl

/-- R19, R44: elements written after zeros read back, a thread of the zeros alone reads 0, and no other register
differs. -/
theorem Pool.delivered_setElems (p : Pool) {wide : Bool} {n : Nat} {l : List (Nat × DWord)} (zero : Mask)
    (hn : FitsPair wide n) (hd : (l.map (·.1)).Nodup) :
    Delivered wide n l (Mask.tids zero p.threads) p ((p.zeroElems wide n zero).setElems wide n l) where
  lane e he := Pool.getElem_setElems _ wide n l hn hd e he
  zeros u hu hne := by
    have hkept (m : Nat) (hm : m < 256) :
        ((p.zeroElems wide n zero).setElems wide n l).reg u m = (p.zeroElems wide n zero).reg u m :=
      Pool.reg_setElems _ _ _ _ _ _ hn hm fun hw => by
        obtain ⟨e, he, heq⟩ := List.mem_map.mp hw.1
        exact hne e he heq
    have hzeros : (((Mask.tids zero p.threads).map fun t => (t, (0 : DWord))).map (·.1)).Nodup := by
      simpa [Function.comp_def] using Mask.nodup_tids zero p.threads
    rw [Pool.getElem_congr _ _ _ (hkept _ hn.1) fun hw => hkept _ (hn.2 hw), Pool.zeroElems_eq,
      Pool.getElem_setElems _ _ _ _ hn hzeros (u, 0) (List.mem_map_of_mem hu), lowPart_zero]
  other u m hm h := by
    rw [Pool.reg_setElems _ _ _ _ _ _ hn hm fun hw => h ⟨hw.2, .inr (by simpa using hw.1)⟩, Pool.zeroElems_eq,
      Pool.reg_setElems _ _ _ _ _ _ hn hm fun hw => h ⟨hw.2, .inl (by simpa using hw.1)⟩]

theorem Pool.undoOn_zeros_setElems (p : Pool) (wide : Bool) (n : Nat) (zero : Mask) (l : List (Nat × DWord))
    (k : Nat) :
    ((p.zeroElems wide n zero).setElems wide n l).undoOn k ≤
      p.undoOn k + 8 * (l.length + (Mask.tids zero p.threads).length) := by
  have hl := Pool.undoOn_setElems (p.zeroElems wide n zero) wide n l k
  have hz := Pool.undoOn_setElems p wide n ((Mask.tids zero p.threads).map fun t => (t, 0)) k
  rw [List.length_map, ← Pool.zeroElems_eq] at hz
  omega

theorem Pool.same_zeros_setElems (p : Pool) (wide : Bool) (n : Nat) (zero : Mask) (l : List (Nat × DWord)) :
    SameButRegs p ((p.zeroElems wide n zero).setElems wide n l) := by
  rw [Pool.zeroElems_eq]
  exact (Pool.same_setElems _ _ _ _).trans (Pool.same_setElems _ _ _ _)

/-! ### The lowest thread of a set -/

/-- R32: the threads of a set come in ascending order. -/
theorem Mask.tids_ascend (m : Mask) (n : Nat) : (Mask.tids m n).Pairwise (· < ·) := by
  unfold Mask.tids
  rw [List.pairwise_flatMap]
  refine ⟨fun w _ => ?_, List.pairwise_lt_range.imp fun {a b} hab x hx y hy => ?_⟩
  · dsimp only
    split
    · exact List.Pairwise.nil
    · exact (List.pairwise_lt_range.filter _).map _ fun a b h => by omega
  · dsimp only at hx hy
    split at hx
    · cases hx
    split at hy
    · cases hy
    obtain ⟨i, hi, rfl⟩ := List.mem_map.mp hx
    obtain ⟨j, -, rfl⟩ := List.mem_map.mp hy
    have := List.mem_range.mp (List.mem_filter.mp hi).1
    omega

theorem Mask.head?_tids {m : Mask} {n u : Nat} (h : (Mask.tids m n).head? = some u) :
    u < 32 * ((n + 31) / 32) ∧ Lowest m u := by
  obtain ⟨r, hr⟩ := List.head?_eq_some_iff.mp h
  have hasc := Mask.tids_ascend m n
  have hmem (t : Nat) := Mask.mem_tids m n t
  rw [hr] at hasc hmem
  obtain ⟨hlt, hbit⟩ := (hmem u).mp List.mem_cons_self
  refine ⟨hlt, hbit, fun t ht => Bool.eq_false_iff.mpr fun hb => ?_⟩
  rcases List.mem_cons.mp ((hmem t).mpr ⟨by omega, hb⟩) with rfl | hin
  · exact lt_irrefl t ht
  · exact lt_asymm ht ((List.pairwise_cons.mp hasc).1 t hin)

theorem Lowest.unique {m : Mask} {t u : Nat} (ht : Lowest m t) (hu : Lowest m u) : t = u := by
  rcases lt_trichotomy t u with h | h | h
  · exact absurd ht.1 (Bool.eq_false_iff.mp (hu.2 t h))
  · exact h
  · exact absurd hu.1 (Bool.eq_false_iff.mp (ht.2 u h))

theorem Mask.mem_tids_lowest {m : Mask} {n t : Nat} :
    t ∈ Mask.tids (Mask.lowest m) n ↔ (Mask.tids m n).head? = some t := by
  rw [Mask.mem_tids, Mask.getLsbD_lowest]
  refine ⟨fun ⟨hlt, hlow⟩ => ?_, Mask.head?_tids⟩
  have hmem := (Mask.mem_tids m n t).mpr ⟨hlt, hlow.1⟩
  cases hh : (Mask.tids m n).head? with
  | none => rw [List.head?_eq_none_iff.mp hh] at hmem; cases hmem
  | some u => rw [(Mask.head?_tids hh).2.unique hlow]

@[simp] theorem Mask.tids_zero (n : Nat) : Mask.tids 0#16384 n = [] :=
  List.eq_nil_iff_forall_not_mem.mpr fun t ht => by simpa using ((Mask.mem_tids 0#16384 n t).mp ht).2

theorem Mask.mem_tids_diff {a b : Mask} {n t : Nat} :
    t ∈ Mask.tids (a &&& ~~~b) n ↔ t ∈ Mask.tids a n ∧ t ∉ Mask.tids b n := by
  simp only [Mask.mem_tids, BitVec.getLsbD_and, BitVec.getLsbD_not, Bool.and_eq_true, Bool.not_eq_true',
    decide_eq_true_eq, not_and, Bool.not_eq_true]
  refine ⟨fun ⟨hlt, ha, _, hb⟩ => ⟨⟨hlt, ha⟩, fun _ => hb⟩, fun ⟨⟨hlt, ha⟩, hb⟩ => ?_⟩
  exact ⟨hlt, ha, BitVec.lt_of_getLsbD ha, hb hlt⟩

theorem Mask.length_tids_lowest (m : Mask) (n : Nat) : (Mask.tids (Mask.lowest m) n).length ≤ 1 := by
  have hsub : Mask.tids (Mask.lowest m) n ⊆ (Mask.tids m n).head?.toList := fun t ht => by
    rw [Mask.mem_tids_lowest.mp ht]
    exact List.mem_singleton_self t
  exact (List.subperm_of_subset (Mask.nodup_tids _ _) hsub).length_le.trans (Option.length_toList_le)

/-- R31: of a pool's threads there are no more than its size. -/
theorem Mask.length_tids_and_full (m : Mask) (n : Nat) : (Mask.tids (Mask.full n &&& m) n).length ≤ n := by
  have hsub : Mask.tids (Mask.full n &&& m) n ⊆ List.range n := fun t ht => by
    have hbit := ((Mask.mem_tids _ _ _).mp ht).2
    have hlt := BitVec.lt_of_getLsbD hbit
    rw [BitVec.getLsbD_and, Mask.getLsbD_full n t hlt, Bool.and_eq_true, decide_eq_true_eq] at hbit
    exact List.mem_range.mpr hbit.1
  have hle := (List.subperm_of_subset (Mask.nodup_tids _ _) hsub).length_le
  rwa [List.length_range] at hle

/-! ### RGET and RPUT -/

section
variable (p : Option Prefix) (d a b : Byte) (c : Ctx) (s : State)

theorem does_rget : Does (.rget p d a) c s (.done (c.modCp s fun y => y.setS d.toNat
    (match c.tids with | u :: _ => c.pool.getElem c.wide u a.toNat | [] => 0))) := by
  refine ⟨_, Eq.trans (b := execRget p d a s) rfl (by unfold execRget; rfl), ?_⟩
  cases c.tids <;> rfl

/-- R152: the threads that the zero form of an RPUT clears: all but the lowest responder. -/
def Ctx.cleared (c : Ctx) : Mask := if c.zeroForm then c.all &&& ~~~Mask.lowest c.set else 0

/-- R152: the lowest responder, where there is one, with the value it receives. -/
def Ctx.putLane (c : Ctx) (b : Byte) : List (Nat × DWord) :=
  (Mask.tids (Mask.lowest c.set) c.pool.threads).map fun u => (u, c.s b)

/-- R152: the pool after an RPUT. -/
def Ctx.afterPut (c : Ctx) (d b : Byte) : Pool :=
  (c.pool.zeroElems c.wide d.toNat c.cleared).setElems c.wide d.toNat (c.putLane b)

variable {c s}

theorem Ctx.mem_putLane {e : Nat × DWord} : e ∈ c.putLane b ↔ c.tids.head? = some e.1 ∧ e.2 = c.s b := by
  unfold Ctx.putLane Ctx.tids
  rw [List.mem_map]
  refine ⟨fun ⟨u, hu, he⟩ => ?_, fun ⟨hu, he⟩ => ⟨e.1, Mask.mem_tids_lowest.mpr hu, by rw [← he]⟩⟩
  subst he
  exact ⟨Mask.mem_tids_lowest.mp hu, rfl⟩

theorem Ctx.mem_cleared {u : Nat} : u ∈ Mask.tids c.cleared c.pool.threads ↔
    c.zeroForm = true ∧ u ∈ Mask.tids c.all c.pool.threads ∧ c.tids.head? ≠ some u := by
  unfold Ctx.cleared Ctx.tids
  cases c.zeroForm with
  | false => simp
  | true =>
      rw [if_pos rfl, Mask.mem_tids_diff, Mask.mem_tids_lowest]
      exact (and_iff_right rfl).symm

theorem does_rput : Does (.rput p d b) c s (.done (c.modPool s fun q =>
    (q.zeroElems c.wide d.toNat c.cleared).setElems c.wide d.toNat
      ((Mask.tids (Mask.lowest c.set) q.threads).map fun u => (u, c.s b)))) :=
  ⟨_, Eq.trans (b := execRput p d b s) rfl (by unfold execRput; rfl), rfl⟩

theorem Ctx.length_putLane : (c.putLane b).length ≤ 1 := by
  unfold Ctx.putLane
  rw [List.length_map]
  exact Mask.length_tids_lowest _ _

theorem Ctx.length_cleared : (Mask.tids c.cleared c.pool.threads).length ≤ c.pool.threads := by
  unfold Ctx.cleared
  split
  · exact Mask.length_tids_and_full _ _
  · simp

/-- R152, R180: an RPUT whose old values find room in the undo log changes its pool's registers. -/
theorem rput_completes (h : Issues (.rput p d b) c s) (hr : UndoRoom c s (8 * (1 + c.pool.threads))) :
    ∃ t, exec (.rput p d b) s = .next t ∧ Effect (.rput p d b) c s t (c.afterPut d b) c.cp := by
  obtain ⟨body, hx, hb⟩ := does_rput (s := s) p d b (c := c)
  have same := c.pool.same_zeros_setElems c.wide d.toNat c.cleared (c.putLane b)
  have hcores : (c.afterPut d b).cores = c.pool.cores := by 
    unfold Pool.cores
    rw [show (c.afterPut d b).parts = c.pool.parts from same.parts]
  rw [← Ctx.modCp_id c (c.modPool s _)] at hb
  refine completes_of h hx h.pool h.cp _ id hb _ hr hcores (fun k => ?_) same.cps rfl rfl rfl rfl
  have hundo := c.pool.undoOn_zeros_setElems c.wide d.toNat c.cleared (c.putLane b) k
  have hlane := c.length_putLane b
  have hcleared := c.length_cleared
  exact hundo.trans (by omega)

theorem Ctx.delivered_afterPut {d : Byte} (hn : FitsPair c.wide d.toNat) : Delivered c.wide d.toNat (c.putLane b)
    (Mask.tids c.cleared c.pool.threads) c.pool (c.afterPut d b) :=
  c.pool.delivered_setElems c.cleared hn (by
    simpa [Ctx.putLane, Function.comp_def] using Mask.nodup_tids (Mask.lowest c.set) c.pool.threads)

end

end Sys2Proof.Machine

section

open Sys2Proof Sys2Proof.Machine

/-- Settles O17: RGET changes its CP; RPUT writes the lowest responder's element after the zeros of its zero form. -/
theorem oneResponder : Obligations.OneResponder := by
  unfold Obligations.OneResponder
  refine ⟨fun p d a c s h hroom => (does_rget p d a c s).completes h hroom rfl rfl rfl rfl, fun p d b c s h hroom => ?_⟩
  obtain ⟨t, ht, heffect⟩ := rput_completes p d b h hroom
  have hdelivered := c.delivered_afterPut b (h.fitsPair List.mem_cons_self)
  refine ⟨t, _, ht, heffect, fun u hu => ?_, fun u hall hz hu => ?_, fun u n hn hne => ?_,
    c.pool.same_zeros_setElems _ _ _ _⟩
  · exact hdelivered.lane (u, c.s b) ((Ctx.mem_putLane b).mpr ⟨hu, rfl⟩)
  · refine hdelivered.zeros u (Ctx.mem_cleared.mpr ⟨hz, hall, hu⟩) fun e he heq => hu ?_
    rw [← heq]
    exact ((Ctx.mem_putLane b).mp he).1
  · refine hdelivered.other u n hn fun ⟨hw, hin⟩ => hne ⟨?_, hw⟩
    rcases hin with hin | ⟨e, he, rfl⟩
    · obtain ⟨hz, hall, -⟩ := Ctx.mem_cleared.mp hin
      exact .inr ⟨hz, hall⟩
    · exact .inl ((Ctx.mem_putLane b).mp he).1

end

/-! FENCE and SUCC (R161, R279, R325). -/

namespace Sys2Proof.Machine

/-- An effect on the pool and the CP of a state in which they are as they were at the issue. -/
theorem effect_finish_of_pool {i : Instr} {c : Ctx} {s : State} (hp : s.pool? c.pid = some c.pool)
    (hc : c.pool.cp? c.cid = some c.cp) (f : Cp → Cp) (hpc : (f c.cp).pc = c.cp.pc)
    (hcl : (f c.cp).clause = c.cp.clause) (hh : (f c.cp).holdLeft = c.cp.holdLeft)
    (hb : (f c.cp).begun = c.cp.begun) :
    Effect i c s (c.finish (shapeOf i) i.words (c.modCp s f)) c.pool (f c.cp) := by
  have he := effect_finish (i := i) hp hc id f rfl hpc hcl hh hb
  rwa [Ctx.modPool, State.modPool_id] at he

section
variable (p : Option Prefix) (ord : BitVec 2) (scope : BitVec 3) {c : Ctx} {s : State}

/-! ### FENCE -/

/-- R287: a timestamp changes the clocks of cores alone. -/
theorem stamped_pools (c : Ctx) (n : Nat) (s : State) : (stamped c n s).2.pools = s.pools := by
  unfold stamped
  dsimp only
  split <;> rfl

theorem stamped_journal (c : Ctx) (n : Nat) (s : State) : (stamped c n s).2.journal = s.journal := by
  unfold stamped
  dsimp only
  split <;> rfl

theorem pool?_stamped (c : Ctx) (n : Nat) (s : State) (q : Nat) : (stamped c n s).2.pool? q = s.pool? q := by
  unfold State.pool?
  rw [stamped_pools]

theorem sameCommit_stamped (c : Ctx) (n : Nat) (s : State) : SameCommit s (stamped c n s).2 :=
  ⟨stamped_journal c n s, by rw [stamped_pools]⟩

theorem SameCommit.trans {s t u : State} (h : SameCommit s t) (k : SameCommit t u) : SameCommit s u :=
  ⟨k.journal.trans h.journal, k.pools.trans h.pools⟩

/-- R277: a record whose bytes the pool has read is under way. -/
theorem State.seenOpen_iff {pid : Nat} {q : Pool} (h : s.pool? pid = some q) :
    s.seenOpen pid = true ↔ ∃ r ∈ s.records, r.id ∈ q.seen := by
  unfold State.seenOpen
  rw [h]
  simp

theorem does_fence_waits {o : Op} (h : c.earlier = some o) :
    Does (.fence p ord scope) c s (.stay (s.waitOp c.pid c.cid c.cp.pc o)) := by
  refine ⟨_, Eq.trans (b := execFence p ord scope s) rfl (by unfold execFence; rfl), ?_⟩
  unfold Ctx.afterEarlier
  rw [h]

/-- R161, R279: with no earlier access outstanding, a FENCE waits for what it acquires, commits what it releases, and
drops what it may not read again. -/
theorem does_fence (hp : s.pool? c.pid = some c.pool) (hn : NoneEarlier c) : Does (.fence p ord scope) c s
    (if ord ≠ 2 ∧ 2 ≤ scope.toNat ∧ ∃ r ∈ s.records, r.id ∈ c.pool.seen then .stay (s.standAt c.pid c.cid .stall)
    else if ord ≠ 1 ∧ 2 ≤ scope.toNat then
      c.commitPoint (shapeOf (.fence p ord scope)) (Instr.fence p ord scope).words s
        (c.modCp (stamped c ord.toNat s).2 fun y => { y with fencedRel := true }) none { sys := scope.toNat = 5 }
        (if ord ≠ 2 ∧ 3 ≤ scope.toNat then .acquire else .go)
    else .done (if ord ≠ 2 ∧ 3 ≤ scope.toNat then (stamped c ord.toNat s).2.invalidate c.pool.cluster
      else (stamped c ord.toNat s).2)) := by
  refine ⟨_, Eq.trans (b := execFence p ord scope s) rfl (by unfold execFence; rfl), ?_⟩
  have h1 : ord = 1 ↔ ord.toNat = 1 := BitVec.toNat_inj.symm
  have h2 : ord = 2 ↔ ord.toNat = 2 := BitVec.toNat_inj.symm
  have h5 : scope = 5 ↔ scope.toNat = 5 := BitVec.toNat_inj.symm
  unfold Ctx.afterEarlier
  rw [show c.earlier = none from hn]
  simp only [ne_eq, h1, h2, h5, Bool.and_eq_true, decide_eq_true_eq, State.seenOpen_iff hp, and_assoc]
  rfl

/-! ### SUCC -/

theorem does_succ_slice (h : c.pool.rslice = true) : Does (.succ p) c s (.trap 0x0F 0 0 0) :=
  ⟨_, Eq.trans (b := execSucc p s) rfl (by unfold execSucc; rfl), if_pos h⟩

/-- R325: the pool of a task that has signalled, where it signals. -/
def Pool.signal (q : Pool) (sends : Bool) : Pool :=
  { q with task := { q.task with signalled := q.task.signalled || sends } }

theorem does_succ (h : c.pool.rslice = false) {sends : Bool}
    (hs : sends = (c.pool.task.record.succb != 0 && !c.pool.task.signalled)) : Does (.succ p) c s
    (c.commitPoint (shapeOf (.succ p)) (Instr.succ p).words s (c.modPool s fun q => q.signal sends) none
      { signals := if sends then [(c.pid, true)] else [], marks := true } .go) := by
  subst hs
  exact ⟨_, Eq.trans (b := execSucc p s) rfl (by unfold execSucc; rfl), if_neg (Bool.eq_false_iff.mp h)⟩

/-- R325: a signal changes no commit point. -/
theorem sameCommit_signal (s : State) (pid : Nat) (sends : Bool) :
    SameCommit s (s.modPool pid fun q => q.signal sends) :=
  ⟨rfl, modPool_view s _ _ fun _ => rfl⟩

end

end Sys2Proof.Machine

section

open Sys2Proof Sys2Proof.Machine

/-- Settles O32: a FENCE without earlier accesses and a SUCC are commit points of a state that commits as before. -/
theorem fenceAndSucc : Obligations.FenceAndSucc := by
  unfold Obligations.FenceAndSucc
  refine ⟨fun p ord scope c s h hn => ?_, fun p ord scope c s o h ho => (does_fence_waits p ord scope ho).stays h,
    fun p c s h => ⟨fun hs => (does_succ_slice p hs).traps h, fun hs sends hsends => ?_⟩⟩
  · intro s1 acquires under
    have hp : s1.pool? c.pid = some c.pool := (pool?_stamped c _ s _).trans h.pool
    have does := does_fence p ord scope h.pool hn
    have hcan : (c.modCp s1 fun y => { y with fencedRel := true }).canCommit c.pid none = s.canCommit c.pid none :=
      canCommit_congr ((sameCommit_stamped c ord.toNat s).trans (sameCommit_modCp c s1 _)) _ _
    refine ⟨fun hu => ?_, fun hu h1 h2 hc => ?_, fun hu h1 h2 hc => ?_, fun hu hout hroom => ?_⟩
    · rw [if_pos hu] at does
      exact does.stays h
    · rw [if_neg hu, if_pos ⟨h1, h2⟩] at does
      exact does.commits h (hcan.trans hc) (effect_finish_of_pool hp h.cp _ rfl rfl rfl rfl)
    · rw [if_neg hu, if_pos ⟨h1, h2⟩] at does
      exact does.stands h (hcan.trans hc)
    · rw [if_neg hu, if_neg fun hrel => hout.elim hrel.1 (by omega)] at does
      by_cases ha : acquires
      · rw [if_pos ha] at does
        obtain ⟨t, ht, heffect⟩ := does.completes_at h hp h.cp hroom
        exact ⟨t, _, ht, heffect, fun _ => rfl, fun hna => absurd ha hna⟩
      · rw [if_neg ha] at does
        obtain ⟨t, ht, heffect⟩ := does.completes_at h hp h.cp hroom
        exact ⟨t, _, ht, heffect, fun hna => absurd hna ha, fun _ => rfl⟩
  · have does := does_succ p hs hsends (s := s)
    have hcan := canCommit_congr (sameCommit_signal s c.pid sends) c.pid none
    have heffect := effect_finish (i := .succ p) h.pool h.cp (·.signal sends) id rfl rfl rfl rfl rfl
    rw [Ctx.modCp_id] at heffect
    exact ⟨fun hc => does.commits h (hcan.trans hc) heffect, fun hc => does.stands h (hcan.trans hc)⟩

end

/-! The services of a SYSC (R162, R299, R341 to R343, R352): what each answers, and where its results go. -/

namespace Sys2Proof.Machine

/-! ### The errors of a service -/

section
variable {s : State} {asid op service : Nat} {args : List Word} {r v : DWord} {data : List Byte}

theorem mem_ite_nil_singleton {b : Prop} [Decidable b] {x : DWord} : v ∈ (if b then [] else [x]) ↔ v = x ∧ ¬b := by
  by_cases h : b <;> simp [h]

/-- R342: a handle that is not open or of the wrong kind, and no handle left. -/
theorem State.mem_handleErrors : v ∈ s.handleErrors asid service args ↔
    (v = -2 ∧ ((service = 0x02 ∧ s.handleKind ((s.tenant asid).getD 0) (args.getD 0 0).toNat = none) ∨
      (service ∈ [0x03, 0x04] ∧ s.handleKind ((s.tenant asid).getD 0) (args.getD 0 0).toNat ≠ some 0) ∨
      (service ∈ [0x11, 0x12] ∧ s.handleKind ((s.tenant asid).getD 0) (args.getD 0 0).toNat ≠ some 1))) ∨
    (v = -7 ∧ service ∈ [0x01, 0x10] ∧ ∀ j, j < 4096 → s.handleKind ((s.tenant asid).getD 0) j ≠ none) := by
  unfold State.handleErrors
  dsimp only
  split
  case h_1 | h_2 | h_3 | h_4 | h_5 => simp [and_comm]
  case h_6 | h_7 => simp [and_comm, Option.isSome_iff_ne_none]
  case h_8 h2 h3 h4 h11 h12 h1 h10 =>
    simp only [List.mem_cons, List.not_mem_nil, or_false]
    tauto

/-- R342, R352: no such peer, and a link that is fenced or has been since the SYSC began. -/
theorem State.mem_peerErrors : v ∈ s.peerErrors op service args ↔ service ∈ [0x30, 0x31] ∧
    ((v = -5 ∧ 8 ≤ (args.getD 0 0).toNat) ∨ (v = -6 ∧ (args.getD 0 0).toNat < 8 ∧
      ((s.link (args.getD 0 0).toNat).fenced = true ∨ (op, (args.getD 0 0).toNat) ∈ s.peerCut))) := by
  have hservice : peerService service = true ↔ service ∈ [0x30, 0x31] := by simp [peerService]
  unfold State.peerErrors
  simp only [Bool.not_eq_true', Bool.or_eq_true, List.contains_iff_mem, ← hservice]
  generalize (args.getD 0 0).toNat = port
  cases peerService service with
  | false => simp
  | true =>
      by_cases hport : 8 ≤ port
      · simp [hport, Nat.not_lt.mpr hport]
      · simp [hport, Nat.not_le.mp hport, and_comm]

/-- R342: a length over the limit is the only error of a buffer. -/
theorem State.bufferErrors_long (h : 2 ^ 24 < serviceLength service args) : s.bufferErrors asid service args = [-7] :=
  if_pos h

/-- R342: a buffer or block out of reach. -/
theorem State.mem_bufferErrors {a m : Nat} {rd wr : Bool} (hb : serviceBuffer service args = some (a, m, rd, wr))
    (h : serviceLength service args ≤ 2 ^ 24) : v ∈ s.bufferErrors asid service args ↔
      v = -3 ∧ ((rd = true ∧ s.accessible asid a m false = false) ∨
        (wr = true ∧ s.accessible asid a m true = false)) := by
  unfold State.bufferErrors
  rw [if_neg (Nat.not_lt.mpr h), hb]
  simp only [mem_ite_nil_singleton, Bool.and_eq_true, Bool.or_eq_true, Bool.not_eq_true', not_and_or, not_or,
    Bool.not_eq_true, Bool.not_eq_false]

theorem State.bufferErrors_cases (h : v ∈ s.bufferErrors asid service args) : v = -3 ∨ v = -7 := by
  unfold State.bufferErrors at h
  split at h
  · exact .inr (List.mem_singleton.mp h)
  · split at h
    · exact .inl (mem_ite_nil_singleton.mp h).1
    · split at h
      · cases h
      · split at h
        · exact .inl (List.mem_singleton.mp h)
        · exact .inr (mem_ite_nil_singleton.mp h).1

theorem State.mem_serviceErrors : v ∈ s.serviceErrors asid op service args ↔
    v ∈ s.handleErrors asid service args ∨ v ∈ s.bufferErrors asid service args ∨ v ∈ s.peerErrors op service args := by
  simp [State.serviceErrors]

/-! ### The results of a service -/

/-- R341: the call has a known service, its number of arguments and no unknown open flag. -/
structure ServiceCall (service : Nat) (args : List Word) : Prop where
  count : serviceArgs service = some args.length
  flags : service = 1 → (args.getD 2 0).toNat < 8

theorem openFlags_eq (w : Word) : bits 31 3 w = w.toNat / 8 := bits_top 31 3 w (by decide)

theorem State.serviceResult_unknown (h : serviceArgs service = none) :
    s.serviceResult asid op service args r data = -1 := by
  unfold State.serviceResult
  rw [h]

theorem State.serviceResult_badCount {k : Nat} (h : serviceArgs service = some k) (hk : args.length ≠ k) :
    s.serviceResult asid op service args r data = -9 := by
  unfold State.serviceResult
  rw [h]
  exact if_pos hk

theorem State.serviceResult_badFlags (h : args.length = 3) (hf : 8 ≤ (args.getD 2 0).toNat) :
    s.serviceResult asid op 1 args r data = -9 := by
  have hbits : bits 31 3 (args.getD 2 0) ≠ 0 := by
    rw [openFlags_eq]
    omega
  unfold State.serviceResult
  exact (if_neg (not_not_intro h)).trans (if_pos (by simpa using hbits))

/-- R342: a proper call answers an error that holds, what Unquel has found, or its own result. -/
theorem State.serviceResult_call (h : ServiceCall service args) : s.serviceResult asid op service args r data =
    match s.serviceErrors asid op service args with
    | e :: es => if (e :: es).contains r then r else e
    | [] => if r.toInt < 0 then (if [-8, -6, -5, -4].contains r.toInt then r else -6)
        else s.serviceValue asid service args r data := by
  have hflags : ¬(decide (service = 1) && decide (bits 31 3 (args.getD 2 0) ≠ 0)) = true := by
    rw [Bool.and_eq_true, decide_eq_true_eq, decide_eq_true_eq, openFlags_eq]
    rintro ⟨h1, hne⟩
    have := h.flags h1
    omega
  unfold State.serviceResult
  rw [h.count]
  exact (if_neg (not_not_intro rfl)).trans (if_neg hflags)

theorem State.serviceResult_error (h : ServiceCall service args) (hE : s.serviceErrors asid op service args ≠ []) :
    s.serviceResult asid op service args r data ∈ s.serviceErrors asid op service args ∧
      (r ∈ s.serviceErrors asid op service args → s.serviceResult asid op service args r data = r) := by
  rw [State.serviceResult_call h]
  cases he : s.serviceErrors asid op service args with
  | nil => exact absurd he hE
  | cons e es =>
      dsimp only
      by_cases hr : r ∈ e :: es
      · rw [if_pos (List.contains_iff_mem.mpr hr)]
        exact ⟨hr, fun _ => rfl⟩
      · rw [if_neg (List.contains_iff_mem.not.mpr hr)]
        exact ⟨List.mem_cons_self, fun hin => absurd hin hr⟩

section
variable (h : ServiceCall service args) (hE : s.serviceErrors asid op service args = [])
include h hE

theorem State.serviceResult_found (hr : r.toInt < 0) :
    (s.serviceResult asid op service args r data).toInt ∈ [-8, -6, -5, -4] ∧
      (r.toInt ∈ [-8, -6, -5, -4] → s.serviceResult asid op service args r data = r) := by
  rw [State.serviceResult_call h, hE]
  dsimp only
  rw [if_pos hr]
  by_cases hin : r.toInt ∈ [-8, -6, -5, -4]
  · rw [if_pos (List.contains_iff_mem.mpr hin)]
    exact ⟨hin, fun _ => rfl⟩
  · rw [if_neg (List.contains_iff_mem.not.mpr hin)]
    exact ⟨by decide, fun hr => absurd hr hin⟩

theorem State.serviceResult_value (hr : 0 ≤ r.toInt) :
    s.serviceResult asid op service args r data = s.serviceValue asid service args r data := by
  rw [State.serviceResult_call h, hE]
  exact if_neg (not_lt.mpr hr)

end

theorem State.longTransfer_mem (h : 2 ^ 24 < serviceLength service args) :
    (-7 : DWord) ∈ s.serviceErrors asid op service args :=
  State.mem_serviceErrors.mpr (.inr (.inl (by rw [State.bufferErrors_long h]; exact List.mem_singleton_self _)))

/-- R341: a tenant with every handle open gets none. -/
theorem State.noHandle_mem (hs : service ∈ [0x01, 0x10])
    (h : ∀ j, j < 4096 → s.handleKind ((s.tenant asid).getD 0) j ≠ none) :
    (-7 : DWord) ∈ s.serviceErrors asid op service args :=
  State.mem_serviceErrors.mpr (.inl (State.mem_handleErrors.mpr (.inr ⟨rfl, hs, h⟩)))

/-- R342: a transfer without an error keeps to 16 MiB. -/
theorem State.length_of_noErrors (hE : s.serviceErrors asid op service args = []) :
    serviceLength service args ≤ 2 ^ 24 := by
  by_contra hlong
  have hin := State.longTransfer_mem (s := s) (asid := asid) (op := op) (not_le.mp hlong)
  rw [hE] at hin
  cases hin

/-- R341: without an error the tenant has a handle left, and gets one that is free. -/
theorem State.serviceValue_handle (hs : service ∈ [0x01, 0x10]) (hE : s.serviceErrors asid op service args = []) :
    (s.serviceValue asid service args r data).toNat < 4096 ∧
      s.handleKind ((s.tenant asid).getD 0) (s.serviceValue asid service args r data).toNat = none := by
  have hvalue : s.serviceValue asid service args r data =
      if r.toNat < 4096 ∧ (s.handleKind ((s.tenant asid).getD 0) r.toNat).isNone then r
      else BitVec.ofNat 64 (((List.range 4096).find? fun h =>
        (s.handleKind ((s.tenant asid).getD 0) h).isNone).getD 0) := by
    simp only [List.mem_cons, List.not_mem_nil, or_false] at hs
    rcases hs with rfl | rfl
    · rfl
    · rfl
  have hfree : ∃ j, j < 4096 ∧ s.handleKind ((s.tenant asid).getD 0) j = none := by
    by_contra hall
    push Not at hall
    have hin := State.noHandle_mem (s := s) (asid := asid) (op := op) (args := args) hs hall
    rw [hE] at hin
    cases hin
  rw [hvalue]
  split
  case isTrue hr => exact ⟨hr.1, Option.isNone_iff_eq_none.mp hr.2⟩
  case isFalse =>
    cases hf : (List.range 4096).find? fun h => (s.handleKind ((s.tenant asid).getD 0) h).isNone with
    | none =>
        obtain ⟨j, hj, hk⟩ := hfree
        exact absurd (Option.isNone_iff_eq_none.mpr hk) (List.find?_eq_none.mp hf j (List.mem_range.mpr hj))
    | some j =>
        have hj := List.mem_range.mp (List.mem_of_find?_eq_some hf)
        have hk := List.find?_some hf
        rw [Option.getD_some, BitVec.toNat_ofNat, Nat.mod_eq_of_lt (by omega)]
        exact ⟨hj, Option.isNone_iff_eq_none.mp hk⟩

/-- R341: a read service answers the length that it moved. -/
theorem State.serviceValue_read (hs : service ∈ [0x03, 0x12, 0x31]) (hn : serviceLength service args ≤ 2 ^ 24) :
    (s.serviceValue asid service args r data).toNat = min (serviceLength service args) data.length := by
  have hvalue : s.serviceValue asid service args r data =
      BitVec.ofNat 64 (data.take (serviceLength service args)).length := by
    simp only [List.mem_cons, List.not_mem_nil, or_false] at hs
    rcases hs with rfl | rfl | rfl
    · rfl
    · rfl
    · rfl
  rw [hvalue, List.length_take, BitVec.toNat_ofNat, Nat.mod_eq_of_lt (by omega)]

theorem State.serviceValue_write (hs : service ∈ [0x04, 0x11, 0x30]) :
    (s.serviceValue asid service args r data).toNat = min r.toNat (serviceLength service args) := by
  have hvalue : s.serviceValue asid service args r data =
      BitVec.ofNat 64 (min r.toNat (serviceLength service args)) := by
    simp only [List.mem_cons, List.not_mem_nil, or_false] at hs
    rcases hs with rfl | rfl | rfl
    · rfl
    · rfl
    · rfl
  rw [hvalue, BitVec.toNat_ofNat, Nat.mod_eq_of_lt (lt_of_le_of_lt (min_le_left _ _) r.isLt)]

/-! ### Which list an error comes from -/

theorem State.handleErrors_cases (h : v ∈ s.handleErrors asid service args) : v = -2 ∨ v = -7 :=
  (State.mem_handleErrors.mp h).imp And.left And.left

theorem State.peerErrors_cases (h : v ∈ s.peerErrors op service args) : v = -5 ∨ v = -6 :=
  (State.mem_peerErrors.mp h).2.imp And.left And.left

/-- R342: −2 is an error of handles alone. -/
theorem State.badHandle_mem : (-2 : DWord) ∈ s.serviceErrors asid op service args ↔
    (service = 0x02 ∧ s.handleKind ((s.tenant asid).getD 0) (args.getD 0 0).toNat = none) ∨
    (service ∈ [0x03, 0x04] ∧ s.handleKind ((s.tenant asid).getD 0) (args.getD 0 0).toNat ≠ some 0) ∨
    (service ∈ [0x11, 0x12] ∧ s.handleKind ((s.tenant asid).getD 0) (args.getD 0 0).toNat ≠ some 1) := by
  have honly : (-2 : DWord) ∈ s.serviceErrors asid op service args ↔ -2 ∈ s.handleErrors asid service args := by
    rw [State.mem_serviceErrors]
    refine ⟨fun h => ?_, .inl⟩
    rcases h with h | h | h
    · exact h
    · exact absurd (State.bufferErrors_cases h) (by decide)
    · exact absurd (State.peerErrors_cases h) (by decide)
  rw [honly, State.mem_handleErrors]
  refine ⟨fun h => ?_, fun h => .inl ⟨rfl, h⟩⟩
  rcases h with h | h
  · exact h.2
  · exact absurd h.1 (by decide)

/-- R342: −3 is an error of buffers alone. -/
theorem State.badBuffer_mem :
    (-3 : DWord) ∈ s.serviceErrors asid op service args ↔ -3 ∈ s.bufferErrors asid service args := by
  rw [State.mem_serviceErrors]
  refine ⟨fun h => ?_, fun h => .inr (.inl h)⟩
  rcases h with h | h | h
  · exact absurd (State.handleErrors_cases h) (by decide)
  · exact h
  · exact absurd (State.peerErrors_cases h) (by decide)

/-- R342, R352: −5 and −6 are errors of peers alone. -/
theorem State.badPeer_mem (hv : v = -5 ∨ v = -6) :
    v ∈ s.serviceErrors asid op service args ↔ v ∈ s.peerErrors op service args := by
  have hother : ¬(v = -2 ∨ v = -7) ∧ ¬(v = -3 ∨ v = -7) := by rcases hv with rfl | rfl <;> decide
  rw [State.mem_serviceErrors]
  refine ⟨fun h => ?_, fun h => .inr (.inr h)⟩
  rcases h with h | h | h
  · exact absurd (State.handleErrors_cases h) hother.1
  · exact absurd (State.bufferErrors_cases h) hother.2
  · exact h

end

/-! ### The services of a SYSC one after the other -/

section
variable (s : State) (asid op service : Nat)

theorem State.serve_cons (args : List Word) (r : DWord) (data : List Byte)
    (rest : List (List Word × DWord × List Byte)) :
    let v := s.serviceResult asid op service args r data
    let ws := s.unquelWrites asid (s.serviceWrites asid service args data)
    let u := (s.serviceHandles asid service args v).touchWrites asid ws
    let next := if v.toInt < 0 then s else if ws = [] then u else u.outsideCommit (some asid) ws
    s.serve asid op service ((args, r, data) :: rest) =
      (v :: (next.serve asid op service rest).1, (next.serve asid op service rest).2) := by
  intro v ws u next
  conv_lhs => unfold State.serve
  dsimp only
  simp only [List.isEmpty_iff]
  rfl

theorem State.length_serve (l : List (List Word × DWord × List Byte)) :
    (s.serve asid op service l).1.length = l.length := by
  induction l generalizing s with
  | nil => rfl
  | cons e l ih =>
      obtain ⟨args, r, data⟩ := e
      rw [State.serve_cons, List.length_cons, List.length_cons, ih]

/-- R335: writes to no recipe's tile wait for nothing and change nothing. -/
theorem State.tileWrites_of_none {l : List (Nat × Nat)} (h : ∀ e ∈ l, s.recipeAt e.1 e.2 = none) :
    s.tileWrites l = (true, s) := by
  induction l with
  | nil => rfl
  | cons e l ih =>
      rw [List.forall_mem_cons] at h
      have htile : s.tileWrite e.1 e.2 = (true, s) := by
        unfold State.tileWrite
        rw [h.1]
      unfold State.tileWrites
      rw [htile]
      exact ih h.2

end

/-! ### Results in a pool and in its images -/

theorem Pool.regs_setElem {p q : Pool} (h : p.regs = q.regs) (wide : Bool) (t n : Nat) (x : DWord) :
    (p.setElem wide t n x).regs = (q.setElem wide t n x).regs := by
  cases wide with
  | false => exact congrArg (KMap.set · 0 _ _) h
  | true => exact congrArg (fun m => KMap.set (KMap.set m 0 _ _) 0 _ _) h

theorem Pool.regs_setElemKept {p q : Pool} (h : p.regs = q.regs) (wide : Bool) (t n : Nat) (x : DWord) :
    (p.setElemKept wide t n x).regs = (q.setElem wide t n x).regs := by
  cases wide with
  | false => exact congrArg (KMap.set · 0 _ _) h
  | true => exact congrArg (fun m => KMap.set (KMap.set m 0 _ _) 0 _ _) h

/-- What elements written one after another leave in the registers depends on the registers alone. -/
theorem Pool.regs_setElems {p q : Pool} (h : p.regs = q.regs) (wide : Bool) (n : Nat) (l : List (Nat × DWord)) :
    (p.setElems wide n l).regs = (q.setElems wide n l).regs := by
  unfold Pool.setElems
  induction l generalizing p q with
  | nil => exact h
  | cons e l ih => exact ih (Pool.regs_setElem h wide e.1 n e.2)

/-- Elements written one after another that a rollback does not undo. -/
def Pool.setElemsKept (p : Pool) (wide : Bool) (n : Nat) (l : List (Nat × DWord)) : Pool :=
  l.foldl (fun p e => p.setElemKept wide e.1 n e.2) p

/-- R188: a rollback apart they leave the same registers. -/
theorem Pool.regs_setElemsKept {p q : Pool} (h : p.regs = q.regs) (wide : Bool) (n : Nat) (l : List (Nat × DWord)) :
    (p.setElemsKept wide n l).regs = (q.setElems wide n l).regs := by
  unfold Pool.setElemsKept Pool.setElems
  induction l generalizing p q with
  | nil => exact h
  | cons e l ih => exact ih (Pool.regs_setElemKept h wide e.1 n e.2)

theorem Pool.same_setElemsKept (p : Pool) (wide : Bool) (n : Nat) (l : List (Nat × DWord)) :
    SameButRegs p (p.setElemsKept wide n l) := by
  unfold Pool.setElemsKept
  induction l generalizing p with
  | nil => exact .refl p
  | cons e l ih =>
      have hone : SameButRegs p (p.setElemKept wide e.1 n e.2) := by
        cases wide with
        | false => rfl
        | true => rfl
      exact hone.trans (ih _)

/-- The results of an operation by their threads. -/
def Op.results (o : Op) (vals : List DWord) : List (Nat × DWord) := (o.lanes.map (·.tid)).zip vals

theorem Pool.deliver_kept (p : Pool) (o : Op) (vals : List DWord) : p.deliver true o vals =
    (p.setElemsKept o.wide o.dest ((Mask.tids o.zero p.threads).map fun t => (t, 0))).setElemsKept o.wide o.dest
      (o.results vals) := by
  unfold Pool.deliver Pool.setElemsKept Op.results
  simp only [if_true, List.zip_map_left, List.foldl_map, Prod.map_fst, Prod.map_snd, id]

theorem Delivered.congr {wide : Bool} {d : Nat} {lanes : List (Nat × DWord)} {zero : List Nat} {p p' q q' : Pool}
    (h : Delivered wide d lanes zero p q) (hp : p'.regs = p.regs) (hq : q'.regs = q.regs) :
    Delivered wide d lanes zero p' q' := by
  have reg {a b : Pool} (hab : a.regs = b.regs) (u n : Nat) : a.reg u n = b.reg u n :=
    congrArg (KMap.get · 0 (256 * u + n)) hab
  have elem (u n : Nat) : q'.getElem wide u n = q.getElem wide u n :=
    Pool.getElem_congr _ _ _ (reg hq u n) fun _ => reg hq u (n + 1)
  exact ⟨fun e he => by rw [elem, h.lane e he], fun u hu hne => by rw [elem, h.zeros u hu hne],
    fun u n hn hne => by rw [reg hq, reg hp, h.other u n hn hne]⟩

theorem Pool.regs_imageDone (p : Pool) (o : Op) (vals : List DWord) (i : Image) :
    (p.imageDone o vals i).regs = (({ p with regs := i.regs } : Pool).setElems true o.dest (o.results vals)).regs := by
  unfold Pool.imageDone Pool.setElems Op.results
  simp only [List.zip_map_left, List.foldl_map, Prod.map_fst, Prod.map_snd, id]

/-- R299: the results in an image depend on the image alone. -/
theorem Pool.imageDone_eq (p q : Pool) (o : Op) (vals : List DWord) : p.imageDone o vals = q.imageDone o vals := by
  funext i
  have hregs : (p.imageDone o vals i).regs = (q.imageDone o vals i).regs := by
    rw [Pool.regs_imageDone, Pool.regs_imageDone]
    apply Pool.regs_setElems
    rfl
  exact congrArg (fun m => { i with ops := i.ops.filter fun x => x.id != o.id, regs := m }) hregs

section
variable {p : Pool} {o : Op} {vals : List DWord} (hlen : vals.length = o.lanes.length) (hdest : o.dest < 255)
  (hwide : o.wide = true) (hnodup : (o.lanes.map (·.tid)).Nodup)

theorem fitsPair_of_lt_255 {wide : Bool} {n : Nat} (h : n < 255) : FitsPair wide n :=
  ⟨h.trans (by decide), fun _ => Nat.succ_lt_succ h⟩

include hlen hnodup in
theorem Op.nodup_results : ((o.results vals).map (·.1)).Nodup := by
  unfold Op.results
  rwa [List.map_fst_zip (by rw [List.length_map, hlen])]

include hlen hdest hnodup

theorem Pool.delivered_imageDone (i : Image) : Delivered true o.dest (o.results vals) [] { p with regs := i.regs }
    { p with regs := (p.imageDone o vals i).regs } := by
  have hd := ({ p with regs := i.regs } : Pool).delivered_setElems 0#16384 (wide := true) (fitsPair_of_lt_255 hdest)
    (Op.nodup_results hlen hnodup)
  rw [Pool.zeroElems_eq, Mask.tids_zero] at hd
  exact hd.congr rfl (Pool.regs_imageDone p o vals i)

include hwide

/-- R162: what a SYSC delivers reads back. -/
theorem Pool.delivered_deliver : Delivered true o.dest (o.results vals) (Mask.tids o.zero p.threads) p
    (p.deliver true o vals) := by
  have hd := p.delivered_setElems o.zero (wide := true) (fitsPair_of_lt_255 hdest) (Op.nodup_results hlen hnodup)
  refine hd.congr rfl ?_
  rw [Pool.deliver_kept, hwide, Pool.zeroElems_eq]
  exact Pool.regs_setElemsKept (Pool.regs_setElemsKept rfl _ _ _) _ _ _

/-- R162, R299: the pool once a SYSC is done. -/
theorem Pool.delivered_syscDone : Delivered true o.dest (o.results vals) (Mask.tids o.zero p.threads) p
    (p.syscDone o vals) :=
  (Pool.delivered_deliver hlen hdest hwide hnodup).congr rfl rfl

end

section
variable (p : Pool) (o : Op) (vals : List DWord)

theorem Pool.same_deliver_kept : SameButRegs p (p.deliver true o vals) := by
  rw [Pool.deliver_kept]
  exact (Pool.same_setElemsKept _ _ _ _).trans (Pool.same_setElemsKept _ _ _ _)

theorem Pool.image_syscDone : (p.syscDone o vals).image = p.image.map (p.imageDone o vals) := by
  have himage : (p.deliver true o vals).image = p.image := (congrArg Pool.image (p.same_deliver_kept o vals) : _)
  have hdone := ((p.deliver true o vals).removeOp o.id).imageDone_eq p o vals
  change ((p.deliver true o vals).image).map (((p.deliver true o vals).removeOp o.id).imageDone o vals) = _
  rw [himage, hdone]

theorem Pool.ops_syscDone : (p.syscDone o vals).ops = p.ops.filter fun x => x.id != o.id := by
  have hops : (p.deliver true o vals).ops = p.ops := (congrArg Pool.ops (p.same_deliver_kept o vals) : _)
  exact congrArg (List.filter fun x => x.id != o.id) hops

theorem Pool.cps_syscDone : (p.syscDone o vals).cps = p.cps := (p.same_deliver_kept o vals).cps

end

/-! ### The completion of a SYSC -/

/-- R343, R351: a SYSC is settled with the package: no peer request of it and no service that a fenced link cut is
noted, and the images of its pool that records carry have its results. -/
def State.syscSettled (s : State) (pid : Nat) (p : Pool) (o : Op) (vals : List DWord) : State :=
  { s with
    peerOps := s.peerOps.filter (· != o.id), peerCut := s.peerCut.filter (·.1 != o.id)
    records := s.records.map fun r => { r with images := r.images.map fun e =>
      if e.1 = pid then (pid, p.imageDone o vals e.2) else e } }

/-- R162, R343: the results of a SYSC of a placed pool, before its cluster acquires. -/
def State.syscDelivered (s : State) (pid : Nat) (p : Pool) (o : Op) (vals : List DWord) : State :=
  ((s.syscSettled pid p o vals).modPool pid fun p => p.syscDone o vals).holdSlots (p.completionSlots o)

section
variable {s : State} {pid : Nat} {p : Pool} (o : Op) (vals : List DWord) (hp : s.pool? pid = some p)
include hp

theorem State.syscResults_placed :
    s.syscResults pid o vals = (s.syscDelivered pid p o vals).invalidate p.cluster := by
  have hsame (l : List Nat) (m : List (Nat × Nat)) (n : List Record) :
      ({ s with peerOps := l, peerCut := m, records := n } : State).pool? pid = some p := hp
  unfold State.syscResults
  simp only [hp, hsame, Option.some_or]
  rfl

theorem State.pool?_syscDelivered : (s.syscDelivered pid p o vals).pool? pid = some (p.syscDone o vals) := by
  have hmod := (s.syscSettled pid p o vals).pool?_modPool_self pid fun q => q.syscDone o vals
  rw [show (s.syscSettled pid p o vals).pool? pid = some p from hp] at hmod
  exact hmod

end

theorem onlyPool_syscDelivered (s : State) (pid : Nat) (p : Pool) (o : Op) (vals : List DWord) :
    OnlyPool pid (s.syscSettled pid p o vals) (s.syscDelivered pid p o vals) :=
  ⟨rfl, fun _ hq => State.pool?_modPool_ne (s.syscSettled pid p o vals) (fun p => p.syscDone o vals) hq, fun _ => rfl⟩

section
variable {s : State} {pid : Nat} {p : Pool} {o : Op} {y : Cp} {results : List DWord} {data : List (List Byte)}

theorem exec_syscServiceDone (hv : s.viral = none) (hp : s.pool? pid = some p)
    (ho : p.ops.find? (fun x => x.id = o.id && x.kind == .sysc) = some o) :
    exec (.syscServiceDone pid o.id results data) s = .next (s.finishSysc pid p true o results data) := by
  change execSyscServiceDone pid o.id results data s = _
  unfold execSyscServiceDone
  simp only [hv, hp, ho, Option.isSome_none, Bool.false_eq_true, if_false]

/-- R343: the services of the responders with what Unquel answers each. -/
def syscJobs (o : Op) (results : List DWord) (data : List (List Byte)) : List (List Word × DWord × List Byte) :=
  (o.args.zip results).zipIdx.map fun x => (x.1.1, x.1.2, data.getD x.2 [])

theorem length_syscJobs (h : results.length = o.args.length) : (syscJobs o results data).length = o.args.length := by
  simp [syscJobs, h]

variable (hy : p.cp? o.cp = some y)
include hy

/-- R45, R162, R351: what keeps a SYSC from its completion. -/
theorem State.finishSysc_waits (h : y.wait.isSome = true ∨ s.peerSent o = false ∨ p.noOtherHold o.cp = false ∨
    results.length ≠ o.lanes.length) : s.finishSysc pid p true o results data = s := by
  unfold State.finishSysc
  rw [hy]
  refine if_pos ?_
  rcases h with h | h | h | h
  · simp [Option.isNone_eq_false_iff.mpr h]
  · simp [h]
  · simp [h]
  · simp [h]

variable (hw : y.wait = none) (hsent : s.peerSent o = true) (hhold : p.noOtherHold o.cp = true)
  (hlen : results.length = o.lanes.length)
include hw hsent hhold hlen

theorem State.finishSysc_eq : s.finishSysc pid p true o results data =
    match s.allReady p.task.asid (o.args.flatMap (s.serviceReads p.task.asid o.aop)) with
    | (false, s') => s'
    | (true, s) =>
      let ws := s.serveTargets p.task.asid o.id o.aop (syscJobs o results data)
      match s.tileWrites (ws.map fun w => (p.task.asid, w.1)) with
      | (false, s') => s'
      | (true, s') =>
          if ws.all fun w => s'.sliceClear w.2.1 then
            let x := s'.serve p.task.asid o.id o.aop (syscJobs o results data)
            x.2.syscResults pid o x.1
          else s := by
  unfold State.finishSysc
  rw [hy]
  exact if_neg (by simp [hw, hsent, hhold, hlen])

/-- R337: a SYSC waits for the tiles that it reads. -/
theorem State.finishSysc_reads {s1 : State}
    (h : s.allReady p.task.asid (o.args.flatMap (s.serviceReads p.task.asid o.aop)) = (false, s1)) :
    s.finishSysc pid p true o results data = s1 := by
  rw [State.finishSysc_eq hy hw hsent hhold hlen, h]

variable (hready : s.allReady p.task.asid (o.args.flatMap (s.serviceReads p.task.asid o.aop)) = (true, s))
  (htiles : ∀ w ∈ s.serveTargets p.task.asid o.id o.aop (syscJobs o results data),
    s.recipeAt p.task.asid w.1 = none)
include hready htiles

theorem State.finishSysc_ready : s.finishSysc pid p true o results data =
    if ∀ w ∈ s.serveTargets p.task.asid o.id o.aop (syscJobs o results data), s.sliceClear w.2.1 = true then
      (s.serve p.task.asid o.id o.aop (syscJobs o results data)).2.syscResults pid o
        (s.serve p.task.asid o.id o.aop (syscJobs o results data)).1
    else s := by
  have htile := s.tileWrites_of_none (l := (s.serveTargets p.task.asid o.id o.aop (syscJobs o results data)).map
    fun w => (p.task.asid, w.1)) fun e he => by
      obtain ⟨w, hin, rfl⟩ := List.mem_map.mp he
      exact htiles w hin
  rw [State.finishSysc_eq hy hw hsent hhold hlen, hready]
  dsimp only
  rw [htile]
  simp only [List.all_eq_true]

/-- R298: a SYSC waits for the slices that it writes. -/
theorem State.finishSysc_held (h : ∃ w ∈ s.serveTargets p.task.asid o.id o.aop (syscJobs o results data),
    s.sliceClear w.2.1 = false) : s.finishSysc pid p true o results data = s := by
  obtain ⟨w, hin, hclosed⟩ := h
  rw [State.finishSysc_ready hy hw hsent hhold hlen hready htiles, if_neg]
  exact fun hall => Bool.false_ne_true (hclosed.symm.trans (hall w hin))

/-- R162, R343: and then its services are done, and their results delivered. -/
theorem State.finishSysc_done {p1 : Pool}
    (h : ∀ w ∈ s.serveTargets p.task.asid o.id o.aop (syscJobs o results data), s.sliceClear w.2.1 = true)
    (hp1 : (s.serve p.task.asid o.id o.aop (syscJobs o results data)).2.pool? pid = some p1) :
    s.finishSysc pid p true o results data =
      ((s.serve p.task.asid o.id o.aop (syscJobs o results data)).2.syscDelivered pid p1 o
        (s.serve p.task.asid o.id o.aop (syscJobs o results data)).1).invalidate p1.cluster := by
  rw [State.finishSysc_ready hy hw hsent hhold hlen hready htiles, if_pos h, State.syscResults_placed o _ hp1]

end

end Sys2Proof.Machine

section

open Sys2Proof Sys2Proof.Machine

/-- Settles O50: a SYSC's results are written registers of its pool, and a service answers by a table of errors and
values. -/
theorem servicesDone : Obligations.ServicesDone := by
  unfold Obligations.ServicesDone
  refine ⟨⟨?_, ?_, fun s asid op service args r data rest => s.serve_cons asid op service args r data rest⟩, ?_⟩
  · intro s pid p o y results data hv hp ho hy
    rw [exec_syscServiceDone hv hp ho]
    refine ⟨fun hwaits => ?_, fun hw hsent hhold hlen hargs hdest hwide hnodup => ?_⟩
    · refine congrArg _ (State.finishSysc_waits hy ?_)
      exact hwaits.imp_right (Or.imp_right (Or.imp_left p.noOtherHold_eq_false))
    · have hfree := (p.noOtherHold_iff o.cp).mpr hhold
      intro asid jobs ws x reads
      refine ⟨fun s1 hs1 => congrArg _ (State.finishSysc_reads hy hw hsent hfree hlen hs1), fun hready htiles =>
        ⟨fun hheld => congrArg _ (State.finishSysc_held hy hw hsent hfree hlen hready htiles hheld),
        fun p1 hclear hp1 => ?_⟩⟩
      have hvals : x.1.length = o.lanes.length := by
        rw [State.length_serve, ← hargs]
        exact length_syscJobs (hlen.trans hargs.symm)
      exact ⟨_, _, congrArg _ (State.finishSysc_done hy hw hsent hfree hlen hready htiles hclear hp1),
        onlyPool_syscDelivered _ pid p1 o x.1, p1.image_syscDone o x.1, State.pool?_syscDelivered o x.1 hp1,
        p1.ops_syscDone o x.1, p1.cps_syscDone o x.1, Pool.delivered_syscDone hvals hdest hwide hnodup⟩
  · intro p o vals i hlen hdest hwide hnodup j
    exact ⟨rfl, rfl, Pool.delivered_imageDone hlen hdest hnodup i⟩
  · intro s asid op service args r data v E n tenant h
    refine ⟨State.serviceResult_unknown, fun k hk hne => State.serviceResult_badCount hk hne, ?_,
      fun k hk hlen hflags => ?_, ?_, ?_, ?_, ?_, ?_, ?_, ?_⟩
    · rintro rfl hlen hflags
      exact State.serviceResult_badFlags hlen hflags
    · have call : ServiceCall service args := ⟨hlen ▸ hk, hflags⟩
      refine ⟨State.serviceResult_error call, State.serviceResult_found call, fun hE hr => ?_⟩
      have hv : v = s.serviceValue asid service args r data := State.serviceResult_value call hE hr
      rw [hv]
      refine ⟨fun hs => State.serviceValue_handle hs hE,
        fun hs => State.serviceValue_read hs (State.length_of_noErrors hE), State.serviceValue_write, ?_, ?_, ?_⟩
      · rintro rfl; rfl
      · rintro rfl; rfl
      · rintro rfl; rfl
    · rintro rfl
      exact State.badHandle_mem.trans (by simp [tenant, h])
    · intro hs
      refine State.badHandle_mem.trans ?_
      simp only [List.mem_cons, List.not_mem_nil, or_false] at hs
      rcases hs with rfl | rfl <;> simp [tenant, h]
    · intro hs
      refine State.badHandle_mem.trans ?_
      simp only [List.mem_cons, List.not_mem_nil, or_false] at hs
      rcases hs with rfl | rfl <;> simp [tenant, h]
    · exact State.noHandle_mem
    · exact State.longTransfer_mem
    · exact fun a m rd wr hb hn => State.badBuffer_mem.trans ((State.mem_bufferErrors hb hn).trans (and_iff_right rfl))
    · intro hs
      rw [State.badPeer_mem (.inl rfl), State.badPeer_mem (.inr rfl), State.mem_peerErrors, State.mem_peerErrors]
      simp [hs, h]

end

/-! What entries and atomics leave of memory at their slice (R190, R258, R260, R261, R298, R356). -/

namespace Sys2Proof.Machine

/-! ### Bytes written one after the other -/

theorem Memory.read_writeBytes (m : List Host.Cell) (a : Nat) (bs : List Byte) (k : Nat) :
    Memory.read (Memory.writeBytes m a bs) k =
      if a ≤ k ∧ k < a + bs.length then bs.getD (k - a) 0 else Memory.read m k := by
  split
  case isTrue h =>
    obtain ⟨i, rfl⟩ := Nat.exists_eq_add_of_le h.1
    rw [Memory.read_writeBytes_in _ _ _ _ (by omega), Nat.add_sub_cancel_left]
  case isFalse h => exact Memory.read_writeBytes_out _ _ _ _ (by omega)

theorem length_toBytes (n len : Nat) : (toBytes n len).length = len := by
  induction len generalizing n with
  | zero => rfl
  | succ len ih => simp [toBytes, ih]

/-! ### A committed write within one line -/

/-- States that hold the same bytes, written under the same keys. -/
structure SameBytes (s t : State) : Prop where
  mem : t.mem = s.mem
  keyOf : t.keyOf = s.keyOf

theorem SameBytes.trans {s t u : State} (h : SameBytes s t) (k : SameBytes t u) : SameBytes s u :=
  ⟨k.mem.trans h.mem, k.keyOf.trans h.keyOf⟩

/-- The same for a change that comes before a known one. -/
theorem SameBytes.after {s t u : State} (k : SameBytes t u) (h : SameBytes s t) : SameBytes s u := h.trans k

theorem SameBytes.keyMatches {s t : State} (h : SameBytes s t) (key : Option (Nat × Nat)) (line : Nat) :
    t.keyMatches key line = s.keyMatches key line := by
  unfold State.keyMatches
  rw [h.keyOf]

theorem SameBytes.foldl {f : State → α → State} (hf : ∀ s a, SameBytes s (f s a)) (l : List α) (s : State) :
    SameBytes s (l.foldl f s) := by
  induction l generalizing s with
  | nil => exact ⟨rfl, rfl⟩
  | cons a l ih => exact (hf s a).trans (ih _)

theorem State.sameBytes_mapWaiting (s : State) (l : List Nat) : SameBytes s (s.mapWaiting l) := by
  induction l generalizing s with
  | nil => exact ⟨rfl, rfl⟩
  | cons q r ih =>
      unfold State.mapWaiting
      split
      · exact (ih _).after ⟨rfl, rfl⟩
      · split
        · exact ⟨rfl, rfl⟩
        · split
          · exact (ih _).after ⟨rfl, rfl⟩
          · exact (ih _).after ⟨rfl, rfl⟩

theorem State.sameBytes_wakeQueue (s : State) (q : Nat) : SameBytes s (s.wakeQueue q) := by
  unfold State.wakeQueue
  split
  · exact ⟨rfl, rfl⟩
  · split
    · exact ⟨rfl, rfl⟩
    · split
      · exact ⟨rfl, rfl⟩
      · dsimp only
        split
        · exact (State.sameBytes_mapWaiting _ _).after ⟨rfl, rfl⟩
        · exact ⟨rfl, rfl⟩

theorem State.sameBytes_wakeLine (s : State) (line : Nat) : SameBytes s (s.wakeLine line) :=
  SameBytes.foldl (f := fun s (e : Nat × Queue) => s.wakeQueue e.1) (fun s e => s.sameBytes_wakeQueue e.1) _ s

@[simp] theorem State.mem_putLlc (s : State) (line : Nat) (ways : List Nat) (st : LineState) :
    (s.putLlc line ways st).mem = s.mem := by
  unfold State.putLlc
  rcases s.pickWay line ways with _ | ⟨w, _ | old⟩ <;> rfl

@[simp] theorem State.mem_touchLlc (s : State) (tenant : Option Nat) (line : Nat) (write : Bool) :
    (s.touchLlc tenant line write).mem = s.mem := by
  unfold State.touchLlc
  split
  case h_1 => rfl
  case h_2 => exact s.mem_putLlc _ _ _

@[simp] theorem State.mem_snoop (s : State) (by_ : Option Nat) (line : Nat) : (s.snoop by_ line).mem = s.mem := by
  cases by_ <;> rfl

@[simp] theorem State.mem_noteOverwrite (s : State) (pa : Nat) (bs : List Byte) : (s.noteOverwrite pa bs).mem = s.mem := by
  unfold State.noteOverwrite
  dsimp only
  split <;> rfl

@[simp] theorem State.keyMatches_noteOverwrite (s : State) (pa : Nat) (bs : List Byte) (key : Option (Nat × Nat))
    (line : Nat) : (s.noteOverwrite pa bs).keyMatches key line = s.keyMatches key line := by
  unfold State.noteOverwrite
  dsimp only
  split <;> rfl

/-- R356: a line that was last written under the key keeps its bytes. -/
theorem State.mem_rekey {s : State} {key : Option (Nat × Nat)} {line : Nat} (h : s.keyMatches key line = true) :
    (s.rekey key line).mem = s.mem := by
  unfold State.rekey
  rw [if_pos h]

theorem State.mem_commitLine {s : State} {key : Option (Nat × Nat)} {pa : Nat} (h : s.keyMatches key (pa / 64) = true)
    (by_ : Option Nat) (clock : Nat) (bs : List Byte) :
    (s.commitLine by_ key clock pa bs).mem = Memory.writeBytes s.mem pa bs := by
  have hk : (s.noteOverwrite pa bs).keyMatches key (lineOf pa) = true := by rw [State.keyMatches_noteOverwrite]; exact h
  simp [State.commitLine, State.mem_rekey hk]

/-- Bytes within one line are committed by one write of that line. -/
theorem State.mem_commitBytes {s : State} {key : Option (Nat × Nat)} {pa : Nat} {bs : List Byte}
    (h : s.keyMatches key (pa / 64) = true) (hl : bs.length ≤ 64 - pa % 64) (by_ : Option Nat) (clock : Nat) :
    (s.commitBytes by_ key clock pa bs).mem = Memory.writeBytes s.mem pa bs := by
  cases bs with
  | nil => rfl
  | cons b r =>
      have hd : (b :: r).drop (64 - pa % 64) = [] := List.drop_eq_nil_of_le hl
      have ht : (b :: r).take (64 - pa % 64) = b :: r := List.take_of_length_le hl
      change (State.commitBytes.go by_ key clock (r.length + 1 + 1) s pa (b :: r) (64 - pa % 64)).mem = _
      rw [State.commitBytes.go, if_neg (by simp), hd, ht, State.commitBytes.go, if_pos (by rfl), State.mem_commitLine h]

/-! ### What an atomic unit reads -/

theorem lineOf_add {pa z i : Nat} (hz : z ∣ 64) (hpa : pa % z = 0) (hi : i < z) : lineOf (pa + i) = pa / 64 := by
  obtain ⟨k, hk⟩ := hz
  obtain ⟨j, rfl⟩ := Nat.dvd_of_mod_eq_zero hpa
  have hzpos : 0 < z := Nat.lt_of_le_of_lt (Nat.zero_le i) hi
  unfold lineOf
  rw [hk, ← Nat.div_div_eq_div_mul, ← Nat.div_div_eq_div_mul, Nat.mul_add_div hzpos, Nat.div_eq_of_lt hi,
    Nat.mul_div_cancel_left _ hzpos, Nat.add_zero]

/-- R190: an aligned word of a line written last under the key reads as memory has it, 0 in a poisoned granule. -/
theorem State.atomicRead_eq {s : State} {key : Option (Nat × Nat)} {pa z : Nat} (hz : z ∣ 64) (hpa : pa % z = 0)
    (h : s.keyMatches key (pa / 64) = true) : s.atomicRead key pa z =
      if s.poisonedLine (pa / 64) = true then 0 else ofBytes (Memory.readBytes s.mem pa z) := by
  unfold State.atomicRead
  change (if s.poisonedLine (pa / 64) = true then 0 else _) = _
  split
  case isTrue => rfl
  case isFalse hp =>
    refine congrArg ofBytes (List.map_congr_left fun i hi => ?_)
    unfold State.byteUnder
    rw [lineOf_add hz hpa (List.mem_range.mp hi), if_neg hp, if_pos h]

/-- R258: a word of 4 or 8 bytes. -/
theorem wordBytes_dvd (ty : Nat) : (if ty = 4 ∨ ty = 8 then 8 else 4) ∣ 64 := by
  split <;> decide

/-- R258: an aligned word lies in one line. -/
theorem le_line_of_aligned {pa z : Nat} (hz : z ∣ 64) (hpa : pa % z = 0) : z ≤ 64 - pa % 64 := by
  have hd : z ∣ 64 - pa % 64 := (Nat.dvd_sub_iff_right (Nat.le_of_lt (Nat.mod_lt _ (by decide))) hz).mpr
    ((Nat.dvd_mod_iff hz).mpr (Nat.dvd_of_mod_eq_zero hpa))
  exact Nat.le_of_dvd (by have := Nat.mod_lt pa (by decide : 64 > 0); omega) hd

/-- A clock that a core observes leaves the bytes. -/
theorem State.sameBytes_observeClock (s : State) (core line : Nat) : SameBytes s (s.observeClock core line) := by
  unfold State.observeClock State.raiseClock
  split
  · exact ⟨rfl, rfl⟩
  · exact ⟨rfl, rfl⟩

/-! ### Entries and atomics -/

section
variable {s : State} (r : Record)

theorem State.applyEntry_store {e : Entry} {bs : List Byte} (hk : e.kind = .store bs)
    (h : s.keyMatches (r.asid.map fun _ => s.keyFor e.asid) (e.pa / 64) = true) (hl : bs.length ≤ 64 - e.pa % 64) :
    (s.applyEntry r e).1.mem = Memory.writeBytes s.mem e.pa bs ∧ (s.applyEntry r e).2 = 0 := by
  unfold State.applyEntry
  simp only [hk]
  exact ⟨(State.sameBytes_wakeLine _ _).mem.trans (State.mem_commitBytes h hl _ _), trivial⟩

theorem State.applyEntry_red {e : Entry} {op ty rm : Nat} {sat : Bool} {y : DWord} (hk : e.kind = .red op ty rm sat y)
    (h : s.keyMatches (r.asid.map fun _ => s.keyFor e.asid) (e.pa / 64) = true)
    (ha : e.pa % (if ty = 4 ∨ ty = 8 then 8 else 4) = 0) :
    let z := if ty = 4 ∨ ty = 8 then 8 else 4
    let x := atomicElem op ty (RMode.ofCode rm) sat
      (if s.poisonedLine (e.pa / 64) = true then 0 else ofBytes (Memory.readBytes s.mem e.pa z)) y.toNat 0
    (s.applyEntry r e).1.mem = Memory.writeBytes s.mem e.pa (toBytes x.1 z) ∧ (s.applyEntry r e).2 = x.2 := by
  intro z x
  have hread := State.atomicRead_eq (wordBytes_dvd ty) ha h
  have hspan : e.span.2 = z := by unfold Entry.span; rw [hk]
  unfold State.applyEntry
  simp only [hk, hspan]
  rw [hread]
  exact ⟨(State.sameBytes_wakeLine _ _).mem.trans
    (State.mem_commitBytes h (by rw [length_toBytes]; exact le_line_of_aligned (wordBytes_dvd ty) ha) _ _), rfl⟩

theorem State.applyAtom_eq {b : Atom} (h : s.keyMatches (r.asid.map fun _ => s.keyFor b.asid) (b.pa / 64) = true)
    (ha : b.pa % (if b.ty = 4 ∨ b.ty = 8 then 8 else 4) = 0) :
    let z := if b.ty = 4 ∨ b.ty = 8 then 8 else 4
    let old := if s.poisonedLine (b.pa / 64) = true then 0 else ofBytes (Memory.readBytes s.mem b.pa z)
    let x := atomicElem b.aop b.ty (RMode.ofCode b.rm) b.sat old b.y.toNat b.x.toNat
    (s.applyAtom r b).1.mem = Memory.writeBytes s.mem b.pa (toBytes x.1 z) ∧ (s.applyAtom r b).2 =
      { b with result := some (BitVec.ofNat 64 old, x.2, s.poisonedLine (b.pa / 64)) } := by
  intro z old x
  have hread := State.atomicRead_eq (wordBytes_dvd b.ty) ha h
  have same : SameBytes s (if r.cluster.isSome then r.cores.foldl (fun s k => s.observeClock k (lineOf b.pa)) s else s) := by
    split
    · exact SameBytes.foldl (fun s k => s.sameBytes_observeClock k _) _ s
    · exact ⟨rfl, rfl⟩
  unfold State.applyAtom
  dsimp only
  rw [hread]
  refine ⟨(State.sameBytes_wakeLine _ _).mem.trans ?_, rfl⟩
  rw [State.mem_commitBytes (by rw [same.keyMatches]; exact h)
    (by rw [length_toBytes]; exact le_line_of_aligned (wordBytes_dvd b.ty) ha), same.mem]

end

end Sys2Proof.Machine

/-! ### The statement -/

section

open Sys2Proof Sys2Proof.Machine

/-- Settles O48: each entry writes one span within one line, whose bytes its own key reads. -/
theorem entriesApplied : Obligations.EntriesApplied := by
  unfold Obligations.EntriesApplied
  intro s r own size old writes
  have reads {t : State} {pa : Nat} {bs : List Byte} (h : t.mem = Memory.writeBytes s.mem pa bs) : writes t pa bs :=
    fun a => by rw [h, Memory.read_writeBytes]
  refine ⟨fun e bs hk hown hl => ?_, fun e op ty rm sat y hk hown ha => ?_, fun b hown ha => ?_⟩
  · obtain ⟨hm, hf⟩ := State.applyEntry_store r hk hown hl
    exact ⟨reads hm, hf⟩
  · obtain ⟨hm, hf⟩ := State.applyEntry_red r hk hown ha
    exact ⟨reads hm, hf⟩
  · obtain ⟨hm, hf⟩ := State.applyAtom_eq r hown ha
    exact ⟨reads hm, hf⟩

end

/-! A timestamp on a pool of two cores (R287, log 50). -/

namespace Sys2Proof.Machine

/-! ### What a commit leaves of the held accesses -/

theorem State.held_formRecord (s : State) (group : List Nat) (c : Carry) : (s.formRecord group c).2.held = s.held := rfl

theorem State.held_commitPool {s t : State} {pool : Nat} {except : Option Nat} {c : Carry} {prep : Nat → State → State}
    (hprep : ∀ id u, (prep id u).held = u.held) (h : s.commitPool pool except c prep = some t) : t.held = s.held := by
  have forms (l : List (List Nat)) (u : State) :
      (l.foldl (fun acc g => (acc.formRecord g (if g.contains pool then c else {})).2) u).held = u.held := by
    induction l generalizing u with
    | nil => rfl
    | cons g l ih => rw [List.foldl_cons, ih, State.held_formRecord]
  unfold State.commitPool at h
  dsimp only at h
  split at h
  · rw [← Option.some.inj h, forms, hprep]
  · cases h

/-- Where an instruction commits, the accesses held after it are those of the state that it commits. -/
theorem Commits.held {i : Instr} {c : Ctx} {s s1 t : State} {q : Pool} {y : Cp} {except : Option Nat} {carry : Carry}
    {a : After} (h : Commits i c s s1 q y except carry a) (hx : exec i s = .next t) : t.held = s1.held := by
  obtain ⟨u, v, hv, he, hcommit⟩ := h
  obtain rfl : v = t := Host.Outcome.next.inj (hv.symm.trans hx)
  have hu : u.held = s1.held := (congrArg State.held he.1.1 :)
  exact (State.held_commitPool (prep := waitFor c a) (fun _ _ => rfl) hcommit).trans hu

/-! ### A pool of two cores -/

/-- A CP without responders in a clause of six words. -/
def idleCp : Cp := { Cp.start 1025 0x4001 0 with
  clause := some ⟨0x4000, 0x4007, 15, 15⟩, stack := [⟨0, 0x13, 0xAA⟩] }

/-- Its pool of 1,025 threads, with a part on core 0 and one on core 1. -/
def widePool : Pool := { Pool.single 0x4001 6 with threads := 1025, parts := [0, 6], cps := [(0, idleCp)] }

/-- The package with this pool, whose core 1 has observed the clock 5. -/
def clockAhead : State := { State.reset.placeWords [] with pools := [(0, widePool)], scClock := [(1, 5)] }

/-- VLD.sc at .die. -/
def vldSc : Instr := .vld none 4 5 0 ⟨0, 0, 3, 4⟩

def idleCtx : Ctx := ⟨0, 0, widePool, idleCp, none⟩

theorem issues_vldSc : Issues vldSc idleCtx clockAhead where
  focus := rfl
  pool := rfl
  cp := rfl
  pfx := rfl
  can := by decide +kernel
  clause := rfl
  hold := by decide +kernel
  nopre := fun t ht => nomatch ht
  legal := by decide +kernel
  lawful := by decide +kernel
  runs := by decide +kernel
  free := by decide +kernel
  engines := by decide +kernel
  alone := by decide +kernel
  acquired := by decide +kernel

theorem addressesOf_idle : addressesOf idleCtx 5 0 ⟨0, 0, 3, 4⟩ = [] := by decide +kernel

/-- The accesses held in the next state. -/
def heldAfter (o : Host.Outcome State Fault Refusal) : Option (List Held) :=
  match o with
  | .next t => some t.held
  | _ => none

/-- The timestamp is above the clock of core 1. -/
theorem heldAfter_vldSc : heldAfter (exec vldSc clockAhead) = some [⟨0, 1, 0, 6⟩] := by decide +kernel

end Sys2Proof.Machine

/-! ### The statement -/

section

open Sys2Proof Sys2Proof.Machine

/-- Refutes O26: it has a VLD.sc held with the timestamp one above the clock of its own core, where R287 as the model
reads it (log 50) takes one above the clocks of all the pool's cores; the pool here has a core that is ahead. -/
theorem not_orderedAccesses : ¬ Obligations.OrderedAccesses := by
  unfold Obligations.OrderedAccesses
  rintro ⟨loads, -⟩
  obtain ⟨t, hx⟩ := exec_answers vldSc clockAhead
  have hcheck : idleCtx.checkAll clockAhead (addressesOf idleCtx 5 0 ⟨0, 0, 3, 4⟩) (if idleCtx.wide then 8 else 4) .load
      true = .ok [] clockAhead := by
    rw [addressesOf_idle]; rfl
  obtain ⟨commits, -⟩ := loads none 4 5 0 ⟨0, 0, 3, 4⟩ idleCtx clockAhead clockAhead [] widePool _ issues_vldSc rfl
    (by decide) (by decide +kernel) hcheck rfl rfl rfl
  have claimed : t.held = [⟨0, 1, 0, 1⟩] := (commits (by decide +kernel)).held hx
  have found := heldAfter_vldSc
  rw [hx] at found
  exact absurd (claimed.symm.trans (Option.some.inj found)) (by decide)

end

/-! VATOM on global memory (R179, R257, R260, R287, R288). -/

namespace Sys2Proof.Machine

/-! ### Addresses, timestamps and order -/

theorem getLsbD_7_iff (a : Byte) : a.getLsbD 7 = true ↔ 128 ≤ a.toNat := by
  rw [BitVec.getLsbD, Nat.testBit_eq_decide_div_mod_eq, decide_eq_true_eq]
  have := a.isLt
  omega

theorem Ctx.addresses_eq (c : Ctx) (a b : Byte) (w : Access) : c.addresses a b w = addressesOf c a b w := by
  unfold Ctx.addresses addressesOf
  simp only [getLsbD_7_iff]

theorem Ctx.stampFor_eq (c : Ctx) (ord : Nat) (s : State) : c.stampFor ord s = stamped c ord s := rfl

/-- R259: an access that comes after every earlier one of its CP, where none is outstanding. -/
theorem Ctx.ordered_eq {c : Ctx} {ord : Nat} (s : State) (k : State → Res) (h : ord = 2 ∨ ord = 3 → c.earlier = none) :
    c.ordered ord s k = k s := by
  unfold Ctx.ordered
  split
  case isTrue ho =>
    unfold Ctx.afterEarlier
    rw [h ho]
  case isFalse => rfl

/-- R199, R333: a global atomic that is legal and whose checks pass. -/
theorem Ctx.globalAtomic_ok {c : Ctx} {s s1 : State} {l : List (Nat × Int)} {pas : List Nat}
    (k : List Nat → State → Res)
    (ht : c.tyCode ∈ [3, 4, 7, 8, 11]) (hs : c.pool.rslice = false)
    (hc : c.checkAll s l c.accessBytes .store true = .ok pas s1) : c.globalAtomic s l k = k pas s1 := by
  have htype : atomicType c.tyCode = true := by
    simp only [List.mem_cons, List.not_mem_nil, or_false] at ht
    simpa [atomicType] using ht
  unfold Ctx.globalAtomic
  rw [htype, if_neg (by simp), if_neg (by simp [Ctx.slice, hs]), hc]

/-! ### The instruction -/

section
variable (p : Option Prefix) (d a b : Byte) (w : Access) {c : Ctx} {s s1 : State} {pas : List Nat} {o : Op}

/-- R178, R260: what its record carries for an operation and its lanes. -/
def Ctx.atomsOf (c : Ctx) (w : Access) (id : Nat) (lanes : List Lane) : List Atom :=
  lanes.map fun e =>
    { pool := c.pid, op := id, asid := c.asid, va := e.addr, pa := e.pa, aop := w.op.toNat, ty := c.tyCode, rm := c.rmCode
      sat := c.sat, y := e.y, x := e.x, result := none }

/-- R260: a VATOM that is legal, whose checks pass and that comes after what it has to come after, waits for an `.sc`
access to its bytes, and else is a commit point. -/
theorem does_vatomGlobal (ht : c.tyCode ∈ [3, 4, 7, 8, 11]) (hs : c.pool.rslice = false)
    (he : w.ord.toNat = 2 ∨ w.ord.toNat = 3 → c.earlier = none)
    (hc : c.checkAll s (addressesOf c a b w) c.accessBytes .store true = .ok pas s1)
    (ho : globalOp (.vatomGlobal p d a b w) c (addressesOf c a b w) pas s1.nextId (stamped c w.ord.toNat s1).1 = some o) :
    Does (.vatomGlobal p d a b w) c s
      (if w.ord = 3 ∧ s1.scOpen c.pool o = true then .stay (s.standAt c.pid c.cid .stall)
      else c.commitPoint (shapeOf (.vatomGlobal p d a b w)) (Instr.vatomGlobal p d a b w).words s
        (c.modPool { (stamped c w.ord.toNat s1).2 with nextId := s1.nextId + 1 } fun q => { q with ops := q.ops ++ [o] })
        (some s1.nextId)
        { atoms := c.atomsOf w s1.nextId o.lanes
          stamp := if 2 ≤ w.scope.toNat then (stamped c w.ord.toNat s1).1.map (·, c.core) else none
          sys := w.scope.toNat = 5, marks := true }
        (if (w.ord = 1 ∨ w.ord = 3) ∧ 3 ≤ w.scope.toNat then .acquire else .go)) := by
  refine ⟨_, Eq.trans (b := execVatomGlobal p d a b w s) rfl (by unfold execVatomGlobal; rfl), ?_⟩
  have hid : (stamped c w.ord.toNat s1).2.nextId = s1.nextId := by unfold stamped; dsimp only; split <;> rfl
  have h1 : w.ord = 1 ↔ w.ord.toNat = 1 := BitVec.toNat_inj.symm
  have h3 : w.ord = 3 ↔ w.ord.toNat = 3 := BitVec.toNat_inj.symm
  dsimp only
  rw [Ctx.ordered_eq s _ he, Ctx.addresses_eq, Ctx.globalAtomic_ok _ ht hs hc]
  obtain rfl := Option.some.inj ho
  simp only [h1, h3, Ctx.stampFor_eq, Bool.and_eq_true, decide_eq_true_eq, Ctx.addOp, State.takeId, hid, List.isEmpty_map]
  rfl

end

end Sys2Proof.Machine

/-! ### The statement -/

section

open Sys2Proof Sys2Proof.Machine

/-- Settles O27: a VATOM whose checks pass is a commit point of the state in which it is outstanding. -/
theorem globalAtomics : Obligations.GlobalAtomics := by
  unfold Obligations.GlobalAtomics
  intro p d a b w c s s1 l z pas q o h hacc hearlier hcheck hq hcp ho s2 s3 stamp atoms held
  obtain ⟨⟨htype, hslice⟩, hl⟩ := Option.ite_none_right_eq_some.mp hacc
  obtain ⟨rfl, rfl⟩ : addressesOf c a b w = l ∧ (if c.wide then 8 else 4) = z := by
    simpa using hl
  have does := does_vatomGlobal p d a b w htype hslice (fun hw =>
      hearlier ((Bool.or_eq_true _ _).mpr (hw.imp decide_eq_true decide_eq_true)))
    hcheck ho
  have heffect := effect_finish (i := .vatomGlobal p d a b w) (s := s2) (p := q)
    ((pool?_stamped c _ s1 _).trans hq) hcp (fun q => { q with ops := q.ops ++ [o] }) id rfl rfl rfl rfl rfl
  rw [Ctx.modCp_id] at heffect
  refine ⟨fun hw => ?_, fun hw hcan => ?_, fun hw hcan => ?_⟩
  · rw [if_pos (show w.ord = 3 ∧ _ from hw)] at does
    exact does.stays h
  · rw [if_neg (show ¬(w.ord = 3 ∧ _) from hw)] at does
    exact does.commits h hcan heffect
  · rw [if_neg (show ¬(w.ord = 3 ∧ _) from hw)] at does
    exact does.stands h hcan

end

/-! PREF, FLUSH and INV (R179, R244, R262, R263, R296): what a request for a line leaves as it was, and which lines a
drop takes. -/

namespace Sys2Proof.Machine

/-! ### Pools and journals as before -/

/-- Pools and journals are as before (R178). -/
structure SamePools (s t : State) : Prop where
  pools : t.pools = s.pools
  journal : t.journal = s.journal

theorem SamePools.refl (s : State) : SamePools s s := ⟨rfl, rfl⟩

theorem SamePools.after {s t u : State} (k : SamePools t u) (h : SamePools s t) : SamePools s u :=
  ⟨k.pools.trans h.pools, k.journal.trans h.journal⟩

theorem SamePools.foldl {f : State → α → State} (hf : ∀ s a, SamePools s (f s a)) (l : List α) (s : State) :
    SamePools s (l.foldl f s) := by
  induction l generalizing s with
  | nil => exact .refl s
  | cons a l ih => exact (ih _).after (hf s a)

/-! ### Translation -/

theorem State.samePools_touchLeaf (s : State) (l : Leaf) (write : Bool) : SamePools s (s.touchLeaf l write) := by
  unfold State.touchLeaf
  dsimp only
  split <;> exact ⟨rfl, rfl⟩

theorem State.samePools_tlbRoom (s : State) (cluster : Nat) : SamePools s (s.tlbRoom cluster) := by
  unfold State.tlbRoom
  dsimp only
  split
  · exact .refl s
  · exact ⟨rfl, rfl⟩

theorem State.samePools_walkedLeaf (s : State) (cluster asid va : Nat) (write : Bool) :
    SamePools s (s.walkedLeaf cluster asid va write).2 := by
  unfold State.walkedLeaf
  dsimp only
  split
  · exact .refl s
  · next l _ =>
    have touched := ((s.tlbRoom cluster).samePools_touchLeaf l write).after (s.samePools_tlbRoom cluster)
    exact ⟨touched.pools, touched.journal⟩

theorem State.samePools_chooseLeaf (s : State) (cluster asid va : Nat) (write : Bool) (l : List TlbEntry) :
    SamePools s (s.chooseLeaf cluster asid va write l).2 := by
  induction l generalizing s with
  | nil => exact s.samePools_walkedLeaf cluster asid va write
  | cons e r ih =>
      have free : SamePools s s.freeBool.2 := ⟨rfl, rfl⟩
      unfold State.chooseLeaf
      dsimp only
      split
      · exact free
      · exact (ih _).after free

theorem State.samePools_leafFor (s : State) (cluster asid va : Nat) (write : Bool) :
    SamePools s (s.leafFor cluster asid va write).2 := s.samePools_chooseLeaf _ _ _ _ _

theorem State.samePools_translate (s : State) (cluster asid va : Nat) (k : XKind) :
    SamePools s (s.translate cluster asid va k).2 := by
  have leaf := s.samePools_leafFor cluster asid va k.writes
  unfold State.translate
  split
  · exact .refl s
  · split
    · exact .refl s
    · split
      · next h => rw [h] at leaf; exact leaf
      · next h =>
        rw [h] at leaf
        dsimp only
        split
        · exact leaf
        · split <;> exact leaf

theorem Ctx.samePools_checkOne (c : Ctx) (s : State) (va : Int) (z : Nat) (k : XKind) (core : Nat) :
    SamePools s (c.checkOne s va z k core).2 := by
  have leaf := s.samePools_leafFor c.pool.cluster c.asid va.toNat false
  have walked := s.samePools_translate (clusterOf c.core) c.asid va.toNat k
  unfold Ctx.checkOne
  split
  · exact .refl s
  · split
    · exact .refl s
    · dsimp only
      split
      · exact .refl s
      · generalize ht : (if (c.pool.task.recipe.isSome && k.writes) = true then _ else _ : Except XFail Nat × State) = t
        have translated : SamePools s t.2 := by
          rw [← ht]
          split
          · split
            · next h => rw [h] at leaf; exact leaf
            · next h =>
              rw [h] at leaf
              split
              · exact leaf
              · split <;> exact leaf
          · exact walked
        rcases t with ⟨_ | pa, t⟩
        · exact translated
        · dsimp only at translated ⊢
          split
          · exact translated
          · split
            · exact translated
            · split
              · exact translated
              · split
                · exact ⟨translated.pools, translated.journal⟩
                · exact ⟨translated.pools, translated.journal⟩

/-! ### Requests for a tile (R332) -/

theorem State.samePools_touchOutside (s : State) (asid va : Nat) (write : Bool) :
    SamePools s (s.touchOutside asid va write) := by
  unfold State.touchOutside
  split
  · exact s.samePools_touchLeaf _ _
  · exact .refl s

theorem State.samePools_systemWrite {s t : State} {asid page : Nat} {ws : List (Nat × List Byte)}
    (h : s.systemWrite asid page ws = some t) : SamePools s t := by
  unfold State.systemWrite at h
  split at h
  · cases h
  · obtain rfl := Option.some.inj h
    have touched := s.samePools_touchOutside asid page true
    exact ⟨touched.pools, touched.journal⟩

theorem State.samePools_writeBack (s : State) (r : Recipe) (code : Nat) : SamePools s (s.writeBack r code) := by
  unfold State.writeBack
  dsimp only
  generalize hw : s.systemWrite _ _ _ = w
  cases w with
  | none => exact ⟨rfl, rfl⟩
  | some t => exact State.samePools_systemWrite hw

theorem State.samePools_setRecipe (s : State) (r : Recipe) : SamePools s (s.setRecipe r) :=
  (State.samePools_writeBack _ _ _).after ⟨rfl, rfl⟩

theorem State.samePools_requestFrom (s : State) (root r chain began fuel : Nat) :
    SamePools s (s.requestFrom root r chain began fuel) := by
  induction fuel generalizing s r with
  | zero => exact .refl s
  | succ f ih =>
      unfold State.requestFrom
      split
      · exact .refl s
      · split
        · exact (SamePools.foldl (fun s t => ih s t) _ _).after (s.samePools_setRecipe _)
        · exact .refl s

theorem State.samePools_requestTile (s : State) (r : Nat) : SamePools s (s.requestTile r) :=
  (State.samePools_requestFrom _ _ _ _ _ _).after ⟨rfl, rfl⟩

/-! ### Fills -/

theorem State.samePools_observeClock (s : State) (core line : Nat) : SamePools s (s.observeClock core line) := by
  unfold State.observeClock State.raiseClock
  split
  · exact .refl s
  · exact ⟨rfl, rfl⟩

theorem State.samePools_fillLlc (s : State) (tenant line : Nat) : SamePools s (s.fillLlc tenant line) := by
  unfold State.fillLlc State.touchLlc
  split
  · exact ⟨rfl, rfl⟩
  · unfold State.putLlc
    rcases s.pickWay line _ with _ | ⟨w, _ | old⟩
    · exact .refl s
    · exact ⟨rfl, rfl⟩
    · exact ⟨rfl, rfl⟩

theorem State.samePools_homeLine (s : State) (key : Nat × Nat) (line : Nat) : SamePools s (s.homeLine key line).2 := by
  unfold State.homeLine
  split
  · exact .refl s
  · exact ⟨rfl, rfl⟩

theorem State.samePools_evictDir (s : State) : SamePools s s.evictDir := by
  unfold State.evictDir
  split
  · exact .refl s
  · exact ⟨rfl, rfl⟩

theorem State.samePools_fillDir (s : State) (cluster line : Nat) : SamePools s (s.fillDir cluster line) := by
  unfold State.fillDir
  dsimp only
  split
  · exact .refl s
  · split
    · exact ⟨rfl, rfl⟩
    · exact ⟨s.samePools_evictDir.pools, s.samePools_evictDir.journal⟩

theorem State.samePools_ccRoom (s : State) (cluster line : Nat) : SamePools s (s.ccRoom cluster line) := by
  unfold State.ccRoom
  dsimp only
  split
  · exact .refl s
  · exact ⟨rfl, rfl⟩

theorem State.samePools_fillCaches (s : State) (core line : Nat) (l : CacheLine) :
    SamePools s (s.fillCaches core line l) := by
  have room : SamePools s ((s.dropShared core line).ccRoom (clusterOf core) line) :=
    (State.samePools_ccRoom _ _ _).after ⟨rfl, rfl⟩
  unfold State.fillCaches
  exact (State.samePools_observeClock _ _ _).after ((State.samePools_fillDir _ _ _).after ⟨room.pools, room.journal⟩)

theorem State.samePools_useCopy (s : State) (m : CacheLine) (line : Nat) (c : Option CacheLine) :
    SamePools s (s.useCopy m line c).2 := by
  unfold State.useCopy
  split
  · exact .refl s
  · split
    · exact .refl s
    · split
      · exact .refl s
      · split
        · exact .refl s
        · exact ⟨rfl, rfl⟩

theorem State.samePools_committedLine (s : State) (core : Nat) (key : Nat × Nat) (line : Nat) (home : Bool) :
    SamePools s (s.committedLine core key line home).2 := by
  have read := s.samePools_homeLine key line
  have first (m : CacheLine) (c : Option CacheLine) := ((s.homeLine key line).2.samePools_useCopy m line c).after read
  have second (m : CacheLine) (c d : Option CacheLine) :=
    (((s.homeLine key line).2.useCopy m line c).2.samePools_useCopy m line d).after (first m c)
  unfold State.committedLine
  dsimp only
  split
  · exact (State.samePools_observeClock _ _ _).after ((State.samePools_fillLlc _ _ _).after read)
  · split
    · exact (State.samePools_observeClock _ _ _).after (first _ _)
    · split
      · exact (State.samePools_observeClock _ _ _).after ⟨(second _ _ _).pools, (second _ _ _).journal⟩
      · exact (State.samePools_fillCaches _ _ _ _).after ((State.samePools_fillLlc _ _ _).after (second _ _ _))

theorem State.samePools_fillCluster (s : State) (core : Nat) (key : Nat × Nat) (line : Nat) :
    SamePools s (s.fillCluster core key line) := by
  unfold State.fillCluster
  dsimp only
  split
  · exact .refl s
  · have room : SamePools s ((((s.homeLine key line).2.fillLlc key.1 line)).ccRoom (clusterOf core) line) :=
      (State.samePools_ccRoom _ _ _).after ((State.samePools_fillLlc _ _ _).after (s.samePools_homeLine key line))
    exact (State.samePools_observeClock _ _ _).after ((State.samePools_fillDir _ _ _).after ⟨room.pools, room.journal⟩)

/-- R262: a request for a line changes no pool and no journal. -/
theorem Ctx.samePools_prefetch (c : Ctx) (s : State) (scope z : Nat) (e : Nat × Int) :
    SamePools s (c.prefetch s scope z e) := by
  have checked := c.samePools_checkOne s e.2 z .load (c.pool.coreOfThread e.1)
  have tile (t : State) (r : Nat) : SamePools t (if 3 ≤ scope then t.requestTile r else t) := by
    split
    · exact t.samePools_requestTile r
    · exact .refl t
  unfold Ctx.prefetch
  dsimp only
  split
  · next h => rw [h] at checked; exact (tile _ _).after checked
  · next h => rw [h] at checked; exact checked
  · next h =>
    rw [h] at checked
    split
    · exact checked
    · split
      · exact (tile _ _).after checked
      · split
        · exact (State.samePools_committedLine _ _ _ _ _).after checked
        · split
          · exact (State.samePools_fillCluster _ _ _ _).after checked
          · exact (State.samePools_fillLlc _ _ _).after checked

/-! ### The instructions -/

section
variable (p : Option Prefix) (d a b : Byte) (w : Access) (scope : BitVec 3) (c : Ctx) (s : State)

theorem does_pref : Does (.pref p d a b w) c s (.done ((addressesOf c a b w).foldl
    (fun s e => c.prefetch s w.scope.toNat (if c.wide then 8 else 4) e) s)) :=
  ⟨_, Eq.trans (b := execPref p d a b w s) rfl (by unfold execPref; rfl), by rw [Ctx.addresses_eq]; rfl⟩

theorem does_flush_near (h : scope.toNat ≤ 1) : Does (.flush p scope) c s (.done s) :=
  ⟨_, Eq.trans (b := execFlush p scope s) rfl (by unfold execFlush; rfl), if_pos (Nat.lt_succ_of_le h)⟩

/-- R244: the operation that a FLUSH leaves outstanding until its record is done. -/
def Ctx.flushOp (c : Ctx) (s : State) : Op := { c.newOp (.flush 0) with id := s.nextId }

/-- The state with an operation of the pool more. -/
def Ctx.withOp (c : Ctx) (s : State) (o : Op) : State :=
  c.modPool { s with nextId := s.nextId + 1 } fun q => { q with ops := q.ops ++ [o] }

/-- R179, R244: the operation is done with the record, for which the CP waits. -/
def flushWait (c : Ctx) (op id : Nat) (v : State) : State :=
  waitFor c .go id (c.modPool v fun q => q.modOp op fun x => { x with kind := .flush id })

/-- R179: the CP goes on in the state of its commit, and stands at the instruction where there is none. -/
def Ctx.stayAt (c : Ctx) (s : State) (o : Option State) : Res :=
  .stay (o.getD (s.standAt c.pid c.cid .stall))

theorem does_flush (h : 2 ≤ scope.toNat) : Does (.flush p scope) c s (c.stayAt s
    ((c.finish (shapeOf (.flush p scope)) (Instr.flush p scope).words (c.withOp s (c.flushOp s))).commitPool c.pid
        none { sys := scope.toNat = 5 } (flushWait c s.nextId))) := by
  refine ⟨_, Eq.trans (b := execFlush p scope s) rfl (by unfold execFlush; rfl), (if_neg (Nat.not_lt.mpr h)).trans ?_⟩
  have h5 : scope = 5 ↔ scope.toNat = 5 := BitVec.toNat_inj.symm
  simp only [h5]
  change (match (c.finish (shapeOf (.flush p scope)) (Instr.flush p scope).words (c.withOp s (c.flushOp s))).commitPool c.pid
        none { sys := scope.toNat = 5 } (flushWait c s.nextId) with | some s' => Res.stay s' | none => _) = _
  unfold Ctx.stayAt
  split
  · next ht => rw [ht]; rfl
  · next ht => rw [ht]; rfl

theorem does_inv_none (h : c.s d = 0) : Does (.inv p d a scope) c s (.done s) :=
  ⟨_, Eq.trans (b := execInv p d a scope s) rfl (by unfold execInv; rfl), if_pos (congrArg BitVec.toNat h)⟩

theorem Ctx.range_ne_zero {c : Ctx} {d : Byte} (h : c.s d ≠ 0) : (c.s d).toNat ≠ 0 :=
  fun e => h (BitVec.eq_of_toNat_eq e)

theorem does_inv_beyond (h : c.s d ≠ 0) (hb : 2 ^ 56 < (c.s a).toNat + (c.s d).toNat) :
    Does (.inv p d a scope) c s (.trap 0x0A 0 0 (c.s a)) :=
  ⟨_, Eq.trans (b := execInv p d a scope s) rfl (by unfold execInv; rfl),
    (if_neg (Ctx.range_ne_zero h)).trans (if_pos hb)⟩

/-- R263: the operation of an INV. -/
def Ctx.invOp (c : Ctx) (d a : Byte) (scope : BitVec 3) (s : State) : Op :=
  { c.newOp (.inv (c.s d).toNat) with
    id := s.nextId, scope := scope.toNat, lanes := [⟨0, (c.s a).toNat, 0, 0, 0⟩] }

theorem does_inv (h : c.s d ≠ 0) (hb : (c.s a).toNat + (c.s d).toNat ≤ 2 ^ 56) :
    Does (.inv p d a scope) c s (.done (c.withOp s (c.invOp d a scope s))) :=
  ⟨_, Eq.trans (b := execInv p d a scope s) rfl (by unfold execInv; rfl),
    (if_neg (Ctx.range_ne_zero h)).trans (if_neg (Nat.not_lt.mpr hb))⟩

end

/-- An instruction whose own effect is an operation more. -/
theorem Does.completes_withOp {i : Instr} {c : Ctx} {s : State} {o : Op} (d : Does i c s (.done (c.withOp s o)))
    (h : Issues i c s) (hr : UndoRoom c s 0) : ∃ t, Machine.exec i s = .next t ∧
      Effect i c { s with nextId := s.nextId + 1 } t { c.pool with ops := c.pool.ops ++ [o] } c.cp := by
  obtain ⟨body, hx, hb⟩ := d
  exact completes_of (s1 := { s with nextId := s.nextId + 1 }) h hx h.pool h.cp (fun q => { q with ops := q.ops ++ [o] })
    id (hb.trans (by rw [Ctx.modCp_id]; rfl)) 0 hr rfl (fun _ => Nat.le_refl _) rfl rfl rfl rfl rfl

/-! ### Dropped lines -/

section
variable (s : State) (core scope pa n : Nat)

/-- R244: a byte of the line lies in the range. -/
theorem rangesOverlap_line (line : Nat) : rangesOverlap (64 * line) 64 pa n = true ↔
    0 < n ∧ 64 * line < pa + n ∧ pa < 64 * line + 64 := by
  simp [rangesOverlap, and_assoc]

theorem State.mem_l1_dropLines (e : Nat × CacheLine) : e ∈ (s.dropLines core scope pa n).l1 ↔ e ∈ s.l1 ∧
    ¬((0 < n ∧ 64 * (e.1 % 2 ^ 46) < pa + n ∧ pa < 64 * (e.1 % 2 ^ 46) + 64) ∧
      if scope ≤ 1 then e.1 / 2 ^ 46 = core else clusterOf (e.1 / 2 ^ 46) = clusterOf core) := by
  rw [← rangesOverlap_line]
  unfold State.dropLines
  simp only [List.mem_filter, Bool.not_eq_true', Bool.and_eq_false_iff, not_and_or, Bool.not_eq_true]
  split <;> simp only [decide_eq_false_iff_not]

theorem State.mem_cc_dropLines (h : 3 ≤ scope) (e : Nat × CacheLine) :
    e ∈ (s.dropLines core scope pa n).cc ↔ e ∈ s.cc ∧
    ¬((0 < n ∧ 64 * (e.1 % 2 ^ 46) < pa + n ∧ pa < 64 * (e.1 % 2 ^ 46) + 64) ∧ e.1 / 2 ^ 46 = clusterOf core) := by
  rw [← rangesOverlap_line]
  unfold State.dropLines
  simp only [List.mem_filter, Bool.not_eq_true', Bool.and_eq_false_iff, not_and_or, Bool.not_eq_true,
    decide_eq_false_iff_not, h, not_true_eq_false, or_false]

theorem State.cc_dropLines_near (h : scope ≤ 2) : (s.dropLines core scope pa n).cc = s.cc := by
  unfold State.dropLines
  refine List.filter_eq_self.mpr fun e _ => ?_
  simp [show ¬3 ≤ scope by omega]

theorem State.dir_dropLines_near (h : scope ≤ 2) : (s.dropLines core scope pa n).dir = s.dir := if_pos h

/-- R296: of the bits of a region that a drop covers it clears the holder's. -/
theorem State.mem_dir_dropLines (h : 3 ≤ scope) {e : Nat × Region} (he : e ∈ s.dir) (hw : e.2.written ≠ 0)
    (h1 : pa ≤ 4096 * e.1) (h2 : 4096 * e.1 + 4096 ≤ pa + n) :
    (e.1, (⟨e.2.holders &&& ~~~BitVec.ofNat 64 (2 ^ (core / 4)), e.2.written⟩ : Region)) ∈
      (s.dropLines core scope pa n).dir := by
  have hdir : (s.dropLines core scope pa n).dir = (s.dir.map fun e =>
      if pa ≤ 4096 * e.1 && 4096 * e.1 + 4096 ≤ pa + n then
        (e.1, (⟨e.2.holders &&& ~~~BitVec.ofNat 64 (2 ^ clusterOf core), e.2.written⟩ : Region))
      else e).filter fun e => e.2 != ⟨0, 0⟩ := if_neg (by omega)
  rw [hdir, List.mem_filter]
  refine ⟨List.mem_map.mpr ⟨e, he, if_pos (by simp [h1, h2])⟩, ?_⟩
  exact bne_iff_ne.mpr fun same => hw (congrArg Region.written same)

end

end Sys2Proof.Machine

/-! ### The statement -/

section

open Sys2Proof Sys2Proof.Machine

/-- Settles O28: PREF asks for lines alone, FLUSH and INV add an operation, and what an INV drops is filtered out. -/
theorem cacheInstructions : Obligations.CacheInstructions := by
  unfold Obligations.CacheInstructions
  refine ⟨?_, ?_, ?_, ?_⟩
  · rintro p d a b w c s s1 h hr rfl
    have same : SamePools s _ := SamePools.foldl (fun s e => c.samePools_prefetch s w.scope.toNat
      (if c.wide then 8 else 4) e) (addressesOf c a b w) s
    exact ⟨same.pools, same.journal, (does_pref p d a b w c s).completes_at h
      ((congrArg (KMap.find? · c.pid) same.pools).trans h.pool) h.cp hr⟩
  · intro p scope c s h
    refine ⟨fun hnear hr => (does_flush_near p scope c s hnear).completes_at h h.pool h.cp hr, ?_⟩
    intro hfar o s2 s3
    have does := does_flush p scope c s hfar
    have may := c.commitPool_finish (shapeOf (.flush p scope)) (Instr.flush p scope).words s3 none
      { sys := scope.toNat = 5 } (flushWait c s.nextId)
    have heffect := effect_finish (i := .flush p scope) (s := s2) h.pool h.cp (fun q => { q with ops := q.ops ++ [o] }) id
      rfl rfl rfl rfl rfl
    rw [Ctx.modCp_id] at heffect
    refine ⟨fun hcan => ?_, fun hcan => ?_⟩
    · obtain ⟨t, ht⟩ := Option.isSome_iff_exists.mp (may.trans hcan)
      rw [show (Ctx.finish _ _ _ (c.withOp s (c.flushOp s))).commitPool _ _ _ _ = some t from ht] at does
      exact ⟨_, t, does.stays h, heffect, ht⟩
    · have hnone := may.trans hcan
      rw [Option.isSome_eq_false_iff, Option.isNone_iff_eq_none] at hnone
      rw [show (Ctx.finish _ _ _ (c.withOp s (c.flushOp s))).commitPool _ _ _ _ = none from hnone] at does
      exact does.stays h
  · intro p d a scope c s h
    exact ⟨fun h0 hr => (does_inv_none p d a scope c s h0).completes_at h h.pool h.cp hr,
      fun h0 hb => (does_inv_beyond p d a scope c s h0 hb).traps h,
      fun h0 hb hr => (does_inv p d a scope c s h0 hb).completes_withOp h hr⟩
  · intro s core scope pa n t hit
    exact ⟨rfl, s.mem_l1_dropLines core scope pa n,
      fun h => ⟨s.cc_dropLines_near core scope pa n h, s.dir_dropLines_near core scope pa n h⟩,
      fun h => ⟨s.mem_cc_dropLines core scope pa n h, fun _ he hw => s.mem_dir_dropLines core scope pa n h he hw⟩⟩

end

/-! The journal and its records (R178, R179, R287, R297): what joins the journal, and what a record carries. -/

namespace Sys2Proof.Machine

/-! ### The largest of a list -/

theorem le_foldl_max {l : List Nat} {a x : Nat} (h : x = a ∨ x ∈ l) : x ≤ l.foldl max a := by
  induction l generalizing a x with
  | nil => exact Nat.le_of_eq (h.resolve_right List.not_mem_nil)
  | cons b l ih =>
      have seed : max a b ≤ (b :: l).foldl max a := ih (.inl rfl)
      rw [List.mem_cons] at h
      obtain rfl | rfl | h := h
      · exact (Nat.le_max_left _ _).trans seed
      · exact (Nat.le_max_right _ _).trans seed
      · exact ih (.inr h)

theorem foldl_max_mem (l : List Nat) (a : Nat) : l.foldl max a = a ∨ l.foldl max a ∈ l := by
  induction l generalizing a with
  | nil => exact .inl rfl
  | cons b l ih =>
      obtain h | h := ih (max a b)
      · obtain hab | hab := max_choice a b
        · exact .inl (h.trans hab)
        · exact .inr (List.mem_cons.mpr (.inl (h.trans hab)))
      · exact .inr (List.mem_cons_of_mem b h)

/-! ### What entries wait for -/

/-- R178: the first of a list without repetitions that meets a condition is the first of the list that does. -/
theorem head?_filter_eraseDups (l : List Nat) (p : Nat → Bool) :
    (l.eraseDups.filter p).head? = l.find? p := by
  induction h : l.length using Nat.strongRecOn generalizing l with
  | _ n ih =>
      subst h
      cases l with
      | nil => rfl
      | cons a l =>
          rw [List.eraseDups_cons, List.filter_cons, List.find?_cons]
          by_cases ha : p a = true
          · simp [ha]
          · have shorter : (l.filter fun b => !b == a).length < (a :: l).length :=
              Nat.lt_succ_of_le (List.length_filter_le _ _)
            have other {b : Nat} (hb : p b = true) : (!b == a) = true := by
              simpa using fun e : b = a => ha (e ▸ hb)
            rw [if_neg ha, ih _ shorter _ rfl, List.find?_filter, Bool.eq_false_of_not_eq_true ha]
            congr 1
            funext b
            by_cases hb : p b = true
            · simp [hb, other hb]
            · simp [hb]

section
variable (s : State) (pool : Nat) (es : List Entry)

/-- R178: the bytes that entries take in the journal of a core. -/
def newAt (es : List Entry) (core : Nat) : Nat := ((es.filter fun e => e.core = core).map Entry.size).sum

theorem State.journalNeed_fits {k : Nat} (h : s.journalHeld pool k + newAt es k ≤ s.share k ∨
    (s.journalHeld pool k = 0 ∧ s.journalTotal k + newAt es k ≤ 65536)) : s.journalNeed pool es k = none := by
  unfold State.journalNeed
  dsimp only
  obtain h | ⟨hheld, hroom⟩ := h
  · exact if_pos h
  · split
    · rfl
    · rw [if_neg (by simpa using hheld)]
      exact if_pos hroom

theorem State.journalNeed_own {k : Nat} (hheld : s.journalHeld pool k ≠ 0)
    (h : s.share k < s.journalHeld pool k + newAt es k) :
    s.journalNeed pool es k = some ((s.uncommitted k).filter (· = pool)) :=
  (if_neg (Nat.not_le.mpr h)).trans (if_pos hheld)

theorem State.journalNeed_oversize {k : Nat} (hheld : s.journalHeld pool k = 0) (h : s.share k < newAt es k)
    (hroom : 65536 < s.journalTotal k + newAt es k) :
    s.journalNeed pool es k = some ((s.uncommitted k).filter (· != pool)).head?.toList :=
  (if_neg (Nat.not_le.mpr (h.trans_le (Nat.le_add_left _ _)))).trans ((if_neg (not_not_intro hheld)).trans
    (if_neg (Nat.not_le.mpr hroom)))

theorem State.mem_uncommitted (k q : Nat) :
    q ∈ s.uncommitted k ↔ ∃ e ∈ s.journal, e.pool = q ∧ e.core = k ∧ e.record = none := by
  unfold State.uncommitted
  simp only [List.mem_eraseDups, List.mem_map, List.mem_filter, Bool.and_eq_true, decide_eq_true_eq,
    Option.isNone_iff_eq_none]
  exact ⟨fun ⟨e, ⟨he, hk, hr⟩, hq⟩ => ⟨e, he, hq, hk, hr⟩,
    fun ⟨e, he, hq, hk, hr⟩ => ⟨e, ⟨he, hk, hr⟩, hq⟩⟩

/-- R178: what a core waits for names no pool but those with entries that no record carries. -/
theorem State.uncommitted_of_journalNeed {k : Nat} {l : List Nat} (h : s.journalNeed pool es k = some l) {q : Nat}
    (hq : q ∈ l) : q ∈ s.uncommitted k := by
  unfold State.journalNeed at h
  dsimp only at h
  split at h
  · cases h
  · split at h
    · cases h
      exact List.mem_of_mem_filter hq
    · split at h
      · cases h
      · cases h
        exact List.mem_of_mem_filter (List.mem_of_mem_head? (Option.mem_toList.mp hq))

/-- R178: the pools whose commits the entries of one instruction wait for, a list for each core that waits. -/
def State.needs : List (List Nat) := (es.map (·.core)).dedup.filterMap (s.journalNeed pool es)

theorem State.enterJournal_nil (h : s.needs pool es = []) : s.enterJournal pool es =
    .entered { s.shareClock pool (es.map (·.core)).dedup with journal := s.journal ++ es } := by
  unfold State.enterJournal
  split
  · rfl
  · next hne => exact absurd h hne

theorem State.enterJournal_ne_nil (h : s.needs pool es ≠ []) :
    s.enterJournal pool es = .commitFirst (s.needs pool es).flatten.eraseDups := by
  unfold State.enterJournal
  split
  · next he => exact absurd he h
  · rfl

theorem State.mem_needs {l : List Nat} :
    l ∈ s.needs pool es ↔ ∃ k ∈ es.map (·.core), s.journalNeed pool es k = some l := by
  simp [State.needs]

theorem State.enterJournal_fits (h : ∀ k ∈ es.map (·.core), s.journalHeld pool k + newAt es k ≤ s.share k ∨
    (s.journalHeld pool k = 0 ∧ s.journalTotal k + newAt es k ≤ 65536)) : s.enterJournal pool es =
    .entered { s.shareClock pool (es.map (·.core)).dedup with journal := s.journal ++ es } := by
  refine s.enterJournal_nil pool es (List.filterMap_eq_nil_iff.mpr fun k hk => ?_)
  exact s.journalNeed_fits pool es (h k (List.mem_dedup.mp hk))

theorem dedup_of_all_eq {l : List Nat} {k : Nat} (hne : l ≠ []) (h : ∀ x ∈ l, x = k) : l.dedup = [k] := by
  rw [List.eq_replicate_of_mem h, List.replicate_dedup (List.length_pos_iff.mpr hne).ne']

theorem State.enterJournal_oversize {k : Nat} (hne : es ≠ []) (hk : ∀ e ∈ es, e.core = k)
    (hheld : s.journalHeld pool k = 0) (h : s.share k < newAt es k) (hroom : 65536 < s.journalTotal k + newAt es k) :
    s.enterJournal pool es = .commitFirst
      ((s.journal.find? fun e => e.core = k && e.record.isNone && e.pool != pool).map (·.pool)).toList := by
  have one : (es.map (·.core)).dedup = [k] :=
    dedup_of_all_eq (by simpa using hne) (by simpa using hk)
  have first : ((s.uncommitted k).filter (· != pool)).head? =
      (s.journal.find? fun e => e.core = k && e.record.isNone && e.pool != pool).map (·.pool) := by
    unfold State.uncommitted
    rw [head?_filter_eraseDups, List.find?_map, List.find?_filter]
    simp only [Function.comp_apply, Bool.decide_and, Bool.decide_eq_true]
  have need : s.needs pool es =
      [((s.journal.find? fun e => e.core = k && e.record.isNone && e.pool != pool).map (·.pool)).toList] := by
    unfold State.needs
    rw [one, List.filterMap_cons, s.journalNeed_oversize pool es hheld h hroom, first]
    rfl
  rw [s.enterJournal_ne_nil pool es (by rw [need]; exact List.cons_ne_nil _ _), need]
  cases (s.journal.find? fun e => e.core = k && e.record.isNone && e.pool != pool).map (·.pool) <;> rfl

theorem State.enterJournal_own {k : Nat} (hk : k ∈ es.map (·.core)) (hheld : s.journalHeld pool k ≠ 0)
    (h : s.share k < s.journalHeld pool k + newAt es k) : ∃ ps, s.enterJournal pool es = .commitFirst ps ∧
      ((∃ e ∈ s.journal, e.pool = pool ∧ e.core = k ∧ e.record = none) → pool ∈ ps) ∧
      ((∀ e ∈ s.journal, e.pool = pool → e.record ≠ none) → pool ∉ ps) := by
  have need : (s.uncommitted k).filter (· = pool) ∈ s.needs pool es :=
    (s.mem_needs pool es).mpr ⟨k, hk, s.journalNeed_own pool es hheld h⟩
  refine ⟨_, s.enterJournal_ne_nil pool es (List.ne_nil_of_mem need), fun hopen => ?_, fun hnone hmem => ?_⟩
  · refine List.mem_eraseDups.mpr (List.mem_flatten.mpr ⟨_, need, List.mem_filter.mpr ⟨?_, decide_eq_true rfl⟩⟩)
    exact (s.mem_uncommitted k pool).mpr hopen
  · obtain ⟨l, hl, hin⟩ := List.mem_flatten.mp (List.mem_eraseDups.mp hmem)
    obtain ⟨j, -, hneed⟩ := (s.mem_needs pool es).mp hl
    obtain ⟨e, he, hp, -, hr⟩ := (s.mem_uncommitted j pool).mp (s.uncommitted_of_journalNeed pool es hneed hin)
    exact hnone e he hp hr

end

/-! ### The clocks of the cores that read (R287) -/

theorem State.get_raiseClock (s : State) (core c k : Nat) : KMap.get (s.raiseClock core c).scClock 0 k =
    if k = core then max (KMap.get s.scClock 0 k) c else KMap.get s.scClock 0 k := by
  unfold State.raiseClock
  split
  · next h =>
    split
    · next e => subst e; exact (Nat.max_eq_left h).symm
    · rfl
  · next h =>
    rw [KMap.get_set]
    split
    · next e => subst e; exact (Nat.max_eq_right (Nat.le_of_not_le h)).symm
    · rfl

theorem State.get_raiseClocks (cores : List Nat) (s : State) (c k : Nat) :
    KMap.get (cores.foldl (fun s k => s.raiseClock k c) s).scClock 0 k =
      if k ∈ cores then max (KMap.get s.scClock 0 k) c else KMap.get s.scClock 0 k := by
  induction cores generalizing s with
  | nil => rfl
  | cons j cores ih =>
      rw [List.foldl_cons, ih, s.get_raiseClock]
      by_cases hj : k = j <;> by_cases hk : k ∈ cores <;> simp [hj, hk]

/-- Two states differ in no more than the clocks. -/
def SameButClock (s t : State) : Prop := ∃ m, t = { s with scClock := m }

theorem State.sameButClock_raiseClock (s : State) (core c : Nat) : SameButClock s (s.raiseClock core c) := by
  unfold State.raiseClock
  split
  · exact ⟨s.scClock, rfl⟩
  · exact ⟨_, rfl⟩

theorem State.sameButClock_raiseClocks (s : State) (cores : List Nat) (c : Nat) :
    SameButClock s (cores.foldl (fun s k => s.raiseClock k c) s) := by
  induction cores generalizing s with
  | nil => exact ⟨s.scClock, rfl⟩
  | cons k cores ih =>
      obtain ⟨m, tail⟩ := ih (s.raiseClock k c)
      obtain ⟨n, head⟩ := s.sameButClock_raiseClock k c
      exact ⟨m, by rw [List.foldl_cons, tail, head]⟩

theorem State.get_shareClock (s : State) {pool : Nat} {p : Pool} (cores : List Nat) (h : s.pool? pool = some p) (k : Nat) :
    KMap.get (s.shareClock pool cores).scClock 0 k =
      if k ∈ cores then (p.cores.map (KMap.get s.scClock 0)).foldl max (KMap.get s.scClock 0 k)
      else KMap.get s.scClock 0 k := by
  have all : (p.cores.map (KMap.get s.scClock 0)).foldl max (KMap.get s.scClock 0 k) =
      max (KMap.get s.scClock 0 k) (s.clockOf p.cores) := by
    conv_lhs => rw [← Nat.max_zero (KMap.get s.scClock 0 k)]
    exact List.foldl_assoc
  unfold State.shareClock
  rw [h, State.get_raiseClocks, all]
  rfl

/-! ### A forced commit (R178, R275) -/

theorem State.forceFor_one (s : State) (pid cid pool : Nat) : s.forceFor pid cid [pool] =
    (s.commitPool pool none {} fun id u =>
      u.modCp pid cid fun cp => { cp with wait := some (id, .go), stand := .stall }).getD
      (s.standAt pid cid .stall) := rfl

/-! ### The record (R297) -/

section
variable (s : State) (group : List Nat)

theorem State.mem_groupCores (k : Nat) : k ∈ ((group.filterMap s.pool?).flatMap Pool.cores).dedup ↔
    ∃ q ∈ group, ∃ p, s.pool? q = some p ∧ k ∈ p.cores := by
  simp only [List.mem_dedup, List.mem_flatMap, List.mem_filterMap]
  exact ⟨fun ⟨p, ⟨q, hq, hp⟩, hk⟩ => ⟨q, hq, p, hp, hk⟩, fun ⟨q, hq, p, hp, hk⟩ => ⟨p, ⟨q, hq, hp⟩, hk⟩⟩

/-- The largest clock of a group's cores. -/
def State.groupClock : Nat := s.clockOf ((group.filterMap s.pool?).flatMap Pool.cores).dedup

theorem State.le_groupClock {q k : Nat} {p : Pool} (hq : q ∈ group) (hp : s.pool? q = some p) (hk : k ∈ p.cores) :
    KMap.get s.scClock 0 k ≤ s.groupClock group :=
  le_foldl_max (.inr (List.mem_map.mpr ⟨k, (s.mem_groupCores group k).mpr ⟨q, hq, p, hp, hk⟩, rfl⟩))

theorem State.groupClock_attained : s.groupClock group = 0 ∨ ∃ q ∈ group, ∃ p, s.pool? q = some p ∧
    ∃ k ∈ p.cores, s.groupClock group = KMap.get s.scClock 0 k := by
  refine (foldl_max_mem _ 0).imp_right fun h => ?_
  obtain ⟨k, hk, he⟩ := List.mem_map.mp h
  obtain ⟨q, hq, p, hp, hc⟩ := (s.mem_groupCores group k).mp hk
  exact ⟨q, hq, p, hp, k, hc, he.symm⟩

theorem State.mem_before (es : List Entry) (n : Nat) : n ∈ s.before group es ↔
    ∃ b ∈ s.records, b.id = n ∧ ((∃ q ∈ b.pools, q ∈ group) ∨
      (∃ q ∈ group, ∃ p, s.pool? q = some p ∧ n ∈ p.seen) ∨
      (∃ e ∈ b.entries, ∃ f ∈ es, e.core = f.core ∧
        rangesOverlap e.span.1 e.span.2 f.span.1 f.span.2 = true)) := by
  unfold State.before
  simp only [List.mem_map, List.mem_filter, Bool.or_eq_true, List.any_eq_true, Option.any_eq_true,
    List.contains_iff_mem, Bool.and_eq_true, decide_eq_true_eq]
  constructor
  · rintro ⟨b, ⟨hb, (hpool | hseen) | hbytes⟩, rfl⟩
    · exact ⟨b, hb, rfl, .inl hpool⟩
    · exact ⟨b, hb, rfl, .inr (.inl hseen)⟩
    · exact ⟨b, hb, rfl, .inr (.inr hbytes)⟩
  · rintro ⟨b, hb, rfl, hpool | hseen | hbytes⟩
    · exact ⟨b, ⟨hb, .inl (.inl hpool)⟩, rfl⟩
    · exact ⟨b, ⟨hb, .inl (.inr hseen)⟩, rfl⟩
    · exact ⟨b, ⟨hb, .inr hbytes⟩, rfl⟩

/-- R181, R276: a pool once the record of a group is formed: it depends on none of the group, and has seen what they
wrote. -/
def Pool.recorded (p : Pool) (id : Nat) (group : List Nat) : Pool :=
  { p with
    deps := p.deps.filter fun d => !group.contains d
    seen := if p.deps.any group.contains then p.seen ++ [id] else p.seen }

theorem Pool.recorded_eq (p : Pool) (id : Nat) : p.recorded id group = { p with
    deps := p.deps.filter fun d => d ∉ group
    seen := if ∃ d ∈ p.deps, d ∈ group then p.seen ++ [id] else p.seen } := by
  unfold Pool.recorded
  simp only [List.any_eq_true, List.contains_eq_mem, decide_eq_true_eq, decide_not]

theorem State.pool?_formRecord (c : Carry) (q : Nat) : (s.formRecord group c).2.pool? q = (s.pool? q).map fun p =>
    let p := { p with
      deps := p.deps.filter fun d => d ∉ group
      seen := if ∃ d ∈ p.deps, d ∈ group then p.seen ++ [s.nextId] else p.seen }
    if q ∈ group then p.checkpoint else p := by
  have found : (s.formRecord group c).2.pool? q = (s.pool? q).map fun p =>
      if group.contains q then (p.recorded s.nextId group).checkpoint else p.recorded s.nextId group :=
    KMap.find?_map_key s.pools (fun k p =>
      if group.contains k then (p.recorded s.nextId group).checkpoint else p.recorded s.nextId group) q
  rw [found]
  refine congrArg (Option.map · (s.pool? q)) (funext fun p => ?_)
  rw [p.recorded_eq]
  simp only [List.contains_iff_mem]

end

end Sys2Proof.Machine

/-! ### The statement -/

section

open Sys2Proof Sys2Proof.Machine

/-- Settles O29: the need of each core decides what enters, and a record is read off as it is formed. -/
theorem journalAndRecords : Obligations.JournalAndRecords := by
  unfold Obligations.JournalAndRecords
  refine ⟨⟨?_, ?_, ?_⟩, ?_⟩
  · intro s pool es size
    exact ⟨s.enterJournal_fits pool es, fun k hne hk => s.enterJournal_oversize pool es hne hk,
      fun k hk => s.enterJournal_own pool es hk⟩
  · intro s pool p cores hp
    obtain ⟨m, hm⟩ := s.sameButClock_raiseClocks cores (s.clockOf (((s.pool? pool).map (·.cores)).getD []))
    exact ⟨by rw [show s.shareClock pool cores = _ from hm], s.get_shareClock cores hp⟩
  · intro s pid cid pool
    have may := commitPool_isSome s pool none {} fun id u =>
      u.modCp pid cid fun cp => { cp with wait := some (id, .go), stand := .stall }
    refine ⟨fun h => ?_, fun h => ?_, rfl⟩
    · obtain ⟨t, ht⟩ := Option.isSome_iff_exists.mp (may.trans h)
      exact ⟨_, rfl, by rw [s.forceFor_one, ht]; rfl⟩
    · have hnone := may.trans h
      rw [Option.isSome_eq_false_iff, Option.isNone_iff_eq_none] at hnone
      rw [s.forceFor_one, hnone]
      rfl
  · intro s group c mine
    refine ⟨_, _, rfl, rfl, rfl, rfl, rfl, rfl, rfl, rfl, rfl, rfl, rfl, ?_, ?_, ?_, ?_, rfl, ?_, fun _ => rfl, rfl⟩
    · exact fun q hq p hp k hk => s.le_groupClock group hq hp hk
    · exact s.groupClock_attained group
    · exact s.mem_before group _
    · intro q p hp hq hd
      exact List.mem_filterMap.mpr ⟨q, hq, (congrArg (Option.bind · _) hp).trans (if_pos hd)⟩
    · exact s.pool?_formRecord group c

end

/-! The matrix instructions at issue (R180, R182, R216 to R219, R224, R226, R227): what a command captures, what the undo
log keeps for it, and the checks in their order. -/

namespace Sys2Proof.Machine

/-! ### What the undo log keeps (R180) -/

/-- A pool with more in its undo log, n bytes at most, and as before otherwise. -/
structure Logged (p q : Pool) (n : Nat) : Prop where
  parts : q.parts = p.parts
  cps : q.cps = p.cps
  cmds : q.cmds = p.cmds
  tiles : q.tiles = p.tiles
  regs : q.regs = p.regs
  held : ∀ k, q.undoOn k ≤ p.undoOn k + n

theorem Logged.refl (p : Pool) : Logged p p 0 := ⟨rfl, rfl, rfl, rfl, rfl, fun _ => Nat.le_refl _⟩

theorem Logged.trans {p q r : Pool} {m n : Nat} (h : Logged p q m) (k : Logged q r n) : Logged p r (m + n) where
  parts := k.parts.trans h.parts
  cps := k.cps.trans h.cps
  cmds := k.cmds.trans h.cmds
  tiles := k.tiles.trans h.tiles
  regs := k.regs.trans h.regs
  held := fun core => by
    have := h.held core
    have := k.held core
    omega

theorem Logged.mono {p q : Pool} {m n : Nat} (h : Logged p q m) (hle : m ≤ n) : Logged p q n :=
  { h with held := fun k => (h.held k).trans (Nat.add_le_add_left hle _) }

theorem Logged.foldl {f : Pool → α → Pool} {n : Nat} (hf : ∀ p a, Logged p (f p a) n) (l : List α) (p : Pool) :
    Logged p (l.foldl f p) (n * l.length) := by
  induction l generalizing p with
  | nil => exact .refl p
  | cons a l ih =>
      have := (hf p a).trans (ih (f p a))
      rwa [List.length_cons, Nat.mul_succ, Nat.add_comm]

theorem Pool.logged_tile (p : Pool) (k : Nat) :
    Logged p { p with undoTiles := KMap.record p.undoTiles k (p.tile k) } 4224 where
  parts := rfl
  cps := rfl
  cmds := rfl
  tiles := rfl
  regs := rfl
  held := fun core => by
    have := KMap.length_filter_record p.undoTiles k (p.tile k) fun e => decide (coreOf (p.parts.getD (e.1 / 64) 0) = core)
    have after : Pool.undoOn { p with undoTiles := KMap.record p.undoTiles k (p.tile k) } core =
        4 * (p.undoRegs.filter fun e => p.coreOfThread (e.1 / 256) = core).length +
        (if core = p.homeCore then p.undoSpad.length else 0) + 4224 * ((KMap.record p.undoTiles k (p.tile k)).filter
          fun e => decide (coreOf (p.parts.getD (e.1 / 64) 0) = core)).length := rfl
    rw [after, Pool.undoOn]
    omega

theorem Pool.logged_reg (p : Pool) (k : Nat) (w : Word) :
    Logged p { p with undoRegs := KMap.record p.undoRegs k w } 4 where
  parts := rfl
  cps := rfl
  cmds := rfl
  tiles := rfl
  regs := rfl
  held := fun core => by
    have := KMap.length_filter_record p.undoRegs k w fun e => decide (p.coreOfThread (e.1 / 256) = core)
    have after : Pool.undoOn { p with undoRegs := KMap.record p.undoRegs k w } core =
        4 * ((KMap.record p.undoRegs k w).filter fun e => decide (p.coreOfThread (e.1 / 256) = core)).length +
        (if core = p.homeCore then p.undoSpad.length else 0) +
        4224 * (p.undoTiles.filter fun e => coreOf (p.parts.getD (e.1 / 64) 0) = core).length := rfl
    rw [after, Pool.undoOn]
    omega

theorem length_wordTids (l : List Nat) : (wordTids l).length = 32 * l.length := by
  induction l with
  | nil => rfl
  | cons w l ih => simp [wordTids] at ih ⊢; omega

/-- R180: a command's words take a tile each, and for an MDRN 32 registers of 32 threads as well. -/
theorem Pool.logged_keepTiles (p : Pool) (m : MatrixCmd) : Logged p (p.keepTiles m) (8320 * m.words.length) := by
  have tiles : Logged p _ (4224 * m.words.length) := Logged.foldl (fun p w => p.logged_tile (2 * w + m.acc)) m.words p
  have regs (q : Pool) : Logged q _ (4 * (List.range 32).length * (wordTids m.words).length) := Logged.foldl
    (fun q t => Logged.foldl (fun q j => q.logged_reg (256 * t + m.d + j) (q.reg t (m.d + j))) (List.range 32) q)
    (wordTids m.words) q
  unfold Pool.keepTiles
  dsimp only
  split
  · have both := tiles.trans (regs _)
    rw [List.length_range, length_wordTids] at both
    exact both.mono (by omega)
  · exact tiles.mono (by omega)

/-! ### The instruction's command -/

/-- R89, R227: a metadata record whose reserved bits are set where a register gave them. -/
def badRecord (i : Instr) (c : Ctx) : Bool :=
  match i with
  | .mmas _ _ _ _ marks r => c.badSubst marks 1 r.r1 0xFFFF0000 || c.badSubst marks 3 r.r3 0xFFFFFFFF
  | _ => false

/-- The five matrix instructions, case by case. -/
theorem isMatrix_elim {P : Instr → Prop} (mma : ∀ p d a b, P (.mma p d a b)) (mmaq : ∀ p d a b, P (.mmaq p d a b))
    (mmas : ∀ p d a acc marks r, P (.mmas p d a acc marks r)) (mdrn : ∀ p d a, P (.mdrn p d a))
    (mzero : ∀ p d, P (.mzero p d)) : (i : Instr) → isMatrix i = true → P i
  | .mma p d a b, _ => mma p d a b
  | .mmaq p d a b, _ => mmaq p d a b
  | .mmas p d a acc marks r, _ => mmas p d a acc marks r
  | .mdrn p d a, _ => mdrn p d a
  | .mzero p d, _ => mzero p d

theorem does_matrix (c : Ctx) (s : State) : (i : Instr) → isMatrix i = true →
    Does i c s (c.matrixIssue s (matrixOf i c) (badRecord i c)) :=
  isMatrix_elim
    (fun p d a b => ⟨_, Eq.trans (b := execMma p d a b s) rfl (by unfold execMma; rfl), rfl⟩)
    (fun p d a b => ⟨_, Eq.trans (b := execMmaq p d a b s) rfl (by unfold execMmaq; rfl), rfl⟩)
    (fun p d a acc marks r => ⟨_, Eq.trans (b := execMmas p d a acc marks r s) rfl (by unfold execMmas; rfl), rfl⟩)
    (fun p d a => ⟨_, Eq.trans (b := execMdrn p d a s) rfl (by unfold execMdrn; rfl), rfl⟩)
    (fun p d => ⟨_, Eq.trans (b := execMzero p d s) rfl (by unfold execMzero; rfl), rfl⟩)

/-! ### The checks of an issue (R224) -/

section
variable (c : Ctx) (s : State) (m0 : MatrixCmd) (bad : Bool)

/-- The command with the words of the set. -/
def Ctx.ofSet (c : Ctx) (m0 : MatrixCmd) : MatrixCmd := { m0 with words := c.wholeWords }

/-- MMA, MMAQ and MMAS. -/
def MatrixCmd.multiplies (m : MatrixCmd) : Bool := m.op == .mma || m.op == .mmaq || m.op == .mmas

theorem MatrixCmd.multiplies_iff (m : MatrixCmd) : m.multiplies = true ↔ m.op ≠ .mdrn ∧ m.op ≠ .mzero := by
  unfold MatrixCmd.multiplies
  cases m.op <;> decide

/-- R182: the command joins the outstanding ones. -/
def Ctx.giveMatrix (c : Ctx) (s : State) (m : MatrixCmd) : Res :=
  .done (c.addCmd (c.modPool s fun q => q.keepTiles m) 3 (.matrix m) [])

/-- The responders outside the whole words. -/
def Ctx.partialTids (c : Ctx) : List Nat := c.tids.filter fun t => t / 32 ∉ c.wholeWords

theorem Ctx.partialTids_eq : (c.tids.filter fun t => !c.wholeWords.contains (t / 32)) = c.partialTids :=
  List.filter_congr fun t _ => by simp

/-- R224 step 3: the scale offsets outside the scratchpad. -/
def Ctx.scalesOut (c : Ctx) (m : MatrixCmd) : List (Nat × Nat) :=
  (c.scaleOffsets m).filter fun e => decide (c.pool.spadSize < e.2 + 1)

/-- R227: metadata that fail. -/
def Ctx.metaBad (c : Ctx) (m : MatrixCmd) (bad : Bool) : Bool :=
  m.op == .mmas && (bad || decide (bits 15 0 m.x1 < m.k / 8) ||
    m.metaRanges.any fun r => decide (c.pool.spadSize < r.1 + r.2))

/-- R195, R227: the scratchpad bytes that a multiply reads at issue are touched. -/
def Ctx.touchMatrix (c : Ctx) (s : State) (m : MatrixCmd) : State :=
  (s.touchAll c.pid ((c.scaleOffsets m).map (·.2)) 1).touchAll c.pid (m.metaRanges.map (·.1)) (m.k / 8)

/-- R224: the checks of a multiply once its tiles have passed theirs. -/
def Ctx.multiplyIssue (c : Ctx) (s : State) (m : MatrixCmd) (bad : Bool) : Res :=
  if c.scalesOut m ≠ [] then
    .trap 0x0B (Mask.ofTids ((c.scalesOut m).map (·.1))) 0 (BitVec.ofNat 64 ((c.scalesOut m).headD (0, 0)).2)
  else if c.metaBad m bad then .trap 0x14 0 0 0
  else (c.scaleFault (c.capture (c.touchMatrix s m) m)).getD
    (c.giveMatrix (c.touchMatrix s m) (c.capture (c.touchMatrix s m) m))

theorem Ctx.matrixIssue_eq : c.matrixIssue s m0 bad =
    if 63 ≤ c.cp.mtx then .stay (s.standAt c.pid c.cid .stall)
    else if c.partialTids ≠ [] then .trap 0x12 (Mask.ofTids c.partialTids) 0 0
    else ((c.tileFault (c.ofSet m0)).map fun f => Res.trap 0x01 (Mask.ofTids (wordTids f.2)) f.1 0).getD
      (if (c.ofSet m0).multiplies then c.multiplyIssue s (c.ofSet m0) bad else c.giveMatrix s (c.ofSet m0)) := by
  unfold Ctx.matrixIssue Ctx.counted
  dsimp only
  rw [c.partialTids_eq]
  change (if 63 ≤ c.cp.mtx then _ else _) = _
  refine if_congr Iff.rfl rfl (if_congr Iff.rfl rfl ?_)
  change (match c.tileFault (c.ofSet m0) with | some f => _ | none => _) = _
  cases c.tileFault (c.ofSet m0) with
  | some f => rfl
  | none =>
      change (if (!(c.ofSet m0).multiplies) = true then _ else _) = if (c.ofSet m0).multiplies then _ else _
      cases (c.ofSet m0).multiplies with
      | false => rfl
      | true =>
          refine Eq.trans (if_neg Bool.false_ne_true) (Eq.trans ?_ (if_pos rfl).symm)
          unfold Ctx.multiplyIssue
          refine if_congr Iff.rfl rfl (if_congr Iff.rfl rfl ?_)
          change (match c.scaleFault (c.capture (c.touchMatrix s (c.ofSet m0)) (c.ofSet m0)) with
            | some f => _ | none => _) = _
          cases c.scaleFault (c.capture (c.touchMatrix s (c.ofSet m0)) (c.ofSet m0)) with
          | some r => rfl
          | none => rfl

/-- R224 step 2: a format that is not the instruction's. -/
def MatrixCmd.wrongFormat (m : MatrixCmd) : Bool :=
  match m.op with
  | .mma => isQ m.aCode || isQ m.bCode || m.sparse
  | .mmaq => !isQ m.aCode || !isQ m.bCode || m.sparse
  | .mmas => !m.sparse
  | _ => false

/-- The words whose tile another CP owns. -/
def Ctx.otherTiles (c : Ctx) (m : MatrixCmd) : List Nat :=
  m.words.filter fun w => (tileOf c m w).owner.any (· != c.cid)

/-- The words whose tile no CP owns. -/
def Ctx.freeTiles (c : Ctx) (m : MatrixCmd) : List Nat := m.words.filter fun w => (tileOf c m w).owner.isNone

/-- The words whose tile is of the other kind. -/
def Ctx.otherKind (c : Ctx) (m : MatrixCmd) : List Nat :=
  m.words.filter fun w => (tileOf c m w).kind != .empty && (tileOf c m w).kind != m.path

theorem Ctx.tileFault_eq (m : MatrixCmd) : c.tileFault m =
    if m.wrongFormat && m.words != [] then some (8, m.words)
    else if c.otherTiles m ≠ [] then some (7, c.otherTiles m)
    else if (if m.op == .mzero then [] else c.freeTiles m) ≠ [] then
      some (6, if m.op == .mzero then [] else c.freeTiles m)
    else if (if m.multiplies then c.otherKind m else []) ≠ [] then some (5, if m.multiplies then c.otherKind m else [])
    else none := rfl

section
variable {c} {m : MatrixCmd}

theorem Ctx.tileFault_format (hf : m.wrongFormat = true) (hw : m.words ≠ []) : c.tileFault m = some (8, m.words) := by
  rw [c.tileFault_eq, if_pos (by simp [hf, hw])]

variable (hf : ¬m.wrongFormat = true)
include hf

theorem Ctx.tileFault_other (ho : c.otherTiles m ≠ []) : c.tileFault m = some (7, c.otherTiles m) := by
  rw [c.tileFault_eq, if_neg (by simp [hf]), if_pos ho]

variable (ho : c.otherTiles m = []) (hz : m.op ≠ .mzero)
include ho hz

theorem Ctx.tileFault_free (hfree : c.freeTiles m ≠ []) : c.tileFault m = some (6, c.freeTiles m) := by
  rw [c.tileFault_eq, if_neg (by simp [hf]), if_neg (not_not_intro ho),
    if_neg (by simpa using hz : ¬(m.op == .mzero) = true), if_pos hfree]

theorem Ctx.tileFault_kind (hfree : c.freeTiles m = []) (hd : m.op ≠ .mdrn) (hk : c.otherKind m ≠ []) :
    c.tileFault m = some (5, c.otherKind m) := by
  rw [c.tileFault_eq, if_neg (by simp [hf]), if_neg (not_not_intro ho),
    if_neg (by simpa using hz : ¬(m.op == .mzero) = true), if_neg (not_not_intro hfree),
    if_pos (m.multiplies_iff.mpr ⟨hd, hz⟩), if_pos hk]

end

/-- R224 step 4: the words whose captured scale codes differ. -/
def Ctx.scalesDiffer (c : Ctx) (m : MatrixCmd) : List Nat :=
  m.words.filter fun w => (tileOf c m w).capt &&
    ((tileOf c m w).rsc != m.rowScales w || (tileOf c m w).csc != m.colScales w)

theorem Ctx.scaleFault_eq (m : MatrixCmd) : c.scaleFault m =
    if c.scalesDiffer m ≠ [] then some (.trap 0x01 (Mask.ofTids (wordTids (c.scalesDiffer m))) 4 0)
    else if m.residue && m.words.any fun w => decide (256 < (tileOf c m w).count + m.k) then some (.trap 0x13 0 0 0)
    else none := rfl

end

/-! ### Metadata records -/

theorem isQ_iff (code : Nat) : isQ code = true ↔ code = 1 ∨ code = 15 := by simp [isQ]

/-- R218: a format that is not the instruction's, by its codes. -/
def MatrixCmd.WrongFormat (m : MatrixCmd) : Prop :=
  match m.op with
  | .mma => (m.aCode = 1 ∨ m.aCode = 15) ∨ (m.bCode = 1 ∨ m.bCode = 15) ∨ m.sparse = true
  | .mmaq => ¬(m.aCode = 1 ∨ m.aCode = 15) ∨ ¬(m.bCode = 1 ∨ m.bCode = 15) ∨ m.sparse = true
  | .mmas => m.sparse = false
  | _ => False

theorem MatrixCmd.wrongFormat_iff (m : MatrixCmd) : m.WrongFormat ↔ m.wrongFormat = true := by
  unfold MatrixCmd.WrongFormat MatrixCmd.wrongFormat
  cases m.op with
  | mma => simp [isQ_iff, or_assoc]
  | mmaq => simp [← isQ_iff, or_assoc]
  | mmas => simp
  | mdrn => simp
  | mzero => simp

theorem MatrixCmd.residue_of_codes {m : MatrixCmd} (ha : m.aCode = 1 ∨ m.aCode = 15) (hb : m.bCode = 1 ∨ m.bCode = 15) :
    m.residue = true := by
  unfold MatrixCmd.residue
  rw [(isQ_iff _).mpr ha, (isQ_iff _).mpr hb]
  rfl

theorem Ctx.toNat_recordWord (c : Ctx) (marks : BitVec 4) (k : Nat) (w : Word) :
    (c.recordWord marks k w).toNat = wordOf c marks k w := by
  unfold Ctx.recordWord wordOf
  split
  · simp
  · rfl

theorem and_high_half_eq_zero (x : Word) : x &&& 0xFFFF0000 = 0 ↔ x.toNat < 65536 := by
  have shifted : x &&& (0xFFFF0000 : Word) = (x >>> 16) <<< 16 := by
    rw [show (0xFFFF0000 : Word) = BitVec.allOnes 32 <<< 16 from rfl]
    ext i hi
    simp only [BitVec.getElem_and, BitVec.getElem_shiftLeft, BitVec.getElem_allOnes]
    by_cases h : i < 16
    · simp [h]
    · simp [h, hi, BitVec.getLsbD_eq_getElem, Nat.add_sub_cancel' (Nat.le_of_not_lt h)]
  rw [shifted, ← BitVec.toNat_inj, BitVec.toNat_shiftLeft, BitVec.toNat_ushiftRight, Nat.shiftLeft_eq,
    Nat.shiftRight_eq_div_pow, show BitVec.toNat (0 : Word) = 0 from rfl]
  omega

theorem Ctx.badSubst_iff (c : Ctx) (marks : BitVec 4) (k : Nat) (w reserved : Word) :
    c.badSubst marks k w reserved = true ↔ marks.getLsbD k = true ∧ c.recordWord marks k w &&& reserved ≠ 0 := by
  simp [Ctx.badSubst]

/-- R89, R227: the reserved bits of words 1 and 3 of a metadata record. -/
theorem badRecord_iff (c : Ctx) (p : Option Prefix) (d a : Byte) (acc marks : BitVec 4) (r : TensorRecord) :
    badRecord (.mmas p d a acc marks r) c = true ↔
      (marks.getLsbD 1 = true ∧ 65536 ≤ wordOf c marks 1 r.r1) ∨
        (marks.getLsbD 3 = true ∧ wordOf c marks 3 r.r3 ≠ 0) := by
  have word1 : c.recordWord marks 1 r.r1 &&& 0xFFFF0000 ≠ 0 ↔ 65536 ≤ wordOf c marks 1 r.r1 := by
    rw [Ne, and_high_half_eq_zero, c.toNat_recordWord, Nat.not_lt]
  have word3 : c.recordWord marks 3 r.r3 &&& 0xFFFFFFFF ≠ 0 ↔ wordOf c marks 3 r.r3 ≠ 0 := by
    rw [show (0xFFFFFFFF : Word) = BitVec.allOnes 32 from rfl, BitVec.and_allOnes, ← c.toNat_recordWord, Ne, Ne,
      ← BitVec.toNat_inj]
    rfl
  unfold badRecord
  rw [Bool.or_eq_true, c.badSubst_iff, c.badSubst_iff, word1, word3]

/-- R227: when the metadata of an instruction fail. -/
def BadMeta (i : Instr) (c : Ctx) : Prop := ∃ p d a acc marks r, i = .mmas p d a acc marks r ∧
  ((marks.getLsbD 1 = true ∧ 65536 ≤ wordOf c marks 1 r.r1) ∨
    (marks.getLsbD 3 = true ∧ wordOf c marks 3 r.r3 ≠ 0) ∨
    wordOf c marks 1 r.r1 % 65536 < (setOf i c).k / 8 ∨ ∃ e ∈ (setOf i c).metaRanges, c.pool.spadSize < e.1 + e.2)

theorem metaBad_iff_of_not_mmas {i : Instr} {c : Ctx} (bad : Bool) (h : (setOf i c).op ≠ .mmas)
    (hne : ∀ p d a acc marks r, i ≠ .mmas p d a acc marks r) : c.metaBad (setOf i c) bad = true ↔ BadMeta i c := by
  refine iff_of_false (fun hbad => h ?_) fun ⟨p, d, a, acc, marks, r, he, _⟩ => hne p d a acc marks r he
  simp only [Ctx.metaBad, Bool.and_eq_true, beq_iff_eq] at hbad
  exact hbad.1

theorem metaBad_mmas_iff (c : Ctx) (p : Option Prefix) (d a : Byte) (acc marks : BitVec 4) (r : TensorRecord) :
    c.metaBad (setOf (.mmas p d a acc marks r) c) (badRecord (.mmas p d a acc marks r) c) = true ↔
      BadMeta (.mmas p d a acc marks r) c := by
  have pitch : bits 15 0 (setOf (.mmas p d a acc marks r) c).x1 = wordOf c marks 1 r.r1 % 65536 := by
    rw [bits_low, ← c.toNat_recordWord]
    rfl
  have op : ((setOf (.mmas p d a acc marks r) c).op == .mmas) = true := rfl
  simp only [Ctx.metaBad, op, Bool.true_and, Bool.or_eq_true, badRecord_iff, pitch, decide_eq_true_eq,
    List.any_eq_true, or_assoc]
  constructor
  · exact fun h => ⟨p, d, a, acc, marks, r, rfl, h⟩
  · rintro ⟨_, _, _, _, _, _, he, h⟩
    cases he
    exact h

theorem metaBad_iff (i : Instr) (c : Ctx) (hi : isMatrix i = true) :
    c.metaBad (setOf i c) (badRecord i c) = true ↔ BadMeta i c := by
  refine isMatrix_elim (P := fun i => c.metaBad (setOf i c) (badRecord i c) = true ↔ BadMeta i c) ?_ ?_
    (metaBad_mmas_iff c) ?_ ?_ i hi
  all_goals
    intros
    refine metaBad_iff_of_not_mmas _ (fun h => by cases h) fun _ _ _ _ _ _ h => by cases h

/-! ### The command issues -/

section
variable {i : Instr} {c : Ctx} {s : State}

/-- R182: a command joins the outstanding ones and is counted in c.mtx, once the undo log keeps what it will change. -/
theorem Does.completes_command {s2 : State} {q : Pool} {keep : Pool → Pool} {n : Nat} {kind : CmdKind}
    (d : Does i c s (.done (c.addCmd (c.modPool s2 keep) 3 kind []))) (h : Issues i c s) (hp : s2.pool? c.pid = some q)
    (hc : q.cp? c.cid = some c.cp) (logged : Logged q (keep q) n) (hr : RoomAt c s q n) :
    ∃ t, Machine.exec i s = .next t ∧ Effect i c { s2 with nextId := s2.nextId + 1 } t
      { keep q with cmds := q.cmds ++ [c.command s2.nextId kind []] } { c.cp with mtx := c.cp.mtx + 1 } := by
  obtain ⟨body, hx, hb⟩ := d
  have cores : (keep q).cores = q.cores := by rw [Pool.cores, Pool.cores, logged.parts]
  have composed := State.modPool_modPool { s2 with nextId := s2.nextId + 1 } c.pid keep
    fun p => { p with cmds := p.cmds ++ [c.command s2.nextId kind []] }
  rw [← logged.cmds]
  exact completes_of (s1 := { s2 with nextId := s2.nextId + 1 }) h hx hp hc
    (fun q => { keep q with cmds := (keep q).cmds ++ [c.command s2.nextId kind []] })
    (fun cp => { cp with mtx := cp.mtx + 1 })
    (hb.trans (congrArg (fun u => Res.done (c.modCp u fun cp => { cp with mtx := cp.mtx + 1 })) composed)) n hr cores
    logged.held logged.cps rfl rfl rfl rfl

variable (hi : isMatrix i = true) (h : Issues i c s)
include hi h

theorem matrix_stalls (hfull : 63 ≤ c.cp.mtx) : Stalls i c s := by
  have d := does_matrix c s i hi
  rw [Ctx.matrixIssue_eq, if_pos hfull] at d
  exact d.stays h

variable (hroom : c.cp.mtx < 63)
include hroom

theorem matrix_traps_partial {t : Nat} {r : List Nat} (hp : c.partialTids = t :: r) :
    Traps i c s 0x12 (Mask.ofTids (t :: r)) 0 0 := by
  have d := does_matrix c s i hi
  rw [Ctx.matrixIssue_eq, if_neg (Nat.not_le.mpr hroom), if_pos (by rw [hp]; exact List.cons_ne_nil _ _), hp] at d
  exact d.traps h

omit hi h hroom in
theorem Ctx.partialTids_of_whole (hw : ∀ t ∈ c.tids, t / 32 ∈ c.wholeWords) : c.partialTids = [] :=
  List.filter_eq_nil_iff.mpr fun t ht => by simp [hw t ht]

variable (hw : ∀ t ∈ c.tids, t / 32 ∈ c.wholeWords)
include hw

omit h in
/-- R224: past the first checks, the tiles decide, and then the operation. -/
theorem does_matrix_whole : Does i c s
    (((c.tileFault (setOf i c)).map fun f => Res.trap 0x01 (Mask.ofTids (wordTids f.2)) f.1 0).getD
      (if (setOf i c).multiplies then c.multiplyIssue s (setOf i c) (badRecord i c) else c.giveMatrix s (setOf i c))) := by
  have d := does_matrix c s i hi
  rw [Ctx.matrixIssue_eq, if_neg (Nat.not_le.mpr hroom), Ctx.partialTids_of_whole hw, if_neg (not_not_intro rfl)] at d
  exact d

theorem matrix_traps_tile {n : Word} {l : List Nat} (hf : c.tileFault (setOf i c) = some (n, l)) :
    Traps i c s 0x01 (Mask.ofTids (wordTids l)) n 0 := by
  have d := does_matrix_whole hi hroom hw (s := s)
  rw [hf] at d
  exact d.traps h

variable (hf : c.tileFault (setOf i c) = none)
include hf

omit h in
theorem does_matrix_plain (hop : (setOf i c).op = .mdrn ∨ (setOf i c).op = .mzero) :
    Does i c s (c.giveMatrix s (setOf i c)) := by
  have d := does_matrix_whole hi hroom hw (s := s)
  have plain : ¬(setOf i c).multiplies = true := fun hm => by
    obtain ⟨hdrain, hzero⟩ := (MatrixCmd.multiplies_iff _).mp hm
    exact hop.elim hdrain hzero
  rw [hf, if_neg plain] at d
  exact d

omit h in
theorem does_multiply (hop : (setOf i c).op ≠ .mdrn ∧ (setOf i c).op ≠ .mzero) :
    Does i c s (c.multiplyIssue s (setOf i c) (badRecord i c)) := by
  have d := does_matrix_whole hi hroom hw (s := s)
  rw [hf, if_pos ((MatrixCmd.multiplies_iff _).mpr hop)] at d
  exact d

variable (hop : (setOf i c).op ≠ .mdrn ∧ (setOf i c).op ≠ .mzero)
include hop

theorem multiply_traps_scale {e : Nat × Nat} {l : List (Nat × Nat)} (ho : c.scalesOut (setOf i c) = e :: l) :
    Traps i c s 0x0B (Mask.ofTids ((c.scalesOut (setOf i c)).map (·.1))) 0 (BitVec.ofNat 64 e.2) := by
  have d := does_multiply hi hroom hw hf hop (s := s)
  unfold Ctx.multiplyIssue at d
  rw [if_pos (by rw [ho]; exact List.cons_ne_nil _ _)] at d
  have traps := d.traps h
  rw [show (c.scalesOut (setOf i c)).headD (0, 0) = e by rw [ho]; rfl] at traps
  exact traps

variable (ho : c.scalesOut (setOf i c) = [])
include ho

theorem multiply_traps_meta (hm : BadMeta i c) : Traps i c s 0x14 0 0 0 := by
  have d := does_multiply hi hroom hw hf hop (s := s)
  unfold Ctx.multiplyIssue at d
  rw [if_neg (not_not_intro ho), if_pos ((metaBad_iff i c hi).mpr hm)] at d
  exact d.traps h

omit h in
theorem does_multiply_captured (hm : ¬BadMeta i c) {s2 : State} {m2 : MatrixCmd} (h2 : s2 = c.touchMatrix s (setOf i c))
    (hcap : m2 = c.capture s2 (setOf i c)) : Does i c s ((c.scaleFault m2).getD (c.giveMatrix s2 m2)) := by
  have d := does_multiply hi hroom hw hf hop (s := s)
  unfold Ctx.multiplyIssue at d
  rw [if_neg (not_not_intro ho), if_neg (mt (metaBad_iff i c hi).mp hm), ← h2, ← hcap] at d
  exact d

end

end Sys2Proof.Machine

/-! ### The statement -/

section

open Sys2Proof Sys2Proof.Machine

/-- Settles O37: the checks of R224 are taken one by one, and what passes them is given to the unit. -/
theorem matrixCommands : Obligations.MatrixCommands := by
  unfold Obligations.MatrixCommands
  refine ⟨?_, ?_⟩
  · intro i c s s2 q m hi h hroom hw hf hpassed hp hc hr
    have logged := q.logged_keepTiles m
    suffices d : Does i c s (c.giveMatrix s2 m) ∧ m.words = c.wholeWords by
      obtain ⟨d, hwords⟩ := d
      obtain ⟨t, ht, effect⟩ := d.completes_command h hp hc logged (by rw [hwords]; exact hr)
      exact ⟨t, ht, effect, logged.tiles, logged.regs⟩
    split at hpassed
    · next hop =>
      obtain ⟨rfl, rfl⟩ := hpassed
      exact ⟨does_matrix_plain hi hroom hw hf hop, rfl⟩
    · next hop =>
      obtain ⟨h2, hscale, hmeta, hcap, hcodes⟩ := hpassed
      have out : c.scalesOut (setOf i c) = [] := List.filter_eq_nil_iff.mpr fun e he => by
        simpa using hscale e he
      have good : ¬BadMeta i c := by
        rintro ⟨p, d, a, acc, marks, r, hi, hbad⟩
        obtain ⟨h1, h3, hpitch, hrange⟩ := hmeta p d a acc marks r hi
        rw [Nat.mod_eq_of_lt h1] at hbad
        rcases hbad with ⟨-, hbad⟩ | ⟨-, hbad⟩ | hbad | ⟨e, he, hbad⟩
        · exact absurd h1 (Nat.not_lt.mpr hbad)
        · exact hbad h3
        · exact absurd hpitch (Nat.not_le.mpr hbad)
        · exact absurd (hrange e he) (Nat.not_le.mpr hbad)
      have d := does_multiply_captured hi hroom hw hf (not_or.mp hop) out good h2 hcap
      rw [hcodes] at d
      exact ⟨d, by rw [hcap]; rfl⟩
  · intro i c s hi h
    refine ⟨matrix_stalls hi h, fun hroom => ?_⟩
    intro m lanes
    refine ⟨fun t r => matrix_traps_partial hi h hroom, ?_, ?_⟩
    · intro hw hne q8 wrong other
      have traps {n : Word} {l : List Nat} (hf : c.tileFault m = some (n, l)) : Traps i c s 0x01 (lanes l) n 0 :=
        matrix_traps_tile hi h hroom hw hf
      have hwrong : wrong ↔ m.wrongFormat = true := m.wrongFormat_iff
      have hother : other = c.otherTiles m := by
        refine List.filter_congr fun w _ => ?_
        cases (tileOf c m w).owner with
        | none => rfl
        | some o => by_cases ho : o = c.cid <;> simp [ho]
      rw [hwrong, hother]
      refine ⟨fun hbad => traps (Ctx.tileFault_format hbad hne), fun hfmt ho => traps (Ctx.tileFault_other hfmt ho), ?_⟩
      exact fun hfmt ho hz => ⟨fun hfree => traps (Ctx.tileFault_free hfmt ho hz hfree),
        fun hfree hd hk => traps (Ctx.tileFault_kind hfmt ho hz hfree hd hk)⟩
    · intro hw hf hd hz out badMeta
      refine ⟨fun e l => multiply_traps_scale hi h hroom hw hf ⟨hd, hz⟩, multiply_traps_meta hi h hroom hw hf ⟨hd, hz⟩, ?_⟩
      intro ho hgood s2 m2 hcap h2 differ
      have d := does_multiply_captured hi hroom hw hf ⟨hd, hz⟩ ho hgood h2 hcap
      have words : m2.words = m.words := by rw [hcap]; rfl
      have acc : m2.acc = m.acc := by rw [hcap]; rfl
      have hdiffer : c.scalesDiffer m2 = differ := by
        unfold Ctx.scalesDiffer tileOf
        rw [words, acc]
        rfl
      rw [c.scaleFault_eq, hdiffer] at d
      refine ⟨fun hne => ?_, fun hsame ha hb hcount => ?_⟩
      · rw [if_pos hne] at d
        exact d.traps h
      · have residue : m2.residue = true := by rw [hcap]; exact MatrixCmd.residue_of_codes ha hb
        have large : (m2.words.any fun w => decide (256 < (tileOf c m2 w).count + m2.k)) = true := by
          have k : m2.k = m.k := by rw [hcap]; rfl
          unfold tileOf
          rw [words, acc, k]
          simpa [tileOf] using hcount
        rw [if_neg (not_not_intro hsame), if_pos (by rw [residue, large]; rfl)] at d
        exact d.traps h

end

/-! LAUNCH, RCDEF and SPAWN (R50 to R52, R178, R190, R323, R324, R330): the record read, the entry placed, the items
handed over. -/

namespace Sys2Proof.Machine

/-! ### A record and its entry -/

section
variable {c : Ctx} {s t : State} {va pa : Nat} {r : ReadResult}

/-- R323: a line that is read gives its bytes and its poison to the rest of the record. -/
theorem Ctx.readRecord_succ (h : ReadsLine c s va pa r t) (n : Nat) (acc : List Byte) (poison : Bool)
    (k : List Byte → Bool → State → Res) : c.readRecord s va pa (n + 1) acc poison k =
      c.readRecord t (va + 64) (pa + 64) n (acc ++ r.bytes) (poison || r.poison) k := by
  obtain ⟨u, hread, rfl⟩ := h.read
  have made : c.lineGone s va pa = none := by
    unfold Ctx.lineGone
    split
    · rfl
    · exact h.made
  rw [Ctx.readRecord]
  simp only [h.own, made, show s.lineHeld (lineOf pa) = false from h.free, h.reds, hread, List.isEmpty_nil, Bool.not_true,
    Bool.false_eq_true, if_false]

theorem Ctx.checkPair_ok {s1 s2 : State} {from_ to_ : DWord} {z pb : Nat}
    (ha : c.checkOne s (from_.toNat : Int) z .load = (.ok pa, s1))
    (hb : c.checkOne s1 (to_.toNat : Int) z .store = (.ok pb, s2))
    (k : Nat → Nat → State → Res) : c.checkPair s from_ to_ z k = k pa pb s2 := by
  unfold Ctx.checkPair
  simp only [ha, hb]

theorem Ctx.placeEntry_entered {s0 s4 : State} {ph : Nat} {kind : EntryKind}
    (h : s.enterJournal c.pid [c.entry va ph kind] = .entered s4) (poison : Bool) :
    c.placeEntry s0 s va ph kind poison = .done (c.modCp s4 (poisonedBy poison)) := by
  unfold Ctx.placeEntry
  dsimp only
  unfold Ctx.entry at h
  rw [h]
  rfl

end

theorem Ctx.recordWord_eq (c : Ctx) (marks : BitVec 4) (k : Nat) (w : Word) :
    c.recordWord marks k w = BitVec.ofNat 32 (wordOf c marks k w) := by
  rw [← c.toNat_recordWord, BitVec.ofNat_toNat, BitVec.setWidth_eq]

/-- An instruction whose own effect on its CP is poison it has met. -/
theorem Does.completes_poisoned {i : Instr} {c : Ctx} {s s1 : State} {q : Pool} {poison : Bool}
    (d : Does i c s (.done (c.modCp s1 (poisonedBy poison)))) (h : Issues i c s) (hp : s1.pool? c.pid = some q)
    (hc : q.cp? c.cid = some c.cp) (hr : RoomAt c s q 0) :
    ∃ t, Machine.exec i s = .next t ∧ Effect i c s1 t q (poisonedBy poison c.cp) := by
  obtain ⟨body, hx, hb⟩ := d
  have e : c.modPool s1 id = s1 := State.modPool_id s1 c.pid
  have kept {α : Type} (f : Cp → α) (hf : ∀ k, f { c.cp with cki := k } = f c.cp) : f (poisonedBy poison c.cp) = f c.cp := by
    cases poison with
    | false => rfl
    | true => exact hf _
  exact completes_of h hx hp hc id (poisonedBy poison) (hb.trans (by rw [e])) 0 hr rfl (fun _ => Nat.le_refl _) rfl
    (kept Cp.pc fun _ => rfl) (kept Cp.clause fun _ => rfl) (kept Cp.holdLeft fun _ => rfl) (kept Cp.begun fun _ => rfl)

section
variable (p : Option Prefix) (d a : Byte) (marks : BitVec 4) (w : TensorRecord) (c : Ctx) (s : State)

theorem does_launch : Does (.launch p d a) c s (
    if c.pool.rslice then .trap 0x0F 0 0 0
    else if (c.s d).toNat % 64 ≠ 0 then .trap 0x09 0 0 (c.s d)
    else if (c.s a).toNat % 64 ≠ 0 then .trap 0x09 0 0 (c.s a)
    else c.checkPair s (c.s a) (c.s d) 64 fun pa ph s1 =>
      c.readRecord s1 (c.s a).toNat pa 1 [] false fun bs poison s' =>
        c.placeEntry s s' (c.s d).toNat ph (.launch bs) poison) :=
  ⟨_, Eq.trans (b := execLaunch p d a s) rfl (by unfold execLaunch; rfl), rfl⟩

theorem does_rcdef : Does (.rcdef p d marks w) c s (
    if c.pool.rslice then .trap 0x0F 0 0 0
    else if (c.s d).toNat % 128 ≠ 0 then .trap 0x09 0 0 (c.s d)
    else c.checkPair s (c.s d) (c.s d) 128 fun pa _ s1 =>
      c.readRecord s1 (c.s d).toNat pa 2 [] false fun bs poison s' =>
        c.placeEntry s s' (c.s d).toNat pa (.define bs [c.recordWord marks 0 w.r0, c.recordWord marks 1 w.r1,
          c.recordWord marks 2 w.r2, c.recordWord marks 3 w.r3]) poison) :=
  ⟨_, Eq.trans (b := execRcdef p d marks w s) rfl (by unfold execRcdef; rfl), rfl⟩

/-! ### SPAWN -/

/-- The responders with an illegal item. -/
def Ctx.badItems (c : Ctx) (s : State) (a : Byte) : List Nat := c.tids.filter fun t => !itemLegal c s a t

theorem badItem_eq (t : Nat) : s.badItem c.asid (c.pool.reg t a.toNat) = !itemLegal c s a t := by
  have entry : bits 15 0 (c.pool.reg t a.toNat) = (c.pool.reg t a.toNat).toNat % 65536 := bits_low 15 _
  have flags : bits 31 17 (c.pool.reg t a.toNat) ≠ 0 ↔ ¬(c.pool.reg t a.toNat).toNat < 2 ^ 17 := by
    rw [bits_top 31 17 _ (by decide)]
    omega
  unfold State.badItem itemLegal
  simp only [entry, flags, Bool.not_and, decide_not]

theorem does_spawn : Does (.spawn p a) c s (
    if c.pool.rslice then .trap 0x0F 0 0 0
    else if c.badItems s a ≠ [] then .trap 0x11 (Mask.ofTids (c.badItems s a)) 0 0
    else if 4096 < s.packed c.core + c.tids.length then .stay (s.standAt c.pid c.cid .stall)
    else .done ((c.tids.map (c.item a.toNat)).foldl
      (fun s it => s.joinItem c.core c.asid c.pid c.pool.task.queue it) s)) := by
  refine ⟨_, Eq.trans (b := execSpawn p a s) rfl (by unfold execSpawn; rfl), ?_⟩
  have bad : (c.tids.filter fun t => s.badItem c.asid (c.pool.reg t a.toNat)) = c.badItems s a :=
    List.filter_congr fun t _ => badItem_eq a c s t
  dsimp only
  rw [bad]
  rfl

end

/-! ### The pending pool of an entry (R52) -/

section
variable (s : State) (core asid pid entry : Nat)

/-- Of a core's packing unit, the pending pools of an ASID's entry. -/
def pendingOf (core asid entry : Nat) (p : Pending) : Bool := p.core = core && p.asid = asid && p.entry = entry

theorem pendingOf_eq (p : Pending) :
    decide (p.core = core ∧ p.asid = asid ∧ p.entry = entry) = pendingOf core asid entry p := by
  simp [pendingOf, Bool.and_assoc]

theorem State.sameButClock_shareClock (cores : List Nat) : SameButClock s (s.shareClock pid cores) :=
  s.sameButClock_raiseClocks cores _

variable {s core asid pid entry} {x : Word × Word × Word × Word} {u : Pending}

theorem State.joinItem_joins (queue : Option Nat) (hflag : x.1.toNat / 65536 % 2 = 0)
    (hu : (s.packing.filter (pendingOf core asid (x.1.toNat % 65536))) = [u]) (hroom : u.items.length < 1023) :
    s.joinItem core asid pid queue x = { s.shareClock pid [core] with
      packing := (s.packing.filter fun q => !pendingOf core asid (x.1.toNat % 65536) q) ++
        [{ u with items := u.items ++ [x.2], spawners := (u.spawners ++ [pid]).dedup }] } := by
  have packing : (s.shareClock pid [core]).packing = s.packing := by
    obtain ⟨m, hm⟩ := s.sameButClock_shareClock pid [core]
    rw [hm]
  have flag : x.1.getLsbD 16 = false := by
    rw [BitVec.getLsbD, Nat.testBit_eq_decide_div_mod_eq, show (2 : Nat) ^ 16 = 65536 from rfl, hflag]
    rfl
  have entry : bits 15 0 x.1 = x.1.toNat % 65536 := bits_low 15 _
  have first : s.packing.find? (fun p => decide (p.core = core) && decide (p.asid = asid) &&
      decide (p.entry = x.1.toNat % 65536)) = some u := by
    rw [← List.head?_filter]
    exact congrArg List.head? hu
  have short : ¬(decide ((u.items ++ [x.2]).length = 1024) || false) = true := by
    simp
    omega
  unfold State.joinItem
  dsimp only
  rw [packing, entry, flag, first]
  exact if_neg short

end

end Sys2Proof.Machine

/-! ### The statement -/

section

open Sys2Proof Sys2Proof.Machine

/-- Settles O38: the record is read line by line and its entry placed; the items of a SPAWN join one by one. -/
theorem launchSpawnAndDefine : Obligations.LaunchSpawnAndDefine := by
  unfold Obligations.LaunchSpawnAndDefine
  refine ⟨⟨?_, ?_, ?_, ?_⟩, ?_, ?_⟩
  · intro p d a c s s1 s2 s3 s4 pa ph r q i h hslice hd ha hload hstore hread henter hp hc hr
    have does := does_launch p d a c s
    rw [if_neg (by simp [hslice]), if_neg (not_not_intro hd), if_neg (not_not_intro ha), Ctx.checkPair_ok hload hstore,
      Ctx.readRecord_succ hread] at does
    change Does i c s (c.placeEntry s s3 (c.s d).toNat ph (.launch r.bytes) r.poison) at does
    rw [Ctx.placeEntry_entered henter] at does
    exact does.completes_poisoned h hp hc hr
  · intro p d a c s h
    have does := does_launch p d a c s
    refine ⟨fun hs => ?_, fun hs hd => ?_, fun hs hd ha => ?_⟩
    · rw [if_pos hs] at does
      exact does.traps h
    · rw [if_neg (by simp [hs]), if_pos hd] at does
      exact does.traps h
    · rw [if_neg (by simp [hs]), if_neg (not_not_intro hd), if_pos ha] at does
      exact does.traps h
  · intro p d marks w c s s1 s2 s3 s4 s5 pa pb r1 r2 q i h hslice hd hload hstore hread1 hread2 henter hp hc hr
    have does := does_rcdef p d marks w c s
    rw [if_neg (by simp [hslice]), if_neg (not_not_intro hd), Ctx.checkPair_ok hload hstore, Ctx.readRecord_succ hread1,
      Ctx.readRecord_succ hread2] at does
    simp only [c.recordWord_eq] at does
    change Does i c s (c.placeEntry s s4 (c.s d).toNat pa (.define (r1.bytes ++ r2.bytes) _) (r1.poison || r2.poison)) at does
    rw [Ctx.placeEntry_entered henter] at does
    exact does.completes_poisoned h hp hc hr
  · intro p d marks w c s h
    have does := does_rcdef p d marks w c s
    refine ⟨fun hs => ?_, fun hs hd => ?_⟩
    · rw [if_pos hs] at does
      exact does.traps h
    · rw [if_neg (by simp [hs]), if_pos hd] at does
      exact does.traps h
  · intro p a c s h
    have does := does_spawn p a c s
    refine ⟨fun hs => ?_, fun hs => ⟨fun t r hbad => ?_, fun hgood => ?_⟩⟩
    · rw [if_pos hs] at does
      exact does.traps h
    · rw [if_neg (by simp [hs]), show c.badItems s a = t :: r from hbad, if_pos (List.cons_ne_nil t r)] at does
      exact does.traps h
    · have none : c.badItems s a = [] := List.filter_eq_nil_iff.mpr fun t ht => by simp [hgood t ht]
      rw [if_neg (by simp [hs]), if_neg (not_not_intro none)] at does
      refine ⟨fun hfull => ?_, fun hroom s1 q h1 hp hc hr => ?_⟩
      · rw [if_pos hfull] at does
        exact does.stays h
      · rw [if_neg (Nat.not_lt.mpr hroom)] at does
        subst h1
        exact does.completes_at h hp hc hr
  · intro s core asid pid queue x u hflag hu hroom t
    have mine (q : Pending) : decide (q.core = core ∧ q.asid = asid ∧ q.entry = x.1.toNat % 65536) =
        pendingOf core asid (x.1.toNat % 65536) q := pendingOf_eq core asid _ q
    simp only [mine] at hu ⊢
    have hmem : pendingOf core asid (x.1.toNat % 65536) u = true :=
      (List.mem_filter.mp (hu ▸ List.mem_singleton_self u)).2
    obtain ⟨m, hm⟩ := s.sameButClock_shareClock pid [core]
    have joined : t = _ := State.joinItem_joins queue hflag hu hroom
    rw [joined, hm]
    refine ⟨rfl, ?_⟩
    rw [List.filter_append, List.filter_filter]
    have others : (s.packing.filter fun q => pendingOf core asid (x.1.toNat % 65536) q &&
        !pendingOf core asid (x.1.toNat % 65536) q) = [] := List.filter_eq_nil_iff.mpr fun q _ => by simp
    rw [others]
    exact List.filter_cons_of_pos hmem

end

/-! Pre-emption and resume (R183 to R187, R232, R233, R303, R314): what is saved of a pool, in which order, and how it
is placed again. -/

namespace Sys2Proof.Machine

/-! ### The order of the saved tiles (R232) -/

section
variable {α : Type} {lt : α → α → Bool} {R : α → α → Prop}

theorem perm_insertBy (a : α) (l : List α) : (insertBy lt a l).Perm (a :: l) := by
  induction l with
  | nil => exact .refl _
  | cons b l ih =>
      unfold insertBy
      split
      · exact (ih.cons b).trans (.swap a b l)
      · exact .refl _

theorem perm_foldl_insertBy (l acc : List α) : (l.foldl (fun acc a => insertBy lt a acc) acc).Perm (l ++ acc) := by
  induction l generalizing acc with
  | nil => exact .refl _
  | cons a l ih => exact (ih _).trans (((perm_insertBy a acc).append_left l).trans List.perm_middle)

theorem perm_sortBy (l : List α) : (sortBy lt l).Perm l := by
  have := perm_foldl_insertBy (lt := lt) l []
  rwa [List.append_nil] at this

variable (trans : ∀ a b c, R a b → R b c → R a c) (before : ∀ a b, lt a b = true → R a b)
  (behind : ∀ a b, lt a b = false → R b a)
include trans before behind

theorem pairwise_insertBy (a : α) {l : List α} (h : l.Pairwise R) : (insertBy lt a l).Pairwise R := by
  induction l with
  | nil => exact List.pairwise_singleton R a
  | cons b l ih =>
      obtain ⟨hb, hl⟩ := List.pairwise_cons.mp h
      unfold insertBy
      split
      · next hle =>
        have ba : R b a := by
          rcases Bool.or_eq_true_iff.mp hle with hlt | hle
          · exact before b a hlt
          · exact behind a b (by simpa using hle)
        refine List.pairwise_cons.mpr ⟨fun x hx => ?_, ih hl⟩
        obtain rfl | hx := List.mem_cons.mp ((perm_insertBy a l).mem_iff.mp hx)
        · exact ba
        · exact hb x hx
      · next hlt =>
        have ab : R a b := before a b (by simpa using (not_or.mp (mt Bool.or_eq_true_iff.mpr hlt)).2)
        refine List.pairwise_cons.mpr ⟨fun x hx => ?_, h⟩
        obtain rfl | hx := List.mem_cons.mp hx
        · exact ab
        · exact trans a b x ab (hb x hx)

theorem pairwise_sortBy (l : List α) : (sortBy lt l).Pairwise R := by
  have sorted (acc : List α) (h : acc.Pairwise R) : (l.foldl (fun acc a => insertBy lt a acc) acc).Pairwise R := by
    induction l generalizing acc with
    | nil => exact h
    | cons a l ih => exact ih _ (pairwise_insertBy trans before behind a h)
  exact sorted [] .nil

end

/-- R232: the order of two tile images: by the owning CP, then by pool word and accumulator. -/
def SavedBefore (a b : Nat × Tile) : Prop :=
  a.2.owner.getD 8 < b.2.owner.getD 8 ∨ (a.2.owner.getD 8 = b.2.owner.getD 8 ∧ a.1 ≤ b.1)

theorem Pool.pairwise_saveOrder (p : Pool) : p.saveOrder.Pairwise SavedBefore := by
  refine pairwise_sortBy (fun a b c hab hbc => ?_) (fun a b h => ?_) (fun a b h => ?_) p.tiles
  · unfold SavedBefore at *
    omega
  · unfold SavedBefore
    simp only [decide_eq_true_eq] at h
    omega
  · unfold SavedBefore
    simp only [decide_eq_false_iff_not] at h
    omega

/-! ### PREEMPTION -/

section
variable {s : State} (hr : Running s) {pid : Nat} {p : Pool} (hp : s.pool? pid = some p)
include hr hp

theorem exec_preemption : exec (.preemption pid) s =
    .next (if (s.noteReady.keepDies s.noteReady.first).mayPreempt pid p then
      (s.noteReady.keepDies s.noteReady.first).preempt pid p else s.noteReady.keepDies s.noteReady.first) := by
  change execPreemption pid s = _
  unfold execPreemption
  rw [if_neg hr.not_stopped]
  have found : (s.noteReady.keepDies s.noteReady.first).pool? pid = some p := hp
  dsimp only
  rw [found]

end

/-- R184: what keeps a pool in its place: a hold or NOPRE interval, a CP between blocking points, an operation or
command under way. -/
theorem State.mayPreempt_eq_false (s : State) (pid : Nat) {p : Pool}
    (h : (∃ e ∈ p.cps, e.2.holdLeft ≠ 0 ∨ e.2.nopre.isSome = true ∨ (e.2.status = .running ∧
        (e.2.wait.isSome = true ∨ e.2.stand = .no ∨ e.2.stand = .stall ∨ ∃ k, e.2.stand = .parkedFetch k))) ∨
      (∃ o ∈ p.ops, o.isParked = false ∧ o.kind ≠ .sysc) ∨ (∃ k ∈ p.cmds, k.park = none)) :
    s.mayPreempt pid p = false := by
  rcases h with ⟨e, he, hold | nopre | ⟨hrun, hstands⟩⟩ | ⟨o, ho, hpark, hkind⟩ | ⟨k, hk, hpark⟩
  · have busy : (p.cps.all fun e => !e.2.holding && e.2.nopre.isNone) = false :=
      List.all_eq_false.mpr ⟨e, he, by simp [Cp.holding, hold]⟩
    simp [State.mayPreempt, Pool.preemptable, busy]
  · have busy : (p.cps.all fun e => !e.2.holding && e.2.nopre.isNone) = false :=
      List.all_eq_false.mpr ⟨e, he, by simp [Option.isSome_iff_ne_none.mp nopre]⟩
    simp [State.mayPreempt, Pool.preemptable, busy]
  · have between : (e.2.stand.blocks && e.2.wait.isNone) = false := by
      rcases hstands with hwait | hno | hstall | ⟨k, hfetch⟩
      · rw [← Option.not_isSome, hwait, Bool.and_comm]; rfl
      · simp [hno, Stand.blocks]
      · simp [hstall, Stand.blocks]
      · simp [hfetch, Stand.blocks]
    have busy : (p.cps.all fun e => e.2.status == .ended || e.2.status == .idle ||
        (e.2.status == .running && e.2.stand.blocks && e.2.wait.isNone)) = false :=
      List.all_eq_false.mpr ⟨e, he, by rw [hrun, Bool.and_assoc, between]; decide⟩
    simp [State.mayPreempt, Pool.preemptable, busy]
  · have busy : (p.ops.all fun o => o.isParked || o.kind == .sysc) = false :=
      List.all_eq_false.mpr ⟨o, ho, by simp [hpark, hkind]⟩
    simp [State.mayPreempt, Pool.drained, busy]
  · have busy : (p.cmds.all (·.park.isSome)) = false := List.all_eq_false.mpr ⟨k, hk, by simp [hpark]⟩
    simp [State.mayPreempt, Pool.drained, busy]

/-- R185, R232: the context of a pool as it is saved. -/
def State.savedPool (s : State) (p q : Pool) : Pool :=
  { q with
    task := { q.task with clock := max q.task.clock (s.clockOf q.cores) }
    regs := q.regs.filter fun e => ((List.range q.allot).filter (s.savedRegs p)).contains (e.1 % 256)
    ops := q.ops.map Op.saved
    tiles := q.saveOrder
    parts := [], spadUnits := [], contexts := [] }

theorem State.preempt_eq {s s2 : State} {pid : Nat} {p q : Pool}
    (hc : s.commitPool pid none {} (fun _ u => u) = some s2) (hq : s2.pool? pid = some q) : s.preempt pid p =
      { s2.clearTests q with
        pools := KMap.del s2.pools pid
        out := s2.out ++ [⟨pid, s.savedPool p q, .preempted, none⟩] } := by
  unfold State.preempt
  rw [hc]
  dsimp only
  rw [hq]
  rfl

theorem State.reg_savedPool (s : State) (p q : Pool) (u : Nat) {n : Nat} (hn : n < 256) :
    (s.savedPool p q).reg u n = if n < q.allot ∧ s.savedRegs p n = true then q.reg u n else 0 := by
  have live : ((List.range q.allot).filter (s.savedRegs p)).contains ((256 * u + n) % 256) = true ↔
      n < q.allot ∧ s.savedRegs p n = true := by
    rw [Nat.mul_add_mod, Nat.mod_eq_of_lt hn, List.contains_iff_mem, List.mem_filter, List.mem_range]
  change (KMap.find? (q.regs.filter _) (256 * u + n)).getD 0 = _
  rw [KMap.find?_filter_key q.regs (fun k => ((List.range q.allot).filter (s.savedRegs p)).contains (k % 256))]
  simp only [live]
  split <;> rfl

theorem State.find?_clearTests (s : State) (q : Pool) (k : Nat) : KMap.find? (s.clearTests q).tests k =
    (KMap.find? s.tests k).map fun x =>
      if x.due.isSome = true ∧ x.ready = true ∧ (∃ c ∈ q.parts, c / 24 = k) then { x with cleared := true } else x := by
  have found : KMap.find? (s.clearTests q).tests k = (KMap.find? s.tests k).map fun x =>
      if x.due.isSome && x.ready && q.parts.any (fun c => clusterOf (coreOf c) = k) then { x with cleared := true }
      else x := KMap.find?_map_key s.tests (fun k (x : FieldTest) =>
        if x.due.isSome && x.ready && q.parts.any (fun c => clusterOf (coreOf c) = k) then
          ({ x with cleared := true } : FieldTest) else x) k
  have cluster (c : Nat) : clusterOf (coreOf c) = c / 24 := Nat.div_div_eq_div_mul c 6 4
  rw [found]
  simp only [Bool.and_eq_true, List.any_eq_true, decide_eq_true_eq, cluster, and_assoc]

/-! ### RESUME -/

/-- R233: a tile image that counts as poisoned for what it holds. -/
def BadTile (t : Tile) : Prop := 256 < t.count ∨ (t.kind = .residue ∧ ∃ e ∈ t.elem, 2 ^ 25 ≤ e.2.toNat)

theorem Tile.bad_iff (t : Tile) : t.bad = true ↔ BadTile t := by
  have form (w : Word) : residueForm w = false ↔ 2 ^ 25 ≤ w.toNat := by
    unfold residueForm
    rw [decide_eq_false_iff_not]
    omega
  unfold Tile.bad BadTile
  simp [List.all_eq_false, form]

theorem Tile.reread_bad {t : Tile} (bad : List Bool) (ho : t.owner ≠ none) (h : BadTile t) :
    t.reread bad = { t with poison := true, elem := [] } := by
  unfold Tile.reread
  rw [if_neg (by simpa using ho), if_pos (t.bad_iff.mpr h)]

theorem Tile.reread_good {t : Tile} (h : t.owner ≠ none → ¬BadTile t) : t.reread [] = t := by
  unfold Tile.reread
  split
  · rfl
  · next ho =>
    rw [if_neg (mt t.bad_iff.mp (h (by simpa using ho)))]
    rfl

/-- R231: where no granule of memory is poisoned, or no tile owned, every good tile reads as it was saved. -/
theorem State.readTiles_clean (s : State) {l : KMap Tile} (hs : s.poison = [] ∨ ∀ e ∈ l, e.2.owner = none)
    (hg : ∀ e ∈ l, e.2.owner ≠ none → ¬BadTile e.2) : s.readTiles l = (l, s) := by
  induction l with
  | nil => rfl
  | cons e l ih =>
      obtain ⟨k, t⟩ := e
      have clean : (s.poison.isEmpty || t.owner.isNone) = true := by
        rcases hs with hs | hs
        · rw [hs]; rfl
        · rw [hs (k, t) List.mem_cons_self, Bool.or_comm]; rfl
      have rest := ih (hs.imp_right fun h e he => h e (List.mem_cons_of_mem _ he)) fun e he =>
        hg e (List.mem_cons_of_mem _ he)
      unfold State.readTiles
      rw [if_pos clean]
      dsimp only
      rw [rest]
      exact congrArg (fun t' => ((k, t') :: l, s)) (Tile.reread_good (hg (k, t) List.mem_cons_self))

/-- Without poison in memory reading tiles takes nothing from the state. -/
theorem State.readTiles_snd (s : State) (l : KMap Tile) (hs : s.poison = []) : (s.readTiles l).2 = s := by
  induction l with
  | nil => rfl
  | cons e l ih =>
      obtain ⟨k, t⟩ := e
      unfold State.readTiles
      rw [if_pos (by rw [hs]; rfl)]
      exact ih

theorem KMap.perm_insert (m : KMap α) (k : Nat) (a : α) : (KMap.insert m k a).Perm ((k, a) :: m) := by
  induction m with
  | nil => exact .refl _
  | cons e m ih =>
      unfold KMap.insert
      split
      · exact .refl _
      · exact (ih.cons e).trans (.swap _ _ _)

theorem KMap.mem_put (m : KMap α) (k : Nat) (a : α) (e : Nat × α) :
    e ∈ KMap.put m k a ↔ e = (k, a) ∨ (e ∈ m ∧ e.1 ≠ k) := by
  unfold KMap.put KMap.del
  rw [(KMap.perm_insert _ k a).mem_iff, List.mem_cons, List.mem_filter, bne_iff_ne]

theorem mem_foldl_put {l acc : List (Nat × Tile)} (hn : (l.map (·.1)).Nodup) (e : Nat × Tile) :
    e ∈ l.foldl (fun m e => KMap.put m e.1 e.2) acc ↔ e ∈ l ∨ (e ∈ acc ∧ e.1 ∉ l.map (·.1)) := by
  induction l generalizing acc with
  | nil => simp
  | cons b l ih =>
      obtain ⟨hb, hl⟩ := List.nodup_cons.mp hn
      rw [List.foldl_cons, ih hl, KMap.mem_put, List.map_cons, List.mem_cons, List.mem_cons]
      by_cases he : e = b
      · subst he
        simp [hb]
      · simp [he]
        tauto

/-- R232: images of different tiles go each to its own. -/
theorem mem_placeTiles {l : List (Nat × Tile)} (hn : (l.map (·.1)).Nodup) (e : Nat × Tile) : e ∈ placeTiles l ↔ e ∈ l := by
  unfold placeTiles
  rw [mem_foldl_put hn]
  simp

section
variable {s : State} {pid : Nat} {at_ : Placement} (hr : Running s)
include hr

theorem exec_resume_other (h : s.noteReady.first.cand ≠ some (.resume pid)) :
    exec (.resume pid at_) s = .next (s.noteReady.keepDies s.noteReady.first) := by
  change execResume pid at_ s = _
  unfold execResume
  rw [if_neg hr.not_stopped]
  dsimp only
  split
  · next q o hcand _ =>
    have hne : q ≠ pid := fun e => h (e ▸ hcand)
    rw [if_neg (by simp [hne])]
  · rfl

theorem exec_resume {o : OutPool} (hcand : s.noteReady.first.cand = some (.resume pid))
    (ho : (s.noteReady.keepDies s.noteReady.first).out.find? (fun x => x.id = pid) = some o)
    (hfits : (s.noteReady.keepDies s.noteReady.first).fits o.pool.need at_ = true)
    (hallows : (s.noteReady.keepDies s.noteReady.first).candAllows s.noteReady.first.blocked (.resume pid)
      (placedCluster at_) = true) :
    exec (.resume pid at_) s = .next ((s.noteReady.keepDies s.noteReady.first).resume o at_) := by
  change execResume pid at_ s = _
  unfold execResume
  rw [if_neg hr.not_stopped]
  dsimp only
  rw [hcand, ho]
  exact if_pos (by simp [hfits, hallows])

end

section
variable {s : State} {o : OutPool} {at_ : Placement}

theorem State.restore_restarted (h : o.why = .restarted) :
    s.restore o = (some (o.pool.task.newPool o.pool.need), s) := by
  unfold State.restore
  rw [h]

/-- R187: a pre-empted pool with its tiles as read back. -/
theorem State.restore_preempted (h : o.why = .preempted) : s.restore o =
    (some { o.pool.reenter with tiles := placeTiles (s.readTiles o.pool.tiles).1 }, (s.readTiles o.pool.tiles).2) := by
  unfold State.restore
  rw [h]

/-- R187: a pre-empted pool as it goes back, its tiles to their accumulators. -/
def Pool.restored (p : Pool) : Pool := { p.reenter with tiles := placeTiles p.tiles }

variable {p : Pool} (hrestore : s.restore o = (some p, s))
include hrestore

theorem State.resume_full {u : State} (hroom : s.makeRoom at_ = (false, u)) : s.resume o at_ = u := by
  unfold State.resume
  rw [hrestore]
  dsimp only
  rw [hroom]

theorem State.resume_placed {u : State} (hroom : s.makeRoom at_ = (true, u)) : s.resume o at_ =
    ((if o.why = .preempted then ({ u with out := u.out.filter fun x => x.id != o.id } : State)
      else ({ u with out := u.out.filter fun x => x.id != o.id } : State).countReplay).putPool o.id p at_).reissueAll
        o.id := by
  unfold State.resume
  rw [hrestore]
  dsimp only
  rw [hroom]

end

end Sys2Proof.Machine

/-! ### The statement -/

section

open Sys2Proof Sys2Proof.Machine

/-- Settles O52: a pool leaves with its state saved in order, and returns with what was saved. -/
theorem poolsLeaveAndReturn : Obligations.PoolsLeaveAndReturn := by
  unfold Obligations.PoolsLeaveAndReturn
  intro badTile
  refine ⟨?_, ?_, ?_, fun s pid at_ hr => exec_resume_other hr⟩
  · intro s pid p hr hp s1
    have event := exec_preemption hr hp
    refine ⟨fun hstays => ?_, fun hmay s2 q hcommit hq => ?_⟩
    · rw [event, State.mayPreempt_eq_false _ pid hstays]
      rfl
    · rw [show (s.noteReady.keepDies s.noteReady.first).mayPreempt pid p = true from hmay, if_pos rfl,
        State.preempt_eq hcommit hq] at event
      refine ⟨_, s1.savedPool p q, event, KMap.find?_del_self _ _, rfl, rfl, s2.find?_clearTests q,
        fun j hj => KMap.find?_del_ne _ hj, rfl, rfl, rfl, ⟨perm_sortBy _, q.pairwise_saveOrder⟩, rfl, rfl,
        fun u n hn => s1.reg_savedPool p q u hn⟩
  · exact fun t bad ho hbad => Tile.reread_bad bad ho hbad
  · intro s pid at_ o hr s1 s2 hcand ho hfits hallows
    have event := exec_resume hr hcand ho hfits hallows
    have id : o.id = pid := by simpa using List.find?_some ho
    refine ⟨fun u hroom hlost hclean => ?_, fun u hroom => ⟨fun hwhy => ?_, fun hwhy hclean hgood => ?_⟩⟩
    · rw [event]
      cases hwhy : o.why with
      | lost => exact absurd hwhy hlost
      | restarted => rw [State.resume_full (State.restore_restarted hwhy) hroom]
      | preempted =>
          have restore := State.restore_preempted (s := s2) hwhy
          rw [s2.readTiles_snd _ (hclean hwhy)] at restore
          rw [State.resume_full restore hroom]
    · rw [event, State.resume_placed (State.restore_restarted hwhy) hroom, hwhy, if_neg (by decide), id]
    · have tiles := s2.readTiles_clean hclean hgood
      have restore := State.restore_preempted (s := s2) hwhy
      have placed : s2.restore o = (some o.pool.restored, s2) := by
        rw [restore, tiles]
        rfl
      refine ⟨o.pool.restored, ?_, rfl, rfl, rfl, mem_placeTiles, ?_, rfl⟩
      · rw [event, State.resume_placed placed hroom, if_pos hwhy, id]
      · exact List.map_map.trans (List.map_congr_left fun k _ => rfl)

end

/-! Rollback (R179, R180, R188, R189): a pool goes back to its checkpoint, alone where no pool depends on it. -/

namespace Sys2Proof.Machine

/-! ### Values set back one after the other -/

section
variable {α : Type}

/-- The tables agree with f-wise updates: an entry set by `upd` reads back, and the others read as before. -/
theorem KMap.get_foldl_update {upd : KMap α → Nat × α → KMap α} {z : α}
    (hupd : ∀ m e k, KMap.get (upd m e) z k = if k = e.1 then e.2 else KMap.get m z k) {l : KMap α}
    (hn : (l.map (·.1)).Nodup) (m : KMap α) (k : Nat) :
    KMap.get (l.foldl upd m) z k = (KMap.find? l k).getD (KMap.get m z k) := by
  induction l generalizing m with
  | nil => rfl
  | cons e l ih =>
      obtain ⟨he, hl⟩ := List.nodup_cons.mp hn
      obtain ⟨j, a⟩ := e
      rw [List.foldl_cons, ih hl, hupd, KMap.find?_cons]
      by_cases hk : j = k
      · subst hk
        have absent : KMap.find? l j = none := by
          cases hf : KMap.find? l j with
          | none => rfl
          | some b => exact absurd (List.mem_map.mpr ⟨(j, b), KMap.mem_of_find? hf, rfl⟩) he
        simp [absent]
      · rw [if_neg (Ne.symm hk), if_neg hk]

theorem KMap.get_put (m : KMap α) (z : α) (e : Nat × α) (k : Nat) :
    KMap.get (KMap.put m e.1 e.2) z k = if k = e.1 then e.2 else KMap.get m z k := by
  unfold KMap.get
  split
  · next h => rw [h, KMap.find?_put_self]; rfl
  · next h => rw [KMap.find?_put_ne _ _ h]

end

/-! ### The pool as it goes back -/

section
variable (p : Pool) (open_ : List Nat)

theorem Pool.reg_rollBack (hn : (p.undoRegs.map (·.1)).Nodup) (u n : Nat) :
    (p.rollBack open_).reg u n = (KMap.find? p.undoRegs (256 * u + n)).getD (p.reg u n) :=
  KMap.get_foldl_update (fun m e k => KMap.get_set m 0 e.1 k e.2) hn p.regs (256 * u + n)

theorem Pool.spadByte_rollBack (hn : (p.undoSpad.map (·.1)).Nodup) (a : Nat) :
    (p.rollBack open_).spadByte a = (KMap.find? p.undoSpad a).getD (p.spadByte a) :=
  KMap.get_foldl_update (fun m e k => KMap.get_set m 0 e.1 k e.2) hn p.spad a

theorem Pool.tile_rollBack (hn : (p.undoTiles.map (·.1)).Nodup) (k : Nat) :
    (p.rollBack open_).tile k = (KMap.find? p.undoTiles k).getD (p.tile k) :=
  KMap.get_foldl_update (fun m e k => KMap.get_put m Tile.empty e k) hn p.tiles k

/-- R188: a CP comes back without the wait of a commit that is done, and otherwise as of the checkpoint. -/
theorem Cp.settleWait_eq (x : Cp) : ∃ wait status stack,
    x.settleWait open_ = { x with wait := wait, status := status, stack := stack } := by
  unfold Cp.settleWait
  split
  · split
    · exact ⟨_, _, _, rfl⟩
    · split
      · exact ⟨_, _, _, rfl⟩
      · exact ⟨_, _, _, rfl⟩
  · exact ⟨_, _, _, rfl⟩

theorem Pool.cp?_rollBack {j : Nat} {x : Cp} (h : KMap.find? p.ckpt.cps j = some x) : ∃ n0 n1 n2 n3,
    (p.rollBack open_).cp? j = some { x.settleWait open_ with
      cpy := n0, gth := n1, mrg := n2, mtx := n3, holdLeft := 0, nopre := none } := by
  have found := KMap.find?_map_key p.ckpt.cps (fun j (x : Cp) =>
    let kept := p.cmds.filter fun k => k.cp = j && p.ckpt.kept k.id
    let n (cls : Nat) : Nat := (kept.filter fun k => match k.kind with
      | .copy _ => cls = 0 | .gather _ => cls = 1 | .merge _ => cls = 2 | .matrix _ => cls = 3).length
    ({ x.settleWait open_ with
      cpy := n 0, gth := n 1, mrg := n 2, mtx := n 3, holdLeft := 0, nopre := none } : Cp)) j
  rw [h] at found
  exact ⟨_, _, _, _, found⟩

/-- R188: a load or gather that was parked is parked as it was. -/
theorem Pool.mem_ops_rollBack {o : Op} (ho : o ∈ p.ckpt.ops) (hpark : o.park ≠ none)
    (hkind : o.kind = .load ∨ o.kind = .sload ∨ ∃ m h a, o.kind = .gather m h a) : o ∈ (p.rollBack open_).ops := by
  have parked : o.isParked = true := Option.isSome_iff_ne_none.mpr hpark
  refine List.mem_filterMap.mpr ⟨o, ho, ?_⟩
  cases p.ops.find? (·.id = o.id) with
  | some now => exact congrArg some (if_pos parked)
  | none => rcases hkind with h | h | ⟨m, d, a, h⟩ <;> simp [h]

end

/-! ### The pools that go back (R181, R189) -/

section
variable {s : State} {pid : Nat} {p : Pool} (hp : s.pool? pid = some p)
include hp

theorem State.worn_self : s.worn [pid] = if 3 ≤ p.rollbacks then [p.homeCore] else [] := by
  unfold State.worn State.isWorn
  by_cases h : 3 ≤ p.rollbacks <;> simp [hp, h]

theorem State.rollBackOrFence_self (h : ∀ e ∈ s.pools, pid ∉ e.2.deps) : s.rollBackOrFence pid =
    let t := s.fenceCores (if 3 ≤ p.rollbacks then [p.homeCore] else [])
    if (t.pool? pid).map (·.rollbacks) = some p.rollbacks then t.rollBack pid else t := by
  have alone : s.rollVictims pid = [pid] := State.dependents_self h (by rw [hp]; rfl)
  unfold State.rollBackOrFence
  rw [alone, State.worn_self hp, hp]
  rfl

omit hp in
theorem State.pool?_rollBackAll (vs : List Nat) (q : Nat) : (s.rollBackAll vs).pool? q = (s.pool? q).map fun p =>
    if vs.contains q then p.rollBack (s.records.map (·.id)) else p := by
  have found := KMap.find?_map_key s.pools
    (fun k p => if vs.contains k then p.rollBack (s.records.map (·.id)) else p) q
  refine Eq.trans (congrArg (KMap.find? · q) (List.map_congr_left fun e _ => ?_)) found
  split <;> rfl

theorem State.pool?_rollBackAll_self :
    (s.rollBackAll [pid]).pool? pid = some (p.rollBack (s.records.map (·.id))) := by
  rw [State.pool?_rollBackAll, hp]
  simp

omit hp in
theorem State.pool?_rollBackAll_ne {q : Nat} (h : q ≠ pid) : (s.rollBackAll [pid]).pool? q = s.pool? q := by
  rw [State.pool?_rollBackAll]
  simp [h]

end

end Sys2Proof.Machine

/-! ### The statement -/

section

open Sys2Proof Sys2Proof.Machine

/-- Settles O54: the pool goes back alone, and each part of it is read off its undo log or its checkpoint. -/
theorem rollbackRestores : Obligations.RollbackRestores := by
  unfold Obligations.RollbackRestores
  intro s pid p hv hp hdeps
  have event : exec (.rollback pid) s = .next (s.rollBackOrFence pid) :=
    unlessViral_none hv fun s => s.rollBackOrFence pid
  rw [State.rollBackOrFence_self hp hdeps] at event
  refine ⟨fun hworn => ?_, fun hfresh hregs hspad htiles => ?_⟩
  · rw [if_pos hworn] at event
    exact event
  · rw [if_neg (Nat.not_le.mpr hfresh), State.fenceCores_nil] at event
    have back : s.rollBack pid = s.rollBackAll [pid] :=
      congrArg s.rollBackAll (State.dependents_self hdeps (by rw [hp]; rfl))
    dsimp only at event
    rw [hp, Option.map_some, if_pos rfl, back] at event
    refine ⟨_, _, event, State.pool?_rollBackAll_self hp, fun q hq => State.pool?_rollBackAll_ne hq, fun _ => rfl,
      ?_, rfl, rfl, fun u n => p.reg_rollBack _ hregs u n, fun a => p.spadByte_rollBack _ hspad a,
      fun k => p.tile_rollBack _ htiles k, ?_, fun o ho hpark hkind => p.mem_ops_rollBack _ ho hpark hkind,
      rfl, rfl, rfl, rfl⟩
    · exact List.filter_congr fun e _ => by simp
    · intro j x hx
      obtain ⟨n0, n1, n2, n3, hy⟩ := p.cp?_rollBack (s.records.map (·.id)) hx
      obtain ⟨wait, status, stack, hsettle⟩ := x.settleWait_eq (s.records.map (·.id))
      rw [hsettle] at hy
      exact ⟨_, hy, rfl, rfl, rfl, rfl, rfl, rfl, rfl, rfl, rfl⟩

end

/-! Fences and lost pools (R189, R248, R301 to R305, R352): what stops with a unit, and what becomes of the pools. -/

namespace Sys2Proof.Machine

/-! ### Which pools go depends on the pools and records alone (R189, R297) -/

section
variable {s t : State} (hp : t.pools = s.pools) (hr : t.records = s.records)
include hp

theorem State.pool?_congr (q : Nat) : t.pool? q = s.pool? q := congrArg (KMap.find? · q) hp

theorem State.dependents_congr (l : List Nat) : t.dependents l = s.dependents l := by
  have go (n : Nat) (l : List Nat) : State.dependents.go t n l = State.dependents.go s n l := by
    induction n generalizing l with
    | zero => rfl
    | succ n ih => rw [State.dependents.go, State.dependents.go, hp, ih]
  unfold State.dependents
  simp only [go, hp, State.pool?_congr hp]

theorem State.worn_congr (l : List Nat) : t.worn l = s.worn l := by
  unfold State.worn State.isWorn
  simp only [State.pool?_congr hp]

theorem State.poolsAt_congr (l : List Nat) : t.poolsAt l = s.poolsAt l := by
  unfold State.poolsAt
  rw [hp]

include hr

omit hp in
theorem State.lostWith_congr (cores l : List Nat) : t.lostWith cores l = s.lostWith cores l := by
  unfold State.lostWith
  rw [hr]

theorem State.withWorn_congr (cores : List Nat) : t.withWorn cores = s.withWorn cores := by
  have go (n : Nat) (l : List Nat) : State.withWorn.go t n l = State.withWorn.go s n l := by
    induction n generalizing l with
    | zero => rfl
    | succ n ih =>
        rw [State.withWorn.go, State.withWorn.go, ih, State.poolsAt_congr hp, State.lostWith_congr hr]
        unfold State.othersBack
        rw [State.dependents_congr hp, State.worn_congr hp]
  unfold State.withWorn
  rw [go, hp]

end

theorem State.mem_withWorn (s : State) {cores : List Nat} {c : Nat} (h : c ∈ cores) : c ∈ s.withWorn cores := by
  have go (n : Nat) {l : List Nat} (h : c ∈ l) : c ∈ State.withWorn.go s n l := by
    induction n generalizing l with
    | zero => exact h
    | succ n ih =>
        rw [State.withWorn.go]
        exact ih (List.mem_dedup.mpr (List.mem_append_left _ h))
  exact go _ h

/-- R297: the pools that discarded records take along are more than those lost. -/
theorem State.mem_lostWith (s : State) (cores : List Nat) {l : List Nat} {q : Nat} (h : q ∈ l) :
    q ∈ (s.lostWith cores l).1 := by
  have go (recs : List Record) (n : Nat) {l r : List Nat} (h : q ∈ l) : q ∈ (State.lostWith.go recs n l r).1 := by
    induction n generalizing l r with
    | zero => exact h
    | succ n ih =>
        rw [State.lostWith.go]
        exact ih (List.mem_dedup.mpr (List.mem_append_left _ h))
  exact go _ _ h

theorem State.mem_poolsAt {s : State} {pid : Nat} {p : Pool} (hp : s.pool? pid = some p) {cores : List Nat}
    (h : ∃ c ∈ p.cores, c ∈ cores) : pid ∈ s.poolsAt cores := by
  obtain ⟨c, hc, hin⟩ := h
  refine List.mem_map.mpr ⟨(pid, p), List.mem_filter.mpr ⟨KMap.mem_of_find? hp, ?_⟩, rfl⟩
  exact List.any_eq_true.mpr ⟨c, hc, List.contains_iff_mem.mpr hin⟩

/-! ### One lost pool (R303) -/

section
variable (s : State) (pid : Nat) (p : Pool) (unsent : Bool)

/-- R287, R320: the task that a lost pool takes along. -/
def State.lostTask (s : State) (p : Pool) (unsent : Bool) : Task :=
  { p.task with
    signalled := p.task.signalled && !unsent
    clock := max p.task.clock ((p.cores.map (KMap.get s.scClock 0)).foldl max 0) }

/-- The pool without its place. -/
def State.lostPool (s : State) (p : Pool) (unsent : Bool) : Pool :=
  { p with task := s.lostTask p unsent, parts := [], spadUnits := [], contexts := [], deps := [] }

/-- R301: a task that is not replayable. -/
def State.isMarked (s : State) (pid : Nat) (p : Pool) : Bool :=
  p.task.nonReplay || s.records.any fun r => r.marks && r.pools.contains pid

theorem State.isMarked_iff : s.isMarked pid p = true ↔
    p.task.nonReplay = true ∨ ∃ r ∈ s.records, r.marks = true ∧ pid ∈ r.pools := by
  simp [State.isMarked]

theorem State.losePool_slice {n : Nat} (h : p.task.recipe = some n) : s.losePool pid p unsent =
    { s with recipes := KMap.modify s.recipes n fun q => { q with slice := none, staging := [], lost := true } } := by
  unfold State.losePool
  dsimp only
  rw [h]

/-- A pool that waits for its place. -/
def State.waits (s : State) (pid : Nat) (q : Pool) (why : WhyOut) : State :=
  { s with out := s.out ++ [⟨pid, q, why, none⟩] }

theorem State.losePool_task (h : p.task.recipe = none) : s.losePool pid p unsent =
    if p.durable then ((s.lastImage pid p).map fun i => s.waits pid ((s.lostPool p unsent).fromImage i) .lost).getD
      (s.waits pid (s.lostPool p unsent) .restarted)
    else if s.isMarked pid p then s.taskOver ((s.lostTask p unsent).fail 0x03) pid
    else s.waits pid (s.lostPool p unsent) .restarted := by
  have image : s.lastImage pid (s.lostPool p unsent) = s.lastImage pid p := rfl
  unfold State.losePool
  dsimp only
  split
  · next r hr => exact absurd (hr.symm.trans h) (Option.some_ne_none r)
  · refine if_congr Iff.rfl ?_ rfl
    change (match s.lastImage pid (s.lostPool p unsent) with | some i => _ | none => _) = _
    rw [image]
    cases s.lastImage pid p with
    | some i => rfl
    | none => rfl

theorem Task.fail_eq (t : Task) (code : Byte) : t.fail code = failed t code := by
  unfold Task.fail failed
  split <;> rfl

end

/-! ### What a loss leaves as it was -/

/-- Memory, the units in use and the caches are as before. -/
structure SameUnits (s t : State) : Prop where
  mem : t.mem = s.mem
  fencedCores : t.fencedCores = s.fencedCores
  fencedClusters : t.fencedClusters = s.fencedClusters
  fencedDies : t.fencedDies = s.fencedDies
  replReq : t.replReq = s.replReq
  l1 : t.l1 = s.l1
  cc : t.cc = s.cc
  tlb : t.tlb = s.tlb

theorem SameUnits.after {s t u : State} (k : SameUnits t u) (h : SameUnits s t) : SameUnits s u :=
  ⟨k.mem.trans h.mem, k.fencedCores.trans h.fencedCores, k.fencedClusters.trans h.fencedClusters,
    k.fencedDies.trans h.fencedDies, k.replReq.trans h.replReq, k.l1.trans h.l1, k.cc.trans h.cc, k.tlb.trans h.tlb⟩

/-- A lost pool changes neither units nor pools in place. -/
structure LeavesPools (s t : State) : Prop where
  units : SameUnits s t
  pools : t.pools = s.pools

theorem State.leavesPools_losePool (s : State) (pid : Nat) (p : Pool) (unsent : Bool) :
    LeavesPools s (s.losePool pid p unsent) := by
  have same (t : State) (q : Pool) (why : WhyOut) : LeavesPools t (t.waits pid q why) :=
    ⟨⟨rfl, rfl, rfl, rfl, rfl, rfl, rfl, rfl⟩, rfl⟩
  cases hr : p.task.recipe with
  | some n =>
      rw [s.losePool_slice pid p unsent hr]
      exact ⟨⟨rfl, rfl, rfl, rfl, rfl, rfl, rfl, rfl⟩, rfl⟩
  | none =>
      rw [s.losePool_task pid p unsent hr]
      split
      · cases s.lastImage pid p with
        | some i => exact same _ _ _
        | none => exact same _ _ _
      · split
        · rw [State.taskOver_eq]
          exact ⟨⟨rfl, rfl, rfl, rfl, rfl, rfl, rfl, rfl⟩, rfl⟩
        · exact same _ _ _

theorem State.leavesPools_foldl (l : List (Nat × Pool)) (unsent : Nat → Bool) (s : State) :
    LeavesPools s (l.foldl (fun s e => s.losePool e.1 e.2 (unsent e.1)) s) := by
  induction l generalizing s with
  | nil => exact ⟨⟨rfl, rfl, rfl, rfl, rfl, rfl, rfl, rfl⟩, rfl⟩
  | cons e l ih =>
      have first := s.leavesPools_losePool e.1 e.2 (unsent e.1)
      have rest := ih (s.losePool e.1 e.2 (unsent e.1))
      exact ⟨rest.units.after first.units, rest.pools.trans first.pools⟩

section
variable (s : State) (cores l : List Nat)

/-- The pools that go with some, and the records discarded. -/
def State.goneWith (s : State) (cores l : List Nat) : List Nat × List Nat :=
  if cores.isEmpty then (l, []) else s.lostWith cores l

/-- A pool in place or waiting for one. -/
def State.findPool (s : State) (pid : Nat) : Option Pool :=
  match s.pool? pid with
  | some p => some p
  | none => (s.out.find? (·.id = pid)).map (·.pool)

theorem State.findPool_of_pool? {pid : Nat} {p : Pool} (hp : s.pool? pid = some p) : s.findPool pid = some p := by
  unfold State.findPool
  rw [hp]

/-- The pools that are lost: of those that go, the ones not about to end. -/
def State.lostPools (s : State) (cores l : List Nat) : List (Nat × Pool) :=
  (s.goneWith cores l).1.filterMap fun pid => (s.findPool pid).bind fun p =>
    if p.willEnd (s.goneWith cores l).2 then none else some (pid, p)

/-- R181: a pool without its dependences on some. -/
def Pool.withoutDeps (p : Pool) (ids : List Nat) : Pool := { p with deps := p.deps.filter fun d => !ids.contains d }

/-- R181, R297: the state in which a loss begins: the pools, accesses, entries and records that go are gone, and the
dependent pools that stay have gone back. -/
def State.withoutPools (s : State) (ids recs : List Nat) : State :=
  let s1 := s.rollBackAll ((s.dependents ids).filter fun q => !ids.contains q)
  { s1 with
    pools := (s1.pools.filter fun e => !ids.contains e.1).map fun e => (e.1, e.2.withoutDeps ids)
    out := s1.out.filter fun o => !ids.contains o.id
    held := s1.held.filter fun h => !ids.contains h.pool
    journal := s1.journal.filter fun e =>
      !(ids.contains e.pool && e.record.isNone) && !(e.record.any recs.contains)
    records := s1.records.filter fun r => !recs.contains r.id }

/-- R320: a record that is discarded was to signal for the pool. -/
def State.unsent (s : State) (recs : List Nat) (pid : Nat) : Bool :=
  s.records.any fun r => recs.contains r.id && r.signals.any (·.1 = pid)

theorem State.losePools_eq : s.losePools cores l =
    (s.lostPools cores l).foldl (fun t e => t.losePool e.1 e.2 (s.unsent (s.goneWith cores l).2 e.1))
      (s.withoutPools ((s.lostPools cores l).map (·.1)) (s.goneWith cores l).2) := rfl

theorem State.sameUnits_withoutPools (ids recs : List Nat) : SameUnits s (s.withoutPools ids recs) :=
  ⟨rfl, rfl, rfl, rfl, rfl, rfl, rfl, rfl⟩

theorem State.pool?_withoutPools_none {ids recs : List Nat} {q : Nat} (h : s.pool? q = none ∨ q ∈ ids) :
    (s.withoutPools ids recs).pool? q = none := by
  have found : (s.withoutPools ids recs).pool? q = (KMap.find? ((s.rollBackAll ((s.dependents ids).filter
      fun q => !ids.contains q)).pools.filter fun e => !ids.contains e.1) q).map (·.withoutDeps ids) :=
    KMap.find?_map _ (fun p : Pool => p.withoutDeps ids) q
  rw [found, KMap.find?_filter_key _ fun k => !ids.contains k]
  rcases h with h | h
  · have gone (vs : List Nat) : KMap.find? (s.rollBackAll vs).pools q = none := by
      rw [← State.pool?, State.pool?_rollBackAll, h]
      rfl
    rw [gone, ite_self]
    rfl
  · rw [if_neg (by simpa using h)]
    rfl

theorem State.leavesPools_losePools :
    LeavesPools (s.withoutPools ((s.lostPools cores l).map (·.1)) (s.goneWith cores l).2) (s.losePools cores l) := by
  rw [State.losePools_eq]
  exact State.leavesPools_foldl _ _ _

theorem State.sameUnits_losePools : SameUnits s (s.losePools cores l) := by
  exact (s.leavesPools_losePools cores l).units.after (s.sameUnits_withoutPools _ _)

/-- R303: no pool comes into place by a loss, and the pools lost have left theirs. -/
theorem State.pool?_losePools_none {q : Nat} (h : s.pool? q = none ∨ q ∈ (s.lostPools cores l).map (·.1)) :
    (s.losePools cores l).pool? q = none :=
  (State.pool?_congr (s.leavesPools_losePools cores l).pools q).trans (s.pool?_withoutPools_none h)

variable {s cores l}

theorem State.mem_lostPools {pid : Nat} {p : Pool} (hc : cores ≠ []) (hl : pid ∈ l) (hp : s.pool? pid = some p)
    (hw : p.willEnd (s.lostWith cores l).2 = false) : pid ∈ (s.lostPools cores l).map (·.1) := by
  have gone : s.goneWith cores l = s.lostWith cores l := if_neg (by simpa using hc)
  refine List.mem_map.mpr ⟨(pid, p), List.mem_filterMap.mpr ⟨pid, ?_, ?_⟩, rfl⟩
  · rw [gone]
    exact s.mem_lostWith cores hl
  · rw [gone, s.findPool_of_pool? hp]
    exact if_neg (by simp [hw])

end

/-! ### Cores that stop (R189, R302) -/

/-- Some cores have stopped, with those of worn pools; `s` is the state in which they are found. -/
structure Stopped (s t : State) (cores : List Nat) : Prop where
  mem : t.mem = s.mem
  fencedCores : t.fencedCores = s.fencedCores ++ (s.withWorn cores).filter fun c => !cores.contains c
  fencedClusters : t.fencedClusters = s.fencedClusters
  fencedDies : t.fencedDies = s.fencedDies
  replReq : t.replReq = s.replReq
  l1 : t.l1 = s.l1.filter fun e => !(s.withWorn cores).contains (e.1 / 2 ^ 46)
  cc : t.cc = s.cc
  tlb : t.tlb = s.tlb
  absent : ∀ q, s.pool? q = none → t.pool? q = none
  lost : ∀ pid p, s.pool? pid = some p → (∃ c ∈ p.cores, c ∈ s.withWorn cores) →
    p.willEnd (s.lostWith (s.withWorn cores) (s.poolsAt (s.withWorn cores))).2 = false → t.pool? pid = none

/-- R189: the cores of worn pools are fenced with those that stop. -/
def State.fenceMore (s : State) (cores : List Nat) : State :=
  { s with
    fencedCores := s.fencedCores ++ (s.withWorn cores).filter fun c => !cores.contains c
    log := s.log ++ ((s.withWorn cores).filter fun c => !cores.contains c).map .coreFenced }

theorem State.stopped_stopCores (s : State) (cores : List Nat) : Stopped s (s.stopCores cores) cores := by
  have units := (s.fenceMore cores).sameUnits_losePools (s.withWorn cores) ((s.fenceMore cores).poolsAt (s.withWorn cores))
  have places {q : Nat} := (s.fenceMore cores).pool?_losePools_none (s.withWorn cores)
    ((s.fenceMore cores).poolsAt (s.withWorn cores)) (q := q)
  refine ⟨units.mem, units.fencedCores, units.fencedClusters, units.fencedDies, units.replReq, ?_, units.cc, units.tlb,
    fun q hq => places (.inl hq), fun pid p hp hc hw => places (.inr ?_)⟩
  · exact congrArg (List.filter _) units.l1
  · obtain ⟨c, hc, hin⟩ := hc
    exact State.mem_lostPools (s := s.fenceMore cores) (List.ne_nil_of_mem hin)
      (State.mem_poolsAt (s := s.fenceMore cores) hp ⟨c, hc, hin⟩) hp hw

section
variable {s t : State} {cores : List Nat} (h : Stopped s t cores)
include h

theorem Stopped.fenced {c : Nat} (hc : c ∈ s.fencedCores ∨ c ∈ s.withWorn cores ∧ c ∉ cores) : c ∈ t.fencedCores := by
  rw [h.fencedCores, List.mem_append, List.mem_filter]
  simpa using hc

/-- A core out of use stays out of use. -/
theorem Stopped.coreLive {c : Nat} (hc : s.coreLive c = false) : t.coreLive c = false := by
  unfold State.coreLive at hc ⊢
  rw [h.fencedDies]
  rcases Bool.and_eq_false_iff.mp hc with hf | hd
  · have : c ∈ t.fencedCores := h.fenced (.inl (by simpa using hf))
    simp [this]
  · rw [hd, Bool.and_false]

theorem Stopped.coreLive_worn {c : Nat} (hall : ∀ c ∈ cores, s.coreLive c = false) (hc : c ∈ s.withWorn cores) :
    t.coreLive c = false := by
  by_cases hin : c ∈ cores
  · exact h.coreLive (hall c hin)
  · have : c ∈ t.fencedCores := h.fenced (.inr ⟨hc, hin⟩)
    simp [State.coreLive, this]

theorem Stopped.not_mem_l1 {c : Nat} (hc : c ∈ cores) : ∀ e ∈ t.l1, e.1 / 2 ^ 46 ≠ c := by
  intro e he heq
  rw [h.l1] at he
  have out := (List.mem_filter.mp he).2
  rw [heq] at out
  simp [s.mem_withWorn hc] at out

/-- R189: what is lost by the pools and records of the state before the unit was taken out of use. -/
theorem Stopped.lost_of {s0 : State} (hp : s.pools = s0.pools) (hr : s.records = s0.records) {pid : Nat} {p : Pool}
    (hpool : s0.pool? pid = some p) (hc : ∃ c ∈ p.cores, c ∈ cores)
    (hw : p.willEnd (s0.lostWith (s0.withWorn cores) (s0.poolsAt (s0.withWorn cores))).2 = false) :
    t.pool? pid = none := by
  obtain ⟨c, hc, hin⟩ := hc
  refine h.lost pid p ((State.pool?_congr hp pid).trans hpool) ⟨c, hc, s.mem_withWorn hin⟩ ?_
  rw [State.withWorn_congr hp hr, State.poolsAt_congr hp, State.lostWith_congr hr]
  exact hw

end

theorem coreLive_of_fenced {s : State} {c : Nat} (h : c ∈ s.fencedCores) : s.coreLive c = false := by
  simp [State.coreLive, h]

theorem coreLive_of_die {s : State} {c : Nat} (h : c / 32 ∈ s.fencedDies) : s.coreLive c = false := by
  simp [State.coreLive, dieOf, h]

/-! ### Fences of cores, clusters and dies -/

section
variable {s : State}

theorem State.fenceCore_gone {k : Nat} (h : 256 ≤ k ∨ s.coreLive k = false) : s.fenceCore k = s := by
  unfold State.fenceCore
  refine if_pos (Bool.or_eq_true_iff.mpr (h.imp (fun h => ?_) fun h => ?_))
  · exact decide_eq_true h
  · rw [h]; rfl

theorem State.fenceCluster_gone {k : Nat} (h : 64 ≤ k ∨ s.clusterLive k = false) : s.fenceCluster k = s := by
  unfold State.fenceCluster
  refine if_pos (Bool.or_eq_true_iff.mpr (h.imp (fun h => ?_) fun h => ?_))
  · exact decide_eq_true h
  · rw [h]; rfl

theorem State.fenceDie_gone {d : Nat} (h : 8 ≤ d ∨ d ∈ s.fencedDies) : s.fenceDie d = s := by
  unfold State.fenceDie
  refine if_pos (Bool.or_eq_true_iff.mpr (h.imp (fun h => ?_) fun h => ?_))
  · exact decide_eq_true h
  · exact List.contains_iff_mem.mpr h

/-- R189: a core out of use, before its pools are lost. -/
def State.takeCore (s : State) (k : Nat) : State := { s with fencedCores := s.fencedCores ++ [k] }

theorem State.fenceCore_live {k : Nat} (hk : k < 256) (h : s.coreLive k = true) :
    s.fenceCore k = ((s.takeCore k).stopCores [k]).logEvent (.coreFenced k) := by
  unfold State.fenceCore
  refine if_neg ?_
  rw [h, Bool.not_true, Bool.or_false, decide_eq_true_eq]
  exact Nat.not_le.mpr hk

/-- R302: a die out of use, before its pools are lost. -/
def State.takeDie (s : State) (d : Nat) : State := { s with fencedDies := s.fencedDies ++ [d], replReq := true }

theorem State.fenceDie_live {d : Nat} (hd : d < 8) (h : d ∉ s.fencedDies) : s.fenceDie d =
    ((s.takeDie d).stopCores ((List.range 32).map (32 * d + ·))).dropClusters ((List.range 8).map (8 * d + ·)) := by
  unfold State.fenceDie
  refine if_neg ?_
  rw [Bool.or_eq_true_iff, decide_eq_true_eq, List.contains_iff_mem]
  exact not_or.mpr ⟨Nat.not_le.mpr hd, h⟩

/-- R248: a cluster and its cores out of use, before their pools are lost. -/
def State.takeCluster (s : State) (k : Nat) : State :=
  { s with
    fencedCores := s.fencedCores ++ [4 * k, 4 * k + 1, 4 * k + 2, 4 * k + 3].filter s.coreLive
    fencedClusters := s.fencedClusters ++ [k]
    log := s.log ++ ([4 * k, 4 * k + 1, 4 * k + 2, 4 * k + 3].filter s.coreLive).map .coreFenced }

/-- R248: the cluster's pools are lost, and it leaves the directory. -/
def State.loseCluster (s : State) (k : Nat) : State :=
  ((s.takeCluster k).stopCores [4 * k, 4 * k + 1, 4 * k + 2, 4 * k + 3]).dropClusters [k]

theorem State.fenceCluster_live {k : Nat} (hk : k < 64) (h : s.clusterLive k = true) : s.fenceCluster k =
    if (List.range 8).all fun i => (s.loseCluster k).fencedClusters.contains (k / 8 * 8 + i) then
      (s.loseCluster k).fenceDie (k / 8) else s.loseCluster k := by
  unfold State.fenceCluster
  refine if_neg ?_
  rw [h, Bool.not_true, Bool.or_false, decide_eq_true_eq]
  exact Nat.not_le.mpr hk

end

/-- R302, R304: the fence of a die. -/
structure DieFenced (s t : State) (d : Nat) : Prop where
  mem : t.mem = s.mem
  fencedCores : ∀ c ∈ s.fencedCores, c ∈ t.fencedCores
  fencedClusters : t.fencedClusters = s.fencedClusters
  fencedDies : t.fencedDies = s.fencedDies ++ [d]
  replReq : t.replReq = true
  cc : t.cc = s.cc.filter fun e => !((List.range 8).map (8 * d + ·)).contains (e.1 / 2 ^ 46)
  tlb : t.tlb = s.tlb.filter fun e => !((List.range 8).map (8 * d + ·)).contains e.cluster
  pools : ∀ q, s.pool? q = none → t.pool? q = none
  lost : ∀ pid p, s.pool? pid = some p → (∃ c ∈ p.cores, c / 32 = d) →
    p.willEnd (s.lostWith (s.withWorn ((List.range 32).map (32 * d + ·)))
      (s.poolsAt (s.withWorn ((List.range 32).map (32 * d + ·))))).2 = false → t.pool? pid = none

theorem mem_block (n d c : Nat) (hn : 0 < n) : c ∈ (List.range n).map (n * d + ·) ↔ c / n = d := by
  rw [List.mem_map]
  constructor
  · rintro ⟨i, hi, rfl⟩
    rw [Nat.mul_add_div hn, Nat.div_eq_of_lt (List.mem_range.mp hi), Nat.add_zero]
  · rintro rfl
    exact ⟨c % n, List.mem_range.mpr (Nat.mod_lt c hn), Nat.div_add_mod c n⟩

theorem State.dieFenced {s : State} {d : Nat} (hd : d < 8) (h : d ∉ s.fencedDies) : DieFenced s (s.fenceDie d) d := by
  have stopped := (s.takeDie d).stopped_stopCores ((List.range 32).map (32 * d + ·))
  rw [State.fenceDie_live hd h]
  refine ⟨stopped.mem, fun c hc => stopped.fenced (.inl hc), stopped.fencedClusters, stopped.fencedDies, stopped.replReq,
    congrArg (List.filter _) stopped.cc, congrArg (List.filter _) stopped.tlb, stopped.absent, ?_⟩
  intro pid p hp ⟨c, hc, hin⟩ hw
  exact stopped.lost_of (s0 := s) rfl rfl hp ⟨c, hc, (mem_block 32 d c (by decide)).mpr hin⟩ hw

/-- A core out of use stays out of use. -/
theorem DieFenced.coreLive {s t : State} {d c : Nat} (h : DieFenced s t d) (hc : s.coreLive c = false) :
    t.coreLive c = false := by
  rcases Bool.and_eq_false_iff.mp hc with hf | hd
  · exact coreLive_of_fenced (h.fencedCores c (by simpa using hf))
  · have out : c / 32 ∈ s.fencedDies := by simpa [dieOf] using hd
    exact coreLive_of_die (by rw [h.fencedDies]; exact List.mem_append_left _ out)

/-- R248: the fence of a cluster. -/
structure ClusterFenced (s t : State) (k : Nat) : Prop where
  mem : t.mem = s.mem
  cluster : k ∈ t.fencedClusters
  cores : ∀ c, c / 4 = k → t.coreLive c = false
  cc : ∀ e ∈ t.cc, e.1 / 2 ^ 46 ≠ k
  tlb : ∀ e ∈ t.tlb, e.cluster ≠ k
  lost : ∀ pid p, s.pool? pid = some p → (∃ c ∈ p.cores, c / 4 = k) →
    p.willEnd (s.lostWith (s.withWorn [4 * k, 4 * k + 1, 4 * k + 2, 4 * k + 3])
      (s.poolsAt (s.withWorn [4 * k, 4 * k + 1, 4 * k + 2, 4 * k + 3]))).2 = false → t.pool? pid = none

/-- R302: a die whose last cluster is lost is fenced with it. -/
theorem ClusterFenced.die {s t u : State} {k d : Nat} (h : ClusterFenced s t k) (hd : DieFenced t u d) :
    ClusterFenced s u k where
  mem := hd.mem.trans h.mem
  cluster := by rw [hd.fencedClusters]; exact h.cluster
  cores := fun c hc => hd.coreLive (h.cores c hc)
  cc := fun e he => h.cc e (List.mem_of_mem_filter (hd.cc ▸ he))
  tlb := fun e he => h.tlb e (List.mem_of_mem_filter (hd.tlb ▸ he))
  lost := fun pid p hp hc hw => hd.pools pid (h.lost pid p hp hc hw)

theorem mem_clusterCores (k c : Nat) : c ∈ [4 * k, 4 * k + 1, 4 * k + 2, 4 * k + 3] ↔ c / 4 = k := by
  simp only [List.mem_cons, List.not_mem_nil, or_false]
  omega

theorem State.coreLive_takeCluster {s : State} {k c : Nat} (hc : c / 4 = k) : (s.takeCluster k).coreLive c = false := by
  cases hlive : s.coreLive c with
  | true =>
      refine coreLive_of_fenced (List.mem_append_right _ (List.mem_filter.mpr ⟨?_, hlive⟩))
      exact (mem_clusterCores k c).mpr hc
  | false =>
      rcases Bool.and_eq_false_iff.mp hlive with hf | hd
      · exact coreLive_of_fenced (List.mem_append_left _ (by simpa using hf))
      · have out : c / 32 ∈ s.fencedDies := by simpa [dieOf] using hd
        exact coreLive_of_die (s := s.takeCluster k) out

theorem State.clusterFenced_loseCluster (s : State) (k : Nat) : ClusterFenced s (s.loseCluster k) k := by
  have stopped := (s.takeCluster k).stopped_stopCores [4 * k, 4 * k + 1, 4 * k + 2, 4 * k + 3]
  have out {j : Nat} (h : (!([k].contains j)) = true) : j ≠ k := by simpa using h
  refine ⟨stopped.mem, ?_, fun c hc => stopped.coreLive (State.coreLive_takeCluster hc), fun e he => ?_, fun e he => ?_, ?_⟩
  · have : (s.loseCluster k).fencedClusters = s.fencedClusters ++ [k] := stopped.fencedClusters
    rw [this]
    exact List.mem_append_right _ (List.mem_singleton_self k)
  · exact out (List.mem_filter.mp he).2
  · exact out (List.mem_filter.mp he).2
  · intro pid p hp ⟨c, hc, hin⟩ hw
    exact stopped.lost_of (s0 := s) rfl rfl hp ⟨c, hc, (mem_clusterCores k c).mpr hin⟩ hw

theorem State.clusterFenced {s : State} {k : Nat} (hk : k < 64) (h : s.clusterLive k = true) :
    ClusterFenced s (s.fenceCluster k) k := by
  have cluster := s.clusterFenced_loseCluster k
  rw [State.fenceCluster_live hk h]
  split
  · have dies : (s.loseCluster k).fencedDies = s.fencedDies :=
      ((s.takeCluster k).stopped_stopCores [4 * k, 4 * k + 1, 4 * k + 2, 4 * k + 3]).fencedDies
    have inUse : k / 8 ∉ (s.loseCluster k).fencedDies := by
      rw [dies]
      simpa using (Bool.and_eq_true_iff.mp h).2
    exact cluster.die (State.dieFenced (by omega) inUse)
  · exact cluster

theorem State.clusterLive_fenceCluster {s t : State} {k : Nat} (h : ClusterFenced s t k) : t.clusterLive k = false := by
  simp [State.clusterLive, h.cluster]

/-- R189: the fence of a core. -/
structure CoreFenced (s t : State) (k : Nat) : Prop where
  mem : t.mem = s.mem
  worn : ∀ c ∈ s.withWorn [k], t.coreLive c = false
  l1 : ∀ e ∈ t.l1, e.1 / 2 ^ 46 ≠ k
  lost : ∀ pid p, s.pool? pid = some p → k ∈ p.cores →
    p.willEnd (s.lostWith (s.withWorn [k]) (s.poolsAt (s.withWorn [k]))).2 = false → t.pool? pid = none

theorem State.coreFenced {s : State} {k : Nat} (hk : k < 256) (h : s.coreLive k = true) :
    CoreFenced s (s.fenceCore k) k := by
  have stopped := (s.takeCore k).stopped_stopCores [k]
  have same : (s.takeCore k).withWorn [k] = s.withWorn [k] :=
    State.withWorn_congr (s := s) (t := s.takeCore k) rfl rfl [k]
  rw [State.fenceCore_live hk h]
  refine ⟨stopped.mem, fun c hc => ?_, stopped.not_mem_l1 (List.mem_singleton_self k), ?_⟩
  · refine stopped.coreLive_worn (fun c hc => coreLive_of_fenced ?_) (same ▸ hc)
    exact List.mem_append_right _ hc
  · intro pid p hp hc hw
    exact stopped.lost_of (s0 := s) rfl rfl hp ⟨k, hc, List.mem_singleton_self k⟩ hw

/-! ### Peer links (R352) -/

section
variable (s : State) (n : Nat)

/-- The services cut off with a link. -/
def State.cutOps (s : State) (n : Nat) : List (Pool × Op) :=
  s.syscOps.filter fun x => peerService x.2.aop && x.2.args.any fun a => (a.getD 0 0).toNat = n

theorem State.mem_cutOps (x : Pool × Op) : x ∈ s.cutOps n ↔
    x ∈ s.syscOps ∧ x.2.aop ∈ [0x30, 0x31] ∧ ∃ a ∈ x.2.args, (a.getD 0 0).toNat = n := by
  simp [State.cutOps, peerService]

theorem State.mem_peerCut (o j : Nat) : (o, j) ∈ (s.cutLink n).peerCut ↔ (o, j) ∈ s.peerCut ∨
    (j = n ∧ ∃ x ∈ s.syscOps, x.2.id = o ∧ x.2.aop ∈ [0x30, 0x31] ∧ ∃ a ∈ x.2.args, (a.getD 0 0).toNat = n) := by
  have cut : (s.cutLink n).peerCut = (s.peerCut ++ (s.cutOps n).map fun x => (x.2.id, n)).dedup := rfl
  rw [cut, List.mem_dedup, List.mem_append, List.mem_map]
  refine or_congr Iff.rfl ⟨?_, ?_⟩
  · rintro ⟨x, hx, he⟩
    cases he
    obtain ⟨hs, haop, hargs⟩ := (s.mem_cutOps n x).mp hx
    exact ⟨rfl, x, hs, rfl, haop, hargs⟩
  · rintro ⟨rfl, x, hs, rfl, haop, hargs⟩
    exact ⟨x, (s.mem_cutOps _ x).mpr ⟨hs, haop, hargs⟩, rfl⟩

theorem State.links_modLink (f : Link → Link) (j : Nat) : KMap.get (s.modLink n f).links Link.fresh j =
    if j = n then f (KMap.get s.links Link.fresh n) else KMap.get s.links Link.fresh j :=
  KMap.get_put s.links Link.fresh (n, f (s.link n)) j

theorem State.links_cutLink (j : Nat) : KMap.get (s.cutLink n).links Link.fresh j =
    if j = n then { KMap.get s.links Link.fresh n with fenced := true, queue := [] } else KMap.get s.links Link.fresh j :=
  State.links_modLink { s with
    peerCut := (s.peerCut ++ (s.cutOps n).map fun x => (x.2.id, n)).dedup
    portReads := s.portReads.filter (·.port != 8 + n) } n (fun l => { l with fenced := true, queue := [] }) j

theorem State.peerDropped_cutLink : PeerDropped s (s.cutLink n) n := by
  refine ⟨List.filter_congr fun x _ => ?_, List.filter_congr fun r _ => ?_⟩
  · by_cases h : x.port = 8 + n <;> simp [h]
  · have dropped : r.port = some (8 + n) ∧ r.left ≠ [] ∧ r.left = touched r.entries r.atoms ↔ r.ofPeer n = true := by
      simp [Record.ofPeer, and_assoc]
    simp only [dropped, Bool.not_eq_true, Bool.not_eq_eq_eq_not]
    cases r.ofPeer n <;> rfl

end

/-! ### Commands (R346) -/

/-- R346: what has come is told in order, up to the first command that waits. -/
theorem State.settleFrom_spec (s : State) (l : List Command) : ∃ d r, l = d ++ r ∧
    (∀ c ∈ d, s.cmdWaits c.wait = false) ∧ (∀ c ∈ r.head?, s.cmdWaits c.wait = true) ∧
    s.settleFrom l = { s with commands := r, replies := s.replies ++ d.map fun c => .status c.code c.status } := by
  induction l generalizing s with
  | nil => exact ⟨[], [], rfl, by simp, by simp, by simp [State.settleFrom]⟩
  | cons c l ih =>
      unfold State.settleFrom
      split
      · next hw => exact ⟨[], c :: l, rfl, by simp, by simpa using hw, by simp⟩
      · next hw =>
        have same (w : CmdWait) : (s.reply (.status c.code c.status)).cmdWaits w = s.cmdWaits w := by cases w <;> rfl
        obtain ⟨d, r, rfl, hd, hr, he⟩ := ih (s.reply (.status c.code c.status))
        simp only [same] at hd hr
        refine ⟨c :: d, r, rfl, ?_, hr, ?_⟩
        · exact List.forall_mem_cons.mpr ⟨by simpa using hw, hd⟩
        · rw [he, State.reply, List.map_cons, List.append_assoc]
          rfl

theorem commanded_settle (t : State) (code status : Nat) (w : CmdWait) :
    Commanded code status w t ({ t with commands := t.commands ++ [⟨code, status, w⟩] } : State).settleCommands := by
  obtain ⟨d, r, hl, hd, hr, he⟩ :=
    State.settleFrom_spec { t with commands := t.commands ++ [⟨code, status, w⟩] } (t.commands ++ [⟨code, status, w⟩])
  have same (x : CmdWait) : ({ t with commands := t.commands ++ [⟨code, status, w⟩] } : State).cmdWaits x = t.cmdWaits x := by
    cases x <;> rfl
  simp only [same] at hd hr
  exact ⟨d, r, hl, hd, hr, he⟩

section
variable {s t : State} (hr : Running s)
include hr

theorem fenceCommand_good {x : FenceTarget} (h : s.fenceTarget x = some t) :
    ∃ u, exec (.fenceCommand x) s = .next u ∧ Commanded 0x0C 0 .none t u := by
  refine ⟨_, ?_, commanded_settle t 0x0C 0 .none⟩
  change execFenceCommand x s = _
  unfold execFenceCommand command
  rw [if_neg hr.not_stopped]
  dsimp only
  rw [h]
  rfl

theorem fenceCommand_bad {x : FenceTarget} (h : s.fenceTarget x = none) :
    ∃ u, exec (.fenceCommand x) s = .next u ∧ Commanded 0x0C 1 .none s u := by
  refine ⟨_, ?_, commanded_settle s 0x0C 1 .none⟩
  change execFenceCommand x s = _
  unfold execFenceCommand command
  rw [if_neg hr.not_stopped]
  dsimp only
  rw [h]
  rfl

end

end Sys2Proof.Machine

/-! ### The statement -/

section

open Sys2Proof Sys2Proof.Machine

/-- Settles O55: a fence is a unit taken out of use whose pools are then lost, and each loss is read off its cases. -/
theorem fencesAndLostPools : Obligations.FencesAndLostPools := by
  unfold Obligations.FencesAndLostPools
  refine ⟨?_, ?_⟩
  · intro s hv gone
    have core (k : Nat) : exec (.coreFence k) s = .next (s.fenceCore k) := unlessViral_none hv fun s => s.fenceCore k
    have cluster (k : Nat) : exec (.clusterFence k) s = .next (s.fenceCluster k) :=
      unlessViral_none hv fun s => s.fenceCluster k
    have die (d : Nat) : exec (.dieFence d) s = .next (s.fenceDie d) := unlessViral_none hv fun s => s.fenceDie d
    have peer (n : Nat) : exec (.peerLinkFence n) s = .next (s.fenceLink n) := unlessViral_none hv fun s => s.fenceLink n
    refine ⟨fun k => ⟨fun h => ?_, fun hk h => ?_⟩, fun k => ⟨fun h => ?_, fun hk h => ?_⟩,
      fun d => ⟨fun h => ?_, fun hd h => ?_⟩, fun n => ⟨fun h => ?_, fun hn => ?_⟩, fun d => ?_, fun hphase n => ?_⟩
    · rw [core, State.fenceCore_gone h]
    · have fenced := State.coreFenced hk h
      exact ⟨_, core k, fenced.worn k (s.mem_withWorn (List.mem_singleton_self k)), fenced.worn, fenced.l1,
        fenced.lost,
        fun a => congrArg (Memory.read · a) fenced.mem⟩
    · rw [cluster, State.fenceCluster_gone h]
    · have fenced := State.clusterFenced hk h
      exact ⟨_, cluster k, State.clusterLive_fenceCluster fenced, fenced.cores, fenced.cc, fenced.tlb, fenced.lost,
        fun a => congrArg (Memory.read · a) fenced.mem⟩
    · rw [die, State.fenceDie_gone h]
    · have fenced := State.dieFenced hd h
      refine ⟨_, die d, fenced.fencedDies, fenced.replReq, fun e he heq => ?_, fun c hc => ?_, fenced.lost,
        fun a => congrArg (Memory.read · a) fenced.mem⟩
      · rw [fenced.cc] at he
        have out := (List.mem_filter.mp he).2
        simp only [Bool.not_eq_true', ← Bool.not_eq_true, List.contains_iff_mem, mem_block 8 d _ (by decide)] at out
        exact out heq
      · exact coreLive_of_die (by rw [fenced.fencedDies, hc]; exact List.mem_append_right _ (List.mem_singleton_self d))
    · rw [peer, State.fenceLink, if_pos h]
    · have cut : s.fenceLink n = s.cutLink n := if_neg (Nat.not_le.mpr hn)
      refine ⟨s.cutLink n, (peer n).trans (congrArg _ cut), rfl, s.peerDropped_cutLink n, ?_, fun j hj => ?_,
        s.mem_peerCut n⟩
      · exact (s.links_cutLink n n).trans (if_pos rfl)
      · exact (s.links_cutLink n j).trans (if_neg hj)
    · exact ⟨_, unlessViral_none hv fun s => s.fenceDie d, die d⟩
    · have hr : Running s := ⟨hv, hphase⟩
      refine ⟨fun hn => ?_, fun hn => ?_, fun hn => ?_, fun hn => ?_, fun hn => ?_, fun x hx => ?_⟩
      · obtain ⟨u, hu, hc⟩ := fenceCommand_good hr (x := .die n) (if_pos hn)
        exact ⟨_, u, die n, hu, hc⟩
      · obtain ⟨u, hu, hc⟩ := fenceCommand_good hr (x := .cluster n) (if_pos hn)
        exact ⟨_, u, cluster n, hu, hc⟩
      · obtain ⟨u, hu, hc⟩ := fenceCommand_good hr (x := .core n) (if_pos hn)
        exact ⟨_, u, core n, hu, hc⟩
      · obtain ⟨u, hu, hc⟩ := fenceCommand_good hr (x := .peer n) (if_pos hn)
        exact ⟨_, u, peer n, hu, hc⟩
      · obtain ⟨u, hu, hc⟩ := fenceCommand_good hr (x := .peerRelease n) (if_pos hn)
        exact ⟨_, u, hu, hc, rfl, (State.links_modLink s n _ n).trans (if_pos rfl)⟩
      · refine fenceCommand_bad hr ?_
        rcases hx with ⟨rfl, hn⟩ | ⟨rfl, hn⟩ | ⟨rfl, hn⟩ | ⟨rfl, hn⟩ | ⟨rfl, hn⟩
        all_goals exact if_neg (Nat.not_lt.mpr hn)
  · intro s pid p unsent task again startsOver
    refine ⟨fun n r hrecipe hr => ?_, fun hrecipe => ?_⟩
    · have lost : again = _ := s.losePool_slice pid p unsent hrecipe
      rw [lost]
      refine ⟨rfl, ?_⟩
      rw [KMap.find?_modify_self, hr]
      rfl
    · have lost : again = _ := s.losePool_task pid p unsent hrecipe
      intro marked
      have hmarked : marked ↔ s.isMarked pid p = true := (s.isMarked_iff pid p).symm
      rw [hmarked]
      refine ⟨fun hd hm => ?_, fun hd hm => ?_, fun hd hi => ?_, fun i hd hi => ?_⟩
      · rw [if_neg (by simp [hd]), if_pos hm, Task.fail_eq] at lost
        rw [lost]
        exact ⟨over_taskOver s _ pid, by rw [State.taskOver_eq]⟩
      · rw [if_neg (by simp [hd]), if_neg hm] at lost
        exact ⟨s.lostPool p unsent, by rw [lost]; rfl, rfl, rfl, rfl⟩
      · rw [if_pos hd, hi] at lost
        exact ⟨s.lostPool p unsent, by rw [lost]; rfl, rfl, rfl, rfl⟩
      · rw [if_pos hd, hi] at lost
        exact ⟨(s.lostPool p unsent).fromImage i, by rw [lost]; rfl, rfl, rfl, rfl, rfl, rfl, rfl⟩

end

/-! Gongs (R194, R210 to R213): the words that are gongs, the checks on their offset, and what a changed word leads to. -/

namespace Sys2Proof.Machine

/-! ### Gong words -/

theorem Gong.word_eq (exp phase pend arr : Nat) : Gong.word exp phase pend arr = gongWord exp phase pend arr := by
  unfold Gong.word gongWord
  omega

/-- R211, R212: a word passes as a gong exactly where it has the fields of one. -/
theorem Gong.gongIs_of_valid {w : Nat} (h : Gong.valid w = true) :
    GongIs w (Gong.exp w) (Gong.phase w) (Gong.pend w) (Gong.arr w) := by
  unfold Gong.valid at h
  simp only [Bool.and_eq_true, decide_eq_true_eq] at h
  obtain ⟨⟨top, hexp⟩, harr⟩ := h
  refine ⟨?_, by omega, ?_, ?_, ?_, harr⟩
  · unfold gongWord Gong.exp Gong.phase Gong.pend Gong.arr
    omega
  · unfold Gong.exp
    omega
  · unfold Gong.phase
    omega
  · unfold Gong.pend
    omega

theorem Gong.valid_eq_false {w : Nat} (h : ∀ exp phase pend arr, ¬GongIs w exp phase pend arr) :
    Gong.valid w = false := by
  by_contra hv
  exact h _ _ _ _ (Gong.gongIs_of_valid (by simpa using hv))

section
variable {w exp phase pend arr : Nat} (h : GongIs w exp phase pend arr)
include h

/-- R213 step 1. -/
theorem GongIs.turns_iff : Gong.turns w = true ↔ arr = exp ∧ pend = 0 := by
  obtain ⟨hexp, -, hpend, harr, hvalid⟩ := h.fields
  unfold Gong.turns
  rw [hexp, hpend, harr, hvalid]
  simp

/-- R213 step 2. -/
theorem GongIs.turned : Gong.turned w = gongWord exp (1 - phase) 0 0 := by
  obtain ⟨hexp, hphase, -⟩ := h.fields
  rw [Gong.turned, hexp, hphase, Gong.word_eq]

/-- R212: one arrival more. -/
theorem GongIs.arrive (hlt : arr < exp) : GongIs (gongWord exp phase pend (arr + 1)) exp phase pend (arr + 1) :=
  ⟨rfl, h.exp1, h.exp2, h.phase, h.pend, hlt⟩

/-- R212: another expected count. -/
theorem GongIs.expect {n : Nat} (h1 : 1 ≤ n) (hle : arr ≤ n) (h2 : n ≤ 65535) :
    GongIs (gongWord n phase pend arr) n phase pend arr :=
  ⟨rfl, h1, h2, h.phase, h.pend, hle⟩

end

/-! ### Bytes of the scratchpad -/

/-- R180: a byte of the scratchpad takes one byte of the undo log. -/
theorem Pool.logged_setSpadByte (p : Pool) (a : Nat) (b : Byte) : Logged p (p.setSpadByte a b) 1 where
  parts := rfl
  cps := rfl
  cmds := rfl
  tiles := rfl
  regs := rfl
  held := fun core => by
    have := KMap.length_record_le p.undoSpad a (p.spadByte a)
    have after : (p.setSpadByte a b).undoOn core =
        4 * (p.undoRegs.filter fun e => p.coreOfThread (e.1 / 256) = core).length +
        (if core = p.homeCore then (KMap.record p.undoSpad a (p.spadByte a)).length else 0) +
        4224 * (p.undoTiles.filter fun e => coreOf (p.parts.getD (e.1 / 64) 0) = core).length := rfl
    rw [after, Pool.undoOn]
    split <;> omega

theorem Pool.logged_spadWriteBytes (p : Pool) (a : Nat) (bs : List Byte) :
    Logged p (p.spadWriteBytes a bs) bs.length := by
  induction bs generalizing p a with
  | nil => exact .refl p
  | cons b bs ih =>
      have := (p.logged_setSpadByte a b).trans (ih (p.setSpadByte a b) (a + 1))
      rwa [List.length_cons, Nat.add_comm]

theorem Pool.logged_spadWrite (p : Pool) (a len v : Nat) : Logged p (p.spadWrite a len v) len := by
  have := p.logged_spadWriteBytes a (toBytes v len)
  rwa [length_toBytes] at this

theorem Logged.cores {p q : Pool} {n : Nat} (h : Logged p q n) : q.cores = p.cores := by
  rw [Pool.cores, Pool.cores, h.parts]

/-- A commit point sees nothing of the scratchpad. -/
theorem Pool.commitView_spadWriteBytes (p : Pool) (a : Nat) (bs : List Byte) :
    (p.spadWriteBytes a bs).commitView = p.commitView := by
  induction bs generalizing p a with
  | nil => rfl
  | cons b bs ih => exact (ih _ _).trans rfl

theorem sameCommit_spadWrite (s : State) (pid o len v : Nat) : SameCommit s (s.modPool pid (·.spadWrite o len v)) :=
  ⟨rfl, modPool_view s pid _ fun p => p.commitView_spadWriteBytes o _⟩

/-! ### The checks on the offset -/

section
variable {c : Ctx} {s : State} {a : Byte} (k : Nat → Nat → State → Res)

/-- R212: an offset of more than 32 bits. -/
theorem Ctx.gong_wide (h : 2 ^ 32 ≤ (c.s a).toNat) : c.gong s a k = .trap 0x01 0 3 0 := by
  have high : bits 63 32 (c.s a) ≠ 0 := by
    unfold bits
    have := (c.s a).isLt
    rw [Nat.shiftRight_eq_div_pow]
    omega
  exact if_pos high

/-- R194: an offset of 32 bits that fails a check. -/
theorem Ctx.gong_check {r : Res} (h : (c.s a).toNat < 2 ^ 32)
    (hr : c.spadCheck [(0, ((c.s a).toNat : Int))] 8 false = some r) : c.gong s a k = r := by
  have high : bits 63 32 (c.s a) = 0 := by
    unfold bits
    rw [Nat.shiftRight_eq_div_pow]
    omega
  have low : bits 31 0 (c.s a) = (c.s a).toNat := by
    unfold bits
    rw [Nat.shiftRight_zero]
    exact Nat.mod_eq_of_lt h
  unfold Ctx.gong
  rw [if_neg (not_not_intro high)]
  simp only [low, hr]

theorem Ctx.gong_misaligned (h : (c.s a).toNat < 2 ^ 32) (hm : (c.s a).toNat % 8 ≠ 0) :
    c.gong s a k = .trap 0x09 0 0 (c.s a) := by
  have bad : [(0, ((c.s a).toNat : Int))].filter (fun e => decide (e.2 % ((8 : Nat) : Int) ≠ 0)) = [(0, ((c.s a).toNat : Int))] :=
    List.filter_eq_self.mpr fun e he => by
      rw [List.mem_singleton.mp he, decide_eq_true_eq]
      dsimp only
      omega
  rw [Ctx.gong_check k h (Ctx.spadCheck_misaligned false bad)]
  simp

theorem Ctx.gong_outside (h : (c.s a).toNat < 2 ^ 32) (hm : (c.s a).toNat % 8 = 0)
    (ho : c.pool.spadSize < (c.s a).toNat + 8) : c.gong s a k = .trap 0x0B 0 0 (c.s a) := by
  have aligned : ∀ e ∈ [(0, ((c.s a).toNat : Int))], e.2 % ((8 : Nat) : Int) = 0 := fun e he => by
    rw [List.mem_singleton.mp he]
    dsimp only
    omega
  have bad : [(0, ((c.s a).toNat : Int))].filter (fun e => decide (e.2 < 0 ∨ (c.pool.spadSize : Int) < e.2 + ((8 : Nat) : Int))) =
      [(0, ((c.s a).toNat : Int))] :=
    List.filter_eq_self.mpr fun e he => by
      rw [List.mem_singleton.mp he, decide_eq_true_eq]
      dsimp only
      omega
  rw [Ctx.gong_check k h (Ctx.spadCheck_outside false aligned bad)]
  simp

end

/-! ### The instructions -/

/-- R212: every gong instruction checks its offset first, and all but GINIT then that its word is a gong. -/
theorem does_gong {i : Instr} {c : Ctx} {a : Byte} (s : State) (hi : gongReg i = some a)
    (hh : ∀ p a b, i = .gwait p a b → c.cp.holdLeft = 0) : ∃ k, Does i c s (c.gong s a k) ∧
      ((∀ p a b, i ≠ .ginit p a b) → ∀ o w u, Gong.valid w = false → k o w u = .trap 0x01 0 1 0) := by
  cases i with
  | ginit p a' b =>
      obtain rfl : a' = a := by simpa [gongReg] using hi
      exact ⟨_, ⟨_, Eq.trans (b := execGinit p a' b s) rfl (by unfold execGinit; rfl), rfl⟩,
        fun h => absurd rfl (h p a' b)⟩
  | garr p d a' =>
      obtain rfl : a' = a := by simpa [gongReg] using hi
      exact ⟨_, ⟨_, Eq.trans (b := execGarr p d a' s) rfl (by unfold execGarr; rfl), rfl⟩,
        fun _ o w u hw => by rw [hw]; rfl⟩
  | gexp p a' b =>
      obtain rfl : a' = a := by simpa [gongReg] using hi
      exact ⟨_, ⟨_, Eq.trans (b := execGexp p a' b s) rfl (by unfold execGexp; rfl), rfl⟩,
        fun _ o w u hw => by rw [hw]; rfl⟩
  | gwait p a' b =>
      obtain rfl : a' = a := by simpa [gongReg] using hi
      exact ⟨_, ⟨_, Eq.trans (b := execGwait p a' b s) rfl (by unfold execGwait; rfl),
        if_neg (c.cp.not_holding (hh p a' b rfl))⟩, fun _ o w u hw => by rw [hw]; rfl⟩
  | _ => cases hi

section
variable {c : Ctx} {s s1 : State} {a : Byte} {q : Pool} {o w exp phase pend arr : Nat} (hat : GongAt c s a s1 q o w)
include hat

theorem does_ginit (p : Option Prefix) (b : Byte) : Does (.ginit p a b) c s
    (if (c.s b).toNat = 0 ∨ 65535 < (c.s b).toNat then .trap 0x01 0 3 0
      else .done (c.modPool s1 fun q => q.spadWrite o 8 (gongWord (c.s b).toNat 0 0 0))) := by
  refine ⟨_, Eq.trans (b := execGinit p a b s) rfl (by unfold execGinit; rfl), ?_⟩
  rw [hat.gong]
  simp only [Gong.word_eq]

variable (hg : GongIs w exp phase pend arr)
include hg

theorem does_garr_full (p : Option Prefix) (d : Byte) (h : arr = exp) : Does (.garr p d a) c s (.trap 0x01 0 2 0) := by
  obtain ⟨hexp, -, -, harr, hvalid⟩ := hg.fields
  refine ⟨_, Eq.trans (b := execGarr p d a s) rfl (by unfold execGarr; rfl), ?_⟩
  rw [hat.gong]
  simp only [hvalid, hexp, harr, h, Bool.not_true, Bool.false_eq_true, if_false, if_true]

theorem does_garr (p : Option Prefix) (d : Byte) (hn : NoneEarlier c) (h : arr < exp) : Does (.garr p d a) c s
    (c.gongChange (shapeOf (.garr p d a)) (Instr.garr p d a).words s s1 o (gongWord exp phase pend (arr + 1))
      fun y => y.setS d.toNat (BitVec.ofNat 64 phase)) := by
  obtain ⟨hexp, hphase, -, harr, hvalid⟩ := hg.fields
  refine ⟨_, Eq.trans (b := execGarr p d a s) rfl (by unfold execGarr; rfl), ?_⟩
  have more : w + 1 = gongWord exp phase pend (arr + 1) := by rw [hg.word, gongWord, gongWord, Nat.add_assoc]
  rw [hat.gong]
  simp only [hvalid, hexp, harr, hphase, Nat.ne_of_lt h, Bool.not_true, Bool.false_eq_true, if_false,
    Ctx.afterEarlier, show c.earlier = none from hn, more]
  rfl

theorem does_gexp_count (p : Option Prefix) (b : Byte)
    (h : (c.s b).toNat = 0 ∨ (c.s b).toNat < arr ∨ 65535 < (c.s b).toNat) :
    Does (.gexp p a b) c s (.trap 0x01 0 3 0) := by
  obtain ⟨-, -, -, harr, hvalid⟩ := hg.fields
  refine ⟨_, Eq.trans (b := execGexp p a b s) rfl (by unfold execGexp; rfl), ?_⟩
  rw [hat.gong]
  simp only [hvalid, harr, h, Bool.not_true, Bool.false_eq_true, if_false, if_true]

theorem does_gexp (p : Option Prefix) (b : Byte) (hn : NoneEarlier c) (h1 : 1 ≤ (c.s b).toNat)
    (hle : arr ≤ (c.s b).toNat) (h2 : (c.s b).toNat ≤ 65535) : Does (.gexp p a b) c s
    (c.gongChange (shapeOf (.gexp p a b)) (Instr.gexp p a b).words s s1 o (gongWord (c.s b).toNat phase pend arr) id) := by
  obtain ⟨-, hphase, hpend, harr, hvalid⟩ := hg.fields
  refine ⟨_, Eq.trans (b := execGexp p a b s) rfl (by unfold execGexp; rfl), ?_⟩
  have good : ¬((c.s b).toNat = 0 ∨ (c.s b).toNat < arr ∨ 65535 < (c.s b).toNat) := by omega
  rw [hat.gong]
  simp only [hvalid, hphase, hpend, harr, good, Bool.not_true, Bool.false_eq_true, if_false,
    Ctx.afterEarlier, show c.earlier = none from hn, Gong.word_eq]
  rfl

end

/-! ### A changed gong word -/

section
variable {i : Instr} {c : Ctx} {s s1 : State} {q : Pool}
  (h : Issues i c s) (hp : s1.pool? c.pid = some q) (hc : q.cp? c.cid = some c.cp)
include h hp hc

/-- A word written to the scratchpad, with a change of the CP that keeps its place. -/
theorem Does.writes_word {o v : Nat} {f : Cp → Cp}
    (d : Does i c s (.done (c.modCp (c.modPool s1 fun p => p.spadWrite o 8 v) f))) (hr : RoomAt c s q 8)
    (hpc : (f c.cp).pc = c.cp.pc) (hcl : (f c.cp).clause = c.cp.clause) (hh : (f c.cp).holdLeft = c.cp.holdLeft)
    (hb : (f c.cp).begun = c.cp.begun) :
    ∃ t, Machine.exec i s = .next t ∧ Effect i c s1 t (q.spadWrite o 8 v) (f c.cp) := by
  obtain ⟨body, hx, hbody⟩ := d
  have logged := q.logged_spadWrite o 8 v
  exact completes_of h hx hp hc (·.spadWrite o 8 v) f hbody 8 hr logged.cores logged.held logged.cps hpc hcl hh hb

/-- R213: a changed gong word stands as written, unless its phase turns, which is a commit point. -/
theorem Does.changes_gong {o w exp phase pend arr : Nat} {f : Cp → Cp}
    (d : Does i c s (c.gongChange (shapeOf i) i.words s s1 o w f)) (hg : GongIs w exp phase pend arr)
    (hr : RoomAt c s q 8) (hpc : (f c.cp).pc = c.cp.pc) (hcl : (f c.cp).clause = c.cp.clause)
    (hh : (f c.cp).holdLeft = c.cp.holdLeft) (hb : (f c.cp).begun = c.cp.begun) :
    (¬(arr = exp ∧ pend = 0) → ∃ t, Machine.exec i s = .next t ∧ Effect i c s1 t (q.spadWrite o 8 w) (f c.cp)) ∧
    (arr = exp → pend = 0 → s1.canCommit c.pid none = true →
      Commits i c s s1 (q.spadWrite o 8 (gongWord exp (1 - phase) 0 0)) (f c.cp) none {} .go) ∧
    (arr = exp → pend = 0 → s1.canCommit c.pid none = false → Stalls i c s) := by
  have same (v : Nat) : (c.modCp (c.modPool s1 fun p => p.spadWrite o 8 v) f).canCommit c.pid none =
      s1.canCommit c.pid none :=
    canCommit_congr ((sameCommit_spadWrite s1 c.pid o 8 v).trans (sameCommit_modCp c _ f)) _ _
  unfold Ctx.gongChange at d
  dsimp only at d
  rw [hg.turned] at d
  refine ⟨fun stands => ?_, fun harr hpend can => ?_, fun harr hpend can => ?_⟩
  · rw [if_neg fun e => stands (hg.turns_iff.mp e)] at d
    exact d.writes_word h hp hc hr hpc hcl hh hb
  · rw [if_pos (hg.turns_iff.mpr ⟨harr, hpend⟩)] at d
    exact d.commits h ((same _).trans can) (effect_finish hp hc (·.spadWrite o 8 _) f
      (q.logged_spadWrite o 8 _).cps hpc hcl hh hb)
  · rw [if_pos (hg.turns_iff.mpr ⟨harr, hpend⟩)] at d
    exact d.stands h ((same _).trans can)

end

end Sys2Proof.Machine

/-! ### The statement -/

section

open Sys2Proof Sys2Proof.Machine

/-- Settles O30: GINIT writes its word; GARR and GEXP change one, and the changed word decides whether the phase
turns; the checks come in the order offset, word, count. -/
theorem gongInstructions : Obligations.GongInstructions := by
  unfold Obligations.GongInstructions
  refine ⟨fun c s s1 a q o w exp phase pend arr hat hr => ⟨fun p b h h1 h2 => ?_,
    fun hg hn => ⟨fun p d h hlt => ?_, fun p b n h hb h1 hle h2 => ?_⟩⟩,
    fun i c s a h hi hwide hh => ?_, fun i c s a h hi hsmall hh => ?_,
    fun c s s1 a q o w exp phase pend arr hat => ⟨fun p b h hb => ?_, fun i hi hne h hh hw => ?_,
      fun hg => ⟨fun p d h harr => (does_garr_full hat hg p d harr).traps h,
        fun p b h hb => (does_gexp_count hat hg p b hb).traps h⟩⟩⟩
  · have does := does_ginit hat p b
    rw [if_neg (by omega), ← Ctx.modCp_id c (c.modPool _ _)] at does
    exact does.writes_word h hat.pool hat.cp hr rfl rfl rfl rfl
  · exact (does_garr hat hg p d hn hlt).changes_gong h hat.pool hat.cp (hg.arrive hlt) hr rfl rfl rfl rfl
  · subst hb
    exact (does_gexp hat hg p b hn h1 hle h2).changes_gong h hat.pool hat.cp (hg.expect h1 hle h2) hr rfl rfl rfl rfl
  · obtain ⟨k, does, -⟩ := does_gong s hi hh
    rw [Ctx.gong_wide k hwide] at does
    exact does.traps h
  · obtain ⟨k, does, -⟩ := does_gong s hi hh
    refine ⟨fun hm => ?_, fun hm ho => ?_⟩
    · rw [Ctx.gong_misaligned k hsmall hm] at does
      exact does.traps h
    · rw [Ctx.gong_outside k hsmall hm ho] at does
      exact does.traps h
  · have does := does_ginit hat p b
    rw [if_pos hb] at does
    exact does.traps h
  · obtain ⟨k, does, noGong⟩ := does_gong s hi hh
    rw [hat.gong, noGong hne _ _ _ (Gong.valid_eq_false hw)] at does
    exact does.traps h

end

/-! Forced commits (R181, R275, R282): a pool reaches every pool that must commit with or before it, so that a commit
that can be taken forms a record. -/

namespace Sys2Proof.Machine

/-! ### Pools that must commit with or before a pool -/

section
variable (s : State)

/-- A pool's dependences lead from one pool to another. -/
def State.Leads : Nat → Nat → Prop := Relation.ReflTransGen fun x y => y ∈ s.directDeps x

/-- One round of the search along the dependences. -/
def State.reachRound (l : List Nat) : List Nat := (l ++ l.flatMap s.directDeps).dedup

theorem State.mem_reachRound (l : List Nat) (x : Nat) :
    x ∈ s.reachRound l ↔ x ∈ l ∨ ∃ a ∈ l, x ∈ s.directDeps a := by
  simp [State.reachRound]

theorem State.reachGo_succ (f : Nat) (l : List Nat) : State.reachDeps.go s (f + 1) l =
    if (s.reachRound l).length = l.length then l else State.reachDeps.go s f (s.reachRound l) := rfl

/-- Dependences lead to pools that are there. -/
theorem State.directDeps_present {x y : Nat} (h : y ∈ s.directDeps x) : y ∈ s.pools.map (·.1) := by
  obtain ⟨p, hp⟩ := Option.isSome_iff_exists.mp (List.mem_filter.mp h).2
  exact List.mem_map.mpr ⟨(y, p), KMap.mem_of_find? hp, rfl⟩

variable {s}

theorem subset_reachGo (f : Nat) (l : List Nat) : l ⊆ State.reachDeps.go s f l := by
  induction f generalizing l with
  | zero => exact List.Subset.refl l
  | succ f ih =>
      rw [s.reachGo_succ]
      split
      · exact List.Subset.refl l
      · exact List.Subset.trans (fun x hx => (s.mem_reachRound l x).mpr (.inl hx)) (ih _)

theorem reachGo_leads {f : Nat} {l : List Nat} {x : Nat} (h : x ∈ State.reachDeps.go s f l) : ∃ a ∈ l, s.Leads a x := by
  induction f generalizing l with
  | zero => exact ⟨x, h, .refl⟩
  | succ f ih =>
      rw [s.reachGo_succ] at h
      split at h
      · exact ⟨x, h, .refl⟩
      · obtain ⟨b, hb, hbx⟩ := ih h
        rcases (s.mem_reachRound l b).mp hb with hl | ⟨a, ha, hab⟩
        · exact ⟨b, hl, hbx⟩
        · exact ⟨a, ha, .head hab hbx⟩

/-- A round that adds nothing ends the search. -/
theorem closed_of_length_reachRound {l : List Nat} (hn : l.Nodup) (h : (s.reachRound l).length = l.length) {x y : Nat}
    (hx : x ∈ l) (hy : y ∈ s.directDeps x) : y ∈ l := by
  have sub : l.toFinset ⊆ (s.reachRound l).toFinset := fun z hz =>
    List.mem_toFinset.mpr ((s.mem_reachRound l z).mpr (.inl (List.mem_toFinset.mp hz)))
  have card : (s.reachRound l).toFinset.card ≤ l.toFinset.card := by
    rw [List.toFinset_card_of_nodup hn, ← h]
    exact List.toFinset_card_le _
  rw [← List.mem_toFinset, Finset.eq_of_subset_of_card_le sub card, List.mem_toFinset, State.mem_reachRound]
  exact .inr ⟨x, hx, hy⟩

/-- With fuel for every pool of `all` that is not listed yet, the search ends closed. -/
theorem reachGo_closed {all : List Nat} (hall : ∀ x y, y ∈ s.directDeps x → y ∈ all) {f : Nat} {l : List Nat}
    (hn : l.Nodup) (hl : l ⊆ all) (hf : all.length ≤ l.length + f) {x y : Nat}
    (hx : x ∈ State.reachDeps.go s f l) (hy : y ∈ s.directDeps x) : y ∈ State.reachDeps.go s f l := by
  induction f generalizing l with
  | zero =>
      have full := ((List.subperm_of_subset hn hl).perm_of_length_le hf).mem_iff (a := y)
      exact full.mpr (hall x y hy)
  | succ f ih =>
      rw [s.reachGo_succ] at hx ⊢
      split at hx
      case isTrue h => exact if_pos h ▸ closed_of_length_reachRound hn h hx hy
      case isFalse h =>
        have more : l.length < (s.reachRound l).length := by
          have := (List.subperm_of_subset hn fun z hz => (s.mem_reachRound l z).mpr (.inl hz)).length_le
          omega
        refine if_neg h ▸ ih (List.nodup_dedup _) (fun z hz => ?_) (by omega) hx
        rcases (s.mem_reachRound l z).mp hz with hz | ⟨a, -, ha⟩
        · exact hl hz
        · exact hall a z ha

/-- R181, R282: a pool reaches the pools that its dependences lead to. -/
theorem State.mem_reachDeps (s : State) (p x : Nat) : x ∈ s.reachDeps p ↔ s.Leads p x := by
  constructor
  · intro h
    obtain ⟨a, ha, hax⟩ := reachGo_leads h
    rwa [List.mem_singleton.mp ha] at hax
  · intro h
    induction h with
    | refl => exact subset_reachGo _ _ (List.mem_singleton.mpr rfl)
    | tail _ hy ih =>
        refine reachGo_closed (all := p :: s.pools.map (·.1)) (fun x y hxy => .tail _ (s.directDeps_present hxy))
          (List.nodup_singleton p) ?_ ?_ ih hy
        · exact fun z hz => List.mem_singleton.mp hz ▸ List.mem_cons_self
        · simp [Nat.add_comm]

theorem State.reachDeps_subset {p q : Nat} (h : q ∈ s.reachDeps p) : s.reachDeps q ⊆ s.reachDeps p := fun x hx =>
  (s.mem_reachDeps p x).mpr (((s.mem_reachDeps p q).mp h).trans ((s.mem_reachDeps q x).mp hx))

theorem State.self_mem_reachDeps (p : Nat) : p ∈ s.reachDeps p := (s.mem_reachDeps p p).mpr .refl

/-- Some pool that a pool reaches is reached by every pool that it reaches itself. -/
theorem State.exists_last (s : State) (p : Nat) :
    ∃ q ∈ s.reachDeps p, ∀ x ∈ s.reachDeps q, q ∈ s.reachDeps x := by
  obtain ⟨q, hq, least⟩ := (s.reachDeps p).toFinset.exists_min_image (fun q => (s.reachDeps q).toFinset.card)
    ⟨p, List.mem_toFinset.mpr (State.self_mem_reachDeps p)⟩
  have hq := List.mem_toFinset.mp hq
  refine ⟨q, hq, fun x hx => ?_⟩
  have sub : (s.reachDeps x).toFinset ⊆ (s.reachDeps q).toFinset := fun z hz =>
    List.mem_toFinset.mpr (State.reachDeps_subset hx (List.mem_toFinset.mp hz))
  have same := Finset.eq_of_subset_of_card_le sub (least x (List.mem_toFinset.mpr (State.reachDeps_subset hq hx)))
  rw [← List.mem_toFinset, same, List.mem_toFinset]
  exact State.self_mem_reachDeps q

end

/-! ### Groups and records -/

theorem State.length_groupsGo (s : State) (group : Nat → List Nat) (f : Nat) (left : List Nat) (out : List (List Nat)) :
    out.length ≤ (State.commitGroups.go s group f left out).length := by
  induction f generalizing left out with
  | zero => exact Nat.le_refl _
  | succ f ih =>
      unfold State.commitGroups.go
      split
      · exact Nat.le_refl _
      · exact Nat.le_trans (by simp) (ih _ _)

/-- A commit point of a pool has a group to commit. -/
theorem State.commitGroups_ne_nil (s : State) (p : Nat) : s.commitGroups p ≠ [] := by
  obtain ⟨q, hq, last⟩ := s.exists_last p
  obtain ⟨n, hn⟩ : ∃ n, (s.reachDeps p).length = n + 1 :=
    Nat.exists_eq_succ_of_ne_zero (List.length_pos_of_mem hq).ne'
  refine List.length_pos_iff.mp ?_
  unfold State.commitGroups
  dsimp only
  rw [hn]
  unfold State.commitGroups.go
  split
  case h_1 hnone =>
    refine absurd (List.find?_eq_none.mp hnone q hq) (not_not_intro (List.all_eq_true.mpr fun x hx => ?_))
    have inGroup : x ∈ (s.reachDeps p).filter fun x => (s.reachDeps q).contains x && (s.reachDeps x).contains q :=
      List.mem_filter.mpr ⟨State.reachDeps_subset hq hx, by simpa using ⟨hx, last x hx⟩⟩
    simp only [Bool.or_eq_true, List.contains_iff_mem]
    exact .inl inGroup
  case h_2 => exact Nat.lt_of_lt_of_le (by simp) (s.length_groupsGo _ _ _ _)

theorem length_records_formRecords (groups : List (List Nat)) (carry : List Nat → Carry) (s : State) :
    (groups.foldl (fun acc g => (acc.formRecord g (carry g)).2) s).records.length = s.records.length + groups.length := by
  induction groups generalizing s with
  | nil => rfl
  | cons g groups ih =>
      have one : (s.formRecord g (carry g)).2.records.length = s.records.length + 1 :=
        List.length_append.trans (by simp)
      rw [List.foldl_cons, ih, one, List.length_cons]
      omega

/-- R275: a forced commit that can be taken forms a record. -/
theorem State.records_lt_forceCommit {s : State} {p : Nat} (h : s.canCommit p none = true) :
    s.records.length < (s.forceCommit p).records.length := by
  have taken : s.forceCommit p =
      (s.commitGroups p).foldl (fun acc g => (acc.formRecord g (if g.contains p then {} else {})).2) s :=
    congrArg (Option.getD · s) (if_pos h)
  have := List.length_pos_iff.mpr (s.commitGroups_ne_nil p)
  rw [taken, length_records_formRecords _ fun g => if g.contains p then {} else {}]
  omega

theorem State.forceCommit_eq_self {s : State} {p : Nat} (h : s.canCommit p none = false) : s.forceCommit p = s := by
  have hnone := (commitPool_isSome s p none {} fun _ s => s).trans h
  rw [Option.isSome_eq_false_iff, Option.isNone_iff_eq_none] at hnone
  rw [State.forceCommit, hnone]
  rfl

end Sys2Proof.Machine

/-! Commands that complete (R178, R180, R207 to R210, R213, R214, R265, R270, R286): what a completion comes to, from
the command's plan through its writes to its end. -/

namespace Sys2Proof.Machine

/-! ### The context of a command -/

theorem State.ctxOf_some {s : State} {pid cid : Nat} {c : Ctx} (h : s.ctxOf pid cid = some c) :
    s.pool? pid = some c.pool ∧ c.pid = pid ∧ c.cid = cid ∧ c.pool.cp? cid = some c.cp := by
  unfold State.ctxOf at h
  split at h
  case h_1 p x hp hx =>
    obtain rfl := Option.some.inj h
    refine ⟨hp, rfl, rfl, ?_⟩
    rwa [State.cp?, hp] at hx
  case h_2 => cases h

theorem CmdKind.cls_eq (k : CmdKind) : k.cls = classOf k := by cases k <;> rfl

/-! ### From the plan to the end -/

section
variable (c : Ctx) (s : State) (cmd : Cmd)

/-- R180, R208, R213: the command ends with its plan in s2; where the undo log or a phase turn asks for a commit first,
the state is that before the completion. -/
def Ctx.finishCmd (s2 : State) (pl : Plan) : State :=
  if s2.undoFull (c.endCmd s2 cmd pl) c.pid then s.forceUndo c.pid none [c.pid]
  else (c.turnAfterCopy (c.endCmd s2 cmd pl) cmd).getD s

/-- The command changed where it stands among the outstanding ones. -/
def Ctx.markCmd (u : State) (f : Cmd → Cmd) : State := u.modPool c.pid fun p => p.modCmd cmd.id f

/-- R178: a forced commit divides the writes of the command, where the pool can commit. -/
def Ctx.divideWrites (pl : Plan) (left : List (Nat × List Byte)) (s2 : State) : State :=
  let t := c.markCmd cmd s2 fun x => { x with park := none, plan := some (pl.leave left) }
  if (t.forceCommit c.pid).records.length = t.records.length then s else t.forceCommit c.pid

/-- R178, R286: the completion, once the writes of its plan have been sent from s1. -/
def Ctx.afterSent (pl : Plan) (s1 : State) (sent : Sent) : State :=
  match sent with
  | .all s2 => c.finishCmd s cmd s2 pl
  | .full ps left s2 => if ps.contains c.pid then c.divideWrites s cmd pl left s2 else ps.foldl State.forceCommit s
  | .wait k => c.markCmd cmd (s1.askFor k) fun x => { x with park := some k, plan := some (pl.leave pl.writes) }
  | .bad f a n s2 => c.failWrite cmd pl (f, a) n s1 s2 (c.finishCmd s cmd)

/-- R207, R266, R270: the completion, once its plan has been decided. -/
def Ctx.afterPlan (planned : Moved Plan) : State :=
  match planned with
  | .wait k s1 => c.markCmd cmd s1 fun x => { x with park := some k }
  | .reds s1 => s1
  | .bad f a s1 => c.finishCmd s cmd s1 { fault := some (f, a) }
  | .ok pl s1 => match pl.park with
      | some k => c.markCmd cmd s1 fun x => { x with park := some k, plan := some { pl with park := none } }
      | none => c.afterSent s cmd pl s1
          (c.sendWrites (c.pool.kept cmd.id) (cmd.kind.cls = 0 && pl.fault.isSome) pl.writes s1)

end

section
variable {s : State} {c : Ctx} {cmd : Cmd} {cls : Nat} (h : Completable s c cmd cls)
include h

theorem Completable.pool : s.pool? c.pid = some c.pool := (State.ctxOf_some h.ctx).1

theorem Completable.found : ((s.pool? c.pid).bind fun p => p.cmds.find? (·.id = cmd.id)) = some cmd := by
  rw [h.pool]
  exact h.here

/-- R208: the command is the first of its class of its CP. -/
theorem Completable.is_first :
    (((c.pool.cmds.filter fun k => k.cp = cmd.cp && k.kind.cls = cmd.kind.cls).head?.map (·.id)) == some cmd.id) = true := by
  have member : cmd ∈ c.pool.cmds.filter fun k => k.cp = cmd.cp && classOf k.kind = cls :=
    List.mem_filter.mpr ⟨List.mem_of_find?_eq_some h.here, by simp [h.kind]⟩
  obtain ⟨k, hk⟩ : ∃ k, (c.pool.cmds.filter fun k => k.cp = cmd.cp && classOf k.kind = cls).head? = some k :=
    Option.isSome_iff_exists.mp (List.isSome_head?.mpr (List.ne_nil_of_mem member))
  simp only [CmdKind.cls_eq, h.kind, hk, Option.map_some, h.first k hk, beq_self_eq_true]

/-- R178, R180, R208: a command that may complete does what its plan and its writes come to. -/
theorem Completable.completeCmd : s.completeCmd c.pid cmd.id = c.afterPlan s cmd (c.plan s { cmd with park := none }) := by
  have awake : (match cmd.park with | some k => !s.parkOver k | none => false) = false := by
    cases hp : cmd.park with
    | none => rfl
    | some k => simp [h.awake k hp]
  have goes : (!((((c.pool.cmds.filter fun k => k.cp = cmd.cp && k.kind.cls = cmd.kind.cls).head?.map (·.id)) ==
      some cmd.id)) || (match cmd.park with | some k => !s.parkOver k | none => false) || s.undoForced c.pid) = false := by
    rw [h.is_first, awake, h.free]
    rfl
  unfold State.completeCmd
  rw [h.found]
  dsimp only
  rw [h.ctx]
  exact (if_neg (by rw [Bool.not_eq_true]; exact goes)).trans rfl

/-- The completion event of the command's class. -/
theorem Completable.exec {i : Instr} (hcls : cls ≤ 2)
    (hi : i = [.copyCompletion c.pid cmd.id, .gatherCompletion c.pid cmd.id, .mergeCompletion c.pid cmd.id].getD cls
      (.copyCompletion 0 0)) :
    exec i s = .next (c.afterPlan s cmd (c.plan s { cmd with park := none })) := by
  have event : Machine.exec i s = completion cls c.pid cmd.id s := by
    subst hi
    interval_cases cls <;> rfl
  rw [event, completion, h.found]
  dsimp only
  rw [if_pos (by simp [CmdKind.cls_eq, h.kind, h.up]), h.completeCmd]

end

/-! ### The end and its commits -/

section
variable {c : Ctx} {s s2 : State} {cmd : Cmd} {pl : Plan}

theorem Ctx.finishCmd_full (h : s2.undoFull (c.endCmd s2 cmd pl) c.pid = true) :
    c.finishCmd s cmd s2 pl = s.forceUndo c.pid none [c.pid] := if_pos h

variable (h : s2.undoFull (c.endCmd s2 cmd pl) c.pid = false)
include h

theorem Ctx.finishCmd_eq : c.finishCmd s cmd s2 pl = (c.turnAfterCopy (c.endCmd s2 cmd pl) cmd).getD s :=
  if_neg (by simp [h])

/-- Without a gong a command simply ends. -/
theorem Ctx.finishCmd_no_gong (hg : ∀ k, cmd.kind = .copy k → k.gong = none) :
    c.finishCmd s cmd s2 pl = c.endCmd s2 cmd pl := by
  rw [Ctx.finishCmd_eq h]
  unfold Ctx.turnAfterCopy
  split
  case h_1 k hk => rw [hg k hk]; rfl
  case h_2 => rfl

variable {k : CopyCmd} {o : Nat} {q : Pool} (hk : cmd.kind = .copy k) (ho : k.gong = some o)
  (hq : (c.endCmd s2 cmd pl).pool? c.pid = some q)
include hk ho hq

/-- R213: with a gong the word decides. -/
theorem Ctx.finishCmd_gong : c.finishCmd s cmd s2 pl = (if Gong.turns (q.spadRead o 8) = true then
    (c.modPool (c.endCmd s2 cmd pl) fun p => p.spadWrite o 8 (Gong.turned (q.spadRead o 8))).commitPool c.pid none {}
      fun _ s => s else some (c.endCmd s2 cmd pl)).getD s := by
  rw [Ctx.finishCmd_eq h, Ctx.turnAfterCopy, hk]
  dsimp only
  rw [ho]
  dsimp only
  rw [hq]
  rfl

theorem Ctx.finishCmd_no_word (hw : ∀ exp phase pend arr, ¬GongIs (q.spadRead o 8) exp phase pend arr) :
    c.finishCmd s cmd s2 pl = c.endCmd s2 cmd pl := by
  have stands : Gong.turns (q.spadRead o 8) = false := by
    unfold Gong.turns
    rw [Gong.valid_eq_false hw]
    rfl
  rw [Ctx.finishCmd_gong h hk ho hq, stands]
  rfl

variable {exp phase pend arr : Nat} (hg : GongIs (q.spadRead o 8) exp phase pend arr)
include hg

theorem Ctx.finishCmd_stands (hn : ¬(arr = exp ∧ pend = 0)) : c.finishCmd s cmd s2 pl = c.endCmd s2 cmd pl := by
  rw [Ctx.finishCmd_gong h hk ho hq, if_neg fun e => hn (hg.turns_iff.mp e)]
  rfl

theorem Ctx.finishCmd_turns (harr : arr = exp) (hpend : pend = 0) : c.finishCmd s cmd s2 pl =
    ((c.modPool (c.endCmd s2 cmd pl) fun p => p.spadWrite o 8 (gongWord exp (1 - phase) 0 0)).commitPool c.pid none {}
      fun _ s => s).getD s := by
  rw [Ctx.finishCmd_gong h hk ho hq, if_pos (hg.turns_iff.mpr ⟨harr, hpend⟩), hg.turned]

end

/-! ### Writes divided by a commit -/

section
variable {c : Ctx} {s s2 : State} {cmd : Cmd} {pl : Plan} {left : List (Nat × List Byte)} {t : State}
  (ht : t = c.markCmd cmd s2 fun x => { x with park := none, plan := some (pl.leave left) })
include ht

/-- R178: the commit is taken where the pool can commit. -/
theorem Ctx.divideWrites_commits (h : t.canCommit c.pid none = true) :
    c.divideWrites s cmd pl left s2 = t.forceCommit c.pid := by
  subst ht
  exact if_neg (State.records_lt_forceCommit h).ne'

theorem Ctx.divideWrites_waits (h : t.canCommit c.pid none = false) : c.divideWrites s cmd pl left s2 = s := by
  subst ht
  exact if_pos (congrArg (fun u : State => u.records.length) (State.forceCommit_eq_self h))

end

/-- R209, R270: a write of a command other than a copy that fails a check stops it there. -/
theorem Ctx.failWrite_of_not_copy (c : Ctx) {cmd : Cmd} (h : ∀ k, cmd.kind ≠ .copy k) (pl : Plan) (f : Nat × Nat) (n : Nat)
    (s1 s2 : State) (finish : State → Plan → State) :
    c.failWrite cmd pl f n s1 s2 finish = finish s2 (pl.stopAt f n) := by
  unfold Ctx.failWrite
  split
  case h_1 k hk => exact absurd hk (h k)
  case h_2 => rfl

theorem Ctx.failWrite_of_copy (c : Ctx) {cmd : Cmd} {k : CopyCmd} (h : cmd.kind = .copy k) (pl : Plan) (f : Nat × Nat)
    (n : Nat) (s1 s2 : State) (finish : State → Plan → State) : c.failWrite cmd pl f n s1 s2 finish =
      c.markCmd cmd (k.spoiled f s1).2 fun x => { x with plan := some (k.spoiled f s1).1 } := by
  unfold Ctx.failWrite
  rw [h]
  rfl

end Sys2Proof.Machine

/-! The end of an engine command (R83, R188, R190, R208 to R211, R214): the bytes of the scratchpad it leaves, its gong,
and its CP. -/

namespace Sys2Proof.Machine

/-! ### Bytes one after the other -/

theorem KMap.find?_tableFrom (a : Nat) (bs : List Byte) (k : Nat) :
    KMap.find? (tableFrom a bs) k = if a ≤ k then bs[k - a]? else none := by
  induction bs generalizing a with
  | nil => simp [tableFrom]
  | cons b bs ih =>
      rw [tableFrom, KMap.find?_cons, ih]
      by_cases hk : a = k
      · simp [hk]
      · rw [if_neg hk]
        by_cases hle : a + 1 ≤ k
        · rw [if_pos hle, if_pos (by omega), show k - a = (k - (a + 1)) + 1 by omega, List.getElem?_cons_succ]
        · rw [if_neg hle, if_neg (by omega)]

theorem keys_tableFrom (a : Nat) (bs : List Byte) : (tableFrom a bs).map (·.1) = List.range' a bs.length := by
  induction bs generalizing a with
  | nil => rfl
  | cons b bs ih => rw [tableFrom, List.map_cons, ih, List.length_cons, List.range'_succ]

theorem nodup_keys_tableFrom (a : Nat) (bs : List Byte) : ((tableFrom a bs).map (·.1)).Nodup := by
  rw [keys_tableFrom]
  exact List.nodup_range'

/-! ### The scratchpad alone -/

/-- Nothing but the scratchpad and its undo log differs. -/
def SameButSpad (p q : Pool) : Prop := { q with spad := p.spad, undoSpad := p.undoSpad } = p

theorem SameButSpad.trans {p q r : Pool} (h1 : SameButSpad p q) (h2 : SameButSpad q r) : SameButSpad p r := by
  unfold SameButSpad at *
  rw [← h1, ← h2]

theorem SameButSpad.cps {p q : Pool} (h : SameButSpad p q) : q.cps = p.cps := (congrArg Pool.cps h :)
theorem SameButSpad.cmds {p q : Pool} (h : SameButSpad p q) : q.cmds = p.cmds := (congrArg Pool.cmds h :)
theorem SameButSpad.ops {p q : Pool} (h : SameButSpad p q) : q.ops = p.ops := (congrArg Pool.ops h :)
theorem SameButSpad.regs {p q : Pool} (h : SameButSpad p q) : q.regs = p.regs := (congrArg Pool.regs h :)
theorem SameButSpad.tiles {p q : Pool} (h : SameButSpad p q) : q.tiles = p.tiles := (congrArg Pool.tiles h :)

/-- The scratchpad has these bytes more, each at its offset. -/
structure Receives (p q : Pool) (l : KMap Byte) : Prop where
  same : SameButSpad p q
  spad : q.spad = KMap.setAll p.spad 0 l

theorem Receives.spadByte {p q : Pool} {l : KMap Byte} (h : Receives p q l) (hn : (l.map (·.1)).Nodup) (a : Nat) :
    q.spadByte a = (KMap.find? l a).getD (p.spadByte a) := by
  rw [Pool.spadByte, h.spad]
  exact KMap.get_foldl_update (fun m e k => KMap.get_set m 0 e.1 k e.2) hn p.spad a

theorem Receives.cons {p q r : Pool} {e : Nat × Byte} {l : KMap Byte} (h : SameButSpad p q)
    (hq : q.spad = KMap.set p.spad 0 e.1 e.2) (k : Receives q r l) : Receives p r (e :: l) :=
  ⟨h.trans k.same, by rw [k.spad, hq]; rfl⟩

/-- The bytes of a command's plan in the scratchpad. -/
def Pool.engineBytes (p : Pool) (kept : Bool) (l : KMap Byte) : Pool :=
  l.foldl (fun (p : Pool) (e : Nat × Byte) => p.engineByte kept e.1 e.2) p

theorem Pool.receives_engineBytes (p : Pool) (kept : Bool) (l : KMap Byte) : Receives p (p.engineBytes kept l) l := by
  induction l generalizing p with
  | nil => exact ⟨rfl, rfl⟩
  | cons e l ih =>
      have first : SameButSpad p (p.engineByte kept e.1 e.2) ∧
          (p.engineByte kept e.1 e.2).spad = KMap.set p.spad 0 e.1 e.2 := by
        cases kept <;> exact ⟨rfl, rfl⟩
      exact .cons first.1 first.2 (ih (p.engineByte kept e.1 e.2))

theorem Pool.receives_spadWriteBytes (p : Pool) (a : Nat) (bs : List Byte) :
    Receives p (p.spadWriteBytes a bs) (tableFrom a bs) := by
  induction bs generalizing p a with
  | nil => exact ⟨rfl, rfl⟩
  | cons b bs ih => exact .cons (q := p.setSpadByte a b) (e := (a, b)) rfl rfl (ih (p.setSpadByte a b) (a + 1))

/-! ### The gong of a copy -/

theorem Pool.spadRead_congr {p q : Pool} {o len : Nat} (h : ∀ i < len, q.spadByte (o + i) = p.spadByte (o + i)) :
    q.spadRead o len = p.spadRead o len :=
  congrArg ofBytes (List.map_congr_left fun i hi => h i (List.mem_range.mp hi))

theorem Pool.spadRead_lt (p : Pool) (o len : Nat) : p.spadRead o len < 256 ^ len := by
  have := ofBytes_lt ((List.range len).map fun i => p.spadByte (o + i))
  rwa [List.length_map, List.length_range] at this

/-- R208: the word of a gong once n bytes have arrived; PEND does not fall below 0. -/
def gongLess (n w : Nat) : Nat := w - 2 ^ 16 * min n (Gong.pend w)

theorem GongIs.less {w exp phase pend arr : Nat} (h : GongIs w exp phase pend arr) (n : Nat) :
    gongLess n w = gongWord exp phase (pend - n) arr := by
  obtain ⟨-, -, hpend, -⟩ := h.fields
  rw [gongLess, hpend, h.word]
  unfold gongWord
  rcases Nat.le_total n pend with hle | hle
  · rw [Nat.min_eq_left hle]
    omega
  · rw [Nat.min_eq_right hle]
    omega

theorem Pool.receives_gongSub (p : Pool) (kept : Bool) (o n : Nat) :
    Receives p (p.gongSub kept o n) (tableFrom o (toBytes (gongLess n (p.spadRead o 8)) 8)) := by
  cases kept with
  | false => exact p.receives_spadWriteBytes o _
  | true => exact ⟨rfl, rfl⟩

section
variable (p : Pool) (kept : Bool) (o n : Nat)

theorem Pool.spadByte_gongSub_out {a : Nat} (h : a < o ∨ o + 8 ≤ a) : (p.gongSub kept o n).spadByte a = p.spadByte a := by
  rw [(p.receives_gongSub kept o n).spadByte (nodup_keys_tableFrom _ _), KMap.find?_tableFrom]
  split
  case isTrue hle => rw [List.getElem?_eq_none (by rw [length_toBytes]; omega), Option.getD_none]
  case isFalse => rfl

theorem Pool.spadRead_gongSub : (p.gongSub kept o n).spadRead o 8 = gongLess n (p.spadRead o 8) := by
  have bytes : (List.range 8).map (fun i => (p.gongSub kept o n).spadByte (o + i)) =
      toBytes (gongLess n (p.spadRead o 8)) 8 := by
    refine List.ext_getElem (by rw [length_toBytes]; rfl) fun i hi hi' => ?_
    rw [List.getElem_map, List.getElem_range, (p.receives_gongSub kept o n).spadByte (nodup_keys_tableFrom _ _),
      KMap.find?_tableFrom, if_pos (Nat.le_add_right o i), Nat.add_sub_cancel_left, List.getElem?_eq_getElem hi',
      Option.getD_some]
  rw [Pool.spadRead, bytes, ofBytes_toBytes]
  exact Nat.mod_eq_of_lt (Nat.lt_of_le_of_lt (Nat.sub_le _ _) (p.spadRead_lt o 8))

end

/-! ### The pool of a command that ends -/

theorem Pool.cp?_modCpKept (p : Pool) (kept : Bool) (cid : Nat) (f : Cp → Cp) (j : Nat) :
    (p.modCpKept kept cid f).cp? j = (p.modCp cid f).cp? j := by
  cases kept <;> rfl

/-- R205, R208: the scratchpad of a pool as a command leaves it. -/
def Pool.commandSpad (p : Pool) (cmd : Cmd) (pl : Plan) : Pool :=
  match cmd.kind with
  | .copy k => match k.gong with
    | some o => (p.engineBytes (p.kept cmd.id) pl.bytes).gongSub (p.kept cmd.id) o k.total
    | none => p.engineBytes (p.kept cmd.id) pl.bytes
  | _ => p.engineBytes (p.kept cmd.id) pl.bytes

/-- R83, R190, R209, R266: what a command's end tells its CP, apart from its counter. -/
def Cmd.tells (cmd : Cmd) (pl : Plan) (y : Cp) : Cp :=
  let y := y.raise pl.flags
  let y := if pl.poison then y.setPoison else y
  let y := match cmd.kind with
    | .gather g => y.setM g.md (Mask.ofTids ((g.rows.take pl.rows).map (·.1)))
    | _ => y
  match pl.fault with
  | some f => { y with faults := y.faults ++ [⟨cmd.kind.cls, BitVec.ofNat 32 f.1, BitVec.ofNat 64 f.2⟩] }
  | none => y

/-- R210: a command of a class fewer is outstanding. -/
def Cp.countDown (y : Cp) (cls : Nat) : Cp := y.setCounter cls (y.counter cls - 1)

/-- R208: the pool of a CP once a command of it has ended. -/
def Ctx.endPool (c : Ctx) (cmd : Cmd) (pl : Plan) (p : Pool) : Pool :=
  (((p.commandSpad cmd pl).removeCmd cmd.id).modCpKept (p.kept cmd.id) c.cid (cmd.tells pl)).modCp c.cid
    (·.countDown cmd.kind.cls)

theorem Ctx.endCmd_eq (c : Ctx) (s : State) (cmd : Cmd) (pl : Plan) :
    c.endCmd s cmd pl = s.modPool c.pid (c.endPool cmd pl) := by
  unfold Ctx.endCmd
  rw [Ctx.modCp, State.modCp, State.modPool_modPool]
  rfl

theorem Pool.same_commandSpad (p : Pool) (cmd : Cmd) (pl : Plan) : SameButSpad p (p.commandSpad cmd pl) := by
  have bytes := (p.receives_engineBytes (p.kept cmd.id) pl.bytes).same
  unfold Pool.commandSpad
  split
  case h_1 k _ => cases k.gong with
    | some o => exact bytes.trans (Pool.receives_gongSub _ _ _ _).same
    | none => exact bytes
  case h_2 => exact bytes

theorem Pool.commandSpad_no_gong (p : Pool) {cmd : Cmd} (h : ∀ k, cmd.kind = .copy k → k.gong = none) (pl : Plan) :
    p.commandSpad cmd pl = p.engineBytes (p.kept cmd.id) pl.bytes := by
  unfold Pool.commandSpad
  split
  case h_1 k hk => rw [h k hk]
  case h_2 => rfl

theorem Pool.commandSpad_gong (p : Pool) {cmd : Cmd} {k : CopyCmd} {o : Nat} (hk : cmd.kind = .copy k)
    (ho : k.gong = some o) (pl : Plan) :
    p.commandSpad cmd pl = (p.engineBytes (p.kept cmd.id) pl.bytes).gongSub (p.kept cmd.id) o k.total := by
  unfold Pool.commandSpad
  rw [hk]
  dsimp only
  rw [ho]

/-! ### Its CP -/

/-- R83, R190, R209, R210: a command that writes no mask register leaves its CP as its class and its plan say. -/
theorem Cmd.countDown_tells {cmd : Cmd} (h : ∀ g, cmd.kind ≠ .gather g) (pl : Plan) (y : Cp) :
    (cmd.tells pl y).countDown cmd.kind.cls = commandDone (classOf cmd.kind) pl y := by
  unfold Cmd.tells Cp.countDown commandDone marked poisonedBy
  cases hk : cmd.kind with
  | gather g => exact absurd hk (h g)
  | _ => cases pl.fault <;> cases pl.poison <;> simp [classOf, CmdKind.cls, Cp.setCounter, Cp.counter, Cp.raise, Cp.setPoison]

/-- R266: a gather sets its mask register too. -/
theorem Cmd.countDown_tells_gather {cmd : Cmd} {g : GatherCmd} (h : cmd.kind = .gather g) (pl : Plan) (y : Cp) :
    (cmd.tells pl y).countDown cmd.kind.cls =
      commandDone 1 pl (y.setM g.md (Mask.ofTids ((g.rows.take pl.rows).map (·.1)))) := by
  unfold Cmd.tells Cp.countDown commandDone marked poisonedBy
  rw [h]
  cases pl.fault <;> cases pl.poison <;> simp [CmdKind.cls, Cp.setCounter, Cp.counter, Cp.raise, Cp.setPoison, Cp.setM]

/-! ### What the end leaves -/

section
variable {s : State} {c : Ctx} {cmd : Cmd} {p : Pool} (pl : Plan)

theorem Ctx.onlyPool_endCmd (s : State) (c : Ctx) (cmd : Cmd) : OnlyPool c.pid s (c.endCmd s cmd pl) := by
  rw [Ctx.endCmd_eq]
  exact ⟨rfl, fun q hq => State.pool?_modPool_ne s _ hq, fun _ => rfl⟩

theorem Ctx.pool?_endCmd (hp : s.pool? c.pid = some p) :
    (c.endCmd s cmd pl).pool? c.pid = some (c.endPool cmd pl p) := by
  rw [Ctx.endCmd_eq, State.pool?_modPool_self, hp]
  rfl

/-- The fields of the pool, of which the end of a command names but the commands, the scratchpad and the CP. -/
structure EndsOf (c : Ctx) (cmd : Cmd) (pl : Plan) (p q : Pool) : Prop where
  cmds : q.cmds = p.cmds.filter (fun k => k.id != cmd.id)
  regs : q.regs = p.regs
  tiles : q.tiles = p.tiles
  ops : q.ops = p.ops
  spad : q.spad = (p.commandSpad cmd pl).spad
  others : ∀ j, j ≠ c.cid → q.cp? j = p.cp? j
  cp : q.cp? c.cid = (p.cp? c.cid).map fun y => (cmd.tells pl y).countDown cmd.kind.cls

/-- Changes of a CP leave the other fields of its pool. -/
theorem Pool.fields_modCps (p : Pool) (kept : Bool) (cid : Nat) (f g : Cp → Cp) :
    let q := (p.modCpKept kept cid f).modCp cid g
    q.cmds = p.cmds ∧ q.regs = p.regs ∧ q.tiles = p.tiles ∧ q.ops = p.ops ∧ q.spad = p.spad := by
  cases kept <;> exact ⟨rfl, rfl, rfl, rfl, rfl⟩

theorem Ctx.endsOf_endPool (c : Ctx) (cmd : Cmd) (p : Pool) : EndsOf c cmd pl p (c.endPool cmd pl p) := by
  have same := p.same_commandSpad cmd pl
  obtain ⟨cmds, regs, tiles, ops, spad⟩ := ((p.commandSpad cmd pl).removeCmd cmd.id).fields_modCps (p.kept cmd.id) c.cid
    (cmd.tells pl) (·.countDown cmd.kind.cls)
  have cpOf (j : Nat) : ((p.commandSpad cmd pl).removeCmd cmd.id).cp? j = p.cp? j :=
    congrArg (KMap.find? · j) same.cps
  refine ⟨cmds.trans ?_, regs.trans same.regs, tiles.trans same.tiles, ops.trans same.ops, spad, fun j hj => ?_, ?_⟩
  · exact congrArg (List.filter fun k => k.id != cmd.id) same.cmds
  · rw [Ctx.endPool, Pool.cp?_modCp_ne _ _ hj, Pool.cp?_modCpKept, Pool.cp?_modCp_ne _ _ hj, cpOf]
  · rw [Ctx.endPool, Pool.cp?_modCp_self, Pool.cp?_modCpKept, Pool.cp?_modCp_self, cpOf, Option.map_map]
    rfl

/-- R208, R209: a command without a gong is done as its plan says. -/
theorem Ctx.commandDone_endCmd {y z : Cp} {cls : Nat} (hp : s.pool? c.pid = some p) (hy : p.cp? cmd.cp = some y)
    (hc : c.cid = cmd.cp) (hg : ∀ k, cmd.kind = .copy k → k.gong = none)
    (hz : (cmd.tells pl y).countDown cmd.kind.cls = commandDone cls pl z) :
    CommandDone s (c.endCmd s cmd pl) c cmd cls pl z := by
  obtain ⟨cmds, regs, tiles, ops, spad, others, cp⟩ := c.endsOf_endPool pl cmd p
  refine ⟨c.onlyPool_endCmd pl s cmd, p, _, hp, c.pool?_endCmd pl hp, cmds, regs, tiles, ops, fun hn a => ?_,
    hc ▸ others, ?_⟩
  · rw [p.commandSpad_no_gong hg] at spad
    exact (congrArg (KMap.get · 0 a) spad).trans ((p.receives_engineBytes _ pl.bytes).spadByte hn a)
  · rw [← hc, cp, hc, hy, Option.map_some, hz]

/-- R208, R214: a copy with a gong takes its bytes from PEND. -/
theorem Ctx.gong_endCmd {k : CopyCmd} {o : Nat} (hk : cmd.kind = .copy k) (ho : k.gong = some o)
    (hn : (pl.bytes.map (·.1)).Nodup) (hout : ∀ e ∈ pl.bytes, e.1 < o ∨ o + 8 ≤ e.1) :
    (c.endPool cmd pl p).spadRead o 8 = gongLess k.total (p.spadRead o 8) ∧
    ∀ a, a < o ∨ o + 8 ≤ a → (c.endPool cmd pl p).spadByte a = (KMap.find? pl.bytes a).getD (p.spadByte a) := by
  have bytes := (p.receives_engineBytes (p.kept cmd.id) pl.bytes).spadByte hn
  have ended (a : Nat) : (c.endPool cmd pl p).spadByte a =
      ((p.engineBytes (p.kept cmd.id) pl.bytes).gongSub (p.kept cmd.id) o k.total).spadByte a := by
    rw [← p.commandSpad_gong hk ho pl]
    exact congrArg (KMap.get · 0 a) (c.endsOf_endPool pl cmd p).spad
  refine ⟨?_, fun a ha => ?_⟩
  · rw [Pool.spadRead_congr fun i _ => ended (o + i), Pool.spadRead_gongSub]
    refine congrArg _ (Pool.spadRead_congr fun i hi => ?_)
    have absent : KMap.find? pl.bytes (o + i) = none := by
      cases hf : KMap.find? pl.bytes (o + i) with
      | none => rfl
      | some b =>
          have : o + i < o ∨ o + 8 ≤ o + i := hout _ (KMap.mem_of_find? hf)
          omega
    rw [bytes, absent, Option.getD_none]
  · rw [ended, Pool.spadByte_gongSub_out _ _ _ _ ha, bytes]

end

end Sys2Proof.Machine

/-! What a copy moves (R205 to R207, R209): the addresses of its ranges, the bytes it chooses, and the plan it decides. -/

namespace Sys2Proof.Machine

/-! ### The addresses of ranges -/

/-- The addresses of ranges, one after the other. -/
def rangeAddresses (l : List (Nat × Nat)) : List Nat := l.flatMap fun e => List.range' e.1 e.2

theorem rangeAddresses_eq (l : List (Nat × Nat)) :
    l.flatMap (fun e => (List.range e.2).map (e.1 + ·)) = rangeAddresses l :=
  List.flatMap_congr fun _ _ => List.range'_eq_map_range.symm

theorem rangeAddresses_lineChunksGo (f a n : Nat) (h : n ≤ f) : rangeAddresses (lineChunks.go f a n) = List.range' a n := by
  induction f generalizing a n with
  | zero =>
      obtain rfl : n = 0 := Nat.le_zero.mp h
      rfl
  | succ f ih =>
      unfold lineChunks.go
      split
      case isTrue hz => rw [hz]; rfl
      case isFalse hz =>
        have rest := ih (a + min n (64 - a % 64)) (n - min n (64 - a % 64)) (by omega)
        rw [rangeAddresses, List.flatMap_cons]
        rw [rangeAddresses] at rest
        rw [rest, List.range'_append_1]
        congr 1
        omega

/-- A range cut at lines has the addresses of the range. -/
theorem rangeAddresses_lineChunks (a n : Nat) : rangeAddresses (lineChunks a n) = List.range' a n :=
  rangeAddresses_lineChunksGo n a n (Nat.le_refl n)

/-- R205: the ranges of a copy, cut at lines, have its global addresses in the order of its index. -/
theorem CopyCmd.rangeAddresses_chunks (k : CopyCmd) : rangeAddresses k.chunks = copyAddresses k := by
  unfold rangeAddresses CopyCmd.chunks copyAddresses
  rw [List.flatMap_assoc]
  refine List.flatMap_congr fun r _ => ?_
  rw [← List.range'_eq_map_range]
  exact rangeAddresses_lineChunks (k.rowAt r) k.rowBytes

theorem range'_zip_take_append (a n : Nat) (l : List Nat) (bs : List Byte) :
    (List.range' a n ++ l).zip bs = tableFrom a (bs.take n) ++ l.zip (bs.drop n) := by
  induction n generalizing a bs with
  | zero => rfl
  | succ n ih =>
      cases bs with
      | nil => simp [tableFrom]
      | cons b bs => simp [List.range'_succ, tableFrom, ih]

/-- The bytes of a copy out go one after the other to the addresses of its ranges. -/
theorem CopyCmd.flatMap_outWrites (l : List (Nat × Nat)) (bs : List Byte) :
    (CopyCmd.outWrites l bs).flatMap (fun e => tableFrom e.1 e.2) = (rangeAddresses l).zip bs := by
  induction l generalizing bs with
  | nil => rfl
  | cons e l ih =>
      have cons : rangeAddresses (e :: l) = List.range' e.1 e.2 ++ rangeAddresses l := List.flatMap_cons
      rw [CopyCmd.outWrites, List.flatMap_cons, ih, cons, range'_zip_take_append]

/-! ### The bytes chosen -/

/-- R207: a byte that has changed is read as it stands or as it stood at the issue. -/
theorem chooseBytes_cons (b : Byte) (old : Option Byte) (l : List (Byte × Option Byte)) (s : State) :
    ∃ x s1, (x = b ∨ old = some x) ∧
      chooseBytes ((b, old) :: l) s = (x :: (chooseBytes l s1).1, (chooseBytes l s1).2) := by
  cases old with
  | none => exact ⟨b, s, .inl rfl, rfl⟩
  | some a =>
      by_cases he : a = b
      · exact ⟨b, s, .inl rfl, by simp [chooseBytes, he]⟩
      · refine ⟨if s.freeBool.1 then a else b, s.freeBool.2, ?_, by simp [chooseBytes, he]⟩
        split
        · exact .inr rfl
        · exact .inl rfl

theorem chooseBytes_spec (l : List (Byte × Option Byte)) (s : State) : (chooseBytes l s).1.length = l.length ∧
    ∀ (i : Nat) (b : Byte) (old : Option Byte), l[i]? = some (b, old) →
      (chooseBytes l s).1[i]? = some b ∨ ∃ a, old = some a ∧ (chooseBytes l s).1[i]? = some a := by
  induction l generalizing s with
  | nil => exact ⟨rfl, fun i b old h => by simp at h⟩
  | cons e l ih =>
      obtain ⟨x, s1, head, eq⟩ := chooseBytes_cons e.1 e.2 l s
      rw [show chooseBytes (e :: l) s = _ from eq]
      refine ⟨congrArg Nat.succ (ih s1).1, fun i b old h => ?_⟩
      cases i with
      | zero =>
          obtain rfl : e = (b, old) := Option.some.inj h
          rcases head with rfl | ho
          · exact .inl rfl
          · exact .inr ⟨x, ho, rfl⟩
      | succ i => exact (ih s1).2 i b old h

/-- Bytes that still stand as at the issue are chosen as they are. -/
theorem chooseBytes_unchanged (bs : List Byte) (l : List (Option Byte)) (s : State) :
    chooseBytes (bs.zip (bs.map some ++ l)) s = (bs, s) := by
  induction bs with
  | nil => rfl
  | cons b bs ih => simp [chooseBytes, ih]

/-- R207: the bytes of a copy, from the bytes bs of its source as they stand. -/
def Cmd.chosen (cmd : Cmd) (bs : List Byte) (s : State) : List Byte × State :=
  chooseBytes (bs.zip (cmd.snap ++ List.replicate bs.length none)) s

theorem Cmd.length_chosen (cmd : Cmd) (bs : List Byte) (s : State) : (cmd.chosen bs s).1.length = bs.length := by
  rw [Cmd.chosen, (chooseBytes_spec _ s).1, List.length_zip]
  simp

theorem Cmd.chosen_or (cmd : Cmd) (bs : List Byte) (s : State) {i : Nat} (h : i < bs.length) :
    (cmd.chosen bs s).1[i]? = bs[i]? ∨ cmd.snap[i]? = some (cmd.chosen bs s).1[i]? := by
  obtain ⟨old, hold⟩ : ∃ old, (cmd.snap ++ List.replicate bs.length none)[i]? = some old :=
    Option.isSome_iff_exists.mp (by simp; omega)
  have listed_at : (bs.zip (cmd.snap ++ List.replicate bs.length none))[i]? = some (bs[i], old) := by
    rw [List.getElem?_zip_eq_some]
    exact ⟨List.getElem?_eq_getElem h, hold⟩
  rcases (chooseBytes_spec _ s).2 i _ _ listed_at with now | ⟨a, rfl, before⟩
  · exact .inl (now.trans (List.getElem?_eq_getElem h).symm)
  · refine .inr ?_
    have listed : i < cmd.snap.length := by
      by_contra hge
      rw [List.getElem?_append_right (by omega), List.getElem?_replicate] at hold
      split at hold <;> simp at hold
    rw [List.getElem?_append_left listed] at hold
    exact hold.trans (congrArg some before.symm)

/-! ### The plan of a copy -/

section
variable {s s1 : State} {c : Ctx} {cmd : Cmd} {k : CopyCmd}

/-- R207: a copy in chooses among the bytes it reads. -/
theorem Ctx.copyBytes_in (hv : k.variant = 0) {bs : List Byte} {poison : Bool}
    (h : c.readChunks k.chunks [] false s = .ok (bs, poison) s1) :
    c.copyBytes s cmd k = .ok ((cmd.chosen bs s1).1, poison) (cmd.chosen bs s1).2 := by
  unfold Ctx.copyBytes
  rw [hv, h]
  rfl

theorem Ctx.copyBytes_bad (hv : k.variant = 0) {f a : Nat} (h : c.readChunks k.chunks [] false s = .bad f a s1) :
    c.copyBytes s cmd k = .bad f a s1 := by
  unfold Ctx.copyBytes
  rw [hv, h]
  rfl

/-- R205: a copy out chooses among the bytes of its source. -/
theorem Ctx.copyBytes_out (hv : k.variant = 1) : c.copyBytes s cmd k =
    .ok ((cmd.chosen ((List.range k.total).map fun i => c.pool.spadByte (k.spad + i)) s).1, false)
      (cmd.chosen ((List.range k.total).map fun i => c.pool.spadByte (k.spad + i)) s).2 := by
  unfold Ctx.copyBytes
  rw [hv]
  rfl

/-- R205: a copy within the scratchpad chooses among the bytes of its source. -/
theorem Ctx.copyBytes_within (hv : k.variant = 2) : c.copyBytes s cmd k =
    .ok ((cmd.chosen ((List.range k.total).map fun i => c.pool.spadByte (k.addr + i)) s).1, false)
      (cmd.chosen ((List.range k.total).map fun i => c.pool.spadByte (k.addr + i)) s).2 := by
  unfold Ctx.copyBytes
  rw [hv]
  rfl

variable (hk : cmd.kind = .copy k) (hp : cmd.plan = none)
include hk hp

/-- R205: a copy that does not go out writes the bytes of the scratchpad. -/
theorem Ctx.plan_copy (hv : k.variant ≠ 1) {bs : List Byte} {poison : Bool}
    (h : c.copyBytes s cmd k = .ok (bs, poison) s1) :
    c.plan s cmd = .ok { bytes := tableFrom k.spad bs, poison := poison } s1 := by
  unfold Ctx.plan
  rw [hp, hk]
  dsimp only [Option.filter]
  rw [if_neg hv]
  dsimp only
  rw [h]
  dsimp only
  rw [if_neg hv]

/-- R209: a copy whose source cannot be read. -/
theorem Ctx.plan_copy_bad (hv : k.variant ≠ 1) {f a : Nat} (h : c.copyBytes s cmd k = .bad f a s1) :
    c.plan s cmd = .ok (k.spoiled (f, a) s1).1 (k.spoiled (f, a) s1).2 := by
  unfold Ctx.plan
  rw [hp, hk]
  dsimp only [Option.filter]
  rw [if_neg hv]
  dsimp only
  rw [h]

variable (hv : k.variant = 1)
include hv

theorem Ctx.plan_copy_out {bs : List Byte} {poison : Bool} {s2 : State} (hc : c.checkChunks k.chunks s = .ok () s1)
    (h : c.copyBytes s1 cmd k = .ok (bs, poison) s2) :
    c.plan s cmd = .ok { writes := CopyCmd.outWrites k.chunks bs } s2 := by
  unfold Ctx.plan
  rw [hp, hk]
  dsimp only [Option.filter]
  rw [if_pos hv, hc]
  dsimp only
  rw [h]
  dsimp only
  rw [if_pos hv]

/-- R209: a copy whose ranges cannot be written. -/
theorem Ctx.plan_copy_out_bad {f a : Nat} (h : c.checkChunks k.chunks s = .bad f a s1) :
    c.plan s cmd = .ok (k.spoiled (f, a) s1).1 (k.spoiled (f, a) s1).2 := by
  unfold Ctx.plan
  rw [hp, hk]
  dsimp only [Option.filter]
  rw [if_pos hv, h]

end

/-! ### Bytes without a value (R209) -/

theorem State.length_freeBytes (s : State) (n : Nat) : (s.freeBytes n).1.length = n := by
  simp [State.freeBytes]

theorem CopyCmd.spoiled_in (k : CopyCmd) (f : Nat × Nat) (s : State) (hv : k.variant ≠ 1) : k.spoiled f s =
    ({ bytes := tableFrom k.spad (s.freeBytes k.total).1, fault := some f }, (s.freeBytes k.total).2) :=
  if_neg hv

/-- Ranges with bytes without a value, added to those before. -/
def spoilRange (acc : List (Nat × List Byte) × State) (e : Nat × Nat) : List (Nat × List Byte) × State :=
  (acc.1 ++ [(e.1, (acc.2.freeBytes e.2).1)], (acc.2.freeBytes e.2).2)

theorem CopyCmd.spoiled_out (k : CopyCmd) (f : Nat × Nat) (s : State) (hv : k.variant = 1) : k.spoiled f s =
    ({ writes := (k.chunks.foldl spoilRange ([], s)).1, fault := some f }, (k.chunks.foldl spoilRange ([], s)).2) :=
  if_pos hv

/-- Bytes without a value fill the ranges they go to. -/
theorem ranges_foldl_spoilRange (l : List (Nat × Nat)) (acc : List (Nat × List Byte) × State) :
    (l.foldl spoilRange acc).1.map (fun e => (e.1, e.2.length)) = acc.1.map (fun e => (e.1, e.2.length)) ++ l := by
  induction l generalizing acc with
  | nil => simp
  | cons e l ih =>
      rw [List.foldl_cons, ih]
      simp [spoilRange, State.length_freeBytes]

/-- R209: a copy that has faulted goes on past a range that fails a check. -/
theorem Ctx.sendWrites_skip {c : Ctx} (kept : Bool) {va : Nat} {bs : List Byte} (r : List (Nat × List Byte)) {s s1 : State}
    {f : Fail} (h : c.checkChunk s va bs.length .engineWrite = (.error f, s1)) :
    c.sendWrites kept true ((va, bs) :: r) s = c.sendWrites kept true r s1 := by
  rw [Ctx.sendWrites, h]
  rfl

end Sys2Proof.Machine

/-! Rows of a gather and merges (R265 to R270): where a gather ends, the elements that a row converts to, and what a
merge makes of the heads of its lists. -/

namespace Sys2Proof.Machine

/-! ### Rows of a gather -/

section
variable {s s1 : State} {c : Ctx} {h : Handle} {rm : RMode} {sat : Bool} {t n k : Nat} {r : List (Nat × Nat)} {acc : Plan}

/-- R266: a gather ends before a row outside the extent. -/
theorem Ctx.gatherRows_beyond (hk : k ≠ 0) (hn : h.count ≤ n) :
    c.gatherRows h rm sat ((t, n) :: r) k acc s = .ok { acc with rows := k } s := by
  rw [Ctx.gatherRows]
  exact if_pos (by simpa [hn] using Nat.pos_of_ne_zero hk)

variable (hin : k = 0 ∨ n < h.count)
include hin

theorem gather_within : ¬(decide (0 < k) && decide (h.count ≤ n)) = true := by
  simp only [Bool.and_eq_true, decide_eq_true_eq]
  omega

/-- R265, R266: a row that passes its checks is converted. -/
theorem Ctx.gatherRows_row {bs : List Byte} {p : Bool} {s0 : State}
    (hc : c.checkRow (lineChunks (h.rowAt n) h.srcBytes) s = (.ok (), s0))
    (hr : c.readChunks (lineChunks (h.rowAt n) h.srcBytes) [] false s0 = .ok (bs, p) s1) :
    c.gatherRows h rm sat ((t, n) :: r) k acc s = c.gatherRows h rm sat r (k + 1) { acc with
      bytes := acc.bytes ++ tableFrom (h.doff + k * h.dpitch) (h.convertRow rm sat bs).1
      poison := acc.poison || p, flags := acc.flags ||| (h.convertRow rm sat bs).2 } s1 := by
  rw [Ctx.gatherRows, if_neg (gather_within hin)]
  dsimp only
  rw [hc]
  dsimp only
  rw [hr]

variable {f : Fail} {a : Nat} (hc : c.checkRow (lineChunks (h.rowAt n) h.srcBytes) s = (.error (f, a), s1))
include hc

/-- R266: a gather ends before a row of which a check ends in a fault, its own slice's scope apart. -/
theorem Ctx.gatherRows_bad {cause ad : Nat} {v : State} (hu : (c.engineFail s1 a f : Moved Plan) = .bad cause ad v)
    (hne : cause ≠ 0x0F) : c.gatherRows h rm sat ((t, n) :: r) k acc s = .ok { acc with rows := k } s := by
  rw [Ctx.gatherRows, if_neg (gather_within hin)]
  dsimp only
  rw [hc]
  dsimp only
  rw [hu]
  exact if_neg hne

/-- R266: a gather ends before a row, its own apart, of which a page is absent. -/
theorem Ctx.gatherRows_page {b m : Nat} {v : State} (hu : (c.engineFail s1 a f : Moved Plan) = .wait (.page b m) v)
    (hk : k ≠ 0) : c.gatherRows h rm sat ((t, n) :: r) k acc s = .ok { acc with rows := k } s := by
  rw [Ctx.gatherRows, if_neg (gather_within hin)]
  dsimp only
  rw [hc]
  dsimp only
  rw [hu]
  exact if_pos (Nat.pos_of_ne_zero hk)

/-- R266: a gather waits for a tile that is down. -/
theorem Ctx.gatherRows_tile {q : Nat} {v : State} (hu : (c.engineFail s1 a f : Moved Plan) = .wait (.tile q) v) :
    c.gatherRows h rm sat ((t, n) :: r) k acc s = .wait (.tile q) v := by
  rw [Ctx.gatherRows, if_neg (gather_within hin)]
  dsimp only
  rw [hc]
  dsimp only
  rw [hu]

end

/-! ### The elements of a row -/

/-- Elements of w bits as one number, the first lowest. -/
def packed (w : Nat) (l : List (Nat × Flags)) : Nat := l.foldr (fun e acc => e.1 % 2 ^ w + 2 ^ w * acc) 0

theorem packed_lt (w : Nat) (l : List (Nat × Flags)) : packed w l < 2 ^ (w * l.length) := by
  induction l with
  | nil => exact Nat.one_pos
  | cons e l ih =>
      have low : e.1 % 2 ^ w < 2 ^ w := Nat.mod_lt _ (Nat.two_pow_pos w)
      calc packed w (e :: l) = e.1 % 2 ^ w + 2 ^ w * packed w l := rfl
        _ < 2 ^ w * (packed w l + 1) := by rw [Nat.mul_add, Nat.mul_one]; omega
        _ ≤ 2 ^ w * 2 ^ (w * l.length) := Nat.mul_le_mul_left _ ih
        _ = 2 ^ (w * (e :: l).length) := by rw [← Nat.pow_add, List.length_cons, Nat.mul_succ, Nat.add_comm]

theorem packed_element (w : Nat) (l : List (Nat × Flags)) (j : Nat) (hj : j < l.length) :
    packed w l / 2 ^ (w * j) % 2 ^ w = l[j].1 % 2 ^ w := by
  induction l generalizing j with
  | nil => simp at hj
  | cons e l ih =>
      have low : e.1 % 2 ^ w < 2 ^ w := Nat.mod_lt _ (Nat.two_pow_pos w)
      change (e.1 % 2 ^ w + 2 ^ w * packed w l) / 2 ^ (w * j) % 2 ^ w = _
      cases j with
      | zero => simp
      | succ j =>
          rw [Nat.mul_succ, Nat.add_comm (w * j), Nat.pow_add, ← Nat.div_div_eq_div_mul,
            Nat.add_mul_div_left _ _ (Nat.two_pow_pos w), Nat.div_eq_of_lt low, Nat.zero_add]
          exact ih j (by simpa using hj)

/-- R264: the elements of a destination row fill whole bytes. -/
theorem Handle.bits_dstBytes {h : Handle} (hf : HandleFits h) :
    8 * h.dstBytes = (Ty.ofCode h.dfmt).width * h.nel := by
  have dfmt : h.dfmt = h.q2.toNat / 16 % 16 := by
    unfold Handle.dfmt bits
    rw [Nat.shiftRight_eq_div_pow]
    rfl
  have nel : h.nel = h.q2.toNat / 256 % 256 := by
    unfold Handle.nel bits
    rw [Nat.shiftRight_eq_div_pow]
    rfl
  obtain ⟨-, -, -, -, -, -, -, -, -, even, -⟩ := hf
  rw [← nel, ← dfmt] at even
  have widths : (Ty.ofCode h.dfmt).width = 4 ∨ (Ty.ofCode h.dfmt).width % 8 = 0 := by
    have small : h.dfmt < 16 := dfmt ▸ Nat.mod_lt _ (by decide)
    interval_cases h.dfmt <;> decide
  unfold Handle.dstBytes
  rcases widths with four | whole
  · have := even (.inr four)
    rw [four]
    omega
  · obtain ⟨m, hm⟩ := Nat.dvd_of_mod_eq_zero whole
    rw [hm, Nat.mul_left_comm, Nat.mul_div_cancel_left _ (by decide), Nat.mul_comm h.nel, Nat.mul_assoc]

section
variable (h : Handle) (rm : RMode) (sat : Bool) (bs : List Byte)

/-- R266: element j of a row, converted, with its flags. -/
def Handle.element (j : Nat) : Nat × Flags :=
  convertElem (Ty.ofCode h.sfmt) (Ty.ofCode h.dfmt) rm sat
    (ofBytes bs / 2 ^ ((Ty.ofCode h.sfmt).width * j) % 2 ^ (Ty.ofCode h.sfmt).width)

theorem Handle.convertRow_same (hs : h.sfmt = h.dfmt) : h.convertRow rm sat bs = (bs, 0) := if_pos hs

theorem Handle.convertRow_ne (hs : h.sfmt ≠ h.dfmt) : h.convertRow rm sat bs =
    (toBytes (packed (Ty.ofCode h.dfmt).width ((List.range h.nel).map (h.element rm sat bs))) h.dstBytes,
      allFlags ((List.range h.nel).map (h.element rm sat bs))) := if_neg hs

/-- R266: a row whose formats differ has its elements converted, each in its place. -/
theorem Handle.convertRow_element (hf : HandleFits h) (hs : h.sfmt ≠ h.dfmt) (j : Nat) (hj : j < h.nel) :
    ofBytes (h.convertRow rm sat bs).1 / 2 ^ ((Ty.ofCode h.dfmt).width * j) % 2 ^ (Ty.ofCode h.dfmt).width =
      (h.element rm sat bs j).1 % 2 ^ (Ty.ofCode h.dfmt).width := by
  have fits := packed_lt (Ty.ofCode h.dfmt).width ((List.range h.nel).map (h.element rm sat bs))
  rw [List.length_map, List.length_range, ← Handle.bits_dstBytes hf, Nat.pow_mul] at fits
  rw [h.convertRow_ne rm sat bs hs, ofBytes_toBytes, Nat.mod_eq_of_lt fits, packed_element _ _ _ (by simpa using hj)]
  simp

end

/-! ### Merges -/

section
variable {k : MergeCmd} {c : Ctx} {rm : RMode} {sat : Bool} {b : MergeBlock}

/-- R270: a write of the merge unit is checked where it stands. -/
theorem Merging.write_ok {m : Merging} {va n v : Nat} {s1 : State} (h : c.checkChunks [(va, n)] m.s = .ok () s1) :
    m.write c va n v =
      .ok { m with s := s1, out := (va, toBytes v n) :: m.out, marks := (m.flags, m.poison) :: m.marks } := by
  rw [Merging.write, h]

theorem Merging.write_bad {m : Merging} {va n v f a : Nat} {s1 : State} (h : c.checkChunks [(va, n)] m.s = .bad f a s1) :
    m.write c va n v = .error (.stop f a { m with s := s1 }) := by
  rw [Merging.write, h]

theorem Merging.write_wait {m : Merging} {va n v : Nat} {p : Park} {s1 : State}
    (h : c.checkChunks [(va, n)] m.s = .wait p s1) : m.write c va n v = .error (.wait p s1) := by
  rw [Merging.write, h]

/-- R269: a row whose elements, count and progress have been written is followed by the next. -/
theorem MergeCmd.rowsFrom_succ {n r : Nat} {m x y z : Merging} (hx : k.oneRow c rm sat b r m = .ok x)
    (hy : x.write c (b.ocnt + 4 * r) 4 (x.e - m.e) = .ok y)
    (hz : y.write c b.prog 8 (progWord (r + 1) y.e (n = 0)) = .ok z) :
    k.rowsFrom c rm sat b (n + 1) r m = k.rowsFrom c rm sat b n (r + 1) z := by
  simp [MergeCmd.rowsFrom, hx, hy, hz, bind, Except.bind]

theorem MergeCmd.emit_full {m : Merging} (key v : Nat) (h : k.olimit ≤ m.e) :
    k.emit c b m key v = .error (.stop 0x20 0 m) := if_pos h

section
variable {m m1 : Merging} {key : Nat} (h : m.e < k.olimit)
  (hkey : m.write c (b.okeys + 4 * m.e) 4 key = .ok m1)
include h hkey

theorem MergeCmd.emit_set (v : Nat) (hs : k.set = true) : k.emit c b m key v = .ok { m1 with e := m.e + 1 } := by
  simp [MergeCmd.emit, Nat.not_le.mpr h, hkey, hs, bind, Except.bind]

theorem MergeCmd.emit_value {v : Nat} {m2 : Merging} (hs : k.set = false)
    (hv : m1.write c (b.ovals + k.valBytes * m.e) k.valBytes v = .ok m2) :
    k.emit c b m key v = .ok { m2 with e := m.e + 1 } := by
  simp [MergeCmd.emit, Nat.not_le.mpr h, hkey, hs, hv, bind, Except.bind]

end

/-- R269: of two equal keys an element is written, unless the combined value is a zero that is not kept. -/
theorem MergeCmd.emits_iff (k : MergeCmd) (z : Nat) : (k.set || k.keepz || !k.isZero z) = true ↔
    k.set = true ∨ k.keepz = true ∨ k.isZero z = false := by
  simp [or_assoc]

section
variable {f i iEnd j jEnd x y v : Nat} {ha pa hb pb : Option Nat} {m m1 m2 m3 m4 : Merging}
  (hx : headKey c b.akeys i iEnd ha pa m = .ok (some x, m1)) (hy : headKey c b.bkeys j jEnd hb pb m1 = .ok (some y, m2))
include hx hy

/-- R269: of two heads the one with the lower key goes first. -/
theorem MergeCmd.row_lower (hlt : x < y) (hv : valueOf k c b.avals i m2 = .ok (v, m3)) (he : k.emit c b m3 x v = .ok m4) :
    k.row c rm sat b (f + 1) i iEnd j jEnd ha pa hb pb m =
      k.row c rm sat b f (i + 1) iEnd j jEnd none (some x) (some y) pb m4 := by
  unfold valueOf at hv
  simp [MergeCmd.row, hx, hy, hlt, hv, he, bind, Except.bind]

theorem MergeCmd.row_upper (hlt : y < x) (hv : valueOf k c b.bvals j m2 = .ok (v, m3)) (he : k.emit c b m3 y v = .ok m4) :
    k.row c rm sat b (f + 1) i iEnd j jEnd ha pa hb pb m =
      k.row c rm sat b f i iEnd (j + 1) jEnd (some x) pa none (some y) m4 := by
  unfold valueOf at hv
  simp [MergeCmd.row, hx, hy, Nat.lt_asymm hlt, hlt, hv, he, bind, Except.bind]

/-- R269: the values of two heads with one key are combined. -/
theorem MergeCmd.row_equal {w : Nat} (heq : x = y) (hv : valueOf k c b.avals i m2 = .ok (v, m3))
    (hw : valueOf k c b.bvals j m3 = .ok (w, m4)) :
    let z := if k.set then (0, 0) else k.combine rm sat v w
    let m5 : Merging := { m4 with flags := m4.flags ||| z.2 }
    k.row c rm sat b (f + 1) i iEnd j jEnd ha pa hb pb m =
      if k.set || k.keepz || !k.isZero z.1 then
        k.emit c b m5 x z.1 >>= k.row c rm sat b f (i + 1) iEnd (j + 1) jEnd none (some x) none (some y)
      else k.row c rm sat b f (i + 1) iEnd (j + 1) jEnd none (some x) none (some y) m5 := by
  subst heq
  unfold valueOf at hv hw
  simp [MergeCmd.row, hx, hy, hv, hw, bind, Except.bind]

end

end

/-! ### The plan of a merge -/

section
variable {s : State} {c : Ctx} {cmd : Cmd} {k : MergeCmd} {bs : List Byte} {m1 : Merging} (hk : cmd.kind = .merge k)
  (hp : cmd.plan = none) (hread : (⟨s, [], k.ostart, 0, false, []⟩ : Merging).readBytes c k.block 128 = .ok (bs, m1))

/-- What a merge that has stopped has decided. -/
def Merging.stops (m : Merging) (f : Option (Nat × Nat)) : Moved Plan :=
  .ok { writes := m.out.reverse, marks := m.marks.reverse, poison := m.poison, flags := m.flags, fault := f } m.s

/-- R268, R269: a merge from its block on. -/
def Ctx.runMerge (c : Ctx) (cmd : Cmd) (k : MergeCmd) (bs : List Byte) (m : Merging) : Except MStop Merging :=
  match k.block? bs with
  | none => .error (.stop 0x22 0 m)
  | some b => do
      let m ← m.write c b.prog 8 (progWord k.first k.ostart false)
      k.rowsFrom c (RMode.ofCode cmd.rm) cmd.sat b k.rows k.first m

/-- R269, R270: what a merge has decided where it ends, stops or parks; `bs` is its block as read. -/
def Merging.decided (bs : List Byte) (run : Except MStop Merging) : Moved Plan :=
  match run with
  | .ok m => m.stops none
  | .error (.stop f a m) => m.stops (some (f, a))
  | .error (.wait p s1) => .wait p s1
  | .error (.reds s1) => .reds s1
  | .error (.parked p r m) => .ok {
      writes := m.out.reverse, marks := m.marks.reverse, poison := m.poison, flags := m.flags
      next := some (r, m.e), block := bs, park := some p } m.s

include hk hp hread

/-- R268 to R270: a merge that has not parked before decides what it comes to from its block on. -/
theorem Ctx.plan_merge : c.plan s cmd = Merging.decided bs (c.runMerge cmd k bs m1) := by
  unfold Ctx.plan
  rw [hp, hk]
  dsimp only [Option.filter]
  unfold Ctx.mergePlan Ctx.runMerge
  simp only [Option.bind_none, Option.getD_none, hread, Option.isSome_none, Nat.add_sub_cancel_left, bind, Except.bind]
  rfl

/-- R268: a block that is not good. -/
theorem Ctx.plan_merge_bad_block (hb : k.block? bs = none) : c.plan s cmd = m1.stops (some (0x22, 0)) := by
  rw [Ctx.plan_merge hk hp hread, Ctx.runMerge, hb]
  rfl

variable {b : MergeBlock} (hb : k.block? bs = some b)
include hb

/-- R270: a merge whose first write fails a check. -/
theorem Ctx.plan_merge_stops {f a : Nat} {m : Merging}
    (hw : m1.write c b.prog 8 (progWord k.first k.ostart false) = .error (.stop f a m)) :
    c.plan s cmd = m.stops (some (f, a)) := by
  rw [Ctx.plan_merge hk hp hread, Ctx.runMerge, hb]
  dsimp only
  rw [hw]
  rfl

/-- R269: a merge goes through its rows. -/
theorem Ctx.plan_merge_rows {m2 : Merging}
    (hw : m1.write c b.prog 8 (progWord k.first k.ostart false) = .ok m2) : c.plan s cmd =
      Merging.decided bs (k.rowsFrom c (RMode.ofCode cmd.rm) cmd.sat b k.rows k.first m2) := by
  rw [Ctx.plan_merge hk hp hread, Ctx.runMerge, hb]
  dsimp only
  rw [hw]
  rfl

end

end Sys2Proof.Machine

/-! Copies, gathers and merges complete (R178, R180, R204 to R210, R213, R214, R265 to R270, R286): the statement. -/

namespace Sys2Proof.Machine

/-- R213: how a command that ends in s2 with its plan answers: after a commit, where its bytes would overfill the undo
log; with a commit, where its gong turns; else as it ends. -/
def EndsWith (c : Ctx) (s : State) (cmd : Cmd) (i : Instr) (s2 : State) (pl : Plan) : Prop :=
  let t := c.endCmd s2 cmd pl
  (s2.undoFull t c.pid = true → exec i s = .next (s.forceUndo c.pid none [c.pid])) ∧
  (s2.undoFull t c.pid = false →
    ((∀ k, cmd.kind = .copy k → k.gong = none) → exec i s = .next t) ∧
    (∀ k o q, cmd.kind = .copy k → k.gong = some o → t.pool? c.pid = some q →
      (∀ e h n r, ¬GongIs (q.spadRead o 8) e h n r) → exec i s = .next t) ∧
    (∀ k o q exp phase pend arr, cmd.kind = .copy k → k.gong = some o → t.pool? c.pid = some q →
      GongIs (q.spadRead o 8) exp phase pend arr →
      (¬(arr = exp ∧ pend = 0) → exec i s = .next t) ∧
      (arr = exp → pend = 0 →
        let u := c.modPool t fun x => x.spadWrite o 8 (gongWord exp (1 - phase) 0 0)
        (u.canCommit c.pid none = true → ∃ v, exec i s = .next v ∧
          u.commitPool c.pid none {} (fun _ x => x) = some v) ∧
        (u.canCommit c.pid none = false → exec i s = .next s))))

theorem endsWith_finishCmd {c : Ctx} {s : State} {cmd : Cmd} {i : Instr} {s2 : State} {pl : Plan}
    (hx : exec i s = .next (c.finishCmd s cmd s2 pl)) : EndsWith c s cmd i s2 pl := by
  refine ⟨fun full => hx.trans (congrArg _ (Ctx.finishCmd_full full)), fun room => ⟨fun hg => ?_, ?_, ?_⟩⟩
  · rw [hx, Ctx.finishCmd_no_gong room hg]
  · intro k o q hk ho hq hw
    rw [hx, Ctx.finishCmd_no_word room hk ho hq hw]
  · intro k o q exp phase pend arr hk ho hq hg
    refine ⟨fun hn => ?_, fun harr hpend => ?_⟩
    · rw [hx, Ctx.finishCmd_stands room hk ho hq hg hn]
    · rw [hx, Ctx.finishCmd_turns room hk ho hq hg harr hpend]
      have may := commitPool_isSome (c.modPool (c.endCmd s2 cmd pl) fun x =>
        x.spadWrite o 8 (gongWord exp (1 - phase) 0 0)) c.pid none {} fun _ s => s
      refine ⟨fun can => ?_, fun can => ?_⟩
      · obtain ⟨v, hv⟩ := Option.isSome_iff_exists.mp (may.trans can)
        exact ⟨v, by rw [hv]; rfl, hv⟩
      · have hnone := may.trans can
        rw [Option.isSome_eq_false_iff, Option.isNone_iff_eq_none] at hnone
        rw [hnone]
        rfl

end Sys2Proof.Machine

section

open Sys2Proof Sys2Proof.Machine

/-- Settles O43: a completion is read off from the command's plan, what became of its writes, and its end; a plan from
the ranges of a copy, the rows of a gather, and the block and the heads of a merge. -/
theorem commandsComplete : Obligations.CommandsComplete := by
  unfold Obligations.CommandsComplete
  refine ⟨⟨?completes, ?plain, ?gather, ?gong⟩, ?chunks, ?bytes, ?faults, ?skip, ?out, ?rows, ?elements, ?merge, ?write,
    ?rowsFrom, ?emit, ?heads⟩
  case completes =>
    intro s s1 c cmd cls i h hcls hi now ends
    have hx := h.exec hcls hi
    refine ⟨fun k hnow => ?_, fun pl k hnow hpark => ?_, fun f a hnow => ?_, fun pl hnow hpark => ?_⟩
    · rw [hx, show c.plan s { cmd with park := none } = _ from hnow]
      rfl
    · rw [hx, show c.plan s { cmd with park := none } = _ from hnow, Ctx.afterPlan, hpark]
      rfl
    · rw [show c.plan s { cmd with park := none } = _ from hnow] at hx
      exact endsWith_finishCmd hx
    · have hx : exec i s = .next (c.afterSent s cmd pl s1 (c.sendWrites (c.pool.kept cmd.id)
          (decide (cls = 0) && pl.fault.isSome) pl.writes s1)) := by
        rw [hx, show c.plan s { cmd with park := none } = _ from hnow, Ctx.afterPlan, hpark, CmdKind.cls_eq, h.kind]
      intro sent
      rw [show c.sendWrites _ _ _ _ = sent from rfl] at hx
      refine ⟨fun s2 hsent => ?_, fun k hsent => ?_, fun left s2 hsent => ?_, fun ps left s2 hsent hps => ?_,
        fun f a n s2 hsent => ⟨fun hk => ?_, fun k hk => ?_⟩⟩
      all_goals rw [hsent] at hx
      · exact endsWith_finishCmd hx
      · exact hx
      · rw [Ctx.afterSent, if_pos (by simp)] at hx
        refine ⟨fun can => ?_, fun can => ?_⟩
        · exact hx.trans (congrArg _ (Ctx.divideWrites_commits rfl can))
        · exact hx.trans (congrArg _ (Ctx.divideWrites_waits rfl can))
      · rwa [Ctx.afterSent, if_neg (by simpa using hps)] at hx
      · rw [Ctx.afterSent, Ctx.failWrite_of_not_copy c hk] at hx
        exact endsWith_finishCmd hx
      · rwa [Ctx.afterSent, Ctx.failWrite_of_copy c hk] at hx
  case plain =>
    intro s c cmd cls pl p y hp hy hc hcls hg hng
    exact c.commandDone_endCmd pl hp hy hc hg (hcls ▸ Cmd.countDown_tells hng pl y)
  case gather =>
    intro s c cmd pl g p y hp hy hc hk
    exact c.commandDone_endCmd pl hp hy hc (fun k h => by rw [hk] at h; cases h) (Cmd.countDown_tells_gather hk pl y)
  case gong =>
    intro s c cmd k o pl p y w hp hy hc hk ho hn hout hw
    obtain ⟨word, bytes⟩ := c.gong_endCmd (p := p) pl hk ho hn hout
    have ends := c.endsOf_endPool pl cmd p
    rw [← hw] at word
    refine ⟨_, c.pool?_endCmd pl hp, word, fun exp phase pend arr hg => word.trans (hg.less k.total), bytes, ends.cmds,
      ends.regs, hc ▸ ends.others, ?_⟩
    have counted := Cmd.countDown_tells (fun g h => by rw [hk] at h; cases h) pl y
    rw [hk] at counted
    rw [← hc, ends.cp, hc, hy, hk]
    exact congrArg some counted
  case chunks => exact fun k => (rangeAddresses_eq k.chunks).trans k.rangeAddresses_chunks
  case bytes =>
    intro s s1 c cmd k bs poison hk hp source
    rcases source with ⟨hv, hread⟩ | ⟨hv, rfl, rfl⟩
    · exact ⟨_, _, cmd.length_chosen bs s1, Ctx.plan_copy hk hp (by omega) (Ctx.copyBytes_in hv hread),
        fun i hi => cmd.chosen_or bs s1 hi⟩
    · exact ⟨_, _, cmd.length_chosen _ s, Ctx.plan_copy hk hp (by omega) (Ctx.copyBytes_within hv),
        fun i hi => cmd.chosen_or _ s hi⟩
  case faults =>
    intro s s1 c cmd k f a hk hp
    refine ⟨fun hv hread => ⟨s1.length_freeBytes k.total, ?_⟩, fun hv hcheck => ?_⟩
    · rw [Ctx.plan_copy_bad hk hp (by omega) (Ctx.copyBytes_bad hv hread), k.spoiled_in _ _ (by omega)]
    · have planned := Ctx.plan_copy_out_bad hk hp hv hcheck
      rw [k.spoiled_out _ _ hv] at planned
      exact ⟨_, _, planned, ranges_foldl_spoilRange k.chunks ([], s1)⟩
  case skip => exact fun c kept va bs r s s1 f h => Ctx.sendWrites_skip kept r h
  case out =>
    intro s s1 c cmd k hk hp hv hcheck hsnap
    have chosen : cmd.chosen ((List.range k.total).map fun i => c.pool.spadByte (k.spad + i)) s1 =
        ((List.range k.total).map fun i => c.pool.spadByte (k.spad + i), s1) := by
      have same : cmd.snap = ((List.range k.total).map fun i => c.pool.spadByte (k.spad + i)).map some := by
        rw [hsnap, List.map_map]
        rfl
      rw [Cmd.chosen, same]
      exact chooseBytes_unchanged _ _ s1
    refine ⟨_, Ctx.plan_copy_out hk hp hv hcheck ((Ctx.copyBytes_out hv).trans (by rw [chosen])), ?_⟩
    rw [CopyCmd.flatMap_outWrites, k.rangeAddresses_chunks]
  case rows =>
    intro s s1 c h rm sat t n k r acc rest ends
    refine ⟨rfl, Ctx.gatherRows_beyond, fun hin => ⟨fun bs p s0 hc hr => Ctx.gatherRows_row hin hc hr,
      fun f a u hc hu => ⟨fun cause ad v hbad hne => ?_, fun b m v hwait hk => ?_, fun q v hwait => ?_⟩⟩⟩
    · exact Ctx.gatherRows_bad hin hc (hu.trans hbad) hne
    · exact Ctx.gatherRows_page hin hc (hu.trans hwait) hk
    · exact (Ctx.gatherRows_tile hin hc (hu.trans hwait)).trans hwait.symm
  case elements =>
    intro h rm sat bs hf sw dw one
    refine ⟨h.convertRow_same rm sat bs, fun hs => ⟨?_, h.convertRow_element rm sat bs hf hs⟩⟩
    rw [h.convertRow_ne rm sat bs hs]
    rfl
  case merge =>
    intro s c cmd k bs m1 hk hp hread stops
    refine ⟨Ctx.plan_merge_bad_block hk hp hread, fun b m2 hb hw => ?_,
      fun b m f a hb hw => Ctx.plan_merge_stops hk hp hread hb hw⟩
    have planned := Ctx.plan_merge_rows hk hp hread hb hw
    exact ⟨fun m hall => planned.trans (congrArg (Merging.decided bs) hall),
      fun m f a hall => planned.trans (congrArg (Merging.decided bs) hall)⟩
  case write =>
    exact fun m c va n v => ⟨fun s1 => Merging.write_ok, fun f a s1 => Merging.write_bad, fun p s1 => Merging.write_wait⟩
  case rowsFrom => exact fun k c rm sat b n r m x y z => MergeCmd.rowsFrom_succ
  case emit =>
    intro k c b m key v
    exact ⟨MergeCmd.emit_full key v, fun h m1 hkey => ⟨MergeCmd.emit_set h hkey v,
      fun hs m2 hv => MergeCmd.emit_value h hkey hs hv⟩⟩
  case heads =>
    intro k c rm sat b f i iEnd j jEnd x y ha pa hb pb m m1 m2 hx hy row
    refine ⟨fun hlt v m3 m4 hv he => MergeCmd.row_lower hx hy hlt hv he,
      fun hlt v m3 m4 hv he => MergeCmd.row_upper hx hy hlt hv he, fun heq v w m3 m4 hv hw => ?_⟩
    intro z m5 rest
    have equal := MergeCmd.row_equal (rm := rm) (sat := sat) (f := f) hx hy heq hv hw
    refine ⟨fun kept m6 he => equal.trans ((if_pos ((k.emits_iff z.1).mpr kept)).trans ?_),
      fun hs hk hz => equal.trans (if_neg fun e => ?_)⟩
    · rw [show k.emit c b _ x _ = _ from he]
      rfl
    · rcases (k.emits_iff z.1).mp e with h | h | h
      · exact Bool.false_ne_true (hs.symm.trans h)
      · exact Bool.false_ne_true (hk.symm.trans h)
      · exact Bool.false_ne_true (h.symm.trans hz)

end
